-- ==== Sys2Proof/Word.lean ====
section
/-! DEFINITION. The word types of the block and their plainest arithmetic: bytes, 32-, 64- and 128-bit words,
64-byte blocks, and the reading of a bit field as a number (R8: bit 0 is the least significant bit, a field is
written name[hi:lo], inclusive at both ends). -/
namespace Sys2Proof

/-- One byte of memory. -/
abbrev Byte := BitVec 8
/-- A 32-bit word: a courier word, an fp32 bit pattern. -/
abbrev W32 := BitVec 32
/-- A 64-bit word: a register, a descriptor word, a general register of the sequencer. -/
abbrev W64 := BitVec 64
/-- A 128-bit instruction word of the sequencer (R319). -/
abbrev W128 := BitVec 128
/-- A 64-byte block: a ring entry, a descriptor, a memory sector. -/
abbrev Sect := BitVec 512

/-- The field name[lo + n - 1 : lo] of a word, as a number (R8). -/
def fld {w : Nat} (x : BitVec w) (lo n : Nat) : Nat := (x.toNat >>> lo) % 2 ^ n

/-- Bit i of a word, as a Bool. -/
def bit {w : Nat} (x : BitVec w) (i : Nat) : Bool := x.toNat.testBit i

end Sys2Proof
end

