-- ==== Sys2Proof/Syntax.lean ====
section
/-! DEFINITION. The commands of the block: one constructor for each row of spec/opcode_table.json, with the operands the
row's rule gives it. A command is what reaches the block from outside (a register write, a read that returns, a
signal on a pin, a link message) or one indivisible step of one of its own engines (95_what_each_step_holds.md). What a
read of memory outside the block returns is an operand of the command in which it returns. -/
namespace Sys2Proof

/-- Which part of a register a host access covers (R11): all 64 bits, the low half or the high half. For a half, the
written value stands in the low 32 bits of the operand. -/
inductive Half
  | full | low | high
  deriving DecidableEq, Repr

/-- The place of a short operation in its paired word (R319). -/
inductive Pos
  | a | b
  deriving DecidableEq, Repr

/-- The issuing place of a short operation: core, task context and slot of the word. -/
structure Slot where
  c : Fin 8
  t : Fin 4
  pos : Pos
  deriving DecidableEq, Repr

/-- The issuing place of a long operation: core and task context. -/
structure Ctx where
  c : Fin 8
  t : Fin 4
  deriving DecidableEq, Repr

/-- What a read of one 64-byte sector, or of one entry, returns: data, poison (R44), or an error response (R490). For an
address in device memory the data is what the block's device memory holds, and the operand's data is not used. -/
inductive Resp
  | data (d : Sect)
  | poison
  | error
  deriving DecidableEq, Repr

/-- One descriptor read of a page walk (R277). -/
inductive DescRead
  | word (w : W64)
  | poison
  deriving DecidableEq, Repr

/-- What the reads of a step return from virtual memory, by 64-byte block number (VA / 64): a list of the blocks that have
returned. A block that is not listed has not returned, and a step that needs it waits. -/
structure View where
  blocks : List (Nat × Resp)
  deriving DecidableEq, Repr

/-- A general register number (R323). -/
abbrev Greg := Fin 64
/-- A flag bit number (R301). -/
abbrev Flag := BitVec 16

/-- Which sector of a stream queue returns: an index or a weight sector (R52). -/
inductive SecKind
  | index | weight
  deriving DecidableEq, Repr

/-- A parity error that a lookup of the row cache meets (R84). -/
inductive RcParity
  | none
  | tag (way : Fin 16)
  | data (way : Fin 16)
  deriving DecidableEq, Repr

/-- A parity error that an access of a sequencer cache meets (R312). -/
inductive SeqParity
  | none
  | err (way : Fin 4)
  deriving DecidableEq, Repr

/-- What a row's return meets in the core (R469, R470). -/
inductive RowFault
  | none
  | parity
  | selfCheck
  deriving DecidableEq, Repr

/-- A mismatch that a wavefront's checks find (R143, R144). -/
inductive Mismatch
  | none
  | row (ix : Fin 128)
  deriving DecidableEq, Repr

/-- Who may be waiting for a page walk: the requesters of R283 and R292. -/
inductive Req
  | ring (n : Nat)
  | compl (n : Nat)
  | cword (n : Nat)
  | desc (id : Nat)
  | seqFetch (c t : Nat)
  | seqData (c t : Nat)
  | idx (c q k : Nat)
  | wgt (c q k : Nat)
  | bnd (c q k : Nat)
  | row (c slot : Nat)
  | bagOut (c q bag : Nat)
  | grad (c q bag : Nat)
  | chain (c t : Nat)
  | copy (id : Nat)
  | inter (id : Nat)
  | plane (c : Nat)
  | entry (fid : Nat)
  | report (fid : Nat)
  | add (id : Nat)
  deriving DecidableEq, Repr

/-- The five pools of a Litha receiver (R386), in table order. -/
inductive Pool
  | vl0req | vl0resp | vl1req | vl1resp | vl2
  deriving DecidableEq, Repr

/-- A flit as the receiver sees it after FEC (R383 to R385): its 256 bytes as one number, whether it overlaps an
uncorrectable codeword, and how many codewords were corrected. -/
structure Flit where
  bits : BitVec 2048
  badFec : Bool
  corrected : Nat
  deriving DecidableEq, Repr

/-- A message header and body (R393): the 64-bit words from Q0 on. -/
structure Msg where
  words : List W64
  deriving DecidableEq, Repr

/-- One constructor for each row of the table of operations and events. A queue number of 16 + t names the pass of the
short-path command of task context t, which has no stream queue (R67). -/
inductive Instr
  -- host commands carried out once they are started (R346)
  | nopCommand (id : Nat)
  | run (id : Nat)
  | lookupPool (id : Nat) (rd : View)
  | interact (id : Nat) (rd : View)
  | backInteract (id : Nat) (rd : View)
  | scatter (id : Nat) (rd : View)
  | fenceCommand (id : Nat) (rd : View)
  | copy (id : Nat) (rd : View)
  | advise (id : Nat) (rd : View)
  | xltInval (id : Nat)
  | xltInvalComplete (id : Nat)
  | resume (id : Nat)
  | dcInval (id : Nat)
  | abort (id : Nat)
  | anchor (id : Nat)
  | anchorWait (id : Nat)
  -- the dispatcher (R349 to R356, R502)
  | doorbell (n : Fin 64) (h : Half) (v : W64)
  | ringEntryRead (n : Fin 64) (r : Resp)
  | doorbellRetry (n : Fin 64)
  | commandStart (id : Nat) (rd : View)
  | commandComplete (id : Nat)
  | completionRecordAck (n : Fin 64)
  | completionWordAck (n : Fin 64)
  | completionWriteRefused (n : Fin 64) (poison : Bool)
  -- register writes with a row of their own, and the inlet and adapter ports
  | ringEnable (n : Fin 64) (h : Half) (v : W64)
  | ringDisable (n : Fin 64) (h : Half) (v : W64)
  | cheadWrite (n : Fin 64) (h : Half) (v : W64)
  | faultRingEnable (h : Half) (v : W64)
  | eventRingEnable (h : Half) (v : W64)
  | msiWrite (v : Fin 66) (word1 : Bool) (h : Half) (x : W64)
  | inletWrite (off : Nat) (bytes : List Byte)
  | inletWriteAck (refused : Bool)
  | adapterWrite (adapter : BitVec 16) (pa : BitVec 46) (bytes : List Byte)
  | registerWrite (off : Nat) (size : Nat) (v : W64)
  -- short operations of the sequencer (R324)
  | nop (s : Slot)
  | add (s : Slot) (rd ra rb : Greg)
  | sub (s : Slot) (rd ra rb : Greg)
  | andOp (s : Slot) (rd ra rb : Greg)
  | orOp (s : Slot) (rd ra rb : Greg)
  | xorOp (s : Slot) (rd ra rb : Greg)
  | andn (s : Slot) (rd ra rb : Greg)
  | sll (s : Slot) (rd ra rb : Greg)
  | srl (s : Slot) (rd ra rb : Greg)
  | sra (s : Slot) (rd ra rb : Greg)
  | rol (s : Slot) (rd ra rb : Greg)
  | seqOp (s : Slot) (rd ra rb : Greg)
  | slt (s : Slot) (rd ra rb : Greg)
  | sltu (s : Slot) (rd ra rb : Greg)
  | mul (s : Slot) (ra rb : Greg)
  | mulh (s : Slot) (ra rb : Greg)
  | productLand (x : Ctx)
  | addi (s : Slot) (rd ra : Greg) (imm : BitVec 43)
  | andi (s : Slot) (rd ra : Greg) (imm : BitVec 43)
  | ori (s : Slot) (rd ra : Greg) (imm : BitVec 43)
  | xori (s : Slot) (rd ra : Greg) (imm : BitVec 43)
  | slli (s : Slot) (rd ra : Greg) (sh : BitVec 6)
  | srli (s : Slot) (rd ra : Greg) (sh : BitVec 6)
  | srai (s : Slot) (rd ra : Greg) (sh : BitVec 6)
  | roli (s : Slot) (rd ra : Greg) (sh : BitVec 6)
  | seqi (s : Slot) (rd ra : Greg) (imm : BitVec 43)
  | slti (s : Slot) (rd ra : Greg) (imm : BitVec 43)
  | sltiu (s : Slot) (rd ra : Greg) (imm : BitVec 43)
  | movi (s : Slot) (rd : Greg) (imm : BitVec 49)
  | movi64 (x : Ctx) (rd : Greg) (imm : W64)
  | mfs (s : Slot) (rd : Greg) (sr : BitVec 6)
  | mts (s : Slot) (sr : BitVec 6) (ra : Greg)
  | ldb (s : Slot) (rd ra : Greg) (imm : BitVec 43) (par : SeqParity)
  | ldbu (s : Slot) (rd ra : Greg) (imm : BitVec 43) (par : SeqParity)
  | ldh (s : Slot) (rd ra : Greg) (imm : BitVec 43) (par : SeqParity)
  | ldhu (s : Slot) (rd ra : Greg) (imm : BitVec 43) (par : SeqParity)
  | ldw (s : Slot) (rd ra : Greg) (imm : BitVec 43) (par : SeqParity)
  | ldwu (s : Slot) (rd ra : Greg) (imm : BitVec 43) (par : SeqParity)
  | ldd (s : Slot) (rd ra : Greg) (imm : BitVec 43) (par : SeqParity)
  | loadMissReturn (x : Ctx) (r : Resp) (par : SeqParity)
  | stb (s : Slot) (rd ra : Greg) (imm : BitVec 43) (par : SeqParity)
  | sth (s : Slot) (rd ra : Greg) (imm : BitVec 43) (par : SeqParity)
  | stw (s : Slot) (rd ra : Greg) (imm : BitVec 43) (par : SeqParity)
  | std (s : Slot) (rd ra : Greg) (imm : BitVec 43) (par : SeqParity)
  | beq (s : Slot) (ra rb : Greg) (off : BitVec 43)
  | bne (s : Slot) (ra rb : Greg) (off : BitVec 43)
  | blt (s : Slot) (ra rb : Greg) (off : BitVec 43)
  | bge (s : Slot) (ra rb : Greg) (off : BitVec 43)
  | bltu (s : Slot) (ra rb : Greg) (off : BitVec 43)
  | bgeu (s : Slot) (ra rb : Greg) (off : BitVec 43)
  | bf1 (s : Slot) (fa : Flag) (off : BitVec 39)
  | bf0 (s : Slot) (fa : Flag) (off : BitVec 39)
  | jal (s : Slot) (rd : Greg) (off : BitVec 49)
  | jalr (s : Slot) (rd ra : Greg) (imm : BitVec 43)
  | eret (s : Slot)
  | fset (s : Slot) (fd : Flag)
  | fclr (s : Slot) (fd : Flag)
  | ftgl (s : Slot) (fd : Flag)
  | fand (s : Slot) (fd fa fb : Flag)
  | forOp (s : Slot) (fd fa fb : Flag)
  | fxor (s : Slot) (fd fa fb : Flag)
  | fandn (s : Slot) (fd fa fb : Flag)
  | frd (s : Slot) (rg : Greg) (fb : Flag)
  | fwr (s : Slot) (rg : Greg) (fb : Flag)
  | ftas (s : Slot) (rg : Greg) (fb : Flag)
  | dcinv (s : Slot) (ra rb : Greg)
  | dcclean (s : Slot) (ra rb : Greg)
  | icinv (s : Slot) (ra rb : Greg)
  | send (s : Slot) (ra : Greg) (w : Bool)
  | recv (s : Slot) (rd : Greg) (w : Bool)
  | await (s : Slot) (ra rb : Greg) (anc : BitVec 15)
  | waitd (s : Slot) (mask : BitVec 16)
  | halt (s : Slot)
  | reservedOp (x : Ctx) (w : W128)
  -- long operations of the sequencer (R334)
  | gather (x : Ctx) (rd ra : Greg) (imm : W64) (v : View)
  | rearm (x : Ctx) (ra rb : Greg) (q : Fin 16) (release : Bool)
  | pool (x : Ctx) (rd ra : Greg) (imm : W64) (v : View)
  | expand (x : Ctx) (ra : Greg) (imm : W64) (v : View)
  | matx (x : Ctx) (rd ra : Greg) (imm : W64) (v : View)
  | chain (x : Ctx) (rd ra : Greg) (imm : W64) (v : View)
  | scat (x : Ctx) (rd ra : Greg) (imm : W64) (v : View)
  | fence (x : Ctx) (rd ra : Greg) (imm : W64) (v : View)
  | migr (x : Ctx) (rd ra : Greg) (imm : W64) (advice : Bool) (v : View)
  | asig (x : Ctx) (rd ra rb rc : Greg) (anc : BitVec 15) (op : BitVec 2) (rmt : Bool) (imm : W64)
  | asigEffect (x : Ctx) (tag : Fin 16) (parity : Bool)
  -- task contexts
  | taskSwitchIn (c : Fin 8)
  | gxSwitchOut (c : Fin 8)
  | gxModeChange (c : Fin 8)
  -- the stream engine, the row cache and the pool unit
  | indexSectorReturn (c : Fin 8) (q : Fin 20) (kind : SecKind) (k : Nat) (r : Resp) (rd : View)
  | boundarySectorReturn (c : Fin 8) (q : Fin 20) (k : Nat) (r : Resp)
  | rowRequestIssue (c : Fin 8)
  | rowCacheLookup (c : Fin 8) (slot : Nat) (line : Nat) (par : RcParity)
  | fillReturn (fill : Nat) (poison : Bool)
  | inval (h : Half) (v : W64)
  | rcEnWrite (h : Half) (v : W64)
  | clrcnt (h : Half) (v : W64)
  | waydisWrite (s : Fin 16) (h : Half) (v : W64)
  | waydisInvalDone (s : Fin 16)
  | rowReturn (c : Fin 8) (slot : Nat) (rd : View) (f : RowFault)
  | bagOutputAck (c : Fin 8) (q : Fin 20) (bag : Nat)
  -- translation, faults and copies
  | walkComplete (ctx : Fin 64) (gran : BitVec 27) (descs : List DescRead) (parity : Bool)
  | belayRecordWrite (slot : Fin 160)
  | copyBlockLanded (id : Nat) (blk : Nat) (rd : View)
  -- the cube array and the vector chain
  | planeLoadDone (c : Fin 8) (plane : Fin 2) (rd : View)
  | tileLockGrant (c : Fin 8) (tb : Fin 6)
  | arrayInstructionIssue (c : Fin 8) (rd : View)
  | wavefrontCommit (c : Fin 8) (m : Mismatch)
  | dummyWavefront (c : Fin 8)
  | rampDown (c : Fin 8)
  | feederTailFlush (c : Fin 8)
  | stalemate (c : Fin 8) (tb : Fin 6)
  | chainStart (c : Fin 8) (rd : View)
  | chainPass1End (c : Fin 8) (rd : View)
  | chainEnd (c : Fin 8)
  | deadlineReached (id : Nat) (rd : View)
  -- training
  | contributionMerge (c : Fin 8) (q : Fin 20) (parity : Bool) (rd : View)
  | fenceSeal (fid : Nat)
  | fenceApplyStart (fid : Nat)
  | entryApply (fid : Nat) (rd : View)
  | fenceApplyEnd (fid : Nat) (rd : View)
  | fenceDone (fid : Nat)
  -- the migrator
  | campCopyLanded (home : Nat) (poison : Bool)
  | campWritebackLanded (home : Nat) (poison : Bool)
  -- queues and couriers
  | queueReset (cls : BitVec 8) (index : BitVec 16) (c : Fin 8) (kind : BitVec 2)
  | queueResetDone (cls : BitVec 8) (index : BitVec 16) (c : Fin 8)
  | courierPop (c : Fin 8)
  | courierInWrite (c : Fin 8) (h : Half) (v : W64)
  | openMsg (c : Fin 8)
  | closeMsg (c : Fin 8)
  | courierFlush (c : Fin 8)
  | islandGate (isl : Fin 20)
  | islandWake (isl : Fin 20)
  | iinv (c : Fin 8) (h : Half) (v : W64)
  | dinv (c : Fin 8) (h : Half) (v : W64)
  | seqCacheInvalDone (c : Fin 8)
  | seqCacheEnable (c : Fin 8) (h : Half) (v : W64)
  -- the link complex
  | linkEnable (p : Fin 8) (h : Half) (v : W64)
  | oeResetRelease (p : Fin 8)
  | laneLock (p : Fin 8)
  | trainTimeout (p : Fin 8)
  | advert (p : Fin 8) (vmask : BitVec 3) (enc : Bool) (node : BitVec 16) (port : BitVec 3) (free : List (BitVec 16))
  | confirm (p : Fin 8) (vsel : BitVec 3)
  | negotiateTimeout (p : Fin 8)
  | lossOfLight (p : Fin 8)
  | retrain (p : Fin 8) (h : Half) (v : W64)
  | resync (p : Fin 8) (node : BitVec 16) (port : BitVec 3) (free : List (BitVec 16)) (lastSeq : BitVec 16)
  | retrainTimeout (p : Fin 8)
  | flitReceive (p : Fin 8) (f : Flit)
  | ackTimer (p : Fin 8)
  | replayTimeout (p : Fin 8)
  | rdMsg (p : Fin 8) (poison : Bool)
  | wrMsg (p : Fin 8)
  | rpool (p : Fin 8) (rd : View)
  | rgrad (p : Fin 8) (rd : View)
  | remoteAsig (p : Fin 8)
  | mcast (p : Fin 8)
  | rdResp (p : Fin 8)
  | wrAck (p : Fin 8)
  | rpoolResp (p : Fin 8)
  | rgradAck (p : Fin 8)
  | asigAck (p : Fin 8)
  | echo (p : Fin 8)
  | echoReply (p : Fin 8)
  | servedResponseSend (id : Nat)
  | requestTimeout (tag : Nat)
  | escapeTimeout (p : Fin 8) (resp : Bool)
  | transitForward (p : Fin 8)
  | rpoolBatchTimer (c : Fin 8) (q : Fin 20) (node : BitVec 16)
  | replicaReread (c : Fin 8) (slot : Nat) (rd : View)
  | replicaWaitmax (c : Fin 8) (slot : Nat)
  | ewaitTimeout (c : Fin 8)
  | ckLxTaddrWrite (h : Half) (v : W64)
  | ckLxTdata1Write (h : Half) (v : W64)
  | goWrite (h : Half) (v : W64)
  | mgmtTransactionDone (nack : Bool) (data : Byte)
  -- power and resets
  | dozeRequest (h : Half) (v : W64)
  | napRequest (h : Half) (v : W64)
  | runRequest (h : Half) (v : W64)
  | powerOnResetDone (build : Fin 64) (step : BitVec 4)
  | blockReset (h : Half) (v : W64)
  | coreReset (c : Fin 8)
  | coreResetDone (c : Fin 8)
  | linkReset (p : Fin 8)
  | linkResetDone (p : Fin 8)
  -- security and debug
  | keyLoadRegion (v : W64)
  | keyClearRegion (v : W64)
  | keyLoadLink (v : W64)
  | keyClearLink (v : W64)
  | samplePreload (pins : List Bool)
  | extest (cells : List Bool)
  | dabacc (req : BitVec 105)
  | attach (v : W64)
  | haltreq (c : Fin 8) (h : Half) (v : W64)
  | dbgStep (c : Fin 8) (h : Half) (v : W64)
  | wake (h : Half) (v : W64)
  | lossOfFecLock (p : Fin 8)
  | lossOfLightCleared (p : Fin 8)
  | fenceRowWriteAck (fid : Nat) (table : Nat) (row : Nat)
  | instructionFetchReturn (x : Ctx) (r : Resp) (par : SeqParity)
  -- commands without operands: they stand last, since compiled code numbers only 244 constructors with fields
  | cacheWritePass
  | sketchHalving
  | sketchHalvingDone
  | rcInvalDone
  | migratorWindow
  | directorySweep
  | directorySweepDone
  | timebaseTick
  | lowPowerEntryDone
  | resumeDone
  | pmWarn
  | holdEnd
  | pmFail
  | powerOnReset
  | blockResetPin
  | blockResetDone
  | keyClearDone
  | scrubDone
  | bypass
  | idcode
  | dbgTrst
  | supplyRemoved
  deriving DecidableEq, Repr

end Sys2Proof
end

