-- ==== Sys2Proof/Config.lean ====
section
/-! DEFINITION. What the spec leaves open: free values and the functions it calls not architectural. None has a body, so
no statement can rest on a value of it. Log entries 2, 7, 8 and 9 name them. -/
namespace Sys2Proof

/-- A value the spec leaves open: the n-th one a run needs. -/
opaque Config.freeWord : Nat → W64
/-- Hash of sketch bank i for a line address (R75). -/
opaque Config.sketchHash : Nat → Nat → Nat
/-- Set of the coalescer for a table, row and chunk (R228). -/
opaque Config.coSet : Nat → Nat → Nat → Nat
/-- Home bucket of the camp directory for a home address (R253). -/
opaque Config.campBucket : Nat → Nat → Nat
/-- Set of the overflow log for a table, row and chunk (R229). -/
opaque Config.logSet : Nat → Nat → Nat → Nat → Nat
/-- Payload and sign of a NaN result, from the patterns it came from (log entry 12). -/
opaque Config.nanPayload : Nat → Nat → W64
/-- The stochastic-rounding stream of an apply unit: the n-th draw (R209). -/
opaque Config.srDraw : Nat → BitVec 16
/-- The port that a request to a destination node takes among the admitted ones (R404). -/
opaque Config.routePort : Nat → List Nat → Nat → Nat
/-- The IDCODE of the test access port (R459). -/
opaque Config.idcode : BitVec 32
/-- The order in which the array adds a sum: the key that term i of sum n is sorted by, and where the tree splits it (R129). -/
opaque Config.sumKey : Nat → Nat → Nat
/-- The same: how many terms the left part of node p of sum n takes. -/
opaque Config.sumSplit : Nat → Nat → Nat
/-- What a store holds that the spec calls undefined after a reset, by store and index (R442). -/
opaque Config.undefined : Nat → Nat → W64
/-- An offset of space 4 of the debug access bus that is no guarded store: PC, EPC, CAUSE, TSK or flag space (R460, R463). -/
opaque Config.dabOpen : Nat → Bool

end Sys2Proof
end

