-- ==== Sys2Proof/Machine/Float.lean ====
section
/-! DEFINITION. Floating point over bit patterns: a pattern is decoded to an exact dyadic value, the operation is done
exactly, and the result is rounded once to nearest even, subnormals kept (R34, R99). The payload and sign of a NaN result
are open (IEEE 754-2019) and are an opaque function of Config (log entry 12). -/
namespace Sys2Proof

/-- A floating format: exponent bits, fraction bits, and whether the top exponent holds infinities (E4M3 has none). -/
structure FFmt where
  eb : Nat
  mb : Nat
  inf : Bool
  deriving DecidableEq, Repr

/-- binary16. -/
def FFmt.fp16 : FFmt := ⟨5, 10, true⟩
/-- bf16. -/
def FFmt.bf16 : FFmt := ⟨8, 7, true⟩
/-- binary32. -/
def FFmt.fp32 : FFmt := ⟨8, 23, true⟩
/-- binary64. -/
def FFmt.fp64 : FFmt := ⟨11, 52, true⟩
/-- OCP E4M3. -/
def FFmt.e4m3 : FFmt := ⟨4, 3, false⟩
/-- OCP E5M2. -/
def FFmt.e5m2 : FFmt := ⟨5, 2, true⟩

/-- Exponent bias. -/
def FFmt.bias (f : FFmt) : Nat := 2 ^ (f.eb - 1) - 1
/-- Width in bits. -/
def FFmt.width (f : FFmt) : Nat := 1 + f.eb + f.mb
/-- Size in bytes. -/
def FFmt.size (f : FFmt) : Nat := f.width / 8

/-- A decoded value: (-1)^neg * m * 2^e when finite. -/
inductive FV
  | nan
  | inf (neg : Bool)
  | fin (neg : Bool) (m : Nat) (e : Int)
  deriving DecidableEq, Repr

/-- Decode a bit pattern. -/
def FV.of (f : FFmt) (x : Nat) : FV :=
  let neg := x.testBit (f.eb + f.mb)
  let ex := (x >>> f.mb) % 2 ^ f.eb
  let fr := x % 2 ^ f.mb
  if ex = 2 ^ f.eb - 1 ∧ f.inf then (if fr = 0 then .inf neg else .nan)
  else if ex = 2 ^ f.eb - 1 ∧ fr = 2 ^ f.mb - 1 then .nan
  else if ex = 0 then .fin neg fr (1 - f.bias - f.mb)
  else .fin neg (2 ^ f.mb + fr) ((ex : Int) - f.bias - f.mb)

/-- The sign bit of a format. -/
def FFmt.sgn (f : FFmt) (neg : Bool) : Nat := if neg then 2 ^ (f.eb + f.mb) else 0

/-- An infinity; in E4M3, which has none, the NaN pattern. -/
def FFmt.infBits (f : FFmt) (neg : Bool) : Nat :=
  f.sgn neg + (if f.inf then (2 ^ f.eb - 1) <<< f.mb else 2 ^ (f.eb + f.mb) - 1)

/-- A quiet NaN whose payload and sign are open, as a function of what it came from. -/
def FFmt.nanBits (f : FFmt) (a b : Nat) : Nat :=
  let p := (Config.nanPayload a b).toNat
  if f.inf then f.sgn (p.testBit 63) + (2 ^ f.eb - 1) <<< f.mb + 2 ^ (f.mb - 1) + p % 2 ^ (f.mb - 1)
  else f.sgn (p.testBit 63) + (2 ^ (f.eb + f.mb) - 1)

/-- Bits needed to write a number. -/
def bitLen (n : Nat) : Nat := if n = 0 then 0 else Nat.log2 n + 1

/-- m / 2^k rounded to nearest, ties to even; `sticky` says that the true value is a little above m. -/
def rneShift (m k : Nat) (sticky : Bool) : Nat :=
  if k = 0 then m else
  let q := m >>> k
  let r := m % 2 ^ k
  let h := 2 ^ (k - 1)
  if r > h || (r == h && (sticky || q % 2 == 1)) then q + 1 else q

/-- The finite value (-1)^neg * m * 2^e rounded once to a format; overflow gives infinity. -/
def FFmt.round (f : FFmt) (neg : Bool) (m : Nat) (e : Int) (sticky : Bool) : Nat :=
  if m = 0 then f.sgn neg else
  let emin : Int := 1 - f.bias
  let top : Int := e + bitLen m - 1
  let q : Int := max top emin - f.mb
  let mant := if q ≤ e then m <<< (e - q).toNat else rneShift m (q - e).toNat sticky
  let bits := ((q - (emin - f.mb)).toNat <<< f.mb) + mant
  let lim := if f.inf then (2 ^ f.eb - 1) <<< f.mb else 2 ^ (f.eb + f.mb) - 1
  if bits ≥ lim then f.infBits neg else f.sgn neg + bits

/-- A dyadic value as numerator over 2^k of a common exponent. -/
def alignTo (m : Nat) (e lo : Int) : Int := (m <<< (e - lo).toNat : Nat)

/-- Signed value of a magnitude. -/
def signed (neg : Bool) (v : Int) : Int := if neg then -v else v

/-- Round a signed dyadic value; an exact zero takes the sign `z`. -/
def FFmt.ofDyadic (f : FFmt) (v : Int) (e : Int) (z : Bool) : Nat :=
  if v = 0 then f.sgn z else f.round (v < 0) v.natAbs e false

/-- Sum of two decoded values in format f. -/
def FFmt.addV (f : FFmt) (a b : FV) (na nb : Nat) : Nat :=
  match a, b with
  | .nan, _ => f.nanBits na nb
  | _, .nan => f.nanBits na nb
  | .inf s, .inf t => if s = t then f.infBits s else f.nanBits na nb
  | .inf s, _ => f.infBits s
  | _, .inf t => f.infBits t
  | .fin s m e, .fin t n g =>
    let lo := min e g
    f.ofDyadic (signed s (alignTo m e lo) + signed t (alignTo n g lo)) lo (s && t)

/-- Product of two decoded values in format f. -/
def FFmt.mulV (f : FFmt) (a b : FV) (na nb : Nat) : Nat :=
  match a, b with
  | .nan, _ => f.nanBits na nb
  | _, .nan => f.nanBits na nb
  | .inf s, .inf t => f.infBits (s != t)
  | .inf s, .fin t n _ => if n = 0 then f.nanBits na nb else f.infBits (s != t)
  | .fin s m _, .inf t => if m = 0 then f.nanBits na nb else f.infBits (s != t)
  | .fin s m e, .fin t n g => f.round (s != t) (m * n) (e + g) false

/-- Quotient of two decoded values in format f. -/
def FFmt.divV (f : FFmt) (a b : FV) (na nb : Nat) : Nat :=
  match a, b with
  | .nan, _ => f.nanBits na nb
  | _, .nan => f.nanBits na nb
  | .inf _, .inf _ => f.nanBits na nb
  | .inf s, .fin t _ _ => f.infBits (s != t)
  | .fin s _ _, .inf t => f.sgn (s != t)
  | .fin s m e, .fin t n g =>
    if n = 0 then (if m = 0 then f.nanBits na nb else f.infBits (s != t))
    else
      let k := f.mb + 3 + bitLen n
      f.round (s != t) ((m <<< k) / n) (e - g - k) ((m <<< k) % n != 0)

/-- Integer square root by bits from bit k down. -/
def isqrtAux : Nat → Nat → Nat → Nat
  | 0, _, r => r
  | k + 1, n, r => isqrtAux k n (if (r + 2 ^ k) * (r + 2 ^ k) ≤ n then r + 2 ^ k else r)

/-- Integer square root. -/
def isqrt (n : Nat) : Nat := isqrtAux (bitLen n / 2 + 1) n 0

/-- Square root of a decoded value in format f. -/
def FFmt.sqrtV (f : FFmt) (a : FV) (na : Nat) : Nat :=
  match a with
  | .nan => f.nanBits na 0
  | .inf s => if s then f.nanBits na 0 else f.infBits false
  | .fin s m e =>
    if m = 0 then f.sgn s else if s then f.nanBits na 0 else
    let k := 2 * (f.mb + 3) + (if (e % 2 : Int) = 0 then 0 else 1)
    let n := m <<< k
    let r := isqrt n
    f.round false r ((e - k) / 2) (r * r != n)

/-- A decoded value converted to format f, rounded once. -/
def FFmt.cvtV (f : FFmt) (a : FV) (na : Nat) : Nat :=
  match a with
  | .nan => f.nanBits na 0
  | .inf s => f.infBits s
  | .fin s m e => f.round s m e false

/-- Addition of bit patterns. -/
def FFmt.add (f : FFmt) (a b : Nat) : Nat := f.addV (.of f a) (.of f b) a b
/-- Negation of a bit pattern. -/
def FFmt.neg (f : FFmt) (a : Nat) : Nat := a ^^^ 2 ^ (f.eb + f.mb)
/-- Subtraction of bit patterns. -/
def FFmt.sub (f : FFmt) (a b : Nat) : Nat := f.add a (f.neg b)
/-- Multiplication of bit patterns. -/
def FFmt.mul (f : FFmt) (a b : Nat) : Nat := f.mulV (.of f a) (.of f b) a b
/-- Division of bit patterns. -/
def FFmt.div (f : FFmt) (a b : Nat) : Nat := f.divV (.of f a) (.of f b) a b
/-- Square root of a bit pattern. -/
def FFmt.sqrt (f : FFmt) (a : Nat) : Nat := f.sqrtV (.of f a) a
/-- Conversion of a bit pattern of format g to format f. -/
def FFmt.cvt (f g : FFmt) (a : Nat) : Nat := if f = g then a else f.cvtV (.of g a) a
/-- An integer in format f, rounded once. -/
def FFmt.ofInt (f : FFmt) (i : Int) : Nat := f.ofDyadic i 0 false

/-- Absolute value of a bit pattern. -/
def FFmt.abs (f : FFmt) (a : Nat) : Nat := a % 2 ^ (f.eb + f.mb)
/-- The pattern is a NaN. -/
def FFmt.isNan (f : FFmt) (a : Nat) : Bool := FV.of f a = .nan
/-- The pattern is finite. -/
def FFmt.isFin (f : FFmt) (a : Nat) : Bool :=
  match FV.of f a with
  | .fin _ _ _ => true
  | _ => false
/-- The pattern is a zero. -/
def FFmt.isZero (f : FFmt) (a : Nat) : Bool := f.abs a = 0

/-- Order of two decoded values: less than; false with a NaN. -/
def FV.lt (a b : FV) : Bool :=
  match a, b with
  | .nan, _ => false
  | _, .nan => false
  | .inf s, .inf t => s && !t
  | .inf s, _ => s
  | _, .inf t => !t
  | .fin s m e, .fin t n g =>
    let lo := min e g
    signed s (alignTo m e lo) < signed t (alignTo n g lo)

/-- Less than on bit patterns. -/
def FFmt.lt (f : FFmt) (a b : Nat) : Bool := (FV.of f a).lt (FV.of f b)

/-- a / b of two finite values rounded to the nearest integer, ties to even; 0 for a zero divisor. -/
def FV.quotInt (a b : FV) : Int :=
  match a, b with
  | .fin s m e, .fin t n g =>
    if n = 0 then 0 else
    let num := if g ≤ e then m <<< (e - g).toNat else m
    let den := if g ≤ e then n else n <<< (g - e).toNat
    let q := num / den
    let r := num % den
    let q := if 2 * r > den || (2 * r == den && q % 2 == 1) then q + 1 else q
    signed (s != t) q
  | _, _ => 0

/-- A finite value rounded to the nearest integer, ties to even; 0 for the others. -/
def FV.toInt (a : FV) : Int := a.quotInt (.fin false 1 0)

/-- sc * q + of in format f with one rounding (R34), all operands decoded. -/
def FFmt.mulAddV (f : FFmt) (a b c : FV) (na nb : Nat) : Nat :=
  match a, b, c with
  | .fin s m e, .fin t n g, .fin u k h =>
    let lo := min (e + g) h
    let p := signed (s != t) (alignTo (m * n) (e + g) lo)
    let q := signed u (alignTo k h lo)
    f.ofDyadic (p + q) lo ((s != t) && u)
  | a, b, c =>
    match a, b with
    | .fin _ _ _, .fin _ _ _ => f.cvtV c nb
    | a, b =>
      let p := f.mulV a b na nb
      f.addV (.of f p) c na nb

/-- Clamp an integer. -/
def clampInt (lo hi v : Int) : Int := if v < lo then lo else if hi < v then hi else v

end Sys2Proof
end

