-- ==== Sys2Proof/Machine/Aes.lean ====
section
/-! DEFINITION. The block cipher of the encryption units: AES-256 and its inverse, the XTS mode of one 64-byte sector
(R448, R451) and the counter mode and hash of GCM (R409). The standards that R448 and R409 name give these functions. -/
namespace Sys2Proof

/-- Multiplication by x in the byte field of AES. -/
def aesX (b : Byte) : Byte := (b <<< 1) ^^^ (if b.msb then 0x1b else 0)

/-- Multiplication in the byte field of AES, k bits of the second factor. -/
def aesMulAux : Nat → Byte → Byte → Byte
  | 0, _, _ => 0
  | k + 1, a, b => (if b.getLsbD 0 then a else 0) ^^^ aesMulAux k (aesX a) (b >>> 1)

/-- Multiplication in the byte field of AES. -/
def aesMul (a b : Byte) : Byte := aesMulAux 8 a b

/-- The 254th power: the inverse, and 0 for 0. -/
def aesInv (a : Byte) : Byte :=
  let a2 := aesMul a a
  let a4 := aesMul a2 a2
  let a8 := aesMul a4 a4
  let a16 := aesMul a8 a8
  let a32 := aesMul a16 a16
  let a64 := aesMul a32 a32
  let a128 := aesMul a64 a64
  aesMul a128 (aesMul a64 (aesMul a32 (aesMul a16 (aesMul a8 (aesMul a4 a2)))))

/-- The substitution of AES. -/
def aesSub (a : Byte) : Byte :=
  let i := aesInv a
  i ^^^ i.rotateLeft 1 ^^^ i.rotateLeft 2 ^^^ i.rotateLeft 3 ^^^ i.rotateLeft 4 ^^^ 0x63

/-- The inverse substitution of AES. -/
def aesSubInv (a : Byte) : Byte :=
  aesInv (a.rotateLeft 1 ^^^ a.rotateLeft 3 ^^^ a.rotateLeft 6 ^^^ 0x05)

/-- Bytewise exclusive or. -/
def xorBytes (a b : List Byte) : List Byte := List.zipWith (· ^^^ ·) a b

/-- Extend the key schedule by n words of four bytes; the schedule is kept newest word first. -/
def aesExpand : Nat → Nat → Byte → List (List Byte) → List (List Byte)
  | 0, _, _, ws => ws
  | n + 1, i, rcon, ws =>
    let prev := ws.getD 0 []
    let old := ws.getD 7 []
    let t := if i % 8 = 0 then xorBytes ((prev.drop 1 ++ prev.take 1).map aesSub) [rcon, 0, 0, 0]
      else if i % 8 = 4 then prev.map aesSub else prev
    aesExpand n (i + 1) (if i % 8 = 0 then aesX rcon else rcon) (xorBytes old t :: ws)

/-- Cut a list into four-byte words. -/
def words4 : Nat → List Byte → List (List Byte)
  | 0, _ => []
  | n + 1, l => l.take 4 :: words4 n (l.drop 4)

/-- The 15 round keys of a 32-byte key, each 16 bytes, first round first. -/
def aesKeys (key : List Byte) : List (List Byte) :=
  let ws := (aesExpand 52 8 1 (words4 8 key).reverse).reverse
  (List.range 15).map (fun r => ((ws.drop (4 * r)).take 4).flatten)

/-- ShiftRows by direction: byte at row r and column c comes from column c + r (or c - r). -/
def aesShift (inv : Bool) (s : List Byte) : List Byte :=
  (List.range 16).map (fun i =>
    let r := i % 4
    let c := i / 4
    s.getD (r + 4 * ((if inv then c + 4 - r else c + r) % 4)) 0)

/-- MixColumns with the given first column of the matrix. -/
def aesMix (m : List Byte) (s : List Byte) : List Byte :=
  (List.range 16).map (fun i =>
    let r := i % 4
    let c := i / 4
    (List.range 4).foldl (fun acc k => acc ^^^ aesMul (m.getD ((k + 4 - r) % 4) 0) (s.getD (4 * c + k) 0)) 0)

/-- AES-256 encryption of one 16-byte block under the round keys. -/
def aesEnc (ks : List (List Byte)) (p : List Byte) : List Byte :=
  let s0 := xorBytes p (ks.getD 0 [])
  let s13 := ((ks.drop 1).take 13).foldl
    (fun s k => xorBytes (aesMix [2, 3, 1, 1] (aesShift false (s.map aesSub))) k) s0
  xorBytes (aesShift false (s13.map aesSub)) (ks.getD 14 [])

/-- AES-256 decryption of one 16-byte block under the round keys. -/
def aesDec (ks : List (List Byte)) (c : List Byte) : List Byte :=
  let s14 := (aesShift true (xorBytes c (ks.getD 14 []))).map aesSubInv
  let s1 := ((ks.drop 1).take 13).reverse.foldl
    (fun s k => (aesShift true (aesMix [14, 11, 13, 9] (xorBytes s k))).map aesSubInv) s14
  xorBytes s1 (ks.getD 0 [])

/-- Little-endian bytes of a number. -/
def leBytes : Nat → Nat → List Byte
  | 0, _ => []
  | n + 1, v => BitVec.ofNat 8 v :: leBytes n (v / 256)

/-- The number that bytes spell, least significant first (R8). -/
def leNat : List Byte → Nat
  | [] => 0
  | b :: t => b.toNat + 256 * leNat t

/-- Multiplication by the primitive element of the tweak field of XTS. -/
def xtsNext (t : List Byte) : List Byte :=
  let v := leNat t * 2
  leBytes 16 (if v ≥ 2 ^ 128 then (v - 2 ^ 128) ^^^ 0x87 else v)

/-- The four blocks of a sector under one tweak, each through f. -/
def xtsBlocks (f : List Byte → List Byte) : Nat → List Byte → List Byte → List Byte
  | 0, _, _ => []
  | n + 1, t, d => xorBytes (f (xorBytes (d.take 16) t)) t ++ xtsBlocks f n (xtsNext t) (d.drop 16)

/-- XTS of one 64-byte sector (R451): the key is Key1 in the low 256 bits and Key2 above, the tweak the sector number. -/
def xtsSector (dec : Bool) (key : BitVec 512) (sector : Nat) (d : List Byte) : List Byte :=
  let kb := leBytes 64 key.toNat
  let k1 := aesKeys (kb.take 32)
  let t := aesEnc (aesKeys (kb.drop 32)) (leBytes 16 sector)
  xtsBlocks (if dec then aesDec k1 else aesEnc k1) 4 t d

/-- Big-endian bytes of a number. -/
def beBytes (n v : Nat) : List Byte := (leBytes n v).reverse
/-- The number that bytes spell, most significant first. -/
def beNat (l : List Byte) : Nat := leNat l.reverse

/-- Product in the field of GHASH, over n bits of x from its most significant bit. -/
def ghashMulAux : Nat → Nat → Nat → Nat → Nat
  | 0, _, _, z => z
  | n + 1, x, v, z =>
    ghashMulAux n x (if v.testBit 0 then (v >>> 1) ^^^ (0xe1 <<< 120) else v >>> 1) (if x.testBit n then z ^^^ v else z)

/-- GHASH of a list of bytes whose length is a multiple of 16. -/
def ghash : Nat → Nat → Nat → List Byte → Nat
  | 0, _, y, _ => y
  | n + 1, h, y, d => ghash n h (ghashMulAux 128 (y ^^^ beNat (d.take 16)) h 0) (d.drop 16)

/-- Fill to a multiple of 16 bytes. -/
def pad16 (l : List Byte) : List Byte := l ++ List.replicate ((16 - l.length % 16) % 16) 0

/-- The key stream of GCM from counter value c on, n blocks. -/
def gcmStream (ks : List (List Byte)) (iv : List Byte) : Nat → Nat → List Byte
  | 0, _ => []
  | n + 1, c => aesEnc ks (iv ++ beBytes 4 c) ++ gcmStream ks iv n (c + 1)

/-- AES-256-GCM: the text exclusive-or the key stream, and the 16-byte tag over the associated data and the cipher text. -/
def gcm (dec : Bool) (key : BitVec 256) (iv aad text : List Byte) : List Byte × List Byte :=
  let ks := aesKeys (leBytes 32 key.toNat)
  let out := xorBytes text (gcmStream ks iv ((text.length + 15) / 16) 2)
  let ct := if dec then text else out
  let h := beNat (aesEnc ks (List.replicate 16 0))
  let d := pad16 aad ++ pad16 ct ++ beBytes 8 (8 * aad.length) ++ beBytes 8 (8 * ct.length)
  (out, xorBytes (beBytes 16 (ghash (d.length / 16) h 0 d)) (aesEnc ks (iv ++ beBytes 4 1)))

end Sys2Proof
end

