-- ==== Sys2Proof/Machine/Tab.lean ====
section
/-! DEFINITION. Sparse tables in one canonical form: a list of (key, value) pairs with strictly rising keys and no
entry equal to what an unlisted key reads as. Every indexed store of the block is one of these: memory, registers,
anchors, flags, cores, queues, tables. What an unlisted key reads as is an argument of each operation. -/
namespace Sys2Proof

/-- A table with natural-number keys. -/
abbrev Tab (α : Type) := List (Nat × α)

/-- The value of key k, `d` where k is not listed. -/
def Tab.get {α : Type} (d : α) : Tab α → Nat → α
  | [], _ => d
  | (a, v) :: t, k => if k = a then v else Tab.get d t k

/-- Remove key k. -/
def Tab.del {α : Type} : Tab α → Nat → Tab α
  | [], _ => []
  | (a, v) :: t, k => if k = a then Tab.del t k else (a, v) :: Tab.del t k

/-- List key k, which is not listed, with value v, before the first larger key. -/
def Tab.ins {α : Type} : Tab α → Nat → α → Tab α
  | [], k, v => [(k, v)]
  | (a, w) :: t, k, v => if k < a then (k, v) :: (a, w) :: t else (a, w) :: Tab.ins t k v

/-- Write v at key k: a value equal to the default is not listed. -/
def Tab.set {α : Type} [DecidableEq α] (d : α) (t : Tab α) (k : Nat) (v : α) : Tab α :=
  if v = d then Tab.del t k else Tab.ins (Tab.del t k) k v

/-- Apply f to the value of key k. -/
def Tab.upd {α : Type} [DecidableEq α] (d : α) (t : Tab α) (k : Nat) (f : α → α) : Tab α :=
  Tab.set d t k (f (Tab.get d t k))

/-- Keys rise strictly, all above `lo` when given. -/
def Tab.rising {α : Type} : Option Nat → Tab α → Bool
  | _, [] => true
  | lo, (a, _) :: t => (match lo with | none => true | some l => decide (l < a)) && Tab.rising (some a) t

/-- The canonical form: keys rise strictly and no value is the default of its key. -/
def Tab.wf {α : Type} [DecidableEq α] (d : Nat → α) (t : Tab α) : Bool :=
  Tab.rising none t && t.all (fun p => decide (p.2 ≠ d p.1))

end Sys2Proof
end

