-- ==== Sys2Proof/Machine/RegTable.lean ====
section
/-! DEFINITION. The register window (R480): every register by offset, with its fields' access type, reset value and
survival, as the field table of its own rule gives them (R9, R14). Fields of type RSV are not listed: they read zero and ignore
writes. A field whose reset value is "per build" is listed with 0 here and read from the build (R2 to R4). -/
namespace Sys2Proof

/-- Access types of R9 (RSV fields are not listed). -/
inductive Acc
  | rw | ro | wo | w1c | rwl
  deriving DecidableEq, Repr

/-- Islands (the table of Block Architecture). -/
inductive Island
  | H | M | K | L | C (c : Nat) | A (c : Nat)
  deriving DecidableEq, Repr

/-- One field: lowest bit, width, access type, reset value, and whether it keeps its value across block reset (B), core
reset (C), Doze (D) and Nap (N). The letter P of R14 is all four. -/
structure Fld where
  lo : Nat
  n : Nat
  acc : Acc
  rst : Nat
  b : Bool
  c : Bool
  d : Bool
  nap : Bool
  deriving DecidableEq, Repr

/-- Which part of the block a register belongs to: the letter of the island of the map of R480. -/
inductive Isl
  | H | M | K | L | C | A
  deriving DecidableEq, Repr

/-- A family of registers: the register with indices i < n1 and j < n2 lies at base + s1 * i + s2 * j. -/
structure RegDesc where
  base : Nat
  s1 : Nat
  n1 : Nat
  s2 : Nat
  n2 : Nat
  isl : Isl
  flds : List Fld
  deriving DecidableEq, Repr

/-- R2: ARCH[3:0], IMPL[7:4], CONFIG[11:8], STEP[15:12], VENDOR[31:16]. -/
def Reg.ckId : RegDesc := ⟨0, 0, 1, 8, 1, .K,
  [⟨0, 4, .ro, 1, true, true, true, true⟩,
   ⟨4, 4, .ro, 1, true, true, true, true⟩,
   ⟨8, 4, .ro, 0, true, true, true, true⟩,
   ⟨12, 4, .ro, 0, true, true, true, true⟩,
   ⟨16, 16, .ro, 19276, true, true, true, true⟩]⟩

/-- R3: CORES[3:0], OVERLAP[4:4], ARRAYS[5:5], FAR[6:6], LITHA[11:8], NCHAN[18:12], LANES[21:20], RCACHE[31:24], COAL[39:32]. -/
def Reg.ckCap0 : RegDesc := ⟨8, 0, 1, 8, 1, .K,
  [⟨0, 4, .ro, 0, true, true, true, true⟩,
   ⟨4, 1, .ro, 0, true, true, true, true⟩,
   ⟨5, 1, .ro, 0, true, true, true, true⟩,
   ⟨6, 1, .ro, 0, true, true, true, true⟩,
   ⟨8, 4, .ro, 0, true, true, true, true⟩,
   ⟨12, 7, .ro, 0, true, true, true, true⟩,
   ⟨20, 2, .ro, 0, true, true, true, true⟩,
   ⟨24, 8, .ro, 0, true, true, true, true⟩,
   ⟨32, 8, .ro, 0, true, true, true, true⟩]⟩

/-- R4: AFREQ[15:0], MFREQ[31:16], LFREQ[47:32]. -/
def Reg.ckCap1 : RegDesc := ⟨16, 0, 1, 8, 1, .K,
  [⟨0, 16, .ro, 0, true, true, true, true⟩,
   ⟨16, 16, .ro, 0, true, true, true, true⟩,
   ⟨32, 16, .ro, 0, true, true, true, true⟩]⟩

/-- R362: CR[3:0], BASE[45:12]. -/
def Reg.ckInletBase : RegDesc := ⟨4352, 0, 1, 8, 1, .H,
  [⟨0, 4, .rw, 0, false, true, true, true⟩,
   ⟨12, 34, .rw, 0, false, true, true, true⟩]⟩

/-- R362: BYTES[63:0]. -/
def Reg.ckInletLanded : RegDesc := ⟨4360, 0, 1, 8, 1, .H,
  [⟨0, 64, .ro, 0, false, true, true, true⟩]⟩

/-- R369: EN[0:0], LOG2[4:1], BASE[41:12]. -/
def Reg.ckSpillBase : RegDesc := ⟨4608, 0, 1, 8, 1, .H,
  [⟨0, 1, .rw, 0, false, true, true, true⟩,
   ⟨1, 4, .rw, 8, false, true, true, true⟩,
   ⟨12, 30, .rw, 0, false, true, true, true⟩]⟩

/-- R371: VALID[0:0], MULTI[1:1], KIND[3:2], CLASS[15:8], INDEX[31:16], CORE[34:32]. -/
def Reg.ckQErr : RegDesc := ⟨4616, 0, 1, 8, 1, .H,
  [⟨0, 1, .w1c, 0, false, true, true, false⟩,
   ⟨1, 1, .w1c, 0, false, true, true, false⟩,
   ⟨2, 2, .ro, 0, false, true, true, false⟩,
   ⟨8, 8, .ro, 0, false, true, true, false⟩,
   ⟨16, 16, .ro, 0, false, true, true, false⟩,
   ⟨32, 3, .ro, 0, false, true, true, false⟩]⟩

/-- R371: COUNT[63:0]. -/
def Reg.ckQResets : RegDesc := ⟨4624, 0, 1, 8, 1, .H,
  [⟨0, 64, .ro, 0, false, true, true, false⟩]⟩

/-- R474: VALID[0:0], MULTI[1:1], CLASS[2:2], SOURCE[15:8], CORE[18:16], FATALS[47:32]. -/
def Reg.ckErrFatal : RegDesc := ⟨5120, 0, 1, 8, 1, .K,
  [⟨0, 1, .w1c, 0, true, true, true, true⟩,
   ⟨1, 1, .w1c, 0, true, true, true, true⟩,
   ⟨2, 1, .ro, 0, true, true, true, true⟩,
   ⟨8, 8, .ro, 0, true, true, true, true⟩,
   ⟨16, 3, .ro, 0, true, true, true, true⟩,
   ⟨32, 16, .ro, 0, true, true, true, true⟩]⟩

/-- R475: COUNT[63:0]. -/
def Reg.ckErrCnt : RegDesc := ⟨5184, 0, 1, 8, 3, .H,
  [⟨0, 64, .ro, 0, false, true, true, false⟩]⟩

/-- R443: REQ[1:0], DBWAKE[8:8]. -/
def Reg.ckPwrCtrl : RegDesc := ⟨8192, 0, 1, 8, 1, .K,
  [⟨0, 2, .wo, 0, false, false, false, false⟩,
   ⟨8, 1, .rw, 0, false, true, true, true⟩]⟩

/-- R444: STATE[2:0], HOLD[3:3], REFUSED[4:4], REASON[11:8]. -/
def Reg.ckPwrStat : RegDesc := ⟨8200, 0, 1, 8, 1, .K,
  [⟨0, 3, .ro, 0, false, false, false, false⟩,
   ⟨3, 1, .ro, 0, false, false, false, false⟩,
   ⟨4, 1, .w1c, 0, false, true, true, true⟩,
   ⟨8, 4, .ro, 0, false, true, true, true⟩]⟩

/-- R445: HOLDS[15:0], RECOVERED[31:16], FAILS[47:32]. -/
def Reg.ckPwrEvents : RegDesc := ⟨8208, 0, 1, 8, 1, .K,
  [⟨0, 16, .ro, 0, true, true, true, true⟩,
   ⟨16, 16, .ro, 0, true, true, true, true⟩,
   ⟨32, 16, .ro, 0, true, true, true, true⟩]⟩

/-- R446: BLOCK[0:0], CORE[15:8], LINK[23:16], CBUSY[39:32], LBUSY[47:40], KEY[63:56]. -/
def Reg.ckRstCtrl : RegDesc := ⟨8216, 0, 1, 8, 1, .K,
  [⟨0, 1, .wo, 0, false, false, false, false⟩,
   ⟨8, 8, .wo, 0, false, false, false, false⟩,
   ⟨16, 8, .wo, 0, false, false, false, false⟩,
   ⟨32, 8, .ro, 0, false, false, false, false⟩,
   ⟨40, 8, .ro, 0, false, false, false, false⟩,
   ⟨56, 8, .wo, 0, false, false, false, false⟩]⟩

/-- R447: POR[0:0], PIN[1:1], REG[2:2], PMFAIL[3:3]. -/
def Reg.ckRstCause : RegDesc := ⟨8224, 0, 1, 8, 1, .K,
  [⟨0, 1, .w1c, 1, true, true, true, true⟩,
   ⟨1, 1, .w1c, 0, true, true, true, true⟩,
   ⟨2, 1, .w1c, 0, true, true, true, true⟩,
   ⟨3, 1, .w1c, 0, true, true, true, true⟩]⟩

/-- R340: EN[0:0], LOG2[5:1], BASE[56:12]. -/
def Reg.ckRingBase : RegDesc := ⟨65536, 0, 1, 64, 64, .H,
  [⟨0, 1, .rw, 0, false, true, true, true⟩,
   ⟨1, 5, .rw, 6, false, true, true, true⟩,
   ⟨12, 45, .rw, 0, false, true, true, true⟩]⟩

/-- R341: BASE[56:12]. -/
def Reg.ckRingCbase : RegDesc := ⟨65544, 0, 1, 64, 64, .H,
  [⟨12, 45, .rw, 0, false, true, true, true⟩]⟩

/-- R341: COUNT[16:0], BASE[63:19]. -/
def Reg.ckRingDir : RegDesc := ⟨65552, 0, 1, 64, 64, .H,
  [⟨0, 17, .rw, 0, false, true, true, true⟩,
   ⟨19, 45, .rw, 0, false, true, true, true⟩]⟩

/-- R342: HEAD[16:0], HALT[17:17], CTAIL[48:32]. -/
def Reg.ckRingHead : RegDesc := ⟨65560, 0, 1, 64, 64, .H,
  [⟨0, 17, .ro, 0, false, true, true, true⟩,
   ⟨17, 1, .ro, 0, false, true, true, true⟩,
   ⟨32, 17, .ro, 0, false, true, true, true⟩]⟩

/-- R342: CHEAD[16:0]. -/
def Reg.ckRingChead : RegDesc := ⟨65568, 0, 1, 64, 64, .H,
  [⟨0, 17, .rw, 0, false, true, true, true⟩]⟩

/-- R358: EN[0:0], LOG2[4:1], BASE[51:12]. -/
def Reg.ckFringBase : RegDesc := ⟨69632, 0, 1, 8, 1, .H,
  [⟨0, 1, .rw, 0, false, true, true, true⟩,
   ⟨1, 4, .rw, 6, false, true, true, true⟩,
   ⟨12, 40, .rw, 0, false, true, true, true⟩]⟩

/-- R358: HEAD[16:0], TAIL[48:32]. -/
def Reg.ckFringPtr : RegDesc := ⟨69640, 0, 1, 8, 1, .H,
  [⟨0, 17, .rw, 0, false, true, true, true⟩,
   ⟨32, 17, .ro, 0, false, true, true, true⟩]⟩

/-- R358: EN[0:0], LOG2[5:1], BASE[51:12]. -/
def Reg.ckEringBase : RegDesc := ⟨69648, 0, 1, 8, 1, .H,
  [⟨0, 1, .rw, 0, false, true, true, true⟩,
   ⟨1, 5, .rw, 12, false, true, true, true⟩,
   ⟨12, 40, .rw, 0, false, true, true, true⟩]⟩

/-- R358: HEAD[23:0], TAIL[47:24], LOST[63:48]. -/
def Reg.ckEringPtr : RegDesc := ⟨69656, 0, 1, 8, 1, .H,
  [⟨0, 24, .rw, 0, false, true, true, true⟩,
   ⟨24, 24, .ro, 0, false, true, true, true⟩,
   ⟨48, 16, .ro, 0, false, true, true, true⟩]⟩

/-- R360: EN[0:0], MASK[1:1], ADDR[51:2]. -/
def Reg.ckMsi0 : RegDesc := ⟨73728, 0, 1, 16, 66, .H,
  [⟨0, 1, .rw, 0, false, true, true, true⟩,
   ⟨1, 1, .rw, 0, false, true, true, true⟩,
   ⟨2, 50, .rw, 0, false, true, true, true⟩]⟩

/-- R360: DATA[31:0], PEND[32:32]. -/
def Reg.ckMsi1 : RegDesc := ⟨73736, 0, 1, 16, 66, .H,
  [⟨0, 32, .rw, 0, false, true, true, true⟩,
   ⟨32, 1, .ro, 0, false, true, true, true⟩]⟩

/-- R349: [16:0]. -/
def Reg.ckDb : RegDesc := ⟨131072, 0, 1, 8, 64, .H,
  [⟨0, 17, .wo, 0, false, false, false, false⟩]⟩

/-- R350: COUNT[7:0]. -/
def Reg.ckDbRetry : RegDesc := ⟨133120, 0, 1, 8, 1, .H,
  [⟨0, 8, .rw, 8, false, true, true, true⟩]⟩

/-- R65: READ[7:0], WRITE[15:8], REMOTE[23:16], SPLITERR[24:24]. -/
def Reg.ckPortSplit : RegDesc := ⟨196608, 0, 1, 8, 3, .M,
  [⟨0, 8, .rwl, 70, false, true, true, true⟩,
   ⟨8, 8, .rwl, 20, false, true, true, true⟩,
   ⟨16, 8, .rwl, 10, false, true, true, true⟩,
   ⟨24, 1, .ro, 0, false, true, true, true⟩]⟩

/-- R250: SIZE[14:0]. -/
def Reg.ckTierSize : RegDesc := ⟨196672, 0, 1, 8, 3, .M,
  [⟨0, 15, .rwl, 0, true, true, true, true⟩]⟩

/-- R63: RATE[19:0], BURST[39:24], EN[63:63]. -/
def Reg.ckBwreg : RegDesc := ⟨196864, 32, 8, 8, 4, .M,
  [⟨0, 20, .rw, 0, false, true, true, true⟩,
   ⟨24, 16, .rw, 0, false, true, true, true⟩,
   ⟨63, 1, .rw, 0, false, true, true, true⟩]⟩

/-- R262: CDLOG2[4:0], BASE[41:12]. -/
def Reg.ckCampDir : RegDesc := ⟨197632, 0, 1, 8, 1, .M,
  [⟨0, 5, .rw, 16, true, true, true, true⟩,
   ⟨12, 30, .rw, 0, true, true, true, true⟩]⟩

/-- R263: SLOTSZ[3:0], BASE[41:12]. -/
def Reg.ckCampPool : RegDesc := ⟨197640, 0, 1, 8, 1, .M,
  [⟨0, 4, .rw, 7, true, true, true, true⟩,
   ⟨12, 30, .rw, 0, true, true, true, true⟩]⟩

/-- R263: [39:0]. -/
def Reg.ckCampSlots : RegDesc := ⟨197648, 0, 1, 8, 1, .M,
  [⟨0, 40, .rw, 0, true, true, true, true⟩]⟩

/-- R264: DIREN[0:0], EN[1:1], PROMO[7:4], DEMO[11:8], RATE[31:16], SCAN[47:32]. -/
def Reg.ckMigCtrl : RegDesc := ⟨197656, 0, 1, 8, 1, .M,
  [⟨0, 1, .rw, 0, true, true, true, true⟩,
   ⟨1, 1, .rw, 0, true, true, true, true⟩,
   ⟨4, 4, .rw, 8, true, true, true, true⟩,
   ⟨8, 4, .rw, 2, true, true, true, true⟩,
   ⟨16, 16, .rw, 256, true, true, true, true⟩,
   ⟨32, 16, .rw, 1024, true, true, true, true⟩]⟩

/-- R265: LIVE[39:0], RECOV[40:40], CFGERR[41:41]. -/
def Reg.ckMigStat : RegDesc := ⟨197664, 0, 1, 8, 1, .M,
  [⟨0, 40, .ro, 0, true, true, true, true⟩,
   ⟨40, 1, .ro, 0, false, false, false, false⟩,
   ⟨41, 1, .w1c, 0, false, true, true, false⟩]⟩

/-- R265: COUNT[63:0]. -/
def Reg.ckMigCnt : RegDesc := ⟨197760, 0, 1, 8, 8, .M,
  [⟨0, 64, .ro, 0, false, true, true, false⟩]⟩

/-- R272: VALID[0:0], MULTI[1:1], ADAPTER[31:16], ADDR[63:32]. -/
def Reg.ckApDrop : RegDesc := ⟨197888, 0, 1, 8, 1, .H,
  [⟨0, 1, .w1c, 0, false, true, true, false⟩,
   ⟨1, 1, .w1c, 0, false, true, true, false⟩,
   ⟨16, 16, .ro, 0, false, true, true, false⟩,
   ⟨32, 32, .ro, 0, false, true, true, false⟩]⟩

/-- R272: COUNT[63:0]. -/
def Reg.ckApDropcnt : RegDesc := ⟨197896, 0, 1, 8, 1, .H,
  [⟨0, 64, .ro, 0, false, true, true, false⟩]⟩

/-- R271: EN[0:0], BASE[45:12]. -/
def Reg.ckApRegion0 : RegDesc := ⟨200704, 0, 1, 16, 256, .H,
  [⟨0, 1, .rw, 0, false, true, true, true⟩,
   ⟨12, 34, .rw, 0, false, true, true, true⟩]⟩

/-- R271: SIZE[33:0], CR[39:36], ADAPTER[63:48]. -/
def Reg.ckApRegion1 : RegDesc := ⟨200712, 0, 1, 16, 256, .H,
  [⟨0, 34, .rw, 0, false, true, true, true⟩,
   ⟨36, 4, .rw, 0, false, true, true, true⟩,
   ⟨48, 16, .rw, 0, false, true, true, true⟩]⟩

/-- R274: EN[0:0], USER[1:1], ROOT[51:12]. -/
def Reg.ckXltCtx : RegDesc := ⟨262144, 0, 1, 8, 64, .M,
  [⟨0, 1, .rw, 0, false, true, true, true⟩,
   ⟨1, 1, .rw, 0, false, true, true, true⟩,
   ⟨12, 40, .rw, 0, false, true, true, true⟩]⟩

/-- R293: BASE[51:12]. -/
def Reg.ckBelayBase : RegDesc := ⟨262656, 0, 1, 8, 1, .M,
  [⟨12, 40, .rw, 0, false, true, true, true⟩]⟩

/-- R295: COUNT[63:0]. -/
def Reg.ckXltCnt : RegDesc := ⟨262912, 0, 1, 8, 11, .M,
  [⟨0, 64, .ro, 0, false, true, true, false⟩]⟩

/-- R294: VALID[0:0], GEN[15:8], CTX[21:16], WAITERS[31:22], GRAN[58:32]. -/
def Reg.ckFtStat : RegDesc := ⟨266240, 0, 1, 8, 256, .M,
  [⟨0, 1, .ro, 0, false, true, true, false⟩,
   ⟨8, 8, .ro, 0, false, true, true, false⟩,
   ⟨16, 6, .ro, 0, false, true, true, false⟩,
   ⟨22, 10, .ro, 0, false, true, true, false⟩,
   ⟨32, 27, .ro, 0, false, true, true, false⟩]⟩

/-- R86: EN[0:0], INVAL[1:1], CLRCNT[2:2], THRESH[7:4], AGEP[12:8]. -/
def Reg.ckRcCtrl : RegDesc := ⟨327680, 0, 1, 8, 1, .M,
  [⟨0, 1, .rw, 0, false, true, true, false⟩,
   ⟨1, 1, .wo, 0, false, false, false, false⟩,
   ⟨2, 1, .wo, 0, false, false, false, false⟩,
   ⟨4, 4, .rw, 2, false, true, true, true⟩,
   ⟨8, 5, .rw, 20, false, true, true, true⟩]⟩

/-- R87: CLEAN[0:0], INVBUSY[1:1], HALVING[2:2], ENERR[3:3]. -/
def Reg.ckRcStat : RegDesc := ⟨327688, 0, 1, 8, 1, .M,
  [⟨0, 1, .ro, 0, false, true, true, false⟩,
   ⟨1, 1, .ro, 0, false, false, false, false⟩,
   ⟨2, 1, .ro, 0, false, false, false, false⟩,
   ⟨3, 1, .w1c, 0, false, true, true, false⟩]⟩

/-- R88: VALID[0:0], MULTI[1:1], ARRAY[2:2], SLICE[7:4], SET[19:8], WAY[23:20]. -/
def Reg.ckRcPerr : RegDesc := ⟨327696, 0, 1, 8, 1, .M,
  [⟨0, 1, .w1c, 0, false, true, true, false⟩,
   ⟨1, 1, .w1c, 0, false, true, true, false⟩,
   ⟨2, 1, .ro, 0, false, true, true, false⟩,
   ⟨4, 4, .ro, 0, false, true, true, false⟩,
   ⟨8, 12, .ro, 0, false, true, true, false⟩,
   ⟨20, 4, .ro, 0, false, true, true, false⟩]⟩

/-- R89: MASK[15:0]. -/
def Reg.ckRcWaydis : RegDesc := ⟨327744, 0, 1, 8, 16, .M,
  [⟨0, 16, .rw, 0, false, true, true, true⟩]⟩

/-- R91: COUNT[63:0]. -/
def Reg.ckRcCnt : RegDesc := ⟨327936, 0, 1, 8, 12, .M,
  [⟨0, 64, .ro, 0, false, true, true, false⟩]⟩

/-- R243: OVLEN[0:0], LOG2N[5:1]. -/
def Reg.ckCoCtrl : RegDesc := ⟨393216, 0, 1, 8, 1, .M,
  [⟨0, 1, .rw, 0, false, true, true, true⟩,
   ⟨1, 5, .rw, 10, false, true, true, true⟩]⟩

/-- R244: BASE[41:12]. -/
def Reg.ckOvlBase : RegDesc := ⟨393224, 0, 1, 8, 1, .M,
  [⟨12, 30, .rw, 0, false, true, true, true⟩]⟩

/-- R245: STALL[0:0], CFGERR[1:1], APPLY[2:2], ATALLY[15:8], LOGUSED[47:16]. -/
def Reg.ckCoStat : RegDesc := ⟨393232, 0, 1, 8, 1, .M,
  [⟨0, 1, .ro, 0, false, false, false, false⟩,
   ⟨1, 1, .w1c, 0, false, true, true, false⟩,
   ⟨2, 1, .ro, 0, false, false, false, false⟩,
   ⟨8, 8, .ro, 0, false, false, false, false⟩,
   ⟨16, 32, .ro, 0, false, true, true, false⟩]⟩

/-- R247: COUNT[63:0]. -/
def Reg.ckCoCnt : RegDesc := ⟨393472, 0, 1, 8, 6, .M,
  [⟨0, 64, .ro, 0, false, true, true, false⟩]⟩

/-- R246: COUNT[63:0]. -/
def Reg.ckCoTally : RegDesc := ⟨397312, 0, 1, 8, 256, .M,
  [⟨0, 64, .ro, 0, false, true, true, false⟩]⟩

/-- R410: NODE[15:0]. -/
def Reg.ckLxNode : RegDesc := ⟨458752, 0, 1, 8, 1, .L,
  [⟨0, 16, .rwl, 0, false, true, true, true⟩]⟩

/-- R410: HOPS[5:0], ESCTO[23:8]. -/
def Reg.ckLxCtrl : RegDesc := ⟨458760, 0, 1, 8, 1, .L,
  [⟨0, 6, .rw, 32, false, true, true, true⟩,
   ⟨8, 16, .rw, 1024, false, true, true, true⟩]⟩

/-- R410: RTO[31:0], REPLAYTO[47:32]. -/
def Reg.ckLxRto : RegDesc := ⟨458768, 0, 1, 8, 1, .L,
  [⟨0, 32, .rw, 250000, false, true, true, true⟩,
   ⟨32, 16, .rw, 8192, false, true, true, true⟩]⟩

/-- R410: INDEX[15:0], TBL[18:16]. -/
def Reg.ckLxTaddr : RegDesc := ⟨458784, 0, 1, 8, 1, .L,
  [⟨0, 16, .rw, 0, false, false, false, false⟩,
   ⟨16, 3, .rw, 0, false, false, false, false⟩]⟩

/-- R410: DATA[63:0]. -/
def Reg.ckLxTdata0 : RegDesc := ⟨458792, 0, 1, 8, 1, .L,
  [⟨0, 64, .rw, 0, false, false, false, false⟩]⟩

/-- R410: DATA[63:0]. -/
def Reg.ckLxTdata1 : RegDesc := ⟨458800, 0, 1, 8, 1, .L,
  [⟨0, 64, .rw, 0, false, false, false, false⟩]⟩

/-- R410: DEV[6:0], RD[7:7], REG[15:8], DATA[23:16], GO[24:24], BUSY[25:25], NACK[26:26], FAST[27:27], OEINT[28:28]. -/
def Reg.ckLxMgmt : RegDesc := ⟨458816, 0, 1, 8, 1, .L,
  [⟨0, 7, .rw, 0, false, true, true, true⟩,
   ⟨7, 1, .rw, 0, false, true, true, true⟩,
   ⟨8, 8, .rw, 0, false, true, true, true⟩,
   ⟨16, 8, .rw, 0, false, false, false, false⟩,
   ⟨24, 1, .wo, 0, false, false, false, false⟩,
   ⟨25, 1, .ro, 0, false, false, false, false⟩,
   ⟨26, 1, .w1c, 0, false, false, false, false⟩,
   ⟨27, 1, .rw, 0, false, true, true, true⟩,
   ⟨28, 1, .ro, 0, false, false, false, false⟩]⟩

/-- R410: COUNT[63:0]. -/
def Reg.ckLxCnt : RegDesc := ⟨459008, 0, 1, 8, 4, .L,
  [⟨0, 64, .ro, 0, false, true, true, false⟩]⟩

/-- R426: COUNT[63:0]. -/
def Reg.ckMcCnt : RegDesc := ⟨459264, 0, 1, 8, 6, .L,
  [⟨0, 64, .ro, 0, false, true, true, false⟩]⟩

/-- R411: EN[0:0], LASER[1:1], RETRAIN[2:2], VMASK[6:4], ENC[8:8], TXSEL[9:9]. -/
def Reg.ckLxPctrl : RegDesc := ⟨462848, 0, 1, 256, 8, .L,
  [⟨0, 1, .rw, 0, false, true, true, true⟩,
   ⟨1, 1, .rw, 0, false, true, true, true⟩,
   ⟨2, 1, .wo, 0, false, false, false, false⟩,
   ⟨4, 3, .rw, 1, false, true, true, true⟩,
   ⟨8, 1, .rw, 0, false, true, true, true⟩,
   ⟨9, 1, .rw, 0, false, true, true, true⟩]⟩

/-- R411: STATE[2:0], LOL[3:3], VER[6:4], ERR[11:8], PNODE[31:16], PPORT[34:32], PENC[35:35], KV[37:36]. -/
def Reg.ckLxPstat : RegDesc := ⟨462856, 0, 1, 256, 8, .L,
  [⟨0, 3, .ro, 0, false, false, false, false⟩,
   ⟨3, 1, .ro, 0, false, false, false, false⟩,
   ⟨4, 3, .ro, 0, false, false, false, false⟩,
   ⟨8, 4, .ro, 0, false, false, false, false⟩,
   ⟨16, 16, .ro, 0, false, false, false, false⟩,
   ⟨32, 3, .ro, 0, false, false, false, false⟩,
   ⟨35, 1, .ro, 0, false, false, false, false⟩,
   ⟨36, 2, .ro, 0, false, false, false, false⟩]⟩

/-- R411: COUNT[63:0]. -/
def Reg.ckLxPcnt : RegDesc := ⟨462976, 256, 8, 8, 11, .L,
  [⟨0, 64, .ro, 0, false, true, true, false⟩]⟩

/-- R465: GUARDED[0:0], RKV[15:1], SCRUB[16:16], KBUSY[17:17], KERR[18:18]. -/
def Reg.ckSecStat : RegDesc := ⟨524288, 0, 1, 8, 1, .K,
  [⟨0, 1, .ro, 0, false, true, true, true⟩,
   ⟨1, 15, .ro, 0, false, true, true, true⟩,
   ⟨16, 1, .ro, 0, false, false, false, false⟩,
   ⟨17, 1, .ro, 0, false, false, false, false⟩,
   ⟨18, 1, .w1c, 0, false, true, true, true⟩]⟩

/-- R466: OP[1:0], TGT[2:2], REGION[7:4], PORT[10:8], SLOT[11:11]. -/
def Reg.ckSecKcmd : RegDesc := ⟨524296, 0, 1, 8, 1, .K,
  [⟨0, 2, .wo, 0, false, false, false, false⟩,
   ⟨2, 1, .wo, 0, false, false, false, false⟩,
   ⟨4, 4, .wo, 0, false, false, false, false⟩,
   ⟨8, 3, .wo, 0, false, false, false, false⟩,
   ⟨11, 1, .wo, 0, false, false, false, false⟩]⟩

/-- R466: DATA[63:0]. -/
def Reg.ckSecKdata : RegDesc := ⟨524544, 0, 1, 8, 8, .K,
  [⟨0, 64, .wo, 0, false, false, false, false⟩]⟩

/-- R467: ATTACH[0:0], WAKE[1:1]. -/
def Reg.ckDbgCtrl : RegDesc := ⟨589824, 0, 1, 8, 1, .K,
  [⟨0, 1, .rw, 0, true, true, true, true⟩,
   ⟨1, 1, .wo, 0, false, false, false, false⟩]⟩

/-- R467: HALTREQ[0:0], STEP[1:1], TASK[3:2], HALTED[4:4]. -/
def Reg.ckDbgCore : RegDesc := ⟨590080, 0, 1, 8, 8, .K,
  [⟨0, 1, .rw, 0, false, false, true, true⟩,
   ⟨1, 1, .wo, 0, false, false, false, false⟩,
   ⟨2, 2, .rw, 0, false, false, true, true⟩,
   ⟨4, 1, .ro, 0, false, false, true, true⟩]⟩

/-- R374: DATA[63:0]. -/
def Reg.ckCourOut : RegDesc := ⟨655360, 0, 1, 64, 8, .H,
  [⟨0, 64, .ro, 0, false, false, false, false⟩]⟩

/-- R374: VALID[0:0], VB[7:4]. -/
def Reg.ckCourOtag : RegDesc := ⟨655368, 0, 1, 64, 8, .H,
  [⟨0, 1, .ro, 0, false, false, false, false⟩,
   ⟨4, 4, .ro, 0, false, false, false, false⟩]⟩

/-- R374: ENTRIES[11:0], HALF[12:12], FULL[13:13], OVR[16:16], FREE[44:32], IOVR[48:48], OPEN[49:49], FERR[50:50]. -/
def Reg.ckCourStat : RegDesc := ⟨655376, 0, 1, 64, 8, .H,
  [⟨0, 12, .ro, 0, false, false, false, false⟩,
   ⟨12, 1, .ro, 0, false, false, false, false⟩,
   ⟨13, 1, .ro, 0, false, false, false, false⟩,
   ⟨16, 1, .w1c, 0, false, false, false, false⟩,
   ⟨32, 13, .ro, 4096, false, false, false, false⟩,
   ⟨48, 1, .w1c, 0, false, false, false, false⟩,
   ⟨49, 1, .ro, 0, false, false, false, false⟩,
   ⟨50, 1, .w1c, 0, false, false, false, false⟩]⟩

/-- R374: DATA[63:0]. -/
def Reg.ckCourIn : RegDesc := ⟨655384, 0, 1, 64, 8, .H,
  [⟨0, 64, .wo, 0, false, false, false, false⟩]⟩

/-- R374: OPEN[0:0], CLOSE[1:1]. -/
def Reg.ckCourInctl : RegDesc := ⟨655392, 0, 1, 64, 8, .H,
  [⟨0, 1, .wo, 0, false, false, false, false⟩,
   ⟨1, 1, .wo, 0, false, false, false, false⟩]⟩

/-- R374: FLUSHTO[15:0]. -/
def Reg.ckCourCtrl : RegDesc := ⟨655400, 0, 1, 64, 8, .H,
  [⟨0, 16, .rw, 250, false, true, true, true⟩]⟩

/-- R378: COUNT[47:0], WAITED[48:48]. -/
def Reg.ckAnc : RegDesc := ⟨786432, 0, 1, 8, 32768, .H,
  [⟨0, 48, .ro, 0, false, true, true, true⟩,
   ⟨48, 1, .ro, 0, false, true, true, true⟩]⟩

/-- R314: IEN[0:0], DEN[1:1], IINV[2:2], DINV[3:3]. -/
def Reg.ckSeqCtrl : RegDesc := ⟨1048576, 65536, 8, 8, 1, .C,
  [⟨0, 1, .rw, 0, false, false, true, false⟩,
   ⟨1, 1, .rw, 0, false, false, true, false⟩,
   ⟨2, 1, .wo, 0, false, false, false, false⟩,
   ⟨3, 1, .wo, 0, false, false, false, false⟩]⟩

/-- R315: ICLEAN[0:0], DCLEAN[1:1], INVBUSY[2:2], ENERR[3:3], FATAL[4:4], TSTATE[15:8]. -/
def Reg.ckSeqStat : RegDesc := ⟨1048584, 65536, 8, 8, 1, .C,
  [⟨0, 1, .ro, 0, false, false, true, false⟩,
   ⟨1, 1, .ro, 0, false, false, true, false⟩,
   ⟨2, 1, .ro, 0, false, false, false, false⟩,
   ⟨3, 1, .w1c, 0, false, false, true, false⟩,
   ⟨4, 1, .ro, 0, false, false, true, false⟩,
   ⟨8, 8, .ro, 0, false, false, false, false⟩]⟩

/-- R316: VEC[56:4]. -/
def Reg.ckSeqEmu : RegDesc := ⟨1048592, 65536, 8, 8, 1, .C,
  [⟨4, 53, .rw, 0, false, true, true, true⟩]⟩

/-- R317: VALID[0:0], MULTI[1:1], CACHE[2:2], DIRTY[3:3], SET[15:8], WAY[17:16]. -/
def Reg.ckSeqPerr : RegDesc := ⟨1048600, 65536, 8, 8, 1, .C,
  [⟨0, 1, .w1c, 0, false, false, true, false⟩,
   ⟨1, 1, .w1c, 0, false, false, true, false⟩,
   ⟨2, 1, .ro, 0, false, false, true, false⟩,
   ⟨3, 1, .ro, 0, false, false, true, false⟩,
   ⟨8, 8, .ro, 0, false, false, true, false⟩,
   ⟨16, 2, .ro, 0, false, false, true, false⟩]⟩

/-- R318: COUNT[63:0]. -/
def Reg.ckSeqCnt : RegDesc := ⟨1048704, 65536, 8, 8, 7, .C,
  [⟨0, 64, .ro, 0, false, true, true, false⟩]⟩

/-- R70: STATE[1:0], SHADOW[2:2], PERSIST[3:3], PASS[31:16], OUTST[45:32]. -/
def Reg.ckSqStat : RegDesc := ⟨1049088, 65536, 8, 8, 16, .C,
  [⟨0, 2, .ro, 0, false, false, true, false⟩,
   ⟨2, 1, .ro, 0, false, false, true, false⟩,
   ⟨3, 1, .ro, 0, false, false, true, false⟩,
   ⟨16, 16, .ro, 0, false, false, true, false⟩,
   ⟨32, 14, .ro, 0, false, false, true, false⟩]⟩

/-- R148: RETRY[0:0], RAMPUP[1:1], DUMMYLEN[15:8], TOL[20:16], FEEDTO[47:32]. -/
def Reg.ckArrCtrl : RegDesc := ⟨1049600, 65536, 8, 8, 1, .A,
  [⟨0, 1, .rw, 1, false, true, true, true⟩,
   ⟨1, 1, .rw, 1, false, true, true, true⟩,
   ⟨8, 8, .rw, 64, false, true, true, true⟩,
   ⟨16, 5, .rw, 10, false, true, true, true⟩,
   ⟨32, 16, .rw, 250, false, true, true, true⟩]⟩

/-- R149: STALE[31:0]. -/
def Reg.ckArrStale : RegDesc := ⟨1049608, 65536, 8, 8, 1, .A,
  [⟨0, 32, .rw, 262144, false, true, true, true⟩]⟩

/-- R150: P0[1:0], P1[3:2], RAMP[5:4], PINNED[6:6], STALEMATE[8:8], CHKFAIL[9:9]. -/
def Reg.ckArrStat : RegDesc := ⟨1049616, 65536, 8, 8, 1, .A,
  [⟨0, 2, .ro, 0, false, false, false, false⟩,
   ⟨2, 2, .ro, 0, false, false, false, false⟩,
   ⟨4, 2, .ro, 0, false, false, false, false⟩,
   ⟨6, 1, .ro, 0, false, false, false, false⟩,
   ⟨8, 1, .w1c, 0, false, true, true, false⟩,
   ⟨9, 1, .w1c, 0, false, true, true, false⟩]⟩

/-- R151: STATE[1:0], OWNER[3:2], READERS[7:4], STATE[9:8], OWNER[11:10], READERS[15:12], STATE[17:16], OWNER[19:18], READERS[23:20], STATE[25:24], OWNER[27:26], READERS[31:28], STATE[33:32], OWNER[35:34], READERS[39:36], STATE[41:40], OWNE. -/
def Reg.ckArrLock : RegDesc := ⟨1049624, 65536, 8, 8, 1, .A,
  [⟨0, 2, .ro, 0, false, false, false, false⟩,
   ⟨2, 2, .ro, 0, false, false, false, false⟩,
   ⟨4, 4, .ro, 0, false, false, false, false⟩,
   ⟨8, 2, .ro, 0, false, false, false, false⟩,
   ⟨10, 2, .ro, 0, false, false, false, false⟩,
   ⟨12, 4, .ro, 0, false, false, false, false⟩,
   ⟨16, 2, .ro, 0, false, false, false, false⟩,
   ⟨18, 2, .ro, 0, false, false, false, false⟩,
   ⟨20, 4, .ro, 0, false, false, false, false⟩,
   ⟨24, 2, .ro, 0, false, false, false, false⟩,
   ⟨26, 2, .ro, 0, false, false, false, false⟩,
   ⟨28, 4, .ro, 0, false, false, false, false⟩,
   ⟨32, 2, .ro, 0, false, false, false, false⟩,
   ⟨34, 2, .ro, 0, false, false, false, false⟩,
   ⟨36, 4, .ro, 0, false, false, false, false⟩,
   ⟨40, 2, .ro, 0, false, false, false, false⟩,
   ⟨42, 2, .ro, 0, false, false, false, false⟩,
   ⟨44, 4, .ro, 0, false, false, false, false⟩]⟩

/-- R152: VALID[0:0], MULTI[1:1], KIND[2:2], RECOVERED[3:3], TASK[5:4], COLUMN[14:8], ROW[22:16], FMT[26:24]. -/
def Reg.ckArrChklog : RegDesc := ⟨1049632, 65536, 8, 8, 1, .A,
  [⟨0, 1, .w1c, 0, false, true, true, false⟩,
   ⟨1, 1, .w1c, 0, false, true, true, false⟩,
   ⟨2, 1, .ro, 0, false, true, true, false⟩,
   ⟨3, 1, .ro, 0, false, true, true, false⟩,
   ⟨4, 2, .ro, 0, false, true, true, false⟩,
   ⟨8, 7, .ro, 0, false, true, true, false⟩,
   ⟨16, 7, .ro, 0, false, true, true, false⟩,
   ⟨24, 3, .ro, 0, false, true, true, false⟩]⟩

/-- R153: COUNT[63:0]. -/
def Reg.ckArrCnt : RegDesc := ⟨1049664, 65536, 8, 8, 8, .A,
  [⟨0, 64, .ro, 0, false, true, true, false⟩]⟩

/-- R176: INV[0:0], OVF[1:1], SAT[2:2], LANE_OOR[3:3], EMPTY[4:4]. -/
def Reg.ckVcSticky : RegDesc := ⟨1050112, 65536, 8, 8, 4, .C,
  [⟨0, 1, .w1c, 0, false, false, true, false⟩,
   ⟨1, 1, .w1c, 0, false, false, true, false⟩,
   ⟨2, 1, .w1c, 0, false, false, true, false⟩,
   ⟨3, 1, .w1c, 0, false, false, true, false⟩,
   ⟨4, 1, .w1c, 0, false, false, true, false⟩]⟩

/-- R177: BUSY[0:0], TASK[2:1], WAITING[6:3], TQ[9:7]. -/
def Reg.ckVcStat : RegDesc := ⟨1050144, 65536, 8, 8, 1, .C,
  [⟨0, 1, .ro, 0, false, false, false, false⟩,
   ⟨1, 2, .ro, 0, false, false, false, false⟩,
   ⟨3, 4, .ro, 0, false, false, false, false⟩,
   ⟨7, 3, .ro, 0, false, false, false, false⟩]⟩

/-- R178: COUNT[63:0]. -/
def Reg.ckVcCnt : RegDesc := ⟨1050176, 65536, 8, 8, 4, .C,
  [⟨0, 64, .ro, 0, false, true, true, false⟩]⟩

/-- R198: GX[0:0], GXACT[1:1], GXWAIT[47:16]. -/
def Reg.ckRtCtrl : RegDesc := ⟨1050368, 65536, 8, 8, 1, .C,
  [⟨0, 1, .rw, 0, false, true, true, true⟩,
   ⟨1, 1, .ro, 0, false, true, true, true⟩,
   ⟨16, 32, .rw, 256, false, true, true, true⟩]⟩

/-- R199: COUNT[63:0]. -/
def Reg.ckRtCnt : RegDesc := ⟨1050432, 65536, 8, 8, 4, .C,
  [⟨0, 64, .ro, 0, false, true, true, false⟩]⟩

def regMap0 : List RegDesc := [Reg.ckId, Reg.ckCap0, Reg.ckCap1, Reg.ckInletBase, Reg.ckInletLanded, Reg.ckSpillBase, Reg.ckQErr, Reg.ckQResets, Reg.ckErrFatal, Reg.ckErrCnt, Reg.ckPwrCtrl, Reg.ckPwrStat, Reg.ckPwrEvents, Reg.ckRstCtrl, Reg.ckRstCause, Reg.ckRingBase, Reg.ckRingCbase, Reg.ckRingDir, Reg.ckRingHead, Reg.ckRingChead]
def regMap1 : List RegDesc := [Reg.ckFringBase, Reg.ckFringPtr, Reg.ckEringBase, Reg.ckEringPtr, Reg.ckMsi0, Reg.ckMsi1, Reg.ckDb, Reg.ckDbRetry, Reg.ckPortSplit, Reg.ckTierSize, Reg.ckBwreg, Reg.ckCampDir, Reg.ckCampPool, Reg.ckCampSlots, Reg.ckMigCtrl, Reg.ckMigStat, Reg.ckMigCnt, Reg.ckApDrop, Reg.ckApDropcnt, Reg.ckApRegion0]
def regMap2 : List RegDesc := [Reg.ckApRegion1, Reg.ckXltCtx, Reg.ckBelayBase, Reg.ckXltCnt, Reg.ckFtStat, Reg.ckRcCtrl, Reg.ckRcStat, Reg.ckRcPerr, Reg.ckRcWaydis, Reg.ckRcCnt, Reg.ckCoCtrl, Reg.ckOvlBase, Reg.ckCoStat, Reg.ckCoCnt, Reg.ckCoTally, Reg.ckLxNode, Reg.ckLxCtrl, Reg.ckLxRto, Reg.ckLxTaddr, Reg.ckLxTdata0]
def regMap3 : List RegDesc := [Reg.ckLxTdata1, Reg.ckLxMgmt, Reg.ckLxCnt, Reg.ckMcCnt, Reg.ckLxPctrl, Reg.ckLxPstat, Reg.ckLxPcnt, Reg.ckSecStat, Reg.ckSecKcmd, Reg.ckSecKdata, Reg.ckDbgCtrl, Reg.ckDbgCore, Reg.ckCourOut, Reg.ckCourOtag, Reg.ckCourStat, Reg.ckCourIn, Reg.ckCourInctl, Reg.ckCourCtrl, Reg.ckAnc, Reg.ckSeqCtrl]
def regMap4 : List RegDesc := [Reg.ckSeqStat, Reg.ckSeqEmu, Reg.ckSeqPerr, Reg.ckSeqCnt, Reg.ckSqStat, Reg.ckArrCtrl, Reg.ckArrStale, Reg.ckArrStat, Reg.ckArrLock, Reg.ckArrChklog, Reg.ckArrCnt, Reg.ckVcSticky, Reg.ckVcStat, Reg.ckVcCnt, Reg.ckRtCtrl, Reg.ckRtCnt]

/-- The map of the window (R480). -/
def regMap : List RegDesc := regMap0 ++ regMap1 ++ regMap2 ++ regMap3 ++ regMap4

/-- The offset of the register of family r with indices i and j. -/
def RegDesc.off (r : RegDesc) (i j : Nat) : Nat := r.base + r.s1 * i + r.s2 * j

/-- The indices of offset o in family r, if the offset is one of its registers. -/
def RegDesc.idx (r : RegDesc) (o : Nat) : Option (Nat × Nat) :=
  if o < r.base then none else
  let k := o - r.base
  let i := if r.s1 = 0 then 0 else k / r.s1
  let k2 := if r.s1 = 0 then k else k % r.s1
  if i < r.n1 ∧ k2 % r.s2 = 0 ∧ k2 / r.s2 < r.n2 then some (i, k2 / r.s2) else none

/-- The register at an offset of the window, with its indices. -/
def regAt (o : Nat) : Option (RegDesc × Nat × Nat) :=
  regMap.findSome? (fun r => (r.idx o).map (fun ij => (r, ij.1, ij.2)))

/-- The mask of the bits of the fields that satisfy p. -/
def RegDesc.mask (r : RegDesc) (p : Fld → Bool) : W64 :=
  r.flds.foldl (fun m f => if p f then m ||| BitVec.ofNat 64 ((2 ^ f.n - 1) <<< f.lo) else m) 0

/-- The reset value of a family's registers (R14). -/
def RegDesc.rstVal (r : RegDesc) : W64 :=
  r.flds.foldl (fun m f => m ||| BitVec.ofNat 64 (f.rst <<< f.lo)) 0

/-- The reset value of the register at an offset: what an unlisted register reads as. -/
def regReset (o : Nat) : W64 :=
  match regAt o with
  | some (r, _, _) => r.rstVal
  | none => 0

end Sys2Proof
end

