-- ==== Sys2Proof/Machine/State.lean ====
section
/-! DEFINITION. The state of the block, as plain data, and the state right after power-on reset. Registers live in one
table keyed by window offset; status that mirrors a unit is computed from the unit when it is read. -/
namespace Sys2Proof.Machine

/-- Reasons a step stops with a fault. -/
inductive Fault
  /-- Raised by no meaning: every event of the spec has an effect, or none at all, in every state. Safe. -/
  | none
  deriving DecidableEq, Repr

/-- Reasons a command is refused. -/
inductive Refusal
  /-- The command's meaning is not written yet; raised by Dispatch alone. Safe. -/
  | notModelled (mnemonic : String)
  /-- A debug-bus write of the arrays of a unit, whose layout the spec does not give (R460): raised by DABACC. Safe. -/
  | debugStore
  deriving DecidableEq, Repr

/-- Design-time parameters (R488) with the strap of CK_ID.STEP. -/
structure Build where
  config : Nat := 3
  cores : Nat := 8
  overlap : Bool := true
  arrays : Bool := true
  far : Bool := true
  litha : Nat := 8
  nchan : Nat := 64
  lanes : Nat := 512
  rcache : Nat := 16
  coal : Nat := 16
  step : Nat := 0
  deriving DecidableEq, Repr

/-! ### Sequencer -/

/-- Register arithmetic of R324. -/
inductive AluOp
  | add | sub | and | or | xor | andn | sll | srl | sra | rol | seq | slt | sltu
  deriving DecidableEq, Repr

/-- Branch conditions of R328. -/
inductive Cond
  | eq | ne | lt | ge | ltu | geu
  deriving DecidableEq, Repr

/-- Flag operations of R329. -/
inductive FlagOp
  | set | clr | tgl | and | or | xor | andn
  deriving DecidableEq, Repr

/-- Range operations on the sequencer's caches (R330). -/
inductive CacheOp
  | dcinv | dcclean | icinv
  deriving DecidableEq, Repr

/-- A short operation as it waits in its slot for the rest of its word (R298). -/
inductive SOp
  | nop
  | alu (op : AluOp) (rd ra rb : Nat)
  | alui (op : AluOp) (rd ra : Nat) (imm : W64)
  | movi (rd : Nat) (imm : W64)
  | mul (signed : Bool) (ra rb : Nat)
  | mfs (rd sr : Nat)
  | mts (sr ra : Nat)
  | load (size : Nat) (signed : Bool) (rd ra : Nat) (imm : W64) (par : SeqParity)
  | store (size rd ra : Nat) (imm : W64) (par : SeqParity)
  | br (c : Cond) (ra rb : Nat) (off : W64)
  | bf (want : Bool) (fa : Nat) (off : W64)
  | jal (rd : Nat) (off : W64)
  | jalr (rd ra : Nat) (imm : W64)
  | eret
  | flag (op : FlagOp) (fd fa fb : Nat)
  | frd (rg fb : Nat)
  | fwr (rg fb : Nat)
  | ftas (rg fb : Nat)
  | cache (op : CacheOp) (ra rb : Nat)
  | send (ra : Nat) (w : Bool)
  | recv (rd : Nat) (w : Bool)
  | await (ra rb anc : Nat)
  | waitd (mask : Nat)
  | halt
  deriving DecidableEq, Repr

/-- States of a task context (R308). -/
inductive TState
  | free | ready | running | waiting
  deriving DecidableEq, Repr

/-- A signal of an ASIG that has not taken effect (R190, R337), with the writes issued before it: device writes below number
`after`, output writes by queue and bag, and link requests by tag. -/
structure ASig where
  tag : Nat
  anchor : Nat
  isSet : Bool
  value : Nat
  node : Option Nat
  after : Nat := 0
  outs : List (Nat × Nat) := []
  links : List Nat := []
  sent : Bool := false
  deriving DecidableEq, Repr

/-- One task context (R296, R308). `want` is the line that a load or store waits for (host memory, line number, region), `lines`
what uncached reads of the waiting word have returned, `word` the word that waits to issue, `awok` the waits of that word
that anchors have satisfied. -/
structure Task where
  st : TState := .free
  cmd : Option Nat := none
  prog : Bool := false
  g : Tab W64 := []
  pc : W64 := 0
  phi : W64 := 0
  plo : W64 := 0
  epc : W64 := 0
  cause : W64 := 0
  s : Tab W64 := []
  sumf : Tab Bool := []
  sPend : List Nat := []
  prods : List W128 := []
  emu : Bool := false
  tags : List Nat := []
  asigs : List ASig := []
  slotA : Option SOp := none
  word : Option (SOp × SOp) := none
  lines : List (Bool × Nat × Sect) := []
  want : Option (Bool × Nat × Nat) := none
  waitAnc : Option (Nat × Nat) := none
  awok : List (Nat × Nat) := []
  parked : Option (Nat × Nat) := none
  stop : Bool := false
  halted : Bool := false
  waitFrom : Option Nat := none
  deriving DecidableEq, Repr

/-- One line of a sequencer cache (R310, R311). -/
structure SLine where
  valid : Bool := false
  host : Bool := false
  line : Nat := 0
  cr : Nat := 0
  dirty : Bool := false
  age : Nat := 0
  data : Sect := 0
  deriving DecidableEq, Repr

/-- One sequencer cache of a core (R310, R311, R314). -/
structure SCache where
  clean : Bool := false
  busy : Bool := false
  lines : Tab SLine := []
  deriving DecidableEq, Repr

/-! ### Tables and streams -/

/-- The copy of a table's descriptors that a command holds (R28): the words of the TD, the TX and the shard map, and the
required step of a replicated table (R423). -/
structure TableCopy where
  num : Nat := 0
  ctx : Nat := 0
  td : List W64 := []
  tx : List W64 := []
  smd : List W64 := []
  opb : List W64 := []
  thresh : W32 := 0
  req : Nat := 0
  own : Nat := 0
  deriving DecidableEq, Repr

/-- What an index resolves to (R39 to R43, R416). -/
inductive EKind
  | masked
  | zero (invalid : Bool)
  | deflt (invalid : Bool)
  | row (i : Nat)
  | pair (a b : Nat)
  | replica (g : Nat)
  | remote (node rwin own : Nat)
  | nul (invalid : Bool)
  | bad
  deriving DecidableEq, Repr

/-- A resolved element (R49, R51): ordinal, kind and weight (bit pattern, widened to the accumulator format). -/
structure Elem where
  ord : Nat
  kind : EKind
  wt : W64
  deriving DecidableEq, Repr

/-- An accumulator of a bag or of a pitch (R99): lanes, the second moment of MEANVAR, and the count. -/
structure Accu where
  lanes : List W64 := []
  m2 : List W64 := []
  cnt : Nat := 0
  deriving DecidableEq, Repr

/-- An open bag (R107, R108): its pitches in progress with how many elements of each have been delivered (no lanes while a pitch has no
accumulator), the kept partials
by level (R103), and its bag-store slots. -/
structure Bag where
  b : Nat
  pitches : List (Nat × Nat × Accu) := []
  kept : List (Nat × Accu) := []
  slots : Nat := 0
  deriving DecidableEq, Repr

/-- What a pass is consumed by (R95, R221): the descriptor, and the command, the task context and the tag of the operation. -/
inductive Consumer
  | none
  | pool (pd : List W64) (cmd task : Nat) (tag : Option Nat)
  | scat (scd : List W64) (cmd task : Nat) (tag : Option Nat)
  deriving DecidableEq, Repr

/-- States of a stream queue (R57). -/
inductive QState
  | free | active | armedIdle | parked
  deriving DecidableEq, Repr

/-- A pending re-arm or release in a shadow slot (R57, R68). -/
structure Shadow where
  release : Bool
  ibase : W64
  wbase : W64
  deriving DecidableEq, Repr

/-- A batch of pushed-down elements for one owner (R417), with the timebase at which its first element entered: ordinal, bag,
owner-side index and weight. -/
structure Batch where
  node : Nat
  rwin : Nat
  first : Nat
  elems : List (Nat × Nat × Nat × W64) := []
  deriving DecidableEq, Repr

/-- An output write of a pass (R110, R112): bag, address, the bytes of the lanes and of the MEANVAR count; once issued, the device writes it waits for and the
host writes its acknowledgement makes. -/
structure OutW where
  bag : Nat
  va : Nat
  bytes : List Byte
  count : List Byte := []
  issued : Bool := false
  ids : List Nat := []
  hosts : List (Nat × List Byte) := []
  deriving DecidableEq, Repr

/-- One stream queue of a core (R56): the bound descriptors, the resolved elements, the watermark, and the pass's bags. `secs`
holds what sector reads have returned (0 index, 1 weight, 2 boundary; block number), `entries` counts the boundary entries
taken, `terms` the terms of each bag, `parts` the bytes of a row's halves and scale entries until its element is complete,
`grads` the gradient lanes that a SCAT holds for a bag with the bag's count, `gbatch` its elements that wait for an RGRAD (R230), `pbags`
its finished code vectors. -/
structure SQ where
  st : QState := .free
  cmd : Nat := 0
  task : Nat := 0
  tag : Option Nat := none
  short : Bool := false
  ctx : Nat := 0
  sd : List W64 := []
  tab : TableCopy := {}
  cons : Consumer := .none
  nextCons : Consumer := .none
  pass : Nat := 0
  passFlag : Bool := false
  shadow : Option Shadow := none
  inl : Option (List Byte) := none
  binl : Option (List Byte) := none
  secs : List (Nat × Nat × Resp) := []
  nextRes : Nat := 0
  buf : List Elem := []
  redo : List Elem := []
  flight : List Elem := []
  w : Nat := 0
  dlv : List Nat := []
  ends : List Nat := []
  limit : Option Nat := none
  got : Tab Nat := []
  bags : List Bag := []
  failed : List Nat := []
  bw : Nat := 0
  settled : List Nat := []
  out : List OutW := []
  failFrom : Option Nat := none
  ofs0 : Option Int := none
  entries : Nat := 0
  terms : Tab Nat := []
  winl : Option (List Byte) := none
  srv : Bool := false
  parts : List (Nat × Nat × Nat × List Byte) := []
  pbad : List (Nat × Nat) := []
  ready : List Elem := []
  grads : List (Nat × Nat × List W64) := []
  gasked : List Nat := []
  gvecs : List (Nat × List W64) := []
  dacc : Tab W32 := []
  deTiles : List Nat := []
  deDone : List Nat := []
  pbags : List (Nat × Nat × List W64) := []
  batches : List Batch := []
  gbatch : List Batch := []
  sent : Tab Nat := []
  counted : Nat := 0
  nulls : Nat := 0
  csec : List (Nat × Nat) := []
  cord : List Nat := []
  cgrad : List Nat := []
  park : Option (Nat × Nat) := none
  belayed : Bool := false
  resumed : Bool := false
  ended : Bool := false
  deriving DecidableEq, Repr

/-- Part of a row read that lies in one 128-byte line (R71, R73): physical address, length, offset in the row's bytes (the
scale entry follows the encoded row), and once served the bytes with the sectors that were poisoned. `hold` marks a piece whose
request waits on its bucket (R62). -/
structure Piece where
  va : Nat
  pa : Nat
  len : Nat
  off : Nat
  dev : Bool
  cr : Nat
  home : Nat
  fill : Option Nat := none
  looked : Bool := false
  byte : Option (List Byte) := none
  bad : List Nat := []
  hold : Bool := false
  deriving DecidableEq, Repr

/-- What a tracker slot is held for (R59). -/
inductive SlotKind
  | row | deflt | replica | remote
  deriving DecidableEq, Repr

/-- One tracker slot (R55, R59): queue, ordinal, row, which half of a two-way element, and its read's pieces. A burst of the short
path holds the elements it serves in `grp` and reads one plane (`plane`, true for the scale plane; R67). `camp` is the home address of
the camp that serves it, `late` marks a row whose pass has ended (R195), `stale` a replica that waits to be read again (R423), `got` a row that has returned and
waits in the fetch-ahead queue (R20). -/
structure TSlot where
  id : Nat
  q : Nat
  ord : Nat
  row : Nat
  half : Nat := 0
  kind : SlotKind := .row
  pieces : List Piece := []
  first : Nat := 0
  last : Nat := 0
  rereads : Nat := 0
  faulted : Bool := false
  grp : List (Nat × Nat × Nat) := []
  plane : Option Bool := none
  consulted : Bool := false
  camp : Option Nat := none
  late : Bool := false
  stale : Bool := false
  got : Bool := false
  deriving DecidableEq, Repr

/-! ### Array, tiles and chain -/

/-- States of a stationary plane (R135). -/
inductive PState
  | empty | loading | resident
  deriving DecidableEq, Repr

/-- What a stationary plane is loaded from (R123, R133, R185, R219, R226): the matrix of a MATX with its AD, a chunk of the E of a
table, the squares of a plan, a group of samples or a block of a gradient of an interaction command, the bag gradients of a pass. -/
inductive PSrc
  | none
  | matx (id task ctx : Nat) (ad : List W64)
  | exp (tab : TableCopy) (chunk : Nat) (trans : Bool)
  | squares (xp : List W64) (tabs : List TableCopy)
  | inter (cmd first n : Nat)
  | back (cmd first n bi bj : Nat) (second : Bool)
  | grad (q chunk : Nat) (bags : List Nat)
  deriving DecidableEq, Repr

/-- One stationary plane (R126, R135): its key and source, its rows of up to 256 elements (codes with the zero point subtracted, or
fp32 patterns; absent elements are zero), the column scales of E by number 256 band + column, whether its check wavefront has
passed, and what a multicast has brought of it (table, chunk, bytes). `logged` marks a mismatch that the log describes. -/
structure Plane where
  st : PState := .empty
  key : List Nat := []
  src : PSrc := .none
  w : List (List W32) := []
  cs : Tab W32 := []
  checked : Bool := false
  retried : Bool := false
  logged : Bool := false
  used : Nat := 0
  loadFrom : Nat := 0
  joined : Bool := false
  dying : Bool := false
  mcb : List (Nat × Nat × List Byte) := []
  fallback : Bool := false
  deriving DecidableEq, Repr

/-- What an array instruction is issued for (R137). -/
inductive AKind
  | matx
  | expand (q : Nat)
  | grad (q : Nat)
  | inter
  | back
  deriving DecidableEq, Repr

/-- One instruction in the array's queue: who issued it, its descriptor, the key and source of its plane, its activation rows
(operand values), what each row belongs to, its scales, the plane it was issued against, how far it has got, its results where
they are kept, and the writes that its end waits for. `kn` is the K and N that MACS counts with. -/
structure AInstr where
  id : Nat
  kind : AKind
  task : Nat
  cmd : Nat
  tag : Option Nat := none
  ctx : Nat := 0
  fmt : Nat := 0
  ad : List W64 := []
  src : PSrc := .none
  key : List Nat := []
  kn : Nat × Nat := (0, 0)
  rows : List (List W32) := []
  info : List (List Nat) := []
  scales : List W32 := []
  cols : List W32 := []
  plane : Nat := 0
  issued : Bool := false
  next : Nat := 0
  retry : Bool := false
  logged : Bool := false
  done : Bool := false
  tqWait : Bool := false
  ids : List Nat := []
  deriving DecidableEq, Repr

/-- Results of array rows that wait for the rest of their output (R118, R186, R219): the command, what they belong to, and their
lanes. -/
structure XRes where
  cmd : Nat
  a : Nat
  b : Nat
  h : Nat
  v : List W32
  deriving DecidableEq, Repr

/-- Lock states of a tile buffer (R140). -/
inductive LState
  | free | exclusive | shared | queued
  deriving DecidableEq, Repr

/-- Who asks for a tile lock. -/
structure LockReq where
  task : Nat
  unit : Nat
  write : Bool
  since : Nat
  told : Bool := false
  deriving DecidableEq, Repr

/-- One tile buffer with its lock (R140): 128 × 128 elements by number 128 i + j, int32 or fp32. After a release under a
failed command the contents are undefined: elements not listed are free values numbered by `undef`. -/
structure Tile where
  lock : LState := .free
  owner : Nat := 0
  unit : Nat := 0
  readers : List (Nat × Nat) := []
  waits : List LockReq := []
  isInt : Bool := false
  undef : Option Nat := none
  e : Tab W32 := []
  deriving DecidableEq, Repr

/-- An entry of the tile queue (R162). -/
structure TQEntry where
  lo : Nat
  hi : Option Nat
  rows : Nat
  cols : Nat
  isInt : Bool
  task : Nat
  cmd : Nat
  deriving DecidableEq, Repr

/-- A scale descriptor that a chain operation uses (R202): the stage that names it, its address, the header read when the operation
was accepted, the scales that the first pass found, the sums and count of its conversions, and the values converted by group (as
fp64 patterns). -/
structure QsdUse where
  stage : Nat
  va : Nat
  hdr : List W64
  scales : Option (List W32) := none
  err : W64 := 0
  sig : W64 := 0
  cnt : Nat := 0
  xs : List (Nat × W64) := []
  deriving DecidableEq, Repr

/-- A chain operation (R154, R164): waiting, or running. It holds the descriptor, the tensor's shape and element type, what is read once
at its start, the chunks done in the present pass, the values that its reduction has taken by group, and its writes. -/
structure ChainOp where
  id : Nat
  task : Nat
  cmd : Nat
  tag : Nat
  ctx : Nat
  vd : List W64
  running : Bool := false
  entry : Option TQEntry := none
  rows : Nat := 0
  cols : Nat := 0
  ityp : Nat := 0
  mask : List Bool := []
  sregs : List W64 := []
  pass1 : Bool := false
  w : Nat := 0
  chunks : Nat := 0
  terms : List (Nat × W64) := []
  closed : Bool := false
  empty : Bool := false
  qs : List QsdUse := []
  ids : List Nat := []
  park : Option (Nat × Nat) := none
  deriving DecidableEq, Repr

/-- A closed bag, or an element, waiting in the feeder for its expansion (R117 to R119, R137), or a bag gradient waiting
for du (R225). `sent` marks a row that an array instruction has taken, `conv` a converted one: codes or patterns in `x`, its scale,
and whether it held a NaN or an infinity (R115). -/
structure FeedRow where
  id : Nat := 0
  q : Nat
  bag : Nat
  ord : Option Nat := none
  v : List W64
  sent : Bool := false
  conv : Bool := false
  x : List W32 := []
  sigma : W32 := 0
  nan : Bool := false
  deriving DecidableEq, Repr

/-- Ramp states of an array (R146, R147, R150). -/
inductive Ramp
  | gated | up | full | down
  deriving DecidableEq, Repr

/-- One lookup core (the table of The lookup core). `trk` holds the tracker slots, `waits` the faulted reads of settled parked passes,
which hold none (R289, R379). -/
structure Core where
  tasks : Tab Task := []
  last : Nat := 0
  workq : List Nat := []
  fatal : Bool := false
  ic : SCache := {}
  dc : SCache := {}
  flags : Tab Bool := []
  qs : Tab SQ := []
  trk : List TSlot := []
  waits : List TSlot := []
  nextSlot : Nat := 0
  rr : Nat := 0
  cur : Option Nat := none
  bagUsed : Nat := 0
  l1 : List Nat := []
  planes : Tab Plane := []
  lastPlane : Option Nat := none
  iq : List AInstr := []
  feed : List FeedRow := []
  feedFrom : Nat := 0
  flush : Bool := false
  lastCmd : Option Nat := none
  ramp : Ramp := .gated
  duty : Nat := 0
  tiles : Tab Tile := []
  tq : List TQEntry := []
  ch : List ChainOp := []
  chRR : Nat := 0
  plan : Option (Nat × List W64) := none
  planTabs : List TableCopy := []
  nextKey : Nat := 0
  xres : List XRes := []
  shc : List (Nat × Nat × Sect) := []
  couOut : List (W64 × Nat) := []
  couHalf : Option (W32 × Nat × Nat) := none
  couTag : Nat := 0
  couIn : List (Option W32) := []
  couOpen : Option Nat := none
  rst : Bool := false
  rstList : List (Nat × Nat) := []
  stepOne : Option Nat := none
  deriving DecidableEq, Repr

/-! ### Commands and the host interface -/

/-- Where a copied command is (R351, R308). -/
inductive Phase
  | copied
  | queued (c : Nat)
  | held (c t : Nat)
  | disp
  | ended
  deriving DecidableEq, Repr

/-- A command that serves a partner chip (R396): the port of its request, source node, tag, kind, words, the table that the receive
window named, and whether the window is confidential. -/
structure Served where
  port : Nat
  src : Nat
  tag : Nat
  isPool : Bool
  words : List W64
  table : Nat
  conf : Bool
  deriving DecidableEq, Repr

/-- Totals of one table that a command adds to the table's statistics block (R215, R216). -/
structure Stats where
  addr : Nat
  cnt : List Nat
  sums : List W64
  deriving DecidableEq, Repr

/-- A copied command (R344) with what its completion record will report (R355). `dflts` holds the stored default records by table:
asked for, poisoned, or the row (R43); `replies` the partial bags of a served RPOOL: bag, count, status, lanes (R397); `par0` its parameter block, `pairs` the stream and
consumer descriptors of its pairs with the optimiser block of a SCAT; `unitW` of `unitN` pairs or samples are started or written. -/
structure Cmd where
  id : Nat
  ring : Nat := 0
  pos : Nat := 0
  cdVa : Nat := 0
  cd : List W64 := []
  ext : List W64 := []
  phase : Phase := .copied
  begun : Bool := false
  served : Option Served := none
  cbase : W64 := 0
  clog : Nat := 6
  dbase : W64 := 0
  dcount : Nat := 0
  fail : Option Nat := none
  aborted : Bool := false
  dl : Bool := false
  parked : Bool := false
  ending : Bool := false
  ready : Bool := false
  info : Nat := 0
  rows : Nat := 0
  invidx : Nat := 0
  defsub : Nat := 0
  dlmiss : Nat := 0
  applied : Nat := 0
  err : W64 := 0
  sig : W64 := 0
  belay : Option (Nat × Nat) := none
  stats : List Stats := []
  park : Option (Nat × Nat) := none
  abortOf : Option (Nat × Nat) := none
  unitW : Nat := 0
  unitN : Nat := 0
  added : Bool := false
  tabs : List TableCopy := []
  dflts : List (Nat × Option (Option (List W64))) := []
  replies : List (Nat × Nat × Nat × List W64) := []
  short : Bool := false
  par0 : List W64 := []
  pairs : List (List W64 × List W64 × List W64) := []
  ixd : List W64 := []
  bxd : List W64 := []
  unitC : Nat := 0
  unitReady : List Nat := []
  unitDone : List Nat := []
  deriving DecidableEq, Repr

/-- A completion record on its way to its ring (R355, R356): its words without PHASE, the completion word's address, IRQ, the completion
ring taken at the enable, the position of its command, and once it is written its own position and its Q0. -/
structure Rec where
  w : List W64
  caddr : W64
  irq : Bool
  cbase : W64
  clog : Nat
  pos : Nat
  place : Nat := 0
  q0 : W64 := 0
  deriving DecidableEq, Repr

/-- A command ring (R338 to R343): the fields taken at the enable, the tail, how many descriptors have been read, the retries so far
and when the last stale read returned, the entries of a command that have been read, abort marks, and the records and completion words
that wait to be written. `stop` is the halt of R349; `held` that of R502, whose front write has been refused while `refused`. -/
structure Ring where
  base : W64 := 0
  log2 : Nat := 6
  cbase : W64 := 0
  dbase : W64 := 0
  dcount : Nat := 0
  tail : Nat := 0
  copied : Nat := 0
  tries : Nat := 0
  again : Option Nat := none
  part : List Sect := []
  marks : List Nat := []
  recs : List Rec := []
  words : List Rec := []
  refused : Bool := false
  held : Bool := false
  stop : Bool := false
  deriving DecidableEq, Repr

/-! ### Translation and faults -/

/-- A translation (R278): context, the base page number VA[56:30], the size in 1 GiB units, the physical base, and the
attributes of the leaf and of the walk. -/
structure Tlb where
  ctx : Nat
  gran : Nat
  big : Bool
  pa : Nat
  dev : Bool
  memtype : Nat
  cr : Nat
  w : Bool
  d : Bool
  deriving DecidableEq, Repr

/-- A walk (R279) with the accesses that wait on it: requester, address, direction. The first 16 run; `user` is USER of the context
when it was started. -/
structure Walk where
  ctx : Nat
  gran : Nat
  user : Bool := false
  reqs : List (Req × Nat × Bool)
  discard : Bool := false
  deriving DecidableEq, Repr

/-- A resumable fault that waits for a free fault-table slot or for room on the fault path (R283, R368): who met it, the
address and direction, the kind, the level and the failing descriptor. -/
structure FtPend where
  req : Req
  ctx : Nat
  va : Nat
  wr : Bool
  kind : Nat
  level : Nat
  desc : W64
  deriving DecidableEq, Repr

/-- A fault-table slot (R283, R294). -/
structure FtSlot where
  valid : Bool := false
  gen : Nat := 0
  ctx : Nat := 0
  gran : Nat := 0
  waiters : List (Req × Nat × Bool) := []
  deriving DecidableEq, Repr

/-- A translation invalidation that waits for in-flight uses (R281). -/
structure Inval where
  cmd : Nat
  uses : List (Nat × Nat)
  deriving DecidableEq, Repr

/-! ### Memory side -/

/-- A line of the row cache (R71): tag, valid bits of its sectors, age and data. -/
structure RcLine where
  line : Nat := 0
  v0 : Bool := false
  v1 : Bool := false
  age : Nat := 0
  s0 : Sect := 0
  s1 : Sect := 0
  deriving DecidableEq, Repr

/-- An outstanding fill (R73, R77, R81): slice, line, the sectors it fetches, the data the port read returns, and its
marks. -/
structure Fill where
  id : Nat
  line : Nat
  f0 : Bool
  f1 : Bool
  s0 : Sect
  s1 : Sect
  cr : Nat
  install : Bool
  stream : Bool
  overW : Bool := false
  table : Bool := true
  deriving DecidableEq, Repr

/-- A line in the victim buffer (R82). -/
structure Victim where
  slice : Nat
  l : RcLine
  deriving DecidableEq, Repr

/-- The row cache (R71 to R85). -/
structure RowCache where
  lines : Tab RcLine := []
  fills : List Fill := []
  nextFill : Nat := 0
  vict : List Victim := []
  sketch : Tab Nat := []
  incs : Nat := 0
  halving : Bool := false
  clean : Bool := false
  inv : Bool := false
  dying : List Nat := []
  deriving DecidableEq, Repr

/-- A write on its way to a device port (R80): its number, address, bytes and region, and the command it belongs to. -/
structure DevWrite where
  id : Nat
  pa : Nat
  bytes : List Byte
  cr : Nat
  cmd : Option Nat := none
  deriving DecidableEq, Repr

/-- An entry of the coalescer or of the overflow log (R228, R229). -/
structure CoEntry where
  table : Nat
  row : Nat
  chunk : Nat
  tally : Nat
  lanes : List W64
  cnt : Nat
  log : Option Nat := none
  held : Bool := false
  applied : Bool := false
  deriving DecidableEq, Repr

/-- Phases of a fence (R233). -/
inductive FPhase
  | wait | seal | apply | done
  deriving DecidableEq, Repr

/-- A row that a fence has to apply, with its coalesced lanes gathered from its entries. -/
structure FenceRow where
  table : Nat
  row : Nat
  deriving DecidableEq, Repr

/-- Writes of a row that a fence has applied and that are not acknowledged yet, with the home address of the camp they resolved to
(R255). -/
structure FenceW where
  table : Nat
  row : Nat
  ids : List Nat
  camp : Option Nat
  deriving DecidableEq, Repr

/-- An update fence (R232, R233, R235). `list` holds the words of its table list, `entry` says that its anchor wait has been released,
`todo` and `fin` the rows to apply and applied, `mcs` its multicasts, `wb` the write-back sums of each table. -/
structure Fence where
  id : Nat
  cmd : Nat
  c : Nat
  task : Nat
  tag : Option Nat
  ctx : Nat
  fd : List W64
  list : List (List W64)
  tabs : List TableCopy
  phase : FPhase := .wait
  entry : Bool := false
  rem : Nat := 0
  expect : Nat := 0
  recv : Nat := 0
  todo : List FenceRow := []
  fin : List FenceRow := []
  applied : Nat := 0
  nulls : Nat := 0
  held : Nat := 0
  heldPoison : Bool := false
  discarded : Nat := 0
  rows : Nat := 0
  chunks : Nat := 0
  writes : List FenceW := []
  ids : List Nat := []
  mcs : List Nat := []
  repFail : Option Nat := none
  abortLate : Bool := false
  park : Option (Nat × Nat) := none
  wb : List (Nat × Nat × W64 × W64) := []
  nan : Bool := false
  deriving DecidableEq, Repr

/-- States of a camp entry (R253, R256). -/
inductive CState
  | filling | live | draining
  deriving DecidableEq, Repr

/-- A camp directory entry with its in-flight counts (R253, R255) and what the migrator is doing with it. -/
structure Camp where
  home : Nat
  sect : Nat
  slot : Nat
  bucket : Nat
  way : Nat
  st : CState
  bytes : Nat
  rowBytes : Nat
  sent : Nat
  recopy : Bool := false
  stuck : Bool := false
  tries : Nat := 1
  lookups : Nat := 0
  updates : Nat := 0
  copying : Bool := true
  recopyWait : Bool := false
  demote : Bool := false
  discard : Bool := false
  landed : Bool := false
  deriving DecidableEq, Repr

/-- A promotion candidate: home address of the row and of its scale entry, and the sizes of the row and its record. -/
structure Cand where
  home : Nat
  sect : Nat
  bytes : Nat
  rowBytes : Nat
  deriving DecidableEq, Repr

/-- The migrator (R260, R261). -/
structure Migrator where
  camps : List Camp := []
  cands : List Cand := []
  slots : List Nat := []
  scan : Nat := 0
  window : Nat := 0
  recov : Bool := false
  deriving DecidableEq, Repr

/-- A copy in progress (R267): its number, its command, the task context and tag of a MIGR, addresses, length, blocks that have
landed. -/
structure Copying where
  id : Nat
  cmd : Nat
  ctx : Nat
  c : Nat
  task : Nat
  tag : Option Nat
  src : Nat
  dst : Nat
  len : Nat
  done : List Nat := []
  park : Option (Nat × Nat) := none
  deriving DecidableEq, Repr

/-- Advice in progress (R268): its number, its command, the task context and tag of a MIGR, the action, the table, the next row and
how many are left, the home addresses that are not stable yet, and how many entries it has changed. -/
structure Adv where
  id : Nat
  cmd : Nat
  ctx : Nat
  c : Nat
  task : Nat
  tag : Option Nat
  act : Nat
  tab : TableCopy
  next : Nat
  left : Nat
  homes : List Nat := []
  changed : Nat := 0
  park : Option (Nat × Nat) := none
  deriving DecidableEq, Repr

/-! ### Links -/

/-- States of a port (R390). -/
inductive LkState
  | down | train | negotiate | active | retrain
  deriving DecidableEq, Repr

/-- A DATA flit kept for replay (R389): sequence number, pool, key slot when encrypted, the message bytes it carries, how
often it has been sent, the multicast it is the last flit of, and the requests that it carries bytes of. -/
structure TxFlit where
  seq : Nat
  pool : Nat
  enc : Option Bool
  bytes : List Byte
  sends : Nat := 1
  last : Option Nat := none
  req : Option Nat := none
  deriving DecidableEq, Repr

/-- A link key slot (R409, R455). -/
structure LinkKey where
  key : BitVec 256 := 0
  tx : Nat := 0
  rx : Nat := 0
  deriving DecidableEq, Repr

/-- A message received: its words, whether it came in encrypted flits, and the served command that works on it while it stays in the
receive buffer (R388). -/
structure LMsg where
  words : List W64
  enc : Bool := false
  serving : Option Nat := none
  deriving DecidableEq, Repr

/-- A message on its way out: pool, remaining bytes, whether it is confidential, whether a part of it has left, the multicast it
belongs to, and the tag of a request of this chip. -/
structure TxMsg where
  pool : Nat
  bytes : List Byte
  conf : Bool := false
  part : Bool := false
  mc : Option Nat := none
  req : Option Nat := none
  deriving DecidableEq, Repr

/-- One Litha port (R380 to R411). Lists of credits have one entry for each of the five pools. `oerst` is LX_OERST_N at 0, `oeSince` when
it rose; `since` when the present state was entered; `hold` the wait for a write of EN; `locked` a relock in RETRAIN. `replayBuf`
holds the unacknowledged flits, `resend` those to send again, `progress` when ACKSEQ last moved. `rxSeq` is the next SEQ in order,
`rxFlits` the accepted flits whose message bytes are not all consumed (pool, bytes left), `rxBytes` the message in arrival of each
pool with whether its flits were encrypted, `rx` the messages that have arrived, `owed` the credits to return. -/
structure Port where
  st : LkState := .down
  lol : Bool := false
  locked : Bool := false
  since : Nat := 0
  hold : Bool := false
  oerst : Bool := true
  oeSince : Nat := 0
  confSent : Option Nat := none
  ver : Nat := 0
  err : Nat := 0
  pnode : Nat := 0
  pport : Nat := 0
  penc : Bool := false
  pfree : List Nat := []
  credit : List Nat := []
  k0 : Option LinkKey := none
  k1 : Option LinkKey := none
  txSeq : Nat := 0
  progress : Nat := 0
  replayBuf : List TxFlit := []
  resend : List Nat := []
  fecWin : List Nat := []
  rxSeq : Nat := 0
  nak : Bool := false
  sinceAck : Nat := 0
  owed : List Nat := []
  rxFlits : List (Nat × Nat) := []
  rxBytes : List (Nat × List Byte × Bool) := []
  rx : List (Nat × LMsg) := []
  tx : List TxMsg := []
  rst : Bool := false
  deriving DecidableEq, Repr

/-- What a request of this chip is for (R407): a piece of a row read, a write of a command, an RPOOL with the ordinals of its
bags, an RGRAD, a remote signal of a task, a remote signal of a command. -/
inductive LReqKind
  | read (c slot piece : Nat)
  | write (cmd : Option Nat)
  | rpool (c q : Nat) (bags : List (Nat × List Nat))
  | rgrad (c q node n : Nat) (ords : List (Nat × Nat))
  | asig (c t tag : Nat)
  | rsig (cmd : Nat)
  deriving DecidableEq, Repr

/-- A request of this chip that awaits its response (R407). -/
structure LReq where
  tag : Nat
  cmd : Option Nat
  kind : LReqKind
  sentAt : Nat
  port : Nat
  deriving DecidableEq, Repr

/-- The link complex (R380 to R426). -/
structure Links where
  ports : Tab Port := []
  wrt : Tab W64 := []
  rwt0 : Tab W64 := []
  rwt1 : Tab W64 := []
  rt : Tab W64 := []
  mc : Tab W64 := []
  reqs : List LReq := []
  nextTag : Nat := 0
  mgmtBusy : Bool := false
  oeint : Bool := false
  ewait : List (Nat × Nat) := []
  mcast : Tab Nat := []
  nextMc : Nat := 0
  deriving DecidableEq, Repr

/-! ### Anchors, power, security, debug -/

/-- A waiter of an anchor (R375, R377). -/
inductive Who
  | task (c t : Nat)
  | cmd (id : Nat)
  | fence (id : Nat)
  deriving DecidableEq, Repr

/-- The wait itself. -/
structure Waiter where
  anchor : Nat
  target : Nat
  who : Who
  deriving DecidableEq, Repr

/-- Power states (R429). -/
inductive PwrState
  | run | dozeIn | doze | napIn | nap | resume | off
  deriving DecidableEq, Repr

/-- Resets of the whole block in progress (R438). -/
inductive RstState
  | none | por | blk
  deriving DecidableEq, Repr

/-- Power, clocks and resets (R427 to R447): the brown-out hold, a request of Run that it holds back, a doorbell that ends Doze, the
block-fatal halt, the gated islands, and the core and link resets, inlet and adapter writes that wait. -/
structure Power where
  st : PwrState := .run
  rst : RstState := .none
  hold : Bool := false
  wantRun : Bool := false
  dbWake : Bool := false
  halt : Bool := false
  gated : List Nat := []
  heldCore : List Nat := []
  heldLink : List Nat := []
  inletHeld : List (Nat × List Byte) := []
  adHeld : List (BitVec 16 × BitVec 46 × List Byte) := []
  deriving DecidableEq, Repr

/-- Confidential regions and key commits (R448, R449, R458). `zero` says that the stores have been scrubbed and no command has used
them since. -/
structure Secure where
  keys : Tab (BitVec 512) := []
  kdata : Tab W64 := []
  busy : Bool := false
  scrub : Bool := false
  zero : Bool := true
  deriving DecidableEq, Repr

/-- TAP instructions (R459). -/
inductive TapInstr
  | bypass | sample | extest | idcode | dabacc
  deriving DecidableEq, Repr

/-- The debug port (R459 to R461): the current TAP instruction, the boundary cells, and the response of the last DAB
request. -/
structure Debug where
  ir : TapInstr := .idcode
  dr : Nat := 0
  cells : List Bool := []
  respData : W64 := 0
  respTag : Nat := 0
  deriving DecidableEq, Repr

/-- A queue reset in progress (R365). -/
structure QReset where
  cls : Nat
  index : Nat
  core : Nat
  kind : Nat
  deriving DecidableEq, Repr

/-- An event or fault record on its path to its ring (R368): header word and the words from Q1 on. -/
structure EvRec where
  words : List W64
  deriving DecidableEq, Repr

/-- Everything of the block but the queue of waiting commands. -/
structure Blk where
  build : Build := {}
  -- registers
  regs : Tab W64 := []
  locked : List Nat := []
  time : W64 := 0
  free : Nat := 0
  -- memory
  dev : Tab Byte := []
  bad : List Nat := []
  host : Tab Byte := []
  wq : List DevWrite := []
  nextWr : Nat := 0
  inletQ : List (Nat × Nat) := []
  -- host interface
  rings : Tab Ring := []
  cmds : List Cmd := []
  nextCmd : Nat := 0
  dcache : List (Nat × Nat × Sect) := []
  fringLog : Nat := 6
  fringBase : Nat := 0
  eringLog : Nat := 12
  eringBase : Nat := 0
  evPath : List EvRec := []
  faultPath : List EvRec := []
  msgs : Tab Nat := []
  copies : List Copying := []
  advs : List Adv := []
  nextCopy : Nat := 0
  -- translation
  l2 : List Tlb := []
  l1 : Tab (List Tlb) := []
  wcache : List (Nat × Nat × Nat × W64) := []
  walks : List Walk := []
  xbad : List (Req × Nat × Bool × Nat) := []
  ft : Tab FtSlot := []
  ftWait : List FtPend := []
  invals : List Inval := []
  belay : Tab Nat := []
  belayed : List (Nat × Nat × Nat) := []
  -- memory side
  rc : RowCache := {}
  co : List CoEntry := []
  nulls : Tab Nat := []
  stalled : List (Nat × Nat) := []
  fences : List Fence := []
  nextFence : Nat := 0
  mig : Migrator := {}
  -- cores, links and the rest
  cores : Tab Core := []
  lx : Links := {}
  anc : Tab Nat := []
  waiters : List Waiter := []
  flags : Tab Bool := []
  pwr : Power := {}
  sec : Secure := {}
  dbg : Debug := {}
  qrst : List QReset := []
  deriving DecidableEq, Repr

/-- The machine: the block, and the commands that wait, oldest first. -/
structure State where
  blk : Blk
  pending : List Instr
  deriving DecidableEq, Repr

/-- The machine right after power-on reset has completed: registers at their reset values, every unit empty, CK_RST_CAUSE.POR set
by its reset value, no command waiting. -/
def State.reset : State := { blk := {}, pending := [] }

end Sys2Proof.Machine
end

