-- ==== Sys2Proof/Machine/Ops.lean ====
section
/-! DEFINITION. The named operations every meaning is written over: registers and their fields, counters and logs, the
states in which the block acts, device memory with poison and encryption, host writes, interrupts, event and
fault records. -/
namespace Sys2Proof.Machine

/-- What a meaning answers. -/
abbrev Out := Host.Outcome State Fault Refusal

/-- A command changes the block and nothing else; the queue of waiting commands is untouched. The design-time parameters are fixed
when the block is built, and no unit but the timebase itself changes the timebase (R6, R488). -/
def upd (f : Blk → Blk) (s : State) : Out := .next { s with blk := { f s.blk with build := s.blk.build, time := s.blk.time } }

/-- The same for what changes the timebase or the build: its tick, and the loss and return of power. -/
def updAll (f : Blk → Blk) (s : State) : Out := .next { s with blk := f s.blk }

/-! ### Bits -/

/-- Replace the field [lo + n - 1 : lo] of a word by v. -/
def putFld (x : W64) (lo n v : Nat) : W64 :=
  (x &&& ~~~(BitVec.ofNat 64 ((2 ^ n - 1) <<< lo))) ||| BitVec.ofNat 64 ((v % 2 ^ n) <<< lo)

/-- The 64-bit word i of a 64-byte block (R8). -/
def Sect.word (d : Sect) (i : Nat) : W64 := BitVec.ofNat 64 (d.toNat >>> (64 * i))

/-- The eight words of a 64-byte block. -/
def Sect.words (d : Sect) : List W64 := (List.range 8).map (Sect.word d)

/-- The 64 bytes of a block. -/
def Sect.bytes (d : Sect) : List Byte := leBytes 64 d.toNat

/-- The block that 64 bytes spell. -/
def sectOf (l : List Byte) : Sect := BitVec.ofNat 512 (leNat (l.take 64))

/-- The bytes of 64-bit words. -/
def wordBytes (l : List W64) : List Byte := l.flatMap (fun w => leBytes 8 w.toNat)

/-- Word i of a descriptor, 0 beyond its end. -/
def qw (l : List W64) (i : Nat) : W64 := l.getD i 0

/-- Apply f n times, with the index. -/
def iter {α : Type} : Nat → (Nat → α → α) → α → α
  | 0, _, a => a
  | n + 1, f, a => f n (iter n f a)

/-- Sign extension of the low n bits of a number to 64 bits. -/
def sext64 (n v : Nat) : W64 :=
  let x := v % 2 ^ n
  if x ≥ 2 ^ (n - 1) then BitVec.ofNat 64 (2 ^ 64 - 2 ^ n + x) else BitVec.ofNat 64 x

/-- Values outside [lo, hi] act as the nearest limit. -/
def clamp (lo hi v : Nat) : Nat := if v < lo then lo else if hi < v then hi else v

/-! ### Registers -/

/-- The stored value of the register at offset o. -/
def Blk.reg (b : Blk) (o : Nat) : W64 := Tab.get (regReset o) b.regs o

/-- Store a value in the register at offset o. -/
def Blk.setReg (b : Blk) (o : Nat) (v : W64) : Blk := { b with regs := Tab.set (regReset o) b.regs o v }

/-- A field of a register as a number. -/
def Blk.rf (b : Blk) (o lo n : Nat) : Nat := fld (b.reg o) lo n

/-- One bit of a register. -/
def Blk.rb (b : Blk) (o i : Nat) : Bool := bit (b.reg o) i

/-- Set a field of a register. -/
def Blk.setFld (b : Blk) (o lo n v : Nat) : Blk := b.setReg o (putFld (b.reg o) lo n v)

/-- Add k to a 64-bit counter, wrapping. -/
def Blk.inc (b : Blk) (o k : Nat) : Blk := b.setReg o (b.reg o + BitVec.ofNat 64 k)

/-- Add k to a count field that saturates at all ones. -/
def Blk.incSat (b : Blk) (o lo n k : Nat) : Blk := b.setFld o lo n (min (2 ^ n - 1) (b.rf o lo n + k))

/-- An error log (R88): the fields are loaded with VALID while VALID is 0, else only MULTI is set. Bits of `keep` are not
part of the log's fields. -/
def Blk.log (b : Blk) (o : Nat) (keep v : W64) : Blk :=
  if b.rb o 0 then b.setReg o (b.reg o ||| 2)
  else b.setReg o ((b.reg o &&& (keep ||| 2)) ||| (v &&& ~~~keep) ||| 1)

/-- One correctable error (R475). -/
def Blk.correctable (b : Blk) : Blk := b.inc 0x1440 1

/-- The next free value. -/
def Blk.freeW (b : Blk) : W64 := Config.freeWord b.free
/-- One free value has been used. -/
def Blk.freed (b : Blk) : Blk := { b with free := b.free + 1 }

/-! ### Cores, tasks, queues, commands -/

/-- Lookup core c. -/
def Blk.core (b : Blk) (c : Nat) : Core := Tab.get {} b.cores c
/-- Change lookup core c. -/
def Blk.updCore (b : Blk) (c : Nat) (f : Core → Core) : Blk := { b with cores := Tab.set {} b.cores c (f (b.core c)) }
/-- Task context t. -/
def Core.task (k : Core) (t : Nat) : Task := Tab.get {} k.tasks t
/-- Change task context t. -/
def Core.updTask (k : Core) (t : Nat) (f : Task → Task) : Core := { k with tasks := Tab.set {} k.tasks t (f (k.task t)) }
/-- Task context t of core c. -/
def Blk.task (b : Blk) (c t : Nat) : Task := (b.core c).task t
/-- Change task context t of core c. -/
def Blk.updTask (b : Blk) (c t : Nat) (f : Task → Task) : Blk := b.updCore c (fun k => k.updTask t f)
/-- Stream queue q. -/
def Core.sq (k : Core) (q : Nat) : SQ := Tab.get {} k.qs q
/-- Change stream queue q. -/
def Core.updSq (k : Core) (q : Nat) (f : SQ → SQ) : Core := { k with qs := Tab.set {} k.qs q (f (k.sq q)) }
/-- Stream queue q of core c. -/
def Blk.sq (b : Blk) (c q : Nat) : SQ := (b.core c).sq q
/-- Change stream queue q of core c. -/
def Blk.updSq (b : Blk) (c q : Nat) (f : SQ → SQ) : Blk := b.updCore c (fun k => k.updSq q f)
/-- The command numbered id. -/
def Blk.cmd (b : Blk) (id : Nat) : Option Cmd := b.cmds.find? (fun c => c.id == id)
/-- Change the command numbered id. -/
def Blk.updCmd (b : Blk) (id : Nat) (f : Cmd → Cmd) : Blk :=
  { b with cmds := b.cmds.map (fun c => if c.id = id then f c else c) }
/-- Ring n. -/
def Blk.ring (b : Blk) (n : Nat) : Ring := Tab.get {} b.rings n
/-- Change ring n. -/
def Blk.updRing (b : Blk) (n : Nat) (f : Ring → Ring) : Blk := { b with rings := Tab.set {} b.rings n (f (b.ring n)) }
/-- Litha port p. -/
def Blk.port (b : Blk) (p : Nat) : Port := Tab.get {} b.lx.ports p
/-- Change Litha port p. -/
def Blk.updPort (b : Blk) (p : Nat) (f : Port → Port) : Blk :=
  { b with lx := { b.lx with ports := Tab.set {} b.lx.ports p (f (b.port p)) } }
/-- Count of anchor k. -/
def Blk.anchor (b : Blk) (k : Nat) : Nat := Tab.get 0 b.anc k
/-- Set the count of anchor k. -/
def Blk.setAnchor (b : Blk) (k v : Nat) : Blk := { b with anc := Tab.set 0 b.anc k (v % 2 ^ 48) }

/-- A status that a command has met: the earliest one from 31h to 7Fh stays (R471). -/
def Cmd.meet (c : Cmd) (st : Nat) : Cmd := if c.fail = none then { c with fail := some st } else c
/-- Set an info flag of R355. -/
def Cmd.flag (c : Cmd) (i : Nat) : Cmd := { c with info := c.info ||| (1 <<< i) }
/-- Mark a command as having met a status. -/
def Blk.meet (b : Blk) (id st : Nat) : Blk := b.updCmd id (fun c => c.meet st)

/-! ### When the block acts -/

/-- Off, or a reset of the whole block in progress (R438). -/
def Blk.resetting (b : Blk) : Bool := b.pwr.st = .off || b.pwr.rst ≠ .none

/-- The islands run: work in flight runs to its end (R431, R434, R472). -/
def Blk.live (b : Blk) : Bool :=
  !b.resetting && !b.pwr.halt && (b.pwr.st = .run || b.pwr.st = .dozeIn || b.pwr.st = .napIn)

/-- New work may be issued: Run, no brown-out hold, no block-fatal halt (R434, R472). -/
def Blk.issues (b : Blk) : Bool := b.live && b.pwr.st = .run && !b.pwr.hold

/-- Core c exists (R5). -/
def Blk.coreOk (b : Blk) (c : Nat) : Bool := decide (c < b.build.cores)

/-- Core c has a core reset running. -/
def Blk.coreRst (b : Blk) (c : Nat) : Bool := (b.core c).rst

/-- Core c exists, is not fatal and has no core reset running. -/
def Blk.coreUp (b : Blk) (c : Nat) : Bool := b.coreOk c && !(b.core c).fatal && !(b.core c).rst

/-- Core c is halted from the debug port (R462). -/
def Blk.dbgHalted (b : Blk) (c : Nat) : Bool := b.rb (0x90100 + 8 * c) 4

/-- Sequencer words of core c may issue. -/
def Blk.seqIssues (b : Blk) (c : Nat) : Bool := b.issues && b.coreUp c && (!b.dbgHalted c || (b.core c).stepOne.isSome)

/-- Units of core c may start new work. -/
def Blk.unitIssues (b : Blk) (c : Nat) : Bool := b.issues && b.coreUp c

/-- Work in flight of core c may land. -/
def Blk.coreLive (b : Blk) (c : Nat) : Bool := b.live && b.coreOk c

/-- A queue reset of a queue runs: the queue shows full to its producer and empty to its consumer (R365). -/
def Blk.qHeld (b : Blk) (cls core index : Nat) : Bool := b.qrst.any (fun r => r.cls = cls && r.core = core && r.index = index)

/-- Apply f where the guard holds; otherwise the event does not happen and nothing changes (log entry 10). -/
def onlyIf (g : Bool) (f : Blk → Blk) (b : Blk) : Blk := if g then f b else b

/-! ### Device memory (R248 to R250, R44, R451) -/

/-- The tier of a device address: 0 near, 1 bulk, 2 far, 3 window space. -/
def tierOf (pa : Nat) : Nat :=
  if pa < 0x040000000000 then 0 else if pa < 0x140000000000 then 1 else if pa < 0x300000000000 then 2 else 3

/-- First address of a tier. -/
def tierBase (t : Nat) : Nat :=
  if t = 0 then 0 else if t = 1 then 0x040000000000 else if t = 2 then 0x140000000000 else 0x300000000000

/-- Range size of a tier in GiB. -/
def tierRange (t : Nat) : Nat := if t = 0 then 4096 else if t = 1 then 16384 else 28672

/-- Populated size of a tier in bytes (R250). -/
def Blk.tierSize (b : Blk) (t : Nat) : Nat := min (b.rf (0x30040 + 8 * t) 0 15) (tierRange t) * 2 ^ 30

/-- The byte exists (R249). -/
def Blk.paExists (b : Blk) (pa : Nat) : Bool :=
  let t := tierOf pa
  t < 3 && pa - tierBase t < b.tierSize t && (t ≠ 2 || b.build.far)

/-- Every byte of a range exists. -/
def Blk.paRange (b : Blk) (pa n : Nat) : Bool := n = 0 || (b.paExists pa && b.paExists (pa + n - 1) && tierOf pa = tierOf (pa + n - 1))

/-- A region is active (R448). -/
def Blk.active (b : Blk) (r : Nat) : Bool := r ≠ 0 && (b.sec.keys.any (fun p => p.1 == r))

/-- The block is Guarded (R456): a region is active, or the scrub of the last one that was cleared still runs. -/
def Blk.guarded (b : Blk) : Bool := !b.sec.keys.isEmpty || b.sec.scrub

/-- The bytes of a range as memory holds them. -/
def Blk.rawBytes (b : Blk) (pa n : Nat) : List Byte := (List.range n).map (fun i => Tab.get 0 b.dev (pa + i))

/-- Accesses to this sector under this region are encrypted (R451). -/
def Blk.enc (b : Blk) (cr pa : Nat) : Bool := b.active cr && (tierOf pa = 1 || tierOf pa = 2)

/-- A sector of device memory as an access under region cr sees it. -/
def Blk.readSector (b : Blk) (cr sec : Nat) : List Byte :=
  let raw := b.rawBytes (64 * sec) 64
  if b.enc cr (64 * sec) then xtsSector true (Tab.get 0 b.sec.keys cr) sec raw else raw

/-- The 64-byte sectors that a range touches. -/
def sectorsOf (pa n : Nat) : List Nat := if n = 0 then [] else List.range' (pa / 64) ((pa + n - 1) / 64 + 1 - pa / 64)

/-- The bytes of a range of device memory under region cr. -/
def Blk.devRead (b : Blk) (cr pa n : Nat) : List Byte :=
  (((sectorsOf pa n).flatMap (b.readSector cr)).drop (pa % 64)).take n

/-- Some sector of the range is poisoned. -/
def Blk.devBad (b : Blk) (pa n : Nat) : Bool := (sectorsOf pa n).any (fun s => b.bad.contains s)

/-- Write bytes as memory holds them. -/
def devStore : Nat → List Byte → Tab Byte → Tab Byte
  | _, [], m => m
  | pa, v :: t, m => devStore (pa + 1) t (Tab.set 0 m pa v)

/-- The bytes of a write that fall into sector s, with their offset in the sector. -/
def sectorPart (pa : Nat) (bytes : List Byte) (s : Nat) : Nat × List Byte :=
  let lo := max pa (64 * s)
  let hi := min (pa + bytes.length) (64 * s + 64)
  (lo - 64 * s, (bytes.drop (lo - pa)).take (hi - lo))

/-- A list with the bytes from offset o on replaced. -/
def patch (old : List Byte) (o : Nat) (new : List Byte) : List Byte := old.take o ++ new ++ old.drop (o + new.length)

/-- One sector of a device write: a whole-sector write clears poison, a part write leaves a poisoned sector poisoned (R44);
encrypted sectors are read, merged and written back (R451, R452). -/
def Blk.writeSector (b : Blk) (cr s o : Nat) (p : List Byte) : Blk :=
  if b.enc cr (64 * s) then
    if p.length < 64 && b.bad.contains s then b
    else
      let plain := patch (if p.length < 64 then b.readSector cr s else List.replicate 64 0) o p
      { b with
        dev := devStore (64 * s) (xtsSector false (Tab.get 0 b.sec.keys cr) s plain) b.dev
        bad := b.bad.filter (fun x => x ≠ s) }
  else
    { b with
      dev := devStore (64 * s + o) p b.dev
      bad := if p.length = 64 then b.bad.filter (fun x => x ≠ s) else b.bad }

/-- Write bytes to device memory under region cr. -/
def Blk.devWrite (b : Blk) (cr pa : Nat) (bytes : List Byte) : Blk :=
  (sectorsOf pa bytes.length).foldl
    (fun b s => let p := sectorPart pa bytes s; b.writeSector cr s p.1 p.2) b

/-! ### Host memory: the image of acknowledged writes -/

/-- Write bytes to host memory at a physical address. -/
def Blk.hostWrite (b : Blk) (pa : Nat) (bytes : List Byte) : Blk := { b with host := devStore pa bytes b.host }

/-- Write 64-bit words to host memory. -/
def Blk.hostWords (b : Blk) (pa : Nat) (ws : List W64) : Blk := b.hostWrite pa (wordBytes ws)

/-! ### Interrupts (R360) -/

/-- Offset of word 0 of CK_MSI[v]. -/
def msi0 (v : Nat) : Nat := 0x12000 + 16 * v
/-- Offset of word 1 of CK_MSI[v]. -/
def msi1 (v : Nat) : Nat := 0x12008 + 16 * v

/-- Send the message of vector v: a 4-byte host write of DATA at ADDR. -/
def Blk.message (b : Blk) (v : Nat) : Blk :=
  let b := b.hostWrite (4 * b.rf (msi0 v) 2 50) (leBytes 4 (b.rf (msi1 v) 0 32))
  { b with msgs := Tab.upd 0 b.msgs v (· + 1) }

/-- A trigger of vector v. -/
def Blk.trigger (b : Blk) (v : Nat) : Blk :=
  if b.rb (msi0 v) 1 then b.setFld (msi1 v) 32 1 1
  else if b.rb (msi0 v) 0 then b.message v
  else b

/-- A held message is sent once MASK = 0 and EN = 1 hold together. -/
def Blk.msiRelease (b : Blk) (v : Nat) : Blk :=
  if b.rb (msi1 v) 32 && !b.rb (msi0 v) 1 && b.rb (msi0 v) 0 then (b.setFld (msi1 v) 32 1 0).message v else b

/-! ### Event and fault records (R358, R359, R368) -/

/-- Entries a spill queue holds (R368, R369). -/
def Blk.spillCap (b : Blk) : Nat :=
  if b.rb 0x1200 0 then 32 + 2 ^ clamp 8 14 (b.rf 0x1200 1 4) else 32

/-- Count one dropped event record. -/
def Blk.lost (b : Blk) (n : Nat) : Blk := b.incSat 0x11018 48 16 n

/-- The header of an event record. -/
def evHeader (ty len ring core task : Nat) : W64 :=
  BitVec.ofNat 64 (1 + ty <<< 4 + len <<< 16 + ring <<< 32 + core <<< 38 + task <<< 41)

/-- Write one event record, with a PAD before the ring's end where it does not fit, or drop it (R359). -/
def Blk.evWrite (b : Blk) (ws : List W64) : Blk :=
  let size := 2 ^ b.eringLog / 8
  let head := b.rf 0x11018 0 24
  let tail := b.rf 0x11018 24 24
  let occ := (tail + 2 ^ 24 - head) % 2 ^ 24
  let at_ := tail % size
  let pad := if ws.length ≤ size - at_ then 0 else size - at_
  if occ + pad + ws.length + 1 > size then b.lost 1
  else
    let base := b.eringBase
    let start := (at_ + pad) % size
    let b := b.hostWords (base + 8 * (start + 1)) (ws.drop 1)
    let b := b.hostWords (base + 8 * ((start + ws.length) % size)) [0]
    let b := b.hostWords (base + 8 * start) (ws.take 1)
    let b := if pad = 0 then b else b.hostWords (base + 8 * at_) [evHeader 0 (8 * pad) 0 0 0]
    let b := b.setFld 0x11018 24 24 ((tail + pad + ws.length) % 2 ^ 24)
    b.trigger 65

/-- The host port takes event and fault records now. -/
def Blk.recPort (b : Blk) : Bool :=
  !b.pwr.hold && (b.pwr.st = .run || b.pwr.st = .dozeIn || b.pwr.st = .napIn)

/-- One event record of a type, for a ring, a core and a task, with the words from Q2 on (R359). -/
def Blk.event (b : Blk) (ty ring core task : Nat) (qs : List W64) : Blk :=
  let ws := evHeader ty (8 * (2 + qs.length)) ring core task :: b.time :: qs
  if !b.rb 0x11010 0 || b.qHeld 8 0 0 then b.lost 1
  else if b.recPort then b.evWrite ws
  else if b.evPath.length < (if b.pwr.st = .nap then 32 else b.spillCap) then { b with evPath := b.evPath ++ [⟨ws⟩] }
  else b.lost 1

/-- The records that wait on the event path are written. -/
def Blk.drainEvents (b : Blk) : Blk :=
  let l := b.evPath
  if b.qHeld 8 0 0 then b
  else l.foldl (fun b r => if b.rb 0x11010 0 then b.evWrite r.words else b.lost 1) { b with evPath := [] }

/-- The fault ring has room. -/
def Blk.fringRoom (b : Blk) : Bool :=
  decide ((b.rf 0x11008 32 17 + 2 ^ 17 - b.rf 0x11008 0 17) % 2 ^ 17 < 2 ^ b.fringLog)

/-- Write one fault record (R295, R358). -/
def Blk.frWrite (b : Blk) (ws : List W64) : Blk :=
  let tail := b.rf 0x11008 32 17
  let b := b.hostWords (b.fringBase + 32 * (tail % 2 ^ b.fringLog)) ws
  ((b.inc 0x40330 1).setFld 0x11008 32 17 ((tail + 1) % 2 ^ 17)).trigger 64

/-- Write the fault records that wait, as far as the ring has room. -/
def drainFaultsN : Nat → Blk → Blk
  | 0, b => b
  | n + 1, b =>
    match b.faultPath with
    | [] => b
    | r :: t => if b.recPort && !b.qHeld 7 0 0 && b.rb 0x11000 0 && b.fringRoom then drainFaultsN n (({ b with faultPath := t } : Blk).frWrite r.words) else b

/-- The same, for every record that waits. -/
def Blk.drainFaults (b : Blk) : Blk := drainFaultsN b.faultPath.length b

/-- One fault record: written, or waiting on the fault path (R358, R368). -/
def Blk.faultRec (b : Blk) (ws : List W64) : Blk :=
  ({ b with faultPath := b.faultPath ++ [⟨ws⟩] } : Blk).drainFaults

/-- A fatal error is loaded into CK_ERR_FATAL (R474). -/
def Blk.loadFatal (b : Blk) (blk : Bool) (source core : Nat) : Blk :=
  let b := b.incSat 0x1400 32 16 1
  b.log 0x1400 (0xFFFF00000000 : W64)
    (BitVec.ofNat 64 ((if blk then 4 else 0) + source <<< 8 + core <<< 16))

end Sys2Proof.Machine
end

