-- ==== Sys2Proof/Machine/Xlt.lean ====
section
/-! DEFINITION. Translation (R273 to R279), the fault table (R283 to R286) and what a resumable fault parks (R289, R292). -/
namespace Sys2Proof

/-- The core whose L1 TLB a requester uses. -/
def Req.core : Req → Option Nat
  | .seqFetch c _ => some c
  | .seqData c _ => some c
  | .idx c _ _ => some c
  | .wgt c _ _ => some c
  | .bnd c _ _ => some c
  | .row c _ => some c
  | .bagOut c _ _ => some c
  | .grad c _ _ => some c
  | .chain c _ => some c
  | .plane c => some c
  | .ring _ => none
  | .compl _ => none
  | .cword _ => none
  | .desc _ => none
  | .copy _ => none
  | .inter _ => none
  | .entry _ => none
  | .report _ => none
  | .add _ => none

/-- The word of a descriptor read. -/
def DescRead.w : DescRead → W64
  | .word w => w
  | .poison => 0

end Sys2Proof

namespace Sys2Proof.Machine

/-- The translation covers an address of a context. -/
def Tlb.covers (t : Tlb) (ctx va : Nat) : Bool :=
  t.ctx = ctx && (if t.big then t.gran / 512 = va / 2 ^ 39 else t.gran = va / 2 ^ 30)

/-- The physical address of a virtual address the translation covers. -/
def Tlb.phys (t : Tlb) (va : Nat) : Nat := t.pa + (if t.big then va % 2 ^ 39 else va % 2 ^ 30)

/-- The translation serves the access: a write needs W and D (R279). -/
def Tlb.serves (t : Tlb) (ctx va : Nat) (wr : Bool) : Bool := t.covers ctx va && (!wr || (t.w && t.d))

/-- L1 TLB of core c. -/
def Blk.l1c (b : Blk) (c : Nat) : List Tlb := Tab.get [] b.l1 c

/-- The set of the L2 TLB: context and VA[40:30] (R278); the combination is the model's (log entry 13). -/
def l2Set (ctx gran : Nat) : Nat := (gran % 2048 + 32 * ctx) % 2048

/-- Keep the first n entries of a list that satisfy p. -/
def keepN (p : Tlb → Bool) : Nat → List Tlb → List Tlb
  | _, [] => []
  | n, t :: l => if p t then (match n with | 0 => keepN p 0 l | n + 1 => t :: keepN p n l) else t :: keepN p n l

/-- Fill the L2 TLB: eight ways of a set, the least recently filled leaves. -/
def Blk.fillL2 (b : Blk) (t : Tlb) : Blk :=
  let rest := b.l2.filter (fun x => !(x.ctx = t.ctx && x.gran = t.gran && x.big = t.big))
  { b with l2 := keepN (fun x => l2Set x.ctx x.gran = l2Set t.ctx t.gran) 8 (t :: rest) }

/-- Fill the L1 TLB of core c: 64 entries, the least recently used leaves. -/
def Blk.fillL1 (b : Blk) (c : Nat) (t : Tlb) : Blk :=
  let rest := (b.l1c c).filter (fun x => !(x.ctx = t.ctx && x.gran = t.gran && x.big = t.big))
  { b with l1 := Tab.set [] b.l1 c ((t :: rest).take 64) }

/-- What an access finds when it translates. -/
inductive Xl
  | ok (t : Tlb) (pa : Nat)
  | wait
  | bad (kind : Nat)
  deriving DecidableEq, Repr

/-- The requester already waits for this granule: in a walk, in the fault table, or for a slot of it. -/
def Blk.pends (b : Blk) (r : Req) (ctx gran : Nat) (wr : Bool) : Bool :=
  b.walks.any (fun w => w.ctx = ctx && w.gran = gran && w.reqs.any (fun x => x.1 = r && x.2.2 = wr)) ||
  b.ft.any (fun s => s.2.valid && s.2.ctx = ctx && s.2.gran = gran && s.2.waiters.any (fun x => x.1 = r && x.2.2 = wr)) ||
  b.ftWait.any (fun x => x.req = r && x.ctx = ctx && x.va / 2 ^ 30 = gran && x.wr = wr)

/-- An L2 miss joins the walk of its granule or starts one; at most 16 run at once (R279). -/
def Blk.addWalk (b : Blk) (r : Req) (ctx va : Nat) (wr : Bool) : Blk :=
  let g := va / 2 ^ 30
  if b.walks.any (fun w => w.ctx = ctx && w.gran = g) then
    { b with walks := b.walks.map (fun w =>
        if w.ctx = ctx && w.gran = g then { w with reqs := w.reqs ++ [(r, va, wr)] } else w) }
  else
    let n := b.walks.length
    let b := { b with walks := b.walks ++ [{ ctx := ctx, gran := g, user := b.rb (0x40000 + 8 * ctx) 1, reqs := [(r, va, wr)] }] }
    if n < 16 then b.inc 0x40320 1 else b

/-- Translate one access (R273, R278, R279, R499). A requester whose walk has failed for good learns it here. -/
def Blk.xl (b : Blk) (r : Req) (ctx va : Nat) (wr : Bool) : Blk × Xl :=
  if va ≥ 2 ^ 57 then (b, .bad 11)
  else if !b.rb (0x40000 + 8 * ctx) 0 then (b, .bad 12)
  else
    match b.xbad.find? (fun x => x.1 = r && x.2.1 = va / 2 ^ 30 && x.2.2.1 = wr) with
    | some x => ({ b with xbad := b.xbad.erase x }, .bad x.2.2.2)
    | none =>
    match (match r.core with | some c => (b.l1c c).find? (fun (t : Tlb) => t.serves ctx va wr) | none => none) with
    | some t => ((match r.core with | some c => (b.inc 0x40300 1).fillL1 c t | none => b), .ok t (t.phys va))
    | none =>
      if b.pends r ctx (va / 2 ^ 30) wr then (b, .wait)
      else
        let b : Blk := match r.core with | some _ => b.inc 0x40308 1 | none => b
        match b.l2.find? (fun (t : Tlb) => t.serves ctx va wr) with
        | some t => ((match r.core with | some c => (b.inc 0x40310 1).fillL1 c t | none => b.inc 0x40310 1), .ok t (t.phys va))
        | none => ((b.inc 0x40318 1).addWalk r ctx va wr, .wait)

/-- The page of an address that a requester has translated is confidential (R408): its translation names a region. -/
def Blk.confAt (b : Blk) (r : Req) (ctx va : Nat) : Bool :=
  match ((match r.core with | some c => b.l1c c | none => []) ++ b.l2).find? (fun (t : Tlb) => t.covers ctx va) with
  | some t => decide (t.cr ≠ 0)
  | none => false

/-- The first or the last page of a translated range is confidential. -/
def Blk.confSpan (b : Blk) (r : Req) (ctx va n : Nat) : Bool := b.confAt r ctx va || b.confAt r ctx (va + n - 1)

/-! ### The descriptor checks of R277 -/

/-- What one descriptor does to a walk. -/
inductive Wk
  | ptr
  | leaf
  | bad (kind : Nat)
  deriving DecidableEq, Repr

/-- The checks of R277 for the descriptor of a level, in their order. -/
def Blk.checkDesc (b : Blk) (user wr : Bool) (lvl : Nat) (d : DescRead) : Wk :=
  match d with
  | .poison => .bad 6
  | .word w =>
    let pa := fld w 12 40 * 4096
    if !bit w 0 then .bad 1
    else if user && !bit w 4 then .bad 5
    else if wr && !bit w 2 then .bad 4
    else if lvl = 5 && bit w 1 then .bad 9
    else if lvl = 3 && !bit w 1 then .bad 8
    else if !bit w 1 then .ptr
    else if pa % (if lvl = 4 then 2 ^ 39 else 2 ^ 30) ≠ 0 then .bad 9
    else if bit w 7 && pa ≥ 2 ^ 46 then .bad 9
    else if !bit w 7 && (fld w 8 2 = 3 || fld w 58 4 ≠ 0) then .bad 9
    else if fld w 58 4 ≠ 0 && !b.active (fld w 58 4) then .bad 10
    else if !bit w 5 then .bad 2
    else if wr && !bit w 6 then .bad 3
    else .leaf

/-- Result of a walk for one direction. -/
inductive WalkRes
  | ok (lvl : Nat) (d : W64)
  | fail (kind lvl : Nat) (d : W64)
  | short
  deriving DecidableEq, Repr

/-- Check the descriptors from the root downward. -/
def Blk.walk (b : Blk) (user wr : Bool) : Nat → List DescRead → WalkRes
  | _, [] => .short
  | lvl, d :: t =>
    match b.checkDesc user wr lvl d with
    | .bad k => .fail k lvl d.w
    | .leaf => .ok lvl d.w
    | .ptr => b.walk user wr (lvl - 1) t

/-- Descriptors used by a walk that ended. -/
def WalkRes.lvl : WalkRes → Nat
  | .ok l _ => l
  | .fail _ l _ => l
  | .short => 3

/-- The walk cache's descriptors for an address: none, P5, or P5 and P4 (R278). -/
def Blk.cachedDescs (b : Blk) (ctx gran : Nat) : List DescRead :=
  match b.wcache.find? (fun e => e.1 = ctx && e.2.1 = 5 && e.2.2.1 = gran / 2 ^ 18) with
  | none => []
  | some e5 =>
    match b.wcache.find? (fun e => e.1 = ctx && e.2.1 = 4 && e.2.2.1 = gran / 2 ^ 9) with
    | none => [.word e5.2.2.2]
    | some e4 => [.word e5.2.2.2, .word e4.2.2.2]

/-- Enter a pointer descriptor into the walk cache of 64 entries. -/
def Blk.fillWc (b : Blk) (ctx lvl key : Nat) (w : W64) : Blk :=
  { b with wcache := (((ctx, lvl, key, w) ::
      b.wcache.filter (fun e => !(e.1 = ctx && e.2.1 = lvl && e.2.2.1 = key))).take 64) }

/-- The translation a leaf gives: W is the conjunction over the walk, D the leaf's. -/
def leafTlb (ctx gran lvl : Nat) (d : W64) (allW : Bool) : Tlb :=
  { ctx := ctx
    gran := if lvl = 4 then gran / 512 * 512 else gran
    big := lvl = 4
    pa := fld d 12 40 * 4096
    dev := bit d 7
    memtype := fld d 8 2
    cr := fld d 58 4
    w := allW
    d := bit d 6 }

/-! ### Faults -/

/-- The command an access belongs to. -/
def Consumer.cmd : Consumer → Option Nat
  | .none => Option.none
  | .pool _ c _ _ => some c
  | .scat _ c _ _ => some c

/-- The task context of a pass's consumer. -/
def Consumer.task : Consumer → Option Nat
  | .none => Option.none
  | .pool _ _ t _ => some t
  | .scat _ _ t _ => some t

/-- The command that a pass works for: its consumer's, else the one whose GATHER bound the queue. -/
def SQ.owner (s : SQ) : Nat := (s.cons.cmd).getD s.cmd

/-- The task context that a pass works for. -/
def SQ.ownerTask (s : SQ) : Nat := (s.cons.task).getD s.task

/-- Tracker slots that a stream queue holds: reads of stored default records are counted beside the queues (R379). -/
def Core.held (k : Core) (q : Nat) : Nat := (k.trk.filter (fun t => t.q = q && t.kind ≠ .deflt)).length

/-- The row read numbered i of core c: one that holds a tracker slot, or one of a settled parked pass. -/
def Core.slot (k : Core) (i : Nat) : Option TSlot := (k.trk ++ k.waits).find? (fun t => t.id == i)

/-- The queue whose pass a requester belongs to. -/
def Blk.reqQueue (b : Blk) : Req → Option (Nat × Nat)
  | .idx c q _ => some (c, q)
  | .wgt c q _ => some (c, q)
  | .bnd c q _ => some (c, q)
  | .bagOut c q _ => some (c, q)
  | .grad c q _ => some (c, q)
  | .row c i => ((b.core c).slot i).map (fun t => (c, t.q))
  | .plane c => (((b.core c).iq.find? (fun a => !a.issued)).or (b.core c).iq.head?).bind (fun a => match a.kind with | .expand q => some (c, q) | .grad q => some (c, q) | _ => none)
  | _ => none

/-- The command that a requester belongs to. -/
def Blk.reqCmd (b : Blk) (r : Req) : Option Nat :=
  match r with
  | .desc id => some id
  | .inter id => some id
  | .add id => some id
  | .copy id => ((b.copies.find? (fun x => x.id = id)).map (·.cmd)).or ((b.advs.find? (fun x => x.id = id)).map (·.cmd))
  | .seqFetch c t => (b.task c t).cmd
  | .seqData c t => (b.task c t).cmd
  | .chain c t => ((b.core c).ch.find? (fun o => o.task = t)).map (·.cmd)
  | .entry f => (b.fences.find? (fun x => x.id = f)).map (·.cmd)
  | .report f => (b.fences.find? (fun x => x.id = f)).map (·.cmd)
  | .plane c => (((b.core c).iq.find? (fun a => !a.issued)).or (b.core c).iq.head?).map (·.cmd)
  | .ring _ => none
  | .compl _ => none
  | .cword _ => none
  | r => (b.reqQueue r).map (fun cq => (b.sq cq.1 cq.2).owner)

/-- The ring, core and task context that event records of a requester name. -/
def Blk.reqPlace (b : Blk) (r : Req) : Nat × Nat × Nat :=
  match (b.reqCmd r).bind b.cmd with
  | some c =>
    match c.phase with
    | .held k t => (c.ring, k, t)
    | _ => (c.ring, 0, 0)
  | none => (0, 0, 0)

/-- A requester waits in a fault record or for one. -/
def Blk.inFault (b : Blk) (r : Req) : Bool :=
  b.ft.any (fun e => e.2.valid && e.2.waiters.any (fun x => x.1 = r)) || b.ftWait.any (fun x => x.req = r)

/-- Park what a requester works for on a fault record (R289, R292). -/
def Blk.parkReq (b : Blk) (r : Req) (sg : Nat × Nat) : Blk :=
  match b.reqQueue r with
  | some (c, q) =>
    let b := b.updSq c q (fun s => if s.st = .active then { s with st := .parked, park := some sg, belayed := false } else s)
    match r with
    | .row c i => b.updCore c (fun k => { k with trk := k.trk.map (fun t => if t.id = i then { t with faulted := true } else t) })
    | _ => b
  | none =>
    match r with
    | .seqFetch c t => b.updTask c t (fun x => { x with parked := some sg })
    | .seqData c t => b.updTask c t (fun x => { x with parked := some sg })
    | .chain c t => b.updCore c (fun k => { k with ch := k.ch.map (fun o => if o.task = t && o.park = none then { o with park := some sg } else o) })
    | .copy id => { b with
        copies := b.copies.map (fun x => if x.id = id then { x with park := some sg } else x)
        advs := b.advs.map (fun x => if x.id = id then { x with park := some sg } else x) }
    | .entry f => { b with fences := b.fences.map (fun x => if x.id = f then { x with park := some sg } else x) }
    | .report f => { b with fences := b.fences.map (fun x => if x.id = f then { x with park := some sg } else x) }
    | .desc id => b.updCmd id (fun c => { c with park := some sg })
    | .inter id => b.updCmd id (fun c => { c with park := some sg })
    | .add id => b.updCmd id (fun c => { c with park := some sg })
    | .plane _ => match b.reqCmd r with | some id => b.updCmd id (fun c => { c with park := some sg }) | none => b
    | _ => b

/-- Lift the park that a record put on what a requester works for. -/
def Blk.unparkReq (b : Blk) (r : Req) (sg : Nat × Nat) : Blk :=
  let lift := fun (p : Option (Nat × Nat)) => if p = some sg then none else p
  match r with
  | .seqFetch c t => b.updTask c t (fun x => { x with parked := lift x.parked })
  | .seqData c t => b.updTask c t (fun x => { x with parked := lift x.parked })
  | .chain c t => b.updCore c (fun k => { k with ch := k.ch.map (fun o => if o.task = t then { o with park := lift o.park } else o) })
  | .copy id => { b with
      copies := b.copies.map (fun x => if x.id = id then { x with park := lift x.park } else x)
      advs := b.advs.map (fun x => if x.id = id then { x with park := lift x.park } else x) }
  | .entry f => { b with fences := b.fences.map (fun x => if x.id = f then { x with park := lift x.park } else x) }
  | .report f => { b with fences := b.fences.map (fun x => if x.id = f then { x with park := lift x.park } else x) }
  | .desc id => b.updCmd id (fun c => { c with park := lift c.park })
  | .inter id => b.updCmd id (fun c => { c with park := lift c.park })
  | .add id => b.updCmd id (fun c => { c with park := lift c.park })
  | .plane _ => { b with cmds := b.cmds.map (fun c => { c with park := lift c.park }) }
  | _ => b

/-- The fault-table slot that holds a valid record of the key. -/
def ftKey (ctx gran : Nat) : Tab FtSlot → Option Nat
  | [] => none
  | (i, s) :: t => if s.valid && s.ctx = ctx && s.gran = gran then some i else ftKey ctx gran t

/-- The lowest-numbered free slot among the first n from i. -/
def Blk.ftFree (b : Blk) : Nat → Nat → Option Nat
  | 0, _ => none
  | n + 1, i => if !(Tab.get {} b.ft i).valid then some i else b.ftFree n (i + 1)

/-- Words of a fault record (R284). -/
def faultWords (p : FtPend) (slot gen : Nat) (time : W64) : List W64 :=
  [BitVec.ofNat 64 (1 + p.kind <<< 4 + (if p.wr then 1 else 0) <<< 8 + p.level <<< 9 + p.ctx <<< 12 + slot <<< 18 + gen <<< 26),
   BitVec.ofNat 64 p.va, p.desc, time]

/-- A resumable fault joins the slot of its key, or takes a free slot and writes its record, or waits for a slot (R283). -/
def Blk.takeFault (b : Blk) (p : FtPend) (again : Bool) : Blk :=
  let w := (p.req, p.va, p.wr)
  match ftKey p.ctx (p.va / 2 ^ 30) b.ft with
  | some i =>
    let s := Tab.get {} b.ft i
    let b := if s.waiters.contains w then b
      else { b.inc 0x40338 1 with ft := Tab.set {} b.ft i { s with waiters := s.waiters ++ [w] } }
    b.parkReq p.req (i, s.gen)
  | none =>
    match b.ftFree 256 0 with
    | some i =>
      if !b.rb 0x11000 0 then b.addWalk p.req p.ctx p.va p.wr
      else if b.faultPath.length ≥ b.spillCap || b.qHeld 7 0 0 then { b with ftWait := b.ftWait ++ [p] }
      else
        let s := Tab.get {} b.ft i
        let g := (s.gen + 1) % 256
        let b : Blk := { b with
          ft := Tab.set {} b.ft i { valid := true, gen := g, ctx := p.ctx, gran := p.va / 2 ^ 30, waiters := [w] } }
        (b.faultRec (faultWords p i g b.time)).parkReq p.req (i, g)
    | none =>
      let b := if again then b else b.inc 0x40340 1
      { b with ftWait := b.ftWait ++ [p] }

/-- The faults that waited for a slot ask again. -/
def Blk.ftRetry (b : Blk) : Blk :=
  let l := b.ftWait
  l.foldl (fun b p => b.takeFault p true) { b with ftWait := [] }

/-- Free slot i of the fault table; its generation stays. -/
def Blk.ftRelease (b : Blk) (i : Nat) : Blk :=
  let s := Tab.get {} b.ft i
  ({ b with ft := Tab.set {} b.ft i { gen := s.gen } } : Blk).ftRetry

/-- Waiters for which p holds leave the fault table and the walks; a slot whose last waiter leaves is freed (R285). -/
def Blk.leaveWaits (b : Blk) (p : Req → Bool) : Blk :=
  let b := { b with
    xbad := b.xbad.filter (fun x => !p x.1)
    ftWait := b.ftWait.filter (fun x => !p x.req)
    walks := b.walks.map (fun (w : Walk) => { w with reqs := w.reqs.filter (fun x => !p x.1) }) }
  let f := fun (e : Nat × FtSlot) =>
    let l := e.2.waiters.filter (fun x => !p x.1)
    if !e.2.valid then e
    else if l.isEmpty && !e.2.waiters.isEmpty then (e.1, ({ gen := e.2.gen } : FtSlot))
    else (e.1, { e.2 with waiters := l })
  let b := { b with ft := b.ft.map f }
  b.ftRetry

/-- The XLT_FATAL record of an access that is not resumable (R286, R499). -/
def Blk.xltFatalRec (b : Blk) (r : Req) (ctx kind : Nat) (va : W64) : Blk :=
  let pl := b.reqPlace r
  (b.inc 0x40350 1).event 0x30 pl.1 pl.2.1 pl.2.2 [BitVec.ofNat 64 (kind + ctx <<< 8), va]

/-- Status of a translation failure that is not resumable (R277, R499). -/
def xltStatus (kind : Nat) : Nat := if kind = 6 then 0x40 else if kind = 8 then 0x31 else if kind ≤ 5 then 0x30 else 0x32

/-- Kinds of R277 that are resumable. -/
def resumable (kind : Nat) : Bool := 1 ≤ kind && kind ≤ 5

end Sys2Proof.Machine
end

