-- ==== Sys2Proof/Machine/Lx.lean ====
section
/-! DEFINITION. Litha messages on their way out: routing, credits and flits (R385 to R389, R393, R401, R404, R408). A message
leaves in flits as far as credits allow, at once (log entry 14). -/
namespace Sys2Proof.Machine

/-- Port p exists and is ACTIVE. -/
def Blk.portActive (b : Blk) (p : Nat) : Bool := p < b.build.litha && (b.port p).st = .active

/-- This chip's node ID (R410: FFFFh acts as 0). -/
def Blk.node (b : Blk) : Nat := let n := b.rf 0x70000 0 16; if n = 0xFFFF then 0 else n

/-- Offset of CK_LX_PCTRL[p]. -/
def pctrl (p : Nat) : Nat := 0x71000 + 0x100 * p
/-- Offset of counter k of port p. -/
def pcnt (p k : Nat) : Nat := 0x71080 + 0x100 * p + 8 * k

/-- The key slot the port sends with. -/
def Blk.txSlot (b : Blk) (p : Nat) : Bool := b.rb (pctrl p) 9
/-- Key slot s of a port. -/
def Port.key (x : Port) (s : Bool) : Option LinkKey := if s then x.k1 else x.k0

/-- The port may carry confidential messages (R408). -/
def Blk.portEnc (b : Blk) (p : Nat) : Bool := b.rb (pctrl p) 8 && ((b.port p).key (b.txSlot p)).isSome

/-- Entries of the routing table toward a node: the ACTIVE ports of MASK, and the escape port if valid (R404). -/
def Blk.routes (b : Blk) (dst : Nat) : List Nat × Option Nat :=
  let e := Tab.get 0 b.lx.rt dst
  ((List.range 8).filter (fun p => bit e p && b.portActive p), if bit e 11 then some (fld e 8 3) else none)

/-- Port and escape flag for a message to a node, none where there is no route. -/
def Blk.route (b : Blk) (dst : Nat) : Option (Nat × Bool) :=
  match b.routes dst with
  | ([], none) => none
  | ([], some p) => some (p, true)
  | (l, _) => some (l.getD (Config.routePort b.node l dst % l.length) 0, false)

/-- Bytes a flit carries. -/
def flitRoom (enc : Bool) : Nat := if enc then 226 else 242

/-- A port with its link down: what waited to be sent is gone, of what was received the whole messages stay; no partner, no credit, no
key (R455). -/
def Port.fall (x : Port) : Port :=
  let left := fun (l : List (Nat × Nat)) (e : Nat × List Byte × Bool) =>
    (l.reverse.foldl (fun (a : List (Nat × Nat) × Nat) f =>
      if f.1 = e.1 then (if f.2 ≤ a.2 then (a.1, a.2 - f.2) else ((f.1, f.2 - a.2) :: a.1, 0)) else (f :: a.1, a.2)) ([], e.2.1.length)).1
  { x with
    st := .down, locked := false, confSent := none, ver := 0, pnode := 0, pport := 0, penc := false, pfree := [], credit := []
    k0 := none, k1 := none, replayBuf := [], resend := [], tx := [], fecWin := [], nak := false, sinceAck := 0, owed := []
    rxFlits := x.rxBytes.foldl left x.rxFlits, rxBytes := [] }

/-- Send again, in order, the flits of `resend` that credits allow; at most n (R387, R389). -/
def Blk.pumpAgain : Nat → Nat → Blk → Blk
  | 0, _, b => b
  | n + 1, p, b =>
    let x := b.port p
    match x.resend with
    | [] => b
    | q :: rest =>
      match x.replayBuf.find? (fun f => f.seq = q) with
      | none => (b.updPort p (fun x => { x with resend := rest })).pumpAgain n p
      | some f =>
        if x.credit.getD f.pool 0 = 0 then b
        else
          let b := b.updPort p (fun x => { x with
            resend := rest
            replayBuf := x.replayBuf.map (fun y => if y.seq = q then { y with sends := y.sends + 1 } else y)
            credit := x.credit.set f.pool (x.credit.getD f.pool 0 - 1) })
          (b.inc (pcnt p 0) 1).pumpAgain n p

/-- Send the flits that the head messages and credits of a port allow: one flit at a time, at most n. -/
def Blk.pumpNew : Nat → Nat → Blk → Blk
  | 0, _, b => b
  | n + 1, p, b =>
    let x := b.port p
    if x.replayBuf.length ≥ 4096 then b else
    match x.tx.find? (fun m => x.credit.getD m.pool 0 > 0 &&
        (!m.conf || b.portEnc p) && (x.tx.find? (fun y => y.pool = m.pool)) = some m) with
    | none => b
    | some m =>
      let room := flitRoom m.conf
      let rest := m.bytes.drop room
      let f : TxFlit := { seq := x.txSeq, pool := m.pool, enc := if m.conf then some (b.txSlot p) else none,
                          bytes := m.bytes.take room, last := if rest.isEmpty then m.mc else none, req := m.req }
      let bump := fun (k : Option LinkKey) (s : Bool) =>
        if m.conf && b.txSlot p = s then k.map (fun y => { y with tx := y.tx + 1 }) else k
      let i := x.tx.findIdx (fun y => y = m)
      let tx := if rest.isEmpty then x.tx.eraseIdx i else x.tx.set i { m with bytes := rest, part := true }
      let b := b.updPort p (fun x => { x with
        tx := tx
        txSeq := (x.txSeq + 1) % 65536
        progress := if x.replayBuf.isEmpty then b.time.toNat else x.progress
        replayBuf := x.replayBuf ++ [f]
        credit := x.credit.set m.pool (x.credit.getD m.pool 0 - 1)
        k0 := bump x.k0 false
        k1 := bump x.k1 true })
      (b.inc (pcnt p 0) 1).pumpNew n p

/-- Send what an ACTIVE port can send: flits to be sent again first, then new ones, at most n. -/
def Blk.pump (n p : Nat) (b : Blk) : Blk :=
  if (b.port p).st ≠ .active then b
  else
    let b := b.pumpAgain ((b.port p).resend.length + 1) p
    if (b.port p).resend.isEmpty then b.pumpNew n p else b

/-- Flits that the messages waiting at a port fill. -/
def Port.txFlits (x : Port) : Nat := x.tx.foldl (fun n m => n + m.bytes.length / 226 + 1) 0

/-- Send everything that a port can send. -/
def Blk.pumpAll (b : Blk) (p : Nat) : Blk := b.pump ((b.port p).txFlits) p

/-- Queue a message on a pool of a port and send what can be sent. -/
def Blk.lxPush (b : Blk) (p pool : Nat) (ws : List W64) (conf : Bool) (mc req : Option Nat) : Blk :=
  (b.updPort p (fun x => { x with tx := x.tx ++ [{ pool := pool, bytes := wordBytes ws, conf := conf, mc := mc, req := req }] })).pumpAll p

/-- Header words of a message (R393). -/
def msgHead (ty hops len src dst tag hi : Nat) (conf : Bool) : List W64 :=
  [BitVec.ofNat 64 (ty + (if conf then 256 else 0) + hops <<< 9 + len <<< 16 + src <<< 32 + dst <<< 48),
   BitVec.ofNat 64 (tag % 2 ^ 32 + hi <<< 32)]

/-- Whether a request could be queued. -/
inductive LxRes
  | sent
  | noRoute
  | notPermitted
  deriving DecidableEq, Repr

/-- Send a request to a node: it takes a tag, and is tracked until its response (R404, R407, R408). -/
def Blk.lxRequest (b : Blk) (cmd : Option Nat) (kind : LReqKind) (dst ty hi : Nat) (body : List W64) (conf : Bool) : Blk × LxRes :=
  match b.route dst with
  | none => (b.inc 0x70100 1, .noRoute)
  | some (p, esc) =>
    if conf && !b.portEnc p then (b, .notPermitted)
    else
      let tag := b.lx.nextTag
      let r : LReq := { tag := tag, cmd := cmd, kind := kind, sentAt := b.time.toNat, port := p }
      let b := { b with lx := { b.lx with nextTag := (tag + 1) % 2 ^ 32, reqs := b.lx.reqs ++ [r] } }
      let ws := msgHead ty (b.rf 0x70008 0 6) (16 + 8 * body.length) b.node dst tag hi conf ++ body
      (b.lxPush p (if esc then 2 else 0) ws conf none (some tag), .sent)

/-- Send a response to a node; without a route it is dropped and the requester's timeout applies. -/
def Blk.lxRespond (b : Blk) (dst ty tag status : Nat) (body : List W64) (conf : Bool) : Blk :=
  match b.route dst with
  | none => b
  | some (p, esc) =>
    if conf && !b.portEnc p then b
    else b.lxPush p (if esc then 3 else 1)
      (msgHead ty (b.rf 0x70008 0 6) (16 + 8 * body.length) b.node dst tag status conf ++ body) conf none none

/-- The window route table entry of a window-space address (R249, R401): node and remote window, none where refused. -/
def Blk.window (b : Blk) (pa : Nat) : Option (Nat × Nat) :=
  let h := pa / 2 ^ 32 % 4096
  let e := Tab.get 0 b.lx.wrt h
  if b.build.litha = 0 || h ≥ 0xF00 || !bit e 0 then none else some (fld e 16 16, fld e 32 12)

/-- Receive window entry w: word 0 and word 1 (R402). -/
def Blk.rwt (b : Blk) (w : Nat) : W64 × W64 := (Tab.get 0 b.lx.rwt0 w, Tab.get 0 b.lx.rwt1 w)

/-- The device address of a served RD or WR, or the status that refuses it (R402, R450): type permission bit, offset, bytes. -/
def Blk.rwtAddr (b : Blk) (w perm off n : Nat) (encIn : Bool) : Nat × Nat :=
  let e := b.rwt w
  let pa := fld e.1 12 34 * 4096 + off
  if !bit e.1 0 then (0x33, 0)
  else if !bit e.1 perm then (0x32, 0)
  else if off + n > fld e.2 0 21 * 4096 || !b.paRange pa n then (0x32, 0)
  else if fld e.1 8 4 ≠ 0 && (!b.active (fld e.1 8 4) || (perm = 2 && !encIn)) then (0x32, 0)
  else (0, pa)

/-- A valid group has an ACTIVE port that may not carry confidential messages (R408). -/
def Blk.mcBarred (b : Blk) (grp : Nat) : Bool :=
  let e := Tab.get 0 b.lx.mc grp
  bit e 9 && (List.range 8).any (fun p => bit e p && b.portActive p && !b.portEnc p)

/-- Send a multicast on the given ports (R400); it ends when its last flit has been acknowledged on each. -/
def Blk.lxMcast (b : Blk) (grp sub : Nat) (body : List W64) (conf : Bool) : Blk × Option Nat :=
  let e := Tab.get 0 b.lx.mc grp
  if !bit e 9 then (b.inc 0x70118 1, none)
  else
    let ports := (List.range 8).filter (fun p => bit e p && b.portActive p && (!conf || b.portEnc p))
    let b := b.inc 0x70118 (((List.range 8).filter (fun p => bit e p)).length - ports.length)
    let id := b.lx.nextMc
    let b := { b with lx := { b.lx with nextMc := id + 1, mcast := Tab.set 0 b.lx.mcast id ports.length } }
    let ws := msgHead 6 (b.rf 0x70008 0 6) (16 + 8 * body.length) b.node b.node 0 (grp + sub <<< 10) conf ++ body
    (ports.foldl (fun b p => b.lxPush p 0 ws conf (some id) none) b, some id)

end Sys2Proof.Machine
end

