-- ==== Sys2Proof/Machine/Mem.lean ====
section
/-! DEFINITION. Memory as the units reach it: the passage of a device write through the row cache (R80, R81), reads of
virtual memory with what they return (R44, R249, R287, R490), and writes of virtual memory (R110, R356, R357, R401). -/
namespace Sys2Proof.Machine

/-! ### The passage of a write through the row cache -/

/-- The row cache serves lookups (R85). -/
def Blk.rcOn (b : Blk) : Bool := b.rb 0x50000 0 && b.rc.clean && !b.rc.inv

/-- Replace bytes of a 64-byte block. -/
def patchSect (d : Sect) (o : Nat) (p : List Byte) : Sect := sectOf (patch (Sect.bytes d) o p)

/-- A resident line with the bytes of a write to sector s in place; and how many valid sectors were rewritten. -/
def RcLine.hit (l : RcLine) (s o : Nat) (p : List Byte) : RcLine × Nat :=
  if l.line ≠ s / 2 then (l, 0)
  else if s % 2 = 0 then (if l.v0 then ({ l with s0 := patchSect l.s0 o p }, 1) else (l, 0))
  else (if l.v1 then ({ l with s1 := patchSect l.s1 o p }, 1) else (l, 0))

/-- One sector of a write passes the row cache (R80, R81). -/
def Blk.passSector (b : Blk) (s o : Nat) (p : List Byte) : Blk :=
  let fills := b.rc.fills.map (fun f => if f.line = s / 2 && (if s % 2 = 0 then f.f0 else f.f1) then { f with overW := true } else f)
  let b := { b with rc := { b.rc with fills := fills } }
  if !b.rb 0x50000 0 then b
  else
    let ls := b.rc.lines.map (fun e => (e.1, e.2.hit s o p))
    let vs := b.rc.vict.map (fun v => (v, v.l.hit s o p))
    let n := (ls.map (fun e => e.2.2)).foldl (· + ·) 0 + (vs.map (fun e => e.2.2)).foldl (· + ·) 0
    let b := { b with rc := { b.rc with
      lines := ls.map (fun e => (e.1, e.2.1))
      vict := vs.map (fun e => { e.1 with l := e.2.1 }) } }
    if n = 0 then b else b.inc 0x50148 n

/-- A write passes its row-cache slices and its port: sectors are rewritten in place and memory takes the bytes (R80). -/
def Blk.passWrite (b : Blk) (cr pa : Nat) (bytes : List Byte) : Blk :=
  ((sectorsOf pa bytes.length).foldl (fun b s => let p := sectorPart pa bytes s; b.passSector s p.1 p.2) b).devWrite cr pa bytes

/-- A write of an engine unit on its way to a device port; its number is answered. -/
def Blk.queueWrite (b : Blk) (cr pa : Nat) (bytes : List Byte) (cmd : Option Nat) : Blk × Nat :=
  ({ b with wq := b.wq ++ [{ id := b.nextWr, pa := pa, bytes := bytes, cr := cr, cmd := cmd }], nextWr := b.nextWr + 1 }, b.nextWr)

/-! ### Reads of virtual memory -/

/-- What a read of virtual memory answers. -/
inductive Rd
  | bytes (l : List Byte)
  | wait
  | poison
  | fail (kind : Nat)
  deriving DecidableEq, Repr

end Sys2Proof.Machine

namespace Sys2Proof

/-- What the view says about a 64-byte block. -/
def View.get (v : View) (n : Nat) : Option Resp := (v.blocks.find? (fun e => e.1 == n)).map (·.2)

end Sys2Proof

namespace Sys2Proof.Machine

/-- The part of one 64-byte block of virtual memory that a translated access reads: device memory as the block holds it, unless
its port marks the read as poisoned or refuses it (R44, R490), and other memory as the command's operand gives it. -/
def Blk.rdPart (b : Blk) (t : Tlb) (pa va n : Nat) (v : View) : Rd :=
  if t.dev && tierOf pa < 3 then
    if !b.paRange pa n then .fail 7
    else if b.devBad pa n || v.get (va / 64) = some .poison then .poison
    else if v.get (va / 64) = some .error then .fail 7
    else .bytes (b.devRead t.cr pa n)
  else if t.dev && (b.window pa).isNone then .fail 7
  else
    match v.get (va / 64) with
    | none => .wait
    | some .poison => .poison
    | some .error => .fail 7
    | some (.data d) => .bytes (((Sect.bytes d).drop (va % 64)).take n)

/-- The bucket of a core at a port lets nothing through: EN = 1 and RATE = 0 (R62). -/
def Blk.shut (b : Blk) (c p : Nat) : Bool := b.rb (0x30100 + 32 * c + 8 * p) 63 && b.rf (0x30100 + 32 * c + 8 * p) 0 20 = 0

/-- Ports with a bucket: 0 near, 1 bulk, 2 far, 3 host; window space has none. -/
def portOf (dev : Bool) (pa : Nat) : Option Nat := if !dev then some 3 else if tierOf pa < 3 then some (tierOf pa) else none

/-- The bucket of a core lets nothing through to an address (R62). -/
def Blk.shutAt (b : Blk) (c : Nat) (dev : Bool) (pa : Nat) : Bool :=
  match portOf dev pa with
  | some p => b.shut c p
  | none => false

/-- A pass whose requests no bucket holds: it works for a Litha partner (R62), or its command has ended and its closed bags are
being written (R192). -/
def Blk.uncharged (b : Blk) (c q : Nat) : Bool :=
  (b.sq c q).ended || ((b.cmd (b.sq c q).owner).map (fun m => m.served.isSome)).getD false

/-- The core whose bucket a request is charged to (R62, R267): none for the walker, the dispatcher and the apply unit (R236). -/
def Blk.bucketCore (b : Blk) (r : Req) : Option Nat :=
  match r with
  | .copy id => (b.copies.find? (fun x => x.id = id)).map (·.c)
  | .inter id => (b.cmd id).bind (fun m => match m.phase with | .held c _ => some c | _ => none)
  | _ => r.core

/-- A request of a core waits on its bucket at a port (R62). -/
def Blk.bucketHolds (b : Blk) (r : Req) (dev : Bool) (pa : Nat) : Bool :=
  match b.bucketCore r with
  | none => false
  | some c => b.shutAt c dev pa && (match b.reqQueue r with | some x => !b.uncharged x.1 x.2 | none => true)

/-- Read n bytes of virtual memory, block by block (fuel blocks): every block must translate and return. -/
def Blk.vreadN (b : Blk) (r : Req) (ctx : Nat) (v : View) : Nat → Nat → Nat → Blk × Rd
  | 0, _, _ => (b, .bytes [])
  | k + 1, va, n =>
    if n = 0 then (b, .bytes []) else
    let m := min n (64 - va % 64)
    match b.xl r ctx va false with
    | (b, .wait) => (b, .wait)
    | (b, .bad k) => (b, .fail k)
    | (b, .ok t pa) =>
      if b.bucketHolds r t.dev pa then (b, .wait) else
      match b.rdPart t pa va m v with
      | .wait => (b, .wait)
      | .fail x => (b, .fail x)
      | .poison =>
        match b.vreadN r ctx v k (va + m) (n - m) with
        | (b, .bytes _) => (b, .poison)
        | x => x
      | .bytes l =>
        match b.vreadN r ctx v k (va + m) (n - m) with
        | (b, .bytes l2) => (b, .bytes (l ++ l2))
        | x => x

/-- Read n bytes of virtual memory. -/
def Blk.vread (b : Blk) (r : Req) (ctx : Nat) (v : View) (va n : Nat) : Blk × Rd :=
  b.vreadN r ctx v (n / 64 + 2) va n

/-! ### Writes of virtual memory -/

/-- A physical part of a write: the translation, address and bytes. -/
structure WPart where
  t : Tlb
  pa : Nat
  bytes : List Byte
  deriving DecidableEq, Repr

/-- What translating a write answers. -/
inductive Wx
  | parts (l : List WPart)
  | wait
  | fail (kind : Nat)
  deriving DecidableEq, Repr

/-- Translate a write, split at 1 GiB pages (R287); a refused device address fails (R249). -/
def Blk.xlWriteN (b : Blk) (r : Req) (ctx : Nat) : Nat → Nat → List Byte → Blk × Wx
  | 0, _, _ => (b, .parts [])
  | k + 1, va, l =>
    if l.isEmpty then (b, .parts []) else
    let m := min l.length (2 ^ 30 - va % 2 ^ 30)
    match b.xl r ctx va true with
    | (b, .wait) => (b, .wait)
    | (b, .bad k) => (b, .fail k)
    | (b, .ok t pa) =>
      if t.dev && (if tierOf pa < 3 then !b.paRange pa m else (b.window pa).isNone) then (b, .fail 7)
      else if b.bucketHolds r t.dev pa then (b, .wait)
      else
        match b.xlWriteN r ctx k (va + m) (l.drop m) with
        | (b, .parts ps) => (b, .parts ({ t := t, pa := pa, bytes := l.take m } :: ps))
        | x => x

/-- Translate a write of virtual memory. -/
def Blk.xlWrite (b : Blk) (r : Req) (ctx va : Nat) (l : List Byte) : Blk × Wx :=
  b.xlWriteN r ctx (l.length / 2 ^ 30 + 2) va l

/-- 64-bit words of bytes, the last filled with zeros. -/
def bytesWords : Nat → List Byte → List W64
  | 0, _ => []
  | n + 1, l => if l.isEmpty then [] else BitVec.ofNat 64 (leNat (l.take 8)) :: bytesWords n (l.drop 8)

/-- A part of a write into window space that stays inside 4 KiB (R394): a WR to the window's node, or through this chip's own
receive window (R401). -/
def Blk.windowPart (b : Blk) (cmd : Option Nat) (conf : Bool) (pa : Nat) (bytes : List Byte) : Blk :=
  match b.window pa with
  | none => b
  | some (node, rwin) =>
    let off := pa % 2 ^ 32
    if node = b.node then
      match b.rwtAddr rwin 2 off bytes.length true with
      | (0, pa) => b.passWrite (fld (b.rwt rwin).1 8 4) pa bytes
      | (st, _) => match cmd with | some c => b.meet c st | none => b
    else
      match b.lxRequest cmd (.write cmd) node 2 rwin
          (BitVec.ofNat 64 (off + bytes.length <<< 32) :: bytesWords bytes.length bytes) conf with
      | (b, .sent) => b
      | (b, .noRoute) => match cmd with | some c => b.meet c 0x60 | none => b
      | (b, .notPermitted) => match cmd with | some c => b.meet c 0x32 | none => b

/-- The same, cut at 4 KiB boundaries; n pieces at most. -/
def windowCut (cmd : Option Nat) (conf : Bool) : Nat → Nat → List Byte → Blk → Blk
  | 0, _, _, b => b
  | n + 1, pa, l, b =>
    if l.isEmpty then b else
    let m := 4096 - pa % 4096
    windowCut cmd conf n (pa + m) (l.drop m) (b.windowPart cmd conf pa (l.take m))

/-- A part of a write into window space. -/
def Blk.windowWrite (b : Blk) (cmd : Option Nat) (p : WPart) : Blk :=
  windowCut cmd (p.t.cr ≠ 0) (p.bytes.length / 4096 + 2) p.pa p.bytes b

/-- Issue the device and window parts of a write; the numbers of the queued writes and the host parts are answered. -/
def Blk.issueParts (b : Blk) (cmd : Option Nat) : List WPart → Blk × List Nat × List (Nat × List Byte)
  | [] => (b, [], [])
  | p :: l =>
    if p.t.dev && tierOf p.pa < 3 then
      let (b, i) := b.queueWrite p.t.cr p.pa p.bytes cmd
      let (b, is, hs) := b.issueParts cmd l
      (b, i :: is, hs)
    else if p.t.dev then
      (b.windowWrite cmd p).issueParts cmd l
    else
      let (b, is, hs) := b.issueParts cmd l
      (b, is, (p.pa, p.bytes) :: hs)

/-- Carry out a write at once: the parts pass and are acknowledged. -/
def Blk.doParts (b : Blk) (cmd : Option Nat) (l : List WPart) : Blk :=
  l.foldl (fun b p =>
    if p.t.dev && tierOf p.pa < 3 then b.passWrite p.t.cr p.pa p.bytes
    else if p.t.dev then b.windowWrite cmd p
    else b.hostWrite p.pa p.bytes) b

/-- The writes numbered in l have passed their ports. -/
def Blk.passed (b : Blk) (l : List Nat) : Bool := !b.wq.any (fun w => l.contains w.id)

/-- The host writes of an acknowledged write. -/
def Blk.hostParts (b : Blk) (l : List (Nat × List Byte)) : Blk := l.foldl (fun b p => b.hostWrite p.1 p.2) b

end Sys2Proof.Machine
end

