-- ==== Sys2Proof/Machine/Tables.lean ====
section
/-! DEFINITION. Table descriptors and their checks (R29 to R37, R252, R412 to R415), dequantisation of a row (R31 to R34),
index resolution (R38, R39, R413, R416). -/
namespace Sys2Proof.Machine

/-- A reserved field [lo + n - 1 : lo] of a word is nonzero. -/
def res (w : W64) (lo n : Nat) : Bool := fld w lo n ≠ 0

/-- Some condition of a list of checks fails. -/
def anyOf (l : List Bool) : Bool := l.any id

/-! ### Fields of the TD and TX -/

/-- FMT. -/
def TableCopy.fmt (t : TableCopy) : Nat := fld (qw t.td 0) 4 4
/-- D. -/
def TableCopy.d (t : TableCopy) : Nat := fld (qw t.td 0) 8 13 + 1
/-- r. -/
def TableCopy.r (t : TableCopy) : Nat := fld (qw t.td 0) 21 7 + 1
/-- Row stride in bytes. -/
def TableCopy.stride (t : TableCopy) : Nat := 16 * (fld (qw t.td 0) 28 8 + 1)
/-- HASH. -/
def TableCopy.hash (t : TableCopy) : Nat := fld (qw t.td 0) 36 2
/-- DEFMODE. -/
def TableCopy.defmode (t : TableCopy) : Bool := bit (qw t.td 0) 38
/-- POISUB. -/
def TableCopy.poisub (t : TableCopy) : Bool := bit (qw t.td 0) 39
/-- NULLSKIP. -/
def TableCopy.nullskip (t : TableCopy) : Bool := bit (qw t.td 0) 40
/-- CACHE. -/
def TableCopy.cache (t : TableCopy) : Bool := bit (qw t.td 0) 41
/-- TIERED. -/
def TableCopy.tiered (t : TableCopy) : Bool := bit (qw t.td 0) 42
/-- EFMT. -/
def TableCopy.efmt (t : TableCopy) : Nat := fld (qw t.td 0) 43 2
/-- REPL. -/
def TableCopy.repl (t : TableCopy) : Nat := fld (qw t.td 0) 45 2
/-- TRAIN. -/
def TableCopy.train (t : TableCopy) : Bool := bit (qw t.td 0) 47
/-- ROWS. -/
def TableCopy.rows (t : TableCopy) : Nat := fld (qw t.td 1) 0 41
/-- DBASE. -/
def TableCopy.dbase (t : TableCopy) : Nat := fld (qw t.td 2) 0 57
/-- SBASE. -/
def TableCopy.sbase (t : TableCopy) : Nat := fld (qw t.td 3) 0 57
/-- DEFPTR. -/
def TableCopy.defptr (t : TableCopy) : Nat := fld (qw t.td 4) 0 57
/-- SHARDMAP. -/
def TableCopy.shardmap (t : TableCopy) : Nat := fld (qw t.td 6) 0 57
/-- XPTR. -/
def TableCopy.xptr (t : TableCopy) : Nat := fld (qw t.td 7) 0 57
/-- EBASE. -/
def TableCopy.ebase (t : TableCopy) : Nat := fld (qw t.tx 3) 0 57
/-- SPLIT. -/
def TableCopy.split (t : TableCopy) : Nat := fld (qw t.tx 4) 0 41
/-- STATS. -/
def TableCopy.statsPtr (t : TableCopy) : Nat := fld (qw t.tx 6) 0 57
/-- OPTPTR. -/
def TableCopy.optptr (t : TableCopy) : Nat := fld (qw t.tx 7) 0 57
/-- The table is compact (R31). -/
def TableCopy.compact (t : TableCopy) : Bool := t.fmt = 8 || t.fmt = 9
/-- The table is FP64. -/
def TableCopy.fp64 (t : TableCopy) : Bool := t.fmt = 7
/-- The format has a scale plane. -/
def TableCopy.scaled (t : TableCopy) : Bool := t.fmt ≤ 3 || t.compact
/-- Elements or codes in a stored row: D, or r for a compact table. -/
def TableCopy.n (t : TableCopy) : Nat := if t.compact then t.r else t.d
/-- Encoded row bytes (R31). -/
def TableCopy.rowBytes (t : TableCopy) : Nat :=
  if t.fmt = 1 || t.fmt = 9 then t.n / 2
  else if t.fmt = 4 || t.fmt = 5 then 2 * t.n
  else if t.fmt = 6 then 4 * t.n
  else if t.fmt = 7 then 8 * t.n
  else t.n
/-- Offset of the scale entry behind an encoded row in a camp or a replica record (R251, R420). -/
def TableCopy.scaleOff (t : TableCopy) : Nat := (t.rowBytes + 15) / 16 * 16
/-- The accumulator format (R99). -/
def TableCopy.acc (t : TableCopy) : FFmt := if t.fp64 then .fp64 else .fp32
/-- Bytes of an E element (R35). -/
def TableCopy.esize (t : TableCopy) : Nat := if t.efmt = 0 then 1 else 2
/-- Stride of a row of E (R35). -/
def TableCopy.estride (t : TableCopy) : Nat := (t.d * t.esize + 63) / 64 * 64
/-- Format of state plane k: 0 absent, 1 bf16, 2 fp32 (R30). -/
def TableCopy.sfmt (t : TableCopy) (k : Nat) : Nat := fld (qw t.tx 0) (4 + 4 * k) 2
/-- State plane k holds one element per row. -/
def TableCopy.srow (t : TableCopy) (k : Nat) : Bool := bit (qw t.tx 0) (6 + 4 * k)
/-- Base of state plane k. -/
def TableCopy.sbasek (t : TableCopy) (k : Nat) : Nat := fld (qw t.tx (1 + k)) 0 57
/-- A TX is required (R30). -/
def TableCopy.needTx (t : TableCopy) : Bool := t.compact || t.hash = 3 || t.train

/-! ### Fields of the SMD (R412) -/

/-- KIND. -/
def TableCopy.skind (t : TableCopy) : Nat := fld (qw t.smd 0) 4 2
/-- Number of shards. -/
def TableCopy.nshard (t : TableCopy) : Nat := fld (qw t.smd 0) 16 16 + 1
/-- The table is sharded. -/
def TableCopy.sharded (t : TableCopy) : Bool := t.shardmap ≠ 0 && t.smd ≠ []
/-- REPROWS. -/
def TableCopy.reprows (t : TableCopy) : Nat := if t.sharded then fld (qw t.smd 2) 0 41 else 0
/-- RBASE. -/
def TableCopy.rbase (t : TableCopy) : Nat := fld (qw t.smd 3) 0 57
/-- RSTRIDE. -/
def TableCopy.rstride (t : TableCopy) : Nat := fld (qw t.smd 4) 0 16
/-- Offset of the step stamp in a replica record (R420). -/
def TableCopy.stampOff (t : TableCopy) : Nat := if t.scaled then t.scaleOff + 4 else t.scaleOff
/-- Bytes of a replica record (R420). -/
def TableCopy.repBytes (t : TableCopy) : Nat := t.stampOff + 4

/-! ### Checks -/

/-- D, r and the stride obey R32. -/
def TableCopy.sizeBad (t : TableCopy) : Bool :=
  (if t.compact then t.d > 1024 || t.r < 8 || t.r > 128
   else t.rowBytes > 4096) ||
  (t.fmt = 1 && t.d % 2 = 1) || (t.fmt = 9 && t.r % 2 = 1) || t.stride < t.rowBytes

/-- Hash multipliers and the split obey R29 and R30. -/
def TableCopy.hashBad (t : TableCopy) : Bool :=
  anyOf [
    t.hash ≥ 2 && !bit (qw t.td 5) 0,
    t.hash < 2 && qw t.td 5 ≠ 0,
    t.hash = 3 && !bit (qw t.tx 5) 0,
    t.hash ≠ 3 && t.tx ≠ [] && (qw t.tx 5 ≠ 0 || t.split ≠ 0),
    t.hash = 3 && (t.split = 0 || t.split ≥ t.rows)]

/-- Reserved fields and encodings of the TD. -/
def TableCopy.tdRes (t : TableCopy) : Bool :=
  anyOf [
    res (qw t.td 0) 48 16, res (qw t.td 1) 41 23, res (qw t.td 2) 57 7, res (qw t.td 3) 57 7, res (qw t.td 4) 57 7,
    res (qw t.td 6) 57 7, res (qw t.td 7) 57 7, t.fmt ≥ 10, t.efmt = 3, t.repl = 3,
    !t.compact && (t.efmt ≠ 0 || res (qw t.td 0) 21 7)]

/-- Reserved fields and encodings of the TX. -/
def TableCopy.txRes (t : TableCopy) : Bool :=
  t.tx ≠ [] && anyOf [
    bit (qw t.tx 0) 7, res (qw t.tx 0) 11 53, t.sfmt 0 = 3, t.sfmt 1 = 3, t.sfmt 0 = 0 && t.sfmt 1 ≠ 0,
    res (qw t.tx 1) 57 7, res (qw t.tx 2) 57 7, res (qw t.tx 3) 57 7, res (qw t.tx 4) 41 23, res (qw t.tx 6) 57 7,
    res (qw t.tx 7) 57 7]

/-- Base addresses, and fields that must be present or absent together (R36). -/
def TableCopy.baseBad (t : TableCopy) : Bool :=
  anyOf [
    t.dbase % 64 ≠ 0, t.sbase % 64 ≠ 0, t.defptr % 64 ≠ 0, t.xptr % 64 ≠ 0, t.shardmap % 64 ≠ 0,
    t.scaled && t.sbase = 0, !t.scaled && t.sbase ≠ 0,
    t.defmode && t.defptr = 0, !t.defmode && t.defptr ≠ 0,
    t.needTx && t.xptr = 0,
    t.tx ≠ [] && anyOf [
      t.ebase % 64 ≠ 0, t.sbasek 0 % 64 ≠ 0, t.sbasek 1 % 64 ≠ 0,
      t.statsPtr % 64 ≠ 0, t.optptr % 64 ≠ 0,
      t.compact && t.ebase = 0, !t.compact && t.ebase ≠ 0,
      t.sfmt 0 = 0 && t.sbasek 0 ≠ 0, t.sfmt 1 = 0 && t.sbasek 1 ≠ 0,
      t.train && t.optptr = 0, !t.train && t.optptr ≠ 0]]

/-- Checks of the SMD (R414, R415). -/
def TableCopy.smdBad (t : TableCopy) : Bool :=
  t.smd ≠ [] && anyOf [
    res (qw t.smd 0) 6 10, res (qw t.smd 0) 43 5, res (qw t.smd 1) 57 7, res (qw t.smd 2) 41 23, res (qw t.smd 3) 57 7,
    res (qw t.smd 4) 28 4, res (qw t.smd 4) 42 22, res (qw t.smd 5) 57 7, qw t.smd 7 ≠ 0,
    t.skind = 0, t.skind = 3,
    !bit (qw t.smd 0) 42 && (res (qw t.smd 0) 32 10 || res (qw t.smd 0) 48 16),
    fld (qw t.smd 1) 0 57 % 64 ≠ 0, t.rbase % 64 ≠ 0, fld (qw t.smd 5) 0 57 % 8 ≠ 0,
    t.hash = 3, fld (qw t.smd 2) 0 41 > t.rows,
    fld (qw t.smd 2) 0 41 = 0 && (t.repl ≠ 0 || t.rbase ≠ 0 || res (qw t.smd 5) 0 57),
    fld (qw t.smd 2) 0 41 ≠ 0 && (t.repl = 0 || t.rstride % 16 ≠ 0 || t.rstride > 4096 || t.rstride < t.repBytes),
    bit (qw t.smd 0) 42 && !t.compact]

/-- The camp footprint exceeds the camp slot size while the directory is in use (R252). -/
def Blk.campBad (b : Blk) (t : TableCopy) : Bool :=
  t.tiered && b.rb 0x30418 0 &&
    (if t.scaled then t.scaleOff + 4 else t.rowBytes) > 2 ^ clamp 6 12 (b.rf 0x30408 0 4)

/-- The checks of R36, with those of R252 and R415: the status of the first that fails. -/
def Blk.tabBad (b : Blk) (t : TableCopy) : Option Nat :=
  if fld (qw t.td 0) 0 4 ≠ 1 || (t.tx ≠ [] && fld (qw t.tx 0) 0 4 ≠ 1) || (t.smd ≠ [] && fld (qw t.smd 0) 0 4 ≠ 1) then some 0x50
  else if t.tdRes || t.sizeBad || t.rows = 0 || t.rows > 2 ^ 40 || t.baseBad || t.txRes || t.hashBad || t.smdBad ||
      (t.smd = [] && t.repl ≠ 0) || b.campBad t then some 0x51
  else none

/-! ### Dequantisation (R31, R33, R34) -/

/-- The element or code i of an encoded row as a decoded value. -/
def TableCopy.elemV (t : TableCopy) (row : List Byte) (i : Nat) : FV :=
  let byte := fun k => (row.getD k 0).toNat
  match t.fmt with
  | 0 => .fin false (byte i) 0
  | 8 => .fin false (byte i) 0
  | 1 => .fin false ((byte (i / 2) >>> (4 * (i % 2))) % 16) 0
  | 9 => .fin false ((byte (i / 2) >>> (4 * (i % 2))) % 16) 0
  | 2 => FV.of .e4m3 (byte i)
  | 3 => FV.of .e5m2 (byte i)
  | 4 => FV.of .bf16 (leNat ((row.drop (2 * i)).take 2))
  | 5 => FV.of .fp16 (leNat ((row.drop (2 * i)).take 2))
  | 6 => FV.of .fp32 (leNat ((row.drop (4 * i)).take 4))
  | _ => FV.of .fp64 (leNat ((row.drop (8 * i)).take 8))

/-- Dequantise an encoded row with its scale entry: one pattern of the accumulator format per element. -/
def TableCopy.dequant (t : TableCopy) (row : List Byte) (sc : List Byte) : List W64 :=
  let s := leNat (sc.take 2)
  let o := leNat ((sc.drop 2).take 2)
  (List.range t.n).map (fun i =>
    BitVec.ofNat 64 (
      if t.fmt = 7 then leNat ((row.drop (8 * i)).take 8)
      else if t.fmt = 6 then leNat ((row.drop (4 * i)).take 4)
      else if t.scaled then
        FFmt.fp32.mulAddV (FV.of .fp16 s) (t.elemV row i)
          (if t.fmt = 2 || t.fmt = 3 then .fin false 0 0 else FV.of .fp16 o) s o
      else FFmt.fp32.cvtV (t.elemV row i) (leNat ((row.drop (2 * i)).take 2))))

/-- The zero row's dequantised value (R43). -/
def TableCopy.zeroRow (t : TableCopy) : List W64 := List.replicate t.n 0

/-! ### Index resolution (R38, R39, R413) -/

/-- The hash of R39. -/
def mulhash (k m n : Nat) : Nat := ((k * m) % 2 ^ 64 / 2 ^ 24) * n / 2 ^ 40

/-- Resolve an index of width w bits (as an unsigned pattern) of a table. In a SCAT an invalid index is null (R40). -/
def TableCopy.resolve (t : TableCopy) (w idx : Nat) (scat : Bool) : EKind :=
  let neg := idx ≥ 2 ^ (w - 1)
  let u := if neg then 2 ^ 64 - 2 ^ w + idx else idx
  let invalid : EKind := if scat then .nul true else if t.defmode then .deflt true else .zero true
  if idx = 2 ^ (w - 1) then (if t.nullskip then .masked else invalid)
  else
    match t.hash with
    | 0 => if neg || u ≥ t.rows then invalid else .row u
    | 1 => .row (u % t.rows)
    | 2 => .row (mulhash u (qw t.td 5).toNat t.rows)
    | _ => .pair (mulhash u (qw t.td 5).toNat t.split) (t.split + mulhash u (qw t.tx 5).toNat (t.rows - t.split))

/-- Resolve an index of a request served here against the chip's own shard of `own` rows (R414): owner-side indices are not hashed. -/
def TableCopy.resolveOwn (t : TableCopy) (w idx : Nat) (scat : Bool) : EKind :=
  let invalid : EKind := if scat then .nul true else if t.defmode then .deflt true else .zero true
  if idx = 2 ^ (w - 1) then (if t.nullskip then .masked else invalid)
  else if t.own ≤ idx then invalid
  else .row idx

/-! ### Weights (R51) -/

/-- Size of a weight of format WFMT. -/
def wsize (f : Nat) : Nat := if f = 0 then 4 else if f = 3 then 8 else 2

/-- A weight of format WFMT in the accumulator format. -/
def widenW (f : Nat) (acc : FFmt) (x : Nat) : Nat :=
  match f with
  | 0 => acc.cvt .fp32 x
  | 1 => acc.cvt .bf16 x
  | 2 => acc.cvt .fp16 x
  | _ => acc.cvt .fp64 x

end Sys2Proof.Machine
end

