-- ==== Sys2Proof/Machine/Cmds.lean ====
section
/-! DEFINITION. The life of a command on its core: task contexts and the work queue (R297, R308, R344), anchors and their
waiters (R376, R377), tile locks (R140), belay records (R290), and the end of a command (R57, R192, R285, R307). -/
namespace Sys2Proof.Machine

/-! ### Fields of the CD (R344) -/

/-- OPCODE. -/
def Cmd.op (c : Cmd) : Nat := fld (qw c.cd 0) 8 8
/-- NEXT. -/
def Cmd.next (c : Cmd) : Nat := fld (qw c.cd 0) 5 2
/-- IRQ. -/
def Cmd.irq (c : Cmd) : Bool := bit (qw c.cd 0) 16
/-- DSUB. -/
def Cmd.dsub (c : Cmd) : Bool := bit (qw c.cd 0) 18
/-- BARRIER. -/
def Cmd.barrier (c : Cmd) : Bool := bit (qw c.cd 0) 19
/-- CORE of the hint. -/
def Cmd.coreHint (c : Cmd) : Nat := fld (qw c.cd 0) 32 3
/-- ANYCORE. -/
def Cmd.anycore (c : Cmd) : Bool := bit (qw c.cd 0) 35
/-- TMASK; 0 admits all four. -/
def Cmd.tmask (c : Cmd) : Nat := let m := fld (qw c.cd 0) 36 4; if m = 0 then 15 else m
/-- DEADLINE; 0 is none. -/
def Cmd.deadline (c : Cmd) : Nat := (qw c.cd 1).toNat
/-- PTR. -/
def Cmd.ptr (c : Cmd) : Nat := fld (qw c.cd 3) 0 57
/-- The translation context: the ring's, or that of the receive window of a served command. -/
def Cmd.ctx (c : Cmd) : Nat := c.ring
/-- A dispatcher command (R501). -/
def Cmd.isDisp (c : Cmd) : Bool := 0x20 ≤ c.op && c.op ≤ 0x25 && c.served.isNone
/-- The core and task context that hold the command. -/
def Cmd.held (c : Cmd) : Option (Nat × Nat) :=
  match c.phase with
  | .held k t => some (k, t)
  | _ => none
/-- A command that task contexts admit by its mask. -/
def Cmd.admits (c : Cmd) (t : Nat) : Bool := c.tmask.testBit t

/-- Deadlines of commands held by core c are checked (R197). -/
def Blk.dlChecked (b : Blk) (c : Nat) : Bool := !b.rb (0x100700 + 0x10000 * c) 1

/-! ### Task contexts (R297, R308) -/

/-- The registers of a task context at the start of a command (R297). -/
def taskStart (c : Cmd) : Task :=
  { st := .ready
    cmd := some c.id
    g := ((List.range 24).foldl (fun t i => Tab.set 0 t (40 + i) (qw c.ext i))
      (Tab.set 0 (Tab.set 0 [] 1 (BitVec.ofNat 64 c.ring)) 2 (BitVec.ofNat 64 c.cdVa)))
    pc := BitVec.ofNat 64 c.ptr }

/-- The lowest-numbered FREE task context that a command admits. -/
def Core.freeTask (k : Core) (c : Cmd) : Option Nat :=
  (List.range 4).find? (fun t => (k.task t).st = .free && c.admits t)

/-- GXACT follows GX while no task context of the core holds a command (R198). -/
def Blk.gxFollow (b : Blk) (c : Nat) : Blk :=
  if (List.range 4).all (fun t => (b.task c t).st = .free) then
    b.setFld (0x100700 + 0x10000 * c) 1 1 (b.rf (0x100700 + 0x10000 * c) 0 1)
  else b

/-- The head of a work queue takes the lowest-numbered FREE task context it admits; n at most (R308, R344). The sticky chain
flags of the task context are cleared (R171). -/
def Blk.place : Nat → Nat → Blk → Blk
  | 0, _, b => b
  | n + 1, c, b =>
    match (b.core c).workq with
    | [] => b
    | id :: rest =>
      if (b.core c).fatal || (b.core c).rst || b.qHeld 6 c c then b else
      match b.cmd id with
      | none => (b.updCore c (fun k => { k with workq := rest })).place n c
      | some m =>
        match (b.core c).freeTask m with
        | none => b
        | some t =>
          let b := b.updCore c (fun k => ({ k with workq := rest } : Core).updTask t (fun _ => taskStart m))
          let b := b.updCmd id (fun x => { x with phase := .held c t })
          (b.setFld (0x100600 + 0x10000 * c + 8 * t) 0 5 0).place n c

/-! ### Anchors (R375 to R377) -/

/-- Release one waiter. -/
def Blk.wake (b : Blk) (w : Waiter) : Blk :=
  match w.who with
  | .task c t => b.updTask c t (fun x => { x with
      waitAnc := none, awok := (w.anchor, w.target) :: x.awok, st := if x.st = .waiting then .ready else x.st })
  | .cmd id => b.updCmd id (fun x => { x with ready := true })
  | .fence f => { b with fences := b.fences.map (fun (x : Fence) => if x.id = f then { x with entry := true } else x) }

/-- Waiters whose target is met leave the list (R377). -/
def Blk.releaseWaiters (b : Blk) (k : Nat) : Blk :=
  let met := fun (w : Waiter) => w.anchor = k && decide (w.target ≤ b.anchor k)
  let hit := b.waiters.filter met
  let b := { b with waiters := b.waiters.filter (fun w => !met w) }
  hit.foldl Blk.wake b

/-- An add (set = false) or a set at an anchor (R376). -/
def Blk.signal (b : Blk) (k : Nat) (isSet : Bool) (v : Nat) : Blk :=
  (b.setAnchor k (if isSet then v else b.anchor k + v)).releaseWaiters k

/-- A wait: met at once, or entered in the waiter list (R376, R377). -/
def Blk.waitAnchor (b : Blk) (w : Waiter) : Blk :=
  if w.target ≤ b.anchor w.anchor then b.wake w else { b with waiters := b.waiters ++ [w] }

/-- Waiters for which p holds leave the list. -/
def Blk.dropWaiters (b : Blk) (p : Who → Bool) : Blk := { b with waiters := b.waiters.filter (fun w => !p w.who) }

/-! ### Tile locks (R140) -/

/-- Tile buffer i. -/
def Core.tile (k : Core) (i : Nat) : Tile := Tab.get {} k.tiles i
/-- Change tile buffer i. -/
def Core.updTile (k : Core) (i : Nat) (f : Tile → Tile) : Core := { k with tiles := Tab.set {} k.tiles i (f (k.tile i)) }
/-- Tile buffer i of core c. -/
def Blk.tile (b : Blk) (c i : Nat) : Tile := (b.core c).tile i
/-- Change tile buffer i of core c. -/
def Blk.updTile (b : Blk) (c i : Nat) (f : Tile → Tile) : Blk := b.updCore c (fun k => k.updTile i f)

/-- Element k of a tile buffer. -/
def Tile.at (t : Tile) (k : Nat) : W32 :=
  Tab.get (match t.undef with | some n => (Config.undefined n k).setWidth 32 | none => 0) t.e k
/-- Write element k of a tile buffer. -/
def Tile.put (t : Tile) (k : Nat) (v : W32) : Tile := { t with e := Tab.ins (Tab.del t.e k) k v }

/-- Grant what the heads of a tile buffer's wait list allow, in request order; n at most. -/
def Tile.grant : Nat → Tile → Tile
  | 0, t => t
  | n + 1, t =>
    match t.waits with
    | [] => t
    | r :: rest =>
      match t.lock, r.write with
      | .free, true => { t with lock := .exclusive, owner := r.task, unit := r.unit, waits := rest }
      | .free, false => ({ t with lock := .shared, readers := [(r.task, r.unit)], waits := rest } : Tile).grant n
      | .shared, false => ({ t with readers := t.readers ++ [(r.task, r.unit)], waits := rest } : Tile).grant n
      | _, _ => t

/-- The tile is locked by the unit of a task. -/
def Tile.holds (t : Tile) (task unit : Nat) (write : Bool) : Bool :=
  if write then t.lock = .exclusive && t.owner = task && t.unit = unit
  else t.lock = .shared && t.readers.contains (task, unit)

/-- A request that is not granted and not waiting is granted at once where nobody waits and the lock allows it, else it waits in
request order. -/
def Tile.request (t : Tile) (task unit : Nat) (write : Bool) (now : Nat) : Tile :=
  if t.holds task unit write || t.waits.any (fun r => r.task = task && r.unit = unit && r.write = write) then t
  else
    let x : Tile := { t with waits := t.waits ++ [{ task := task, unit := unit, write := write, since := now }] }
    if t.waits.isEmpty then x.grant 1 else x

/-- A reader finishes. -/
def Tile.endRead (t : Tile) (task unit : Nat) : Tile :=
  if t.holds task unit false then
    let l := t.readers.erase (task, unit)
    { t with readers := l, lock := if l.isEmpty then .free else .shared }
  else t

/-- A request that has not been granted is withdrawn. -/
def Tile.cancel (t : Tile) (task unit : Nat) : Tile :=
  { t with waits := t.waits.filter (fun r => !(r.task = task && r.unit = unit)) }

/-- The writer, or the tile-queue entry, releases the lock. -/
def Tile.release (t : Tile) : Tile :=
  match t.lock with
  | .exclusive => { t with lock := .free }
  | .queued => { t with lock := .free }
  | _ => t

/-- What a task holds or waits for leaves when its command fails or is aborted; written contents become undefined (R140). -/
def Tile.drop (t : Tile) (task free : Nat) : Tile :=
  let t := { t with waits := t.waits.filter (fun r => r.task ≠ task), readers := t.readers.filter (fun r => r.1 ≠ task) }
  match t.lock with
  | .exclusive => if t.owner = task then { t with lock := .free, e := [], undef := some free } else t
  | .queued => if t.owner = task then { t with lock := .free, e := [], undef := some free } else t
  | .shared => if t.readers.isEmpty then { t with lock := .free } else t
  | .free => t

/-- The tile locks of task context t of core c are released as for a failed command. -/
def Blk.dropLocks (b : Blk) (c t : Nat) : Blk :=
  iter 6 (fun i b => (b.updTile c i (fun x => x.drop t b.free)).freed) b

/-! ### Belay records (R290) -/

/-- What a belay record tells. -/
structure BelayInfo where
  kind : Nat
  final : Bool
  core : Nat
  queue : Nat
  task : Nat
  ring : Nat
  w : Nat
  bw : Nat
  fslot : Nat
  fgen : Nat
  pass : Nat
  next : Nat
  ubits : List Nat
  bbits : List Nat
  deriving DecidableEq, Repr

/-- The bytes of a bitmap of n bytes with the given bits set. -/
def bitmap (n : Nat) (l : List Nat) : List Byte :=
  (List.range n).map (fun i => BitVec.ofNat 8 ((List.range 8).foldl (fun v k => if l.contains (8 * i + k) then v + 2 ^ k else v) 0))

/-- The bytes of a belay record. -/
def BelayInfo.bytes (i : BelayInfo) (seq : Nat) : List Byte :=
  wordBytes [
    BitVec.ofNat 64 (1 + i.kind <<< 4 + (if i.final then 128 else 0) + i.core <<< 8 + i.queue <<< 12 + i.task <<< 16 +
      i.ring <<< 24 + (seq % 2 ^ 32) <<< 32),
    BitVec.ofNat 64 i.w, BitVec.ofNat 64 i.bw,
    BitVec.ofNat 64 (i.fslot + i.fgen <<< 8 + (i.pass % 65536) <<< 32),
    BitVec.ofNat 64 i.next, 0, 0, 0] ++ bitmap 1024 i.ubits ++ bitmap 1024 i.bbits

/-- Write a belay record in a slot; the command's completion record will name it. After a block-fatal error none is written. -/
def Blk.belayWrite (b : Blk) (slot : Nat) (cmd : Nat) (i : BelayInfo) : Blk :=
  if b.pwr.halt then b else
  let seq := (Tab.get 0 b.belay slot + 1) % 2 ^ 32
  let b := { b with belay := Tab.set 0 b.belay slot seq }
  let b := b.hostWrite (4096 * b.rf 0x40200 12 40 + 4096 * slot) (i.bytes seq)
  b.updCmd cmd (fun c => { c with belay := some (slot, seq) })

/-- The belay slot of a pass: its queue's, or its task context's for a short-path pass. -/
def passSlot (c q : Nat) : Nat := if q < 16 then 16 * c + q else 128 + 4 * c + (q - 16)

/-- The belay record of a pass. -/
def Blk.passBelay (b : Blk) (c q : Nat) (final : Bool) : Blk :=
  let s := b.sq c q
  let fs := s.park.getD (0, 0)
  b.belayWrite (passSlot c q) s.owner
    { kind := if q < 16 then 0 else 6, final := final, core := c, queue := if q < 16 then q else 0, task := s.ownerTask,
      ring := s.ctx, w := s.w, bw := s.bw, fslot := if final then 0 else fs.1, fgen := if final then 0 else fs.2,
      pass := s.pass, next := ((s.buf.head?).map (·.ord)).getD s.nextRes,
      ubits := s.dlv.map (fun e => e - s.w), bbits := s.settled.map (fun x => x - s.bw) }

/-! ### The end of a pass (R57) -/

/-- A queue with its pass ended: SD kept for a persistent stream, everything of the pass gone. -/
def SQ.afterPass (s : SQ) : SQ :=
  { st := .armedIdle, cmd := s.cmd, task := s.task, ctx := s.ctx, sd := s.sd, tab := s.tab, pass := s.pass,
    passFlag := true, nextCons := s.nextCons, w := s.w }

/-- PERSIST of the bound SD. -/
def SQ.persist (s : SQ) : Bool := bit (qw s.sd 0) 8

/-- The state a queue takes when its pass is discarded: ARMED_IDLE for a persistent stream, else FREE. -/
def SQ.discard (s : SQ) : SQ := if s.persist then s.afterPass else { passFlag := true, pass := s.pass }

/-- Bag-store slots held by the bags of a pass. -/
def SQ.slots (s : SQ) : Nat := (s.bags.map (fun x => x.slots)).foldl (· + ·) 0

/-- Start the pass that a re-arm begins on a bound queue (R57, R68). -/
def SQ.rearm (s : SQ) (ib wb : W64) : SQ :=
  { st := .active, cmd := s.cmd, task := s.task, ctx := s.ctx, tab := s.tab,
    sd := (s.sd.set 1 ib).set 2 wb, pass := s.pass + 1, cons := s.nextCons }

/-- A tag of a task context ends (R304). -/
def Blk.endTag (b : Blk) (c t : Nat) (tag : Option Nat) : Blk :=
  match tag with
  | none => b
  | some n => b.updTask c t (fun x => { x with tags := x.tags.erase n })

/-- The tag of a consumer. -/
def Consumer.tag : Consumer → Option Nat
  | .none => Option.none
  | .pool _ _ _ t => t
  | .scat _ _ _ t => t

/-- The descriptor of the pass's consumer. -/
def Consumer.d : Consumer → List W64
  | .none => []
  | .pool d _ _ _ => d
  | .scat d _ _ _ => d

/-- The pass is consumed by a SCAT. -/
def Consumer.isScat : Consumer → Bool
  | .scat _ _ _ _ => true
  | _ => false

/-- Tally of a SCAT (R221). -/
def SQ.tally (s : SQ) : Nat := fld (qw s.cons.d 0) 20 8

/-- Contributions arrive at a tally, of which some are null or forwarded (R227). -/
def Blk.tallyAdd (b : Blk) (t n nul : Nat) : Blk :=
  { b.inc (0x61000 + 8 * t) n with nulls := Tab.set 0 b.nulls t (Tab.get 0 b.nulls t + nul) }

/-- Contributions of a pass resolved as null: those of an RGRAD arrive at once, those of a local SCAT at its end (R223, R227). -/
def Blk.scNull (b : Blk) (c q n : Nat) : Blk :=
  let s := b.sq c q
  (if s.srv then b.tallyAdd s.tally n n else b).updSq c q (fun s => { s with nulls := s.nulls + n })

/-- A pass with a SCAT ends, whether whole or early: what has arrived of it is added to its tally (R227). -/
def Blk.scEnd (b : Blk) (c q : Nat) : Blk :=
  let s := b.sq c q
  let b := { b with stalled := b.stalled.filter (fun e => e ≠ (c, q)) }
  if s.cons.isScat && !s.srv then b.tallyAdd s.tally (s.counted + s.nulls) s.nulls else b

/-- GTB, where the gradients lie in a tile buffer. -/
def SQ.gtb (s : SQ) : Option Nat := if s.cons.isScat && bit (qw s.cons.d 0) 9 then some (fld (qw s.cons.d 0) 10 3) else none

/-- The tile buffer that a POOL with DEST = 1 writes. -/
def Consumer.tb : Consumer → Option Nat
  | .pool pd _ _ _ => if bit (qw pd 0) 11 then some (fld (qw pd 0) 12 3) else Option.none
  | _ => Option.none

/-- A consumer takes its pass: a POOL to a tile buffer asks for the writer lock (R111); a SCAT asks for its gradient tile, with DE = 1 for
four more (R226), and a SCAT of element vectors has one bag. -/
def Blk.consStart (b : Blk) (c q : Nat) : Blk :=
  let s := b.sq c q
  match s.cons with
  | .none => b
  | .pool _ _ _ _ =>
    match s.cons.tb with
    | some i => b.updTile c i (fun x => x.request s.ownerTask (8 + q) true b.time.toNat)
    | none => b
  | .scat d _ _ _ =>
    let now := b.time.toNat
    let b := match s.gtb with
      | some i => b.updTile c i (fun x => x.request s.ownerTask (8 + q) false now)
      | none => b
    let four := if bit (qw d 0) 13 then ((List.range 6).filter (fun i => s.gtb ≠ some i)).take 4 else []
    let b := four.foldl (fun b i => b.updTile c i (fun x => x.request s.ownerTask (8 + q) true now)) b
    let b := b.updSq c q (fun s => { s with deTiles := four })
    if fld (qw d 0) 4 3 = 3 then
      b.updSq c q (fun s => { s with ends := [(List.range 5).foldl (fun n k =>
        n * (if k < fld (qw s.sd 0) 4 3 then fld (qw s.sd (3 + k / 2)) (32 * (k % 2)) 32 else 1)) 1] })
    else b

/-- The command whose completion tells that a shadow of a pass of command `id` was discarded: the ABORT that ended it, else itself (R57). -/
def Blk.rearmTeller (b : Blk) (id : Nat) : Nat :=
  match b.cmd id with
  | none => id
  | some m =>
    if !m.aborted then id
    else ((b.cmds.find? (fun x => x.abortOf = some (m.ring, m.pos) && m.served.isNone)).map (·.id)).getD id

/-- A pass leaves its queue: tags end, its tile lock and bag-store slots are freed, and the shadow is applied where the pass
ended by itself; where it was discarded the shadow goes with it and REARM_PENDING is set (R57). -/
def Blk.leavePass (b : Blk) (c q : Nat) (discarded : Bool) : Blk :=
  let s := b.sq c q
  let b := b.updCore c (fun k => { k with bagUsed := k.bagUsed - s.slots })
  let b := match s.cons.tb with
    | some i => b.updTile c i (fun x => if x.holds s.ownerTask (8 + q) true then x.release else x.cancel s.ownerTask (8 + q))
    | none => b
  let b := match s.gtb with
    | some i => b.updTile c i (fun x => (x.endRead s.ownerTask (8 + q)).cancel s.ownerTask (8 + q))
    | none => b
  let b := s.deTiles.foldl (fun b i => (b.updTile c i (fun x =>
    if x.holds s.ownerTask (8 + q) true then { x.release with e := [], undef := some b.free } else x.cancel s.ownerTask (8 + q))).freed) b
  let b := b.endTag c s.ownerTask s.cons.tag
  let b := b.endTag c s.task s.tag
  if discarded then
    let b := if s.shadow.isSome then b.updCmd (b.rearmTeller s.owner) (fun x => x.flag 7) else b
    b.updSq c q SQ.discard
  else
    match s.shadow with
    | some sh =>
      if sh.release then b.updSq c q (fun s => { passFlag := true, pass := s.pass })
      else (b.updSq c q (fun s => { s with shadow := none }.rearm sh.ibase sh.wbase)).consStart c q
    | none => b.updSq c q (fun s => if s.persist then s.afterPass else { passFlag := true, pass := s.pass })

/-- A pass that a command's end discards: once its closed bags are written (R192), and once a parking pass has settled
(R289), the final belay record is written and the queue leaves the pass. -/
def Blk.finishPass (b : Blk) (c q : Nat) : Blk :=
  let s := b.sq c q
  if s.ended && s.out.isEmpty && (s.st ≠ .parked || s.belayed) then (b.passBelay c q true).leavePass c q true else b

/-- A command's end reaches a pass: nothing more is issued, open bags are discarded, rows in flight will be discarded as they
arrive (R192, R195); rows for a tile buffer whose lock has not been granted are not written. -/
def Blk.endPass (b : Blk) (c q : Nat) : Blk :=
  let b := b.scEnd c q
  let b := b.leaveWaits (fun r => match r with | .row _ _ => b.reqQueue r = some (c, q) | _ => false)
  let b := b.updSq c q (fun s => { s with
    ended := true, buf := [], redo := [], flight := [], batches := [], gbatch := [], ready := [], parts := [], pbad := []
    out := if s.cons.tb.isSome then [] else s.out })
  let b := b.updCore c (fun k => { k with
    bagUsed := k.bagUsed - (k.sq q).slots
    feed := k.feed.filter (fun f => f.q ≠ q)
    iq := k.iq.filter (fun a => a.kind ≠ .grad q)
    trk := (k.trk.filter (fun t => !(t.q = q && t.got))).map (fun t => if t.q = q then { t with late := true, faulted := false } else t)
    waits := k.waits.filter (fun t => t.q ≠ q) })
  let b := b.updSq c q (fun s => { s with bags := [] })
  b.finishPass c q

/-! ### The end of a command -/

/-- Why a command ends before its work is done. -/
inductive EndWhy
  | fail (st : Nat)
  | abort
  | deadline
  deriving DecidableEq, Repr

/-- A requester belongs to the command, and its waits end with it; what a fence in SEAL or APPLY waits for stays. -/
def Blk.reqOf (b : Blk) (id : Nat) (r : Req) : Bool :=
  match r with
  | .entry _ => false
  | .report _ => false
  | r => b.reqCmd r = some id

/-- A pass, a chain operation, a copy, an access or a read of the command is parked on a resumable fault (R291). -/
def Blk.isParked (b : Blk) (id : Nat) : Bool :=
  match b.cmd id with
  | none => false
  | some m =>
    m.park.isSome || b.copies.any (fun x => x.cmd = id && x.park.isSome) || b.advs.any (fun x => x.cmd = id && x.park.isSome) ||
    b.fences.any (fun f => f.cmd = id && f.park.isSome && f.phase = .wait) ||
    match m.held with
    | none => false
    | some (c, t) =>
      (b.task c t).parked.isSome ||
      (b.core c).ch.any (fun o => o.cmd = id && o.park.isSome) ||
      (b.core c).qs.any (fun s => s.2.st = .parked && s.2.owner = id)

/-- Final belay records of what is not a pass: sequencer access, chain, copy, interaction (R290, R292). -/
def Blk.endBelays (b : Blk) (m : Cmd) (c t : Nat) : Blk :=
  let slot := 128 + 4 * c + t
  let base : BelayInfo := { kind := 4, final := true, core := c, queue := 0, task := t, ring := m.ring, w := 0, bw := 0,
                            fslot := 0, fgen := 0, pass := 0, next := 0, ubits := [], bbits := [] }
  let b := if (b.task c t).parked.isSome then b.belayWrite slot m.id { base with w := (b.task c t).pc.toNat } else b
  let b := ((b.core c).ch.filter (fun o => o.cmd = m.id && (o.running || o.park.isSome))).foldl
    (fun b o => b.belayWrite slot m.id { base with kind := 1, w := o.w, next := o.chunks }) b
  let b := (b.copies.filter (fun x => x.cmd = m.id)).foldl
    (fun b x =>
      let w := ((List.range (x.done.length + 1)).find? (fun i => !x.done.contains i)).getD 0
      b.belayWrite slot m.id { base with kind := 2, w := w, ubits := (x.done.filter (fun i => i > w)).map (fun i => i - w) }) b
  if (m.op = 0x11 || m.op = 0x12) && m.begun && m.unitW < m.unitN then
    b.belayWrite slot m.id { base with kind := 3, w := m.unitW, next := m.unitN } else b

/-- The end of a running command under R192 and R307: its queued work is discarded, its passes end as ABORT ends them, its
waits end, its locks are released; the completion record follows once its writes are acknowledged. -/
def Blk.endCmd (b : Blk) (id : Nat) (why : EndWhy) : Blk :=
  match b.cmd id with
  | none => b
  | some m =>
    if m.ending then
      (match why with | .fail st => b.meet id st | _ => b)
    else
      let parked := b.isParked id
      let b := b.updCmd id (fun x =>
        let x := { x with ending := true, parked := parked }
        match why with
        | .fail st => x.meet st
        | .abort => { x with aborted := true }
        | .deadline => { x with dl := true })
      match m.phase with
      | .copied => b.updCmd id (fun x => { x with phase := .ended })
      | .queued c => (b.updCore c (fun k => { k with workq := k.workq.erase id })).updCmd id (fun x => { x with phase := .ended })
      | .disp =>
        (b.dropWaiters (fun w => w = .cmd id)).updCmd id (fun x => { x with phase := .ended })
      | .ended => b
      | .held c t =>
        let b := b.endBelays m c t
        let b := b.leaveWaits (b.reqOf id)
        let b := b.dropWaiters (fun w => w = .task c t)
        let gone := b.fences.filter (fun (f : Fence) => f.cmd = id && f.phase = .wait)
        let b := b.dropWaiters (fun w => gone.any (fun f => w = .fence f.id))
        let b : Blk := { b with
          copies := b.copies.filter (fun x => x.cmd ≠ id)
          advs := b.advs.filter (fun x => x.cmd ≠ id)
          fences := b.fences.filter (fun (f : Fence) => !(f.cmd = id && f.phase = .wait)) }
        let b : Blk := b.updCore c (fun (k : Core) => { k with
          iq := k.iq.filter (fun a => a.cmd ≠ id)
          tq := k.tq.filter (fun e => e.cmd ≠ id)
          ch := k.ch.filter (fun o => o.cmd ≠ id)
          xres := k.xres.filter (fun x => x.cmd ≠ id)
          stepOne := if k.stepOne = some t then none else k.stepOne
          plan := match k.plan with | some p => if p.1 = t then none else some p | none => none })
        let b : Blk := b.updTask c t (fun (x : Task) => { x with
          stop := true, slotA := none, word := none, want := none, waitAnc := none, parked := none, lines := []
          st := if x.st = .waiting then .ready else x.st })
        let b := iter 20 (fun q b =>
          let s := b.sq c q
          if (s.st = .active || s.st = .parked) && s.owner = id && !s.ended then b.endPass c q
          else if s.nextCons.cmd = some id then b.updSq c q (fun s => { s with nextCons := .none })
          else b) b
        b.dropLocks c t

/-- A failure with a status from 31h on of an operation or access of a command (R307); 30h for faults that would be
resumable but meet a disabled fault ring. -/
def Blk.failCmd (b : Blk) (id st : Nat) : Blk := b.endCmd id (.fail st)

/-- A translation failure that is not resumable ends the access's command and writes its XLT_FATAL record (R286, R499). -/
def Blk.xltFatal (b : Blk) (r : Req) (ctx kind : Nat) (va : W64) : Blk :=
  let id := b.reqCmd r
  let b := b.xltFatalRec r ctx kind va
  match id with
  | some i => b.failCmd i (xltStatus kind)
  | none => b

/-- A block-fatal error halts the block (R472). Litha ports go DOWN and lose their keys (R455); the laser enable follows. -/
def Blk.blockFatal (b : Blk) (source : Nat) : Blk :=
  if b.pwr.halt then b.setReg 0x1400 (b.reg 0x1400 ||| 2)
  else
    let b := b.loadFatal true source 0
    let b := b.event 0x60 0 0 0 [BitVec.ofNat 64 source]
    iter 8 (fun p (b : Blk) => b.updPort p (fun x => { x.fall with rx := [], rxFlits := [] })) { b with pwr := { b.pwr with halt := true } }

/-- The core stops (R312, R473): CK_ERR_FATAL, one event record, and the end of the commands its task contexts hold. -/
def Blk.coreFatal (b : Blk) (c source : Nat) : Blk :=
  let b := b.loadFatal false source c
  let b := b.event 0x61 0 c 0 [BitVec.ofNat 64 (source + c <<< 8)]
  let b := b.updCore c (fun k => { k with fatal := true })
  let held := (b.cmds.filter (fun m => match m.phase with | .held k _ => k = c | _ => false)).map (·.id)
  held.foldl (fun b id => b.failCmd id 0x42) b

end Sys2Proof.Machine
end

