-- ==== Sys2Proof/Machine/Flags.lean ====
section
/-! DEFINITION. The flag space (R301, R302): constants and engine event bits, bits private to a core, shared bits; and the flags
that a chain operation raises (R170, R171) and its summaries set (R174). -/
namespace Sys2Proof.Machine

/-- The register at offset o of the per-core block of core c. -/
def coreReg (c o : Nat) : Nat := 0x100000 + 0x10000 * c + o

/-- Outbound courier entries in use or promised: a waiting half holds one (R372). -/
def Core.couRoom (k : Core) : Bool := k.couHalf.isSome || decide (k.couOut.length < 2048)

/-- A courier word waits for the core (f112, R373). -/
def Core.couWaits (k : Core) : Bool :=
  match k.couIn with
  | some _ :: _ => true
  | _ => false

/-- The bits f0 to f255 as a task context reads them (R302). -/
def Blk.eventFlag (b : Blk) (c t n : Nat) : Bool :=
  let k := b.core c
  let x := k.task t
  if n = 0 then false
  else if n = 1 then true
  else if n = 2 then b.rb (coreReg c 0x700) 1
  else if n = 3 then x.emu
  else if 16 ≤ n ∧ n < 32 then x.tags.contains (n - 16)
  else if 32 ≤ n ∧ n < 48 then (k.sq (n - 32)).passFlag
  else if 48 ≤ n ∧ n < 64 then (k.sq (n - 48)).shadow.isSome
  else if 64 ≤ n ∧ n < 69 then b.rb (coreReg c (0x600 + 8 * t)) (n - 64)
  else if 80 ≤ n ∧ n < 112 then Tab.get false x.sumf (n - 80)
  else if n = 112 then k.couWaits && !b.qHeld 10 c c
  else if n = 113 then k.couRoom && !b.qHeld 9 c c
  else false

/-- A flag bit as task context t of core c reads it. -/
def Blk.flag (b : Blk) (c t n : Nat) : Bool :=
  if n < 256 then b.eventFlag c t n
  else if n < 4096 then Tab.get false (b.core c).flags n
  else Tab.get false b.flags n

/-- A write of a flag bit: ignored for f0 to f255 (R301). -/
def Blk.setFlag (b : Blk) (c n : Nat) (v : Bool) : Blk :=
  if n < 256 then b
  else if n < 4096 then b.updCore c (fun k => { k with flags := Tab.set false k.flags n v })
  else { b with flags := Tab.set false b.flags n v }

/-- The value a flag operation writes from its two sources and the old value (R324). -/
def FlagOp.value (op : FlagOp) (d a b : Bool) : Bool :=
  match op with
  | .set => true
  | .clr => false
  | .tgl => !d
  | .and => a && b
  | .or => a || b
  | .xor => a != b
  | .andn => a && !b

/-- The arithmetic flags of one element, as the flag plane and the sticky register number them: INV, OVF, SAT, LANE_OOR. -/
structure AFlags where
  inv : Bool := false
  ovf : Bool := false
  sat : Bool := false
  oor : Bool := false
  deriving DecidableEq, Repr

/-- Union of two sets of flags. -/
def AFlags.or (a b : AFlags) : AFlags :=
  { inv := a.inv || b.inv, ovf := a.ovf || b.ovf, sat := a.sat || b.sat, oor := a.oor || b.oor }

/-- The flags as the byte of R170. -/
def AFlags.byte (a : AFlags) : Nat :=
  (if a.inv then 1 else 0) + (if a.ovf then 2 else 0) + (if a.sat then 4 else 0) + (if a.oor then 8 else 0)

/-- OR a set of flags, with EMPTY as bit 4, into the sticky flags of a task context (R171). -/
def Blk.sticky (b : Blk) (c t v : Nat) : Blk :=
  b.setReg (coreReg c (0x600 + 8 * t)) (b.reg (coreReg c (0x600 + 8 * t)) ||| BitVec.ofNat 64 v)

/-- The summary flags of register k (R174): zero, negative, NaN, empty. -/
def Task.setSum (x : Task) (k : Nat) (zero neg nan empty : Bool) : Task :=
  { x with sumf := Tab.set false (Tab.set false (Tab.set false (Tab.set false x.sumf k zero) (8 + k) neg) (16 + k) nan) (24 + k) empty }

end Sys2Proof.Machine
end

