-- ==== Sys2Proof/Machine/Operands.lean ====
section
/-! DEFINITION. Operand forms: which part of a register a write covers (R11), what a write does to a register's fields by
their access types (R9), and the immediates of the sequencer's short operations (R320, R323). -/
namespace Sys2Proof.Machine

/-- The bits of a register that an access covers. -/
def halfMask : Half → W64
  | .full => 0xFFFFFFFFFFFFFFFF
  | .low => 0x00000000FFFFFFFF
  | .high => 0xFFFFFFFF00000000

/-- The written value in its place in the register. -/
def halfVal (h : Half) (v : W64) : W64 :=
  match h with
  | .full => v
  | .low => v &&& 0xFFFFFFFF
  | .high => v <<< 32

/-- The bit i is covered by the write and written as 1. -/
def wrOne (h : Half) (v : W64) (i : Nat) : Bool := bit (halfVal h v) i && bit (halfMask h) i

/-- The bit i is covered by the write. -/
def covers (h : Half) (i : Nat) : Bool := bit (halfMask h) i

/-- What a write leaves in a register: RW fields take the written bits, W1C bits written as 1 clear, the rest stays. -/
def fieldsAfter (r : RegDesc) (old : W64) (h : Half) (v : W64) : W64 :=
  let m := halfMask h
  let x := halfVal h v
  let rw := r.mask (fun f => f.acc = .rw) &&& m
  let w1c := r.mask (fun f => f.acc = .w1c) &&& m
  ((old &&& ~~~rw) ||| (x &&& rw)) &&& ~~~(x &&& w1c)

/-- What a write of the register at offset o stores, by the access types of its fields. -/
def Blk.fieldWrite (b : Blk) (o : Nat) (h : Half) (v : W64) : Blk :=
  match regAt o with
  | none => b
  | some (r, _, _) => b.setReg o (fieldsAfter r (b.reg o) h v)

/-- The access of a register write of a size in bytes at an offset (R11): none where it is ignored. -/
def accessHalf (off size : Nat) : Option Half :=
  if size = 8 && off % 8 = 0 then some .full
  else if size = 4 && off % 8 = 0 then some .low
  else if size = 4 && off % 8 = 4 then some .high
  else none

/-- The value of the 64-bit word that a write of a part spells, zero in the other half (R359). -/
def wholeVal (h : Half) (v : W64) : W64 := halfVal h v

/-- The register of a unit that this build has (R5, R480): an unassigned offset, or a register of an absent unit, is none. -/
def Blk.regPresent (b : Blk) (o : Nat) : Bool :=
  match regAt o with
  | none => false
  | some (r, i, j) =>
    if r.s1 = 65536 then decide (i < b.build.cores) && (r.isl ≠ .A || b.build.arrays)
    else if r.base = 0x30100 then decide (i < b.build.cores) && (j ≠ 2 || b.build.far)
    else if 0xA0000 ≤ r.base && r.base < 0xA0040 then decide (j < b.build.cores)
    else if r.base = 0x90100 then decide (j < b.build.cores)
    else if r.base = 0x30000 || r.base = 0x30040 then j ≠ 2 || b.build.far
    else if r.base = 0x50040 then decide (j < b.build.rcache)
    else if r.base = 0x71000 || r.base = 0x71008 then decide (j < b.build.litha)
    else if r.base = 0x71080 then decide (i < b.build.litha)
    else if r.isl = .L then decide (0 < b.build.litha)
    else true

/-- A host write of the register at offset o is not ignored in the present state of the block (R432, R438, R472, R487). -/
def Blk.regOpen (b : Blk) (o : Nat) : Bool :=
  b.regPresent o && !b.resetting &&
  (!b.pwr.halt || o = 0x2018 || o = 0x1400 || o = 0x90000) &&
  ((b.pwr.st ≠ .doze && b.pwr.st ≠ .nap) || (0x2000 ≤ o && o < 0x3000))

/-- A 43-bit immediate, sign-extended. -/
def imm43 (x : BitVec 43) : W64 := x.signExtend 64
/-- A 49-bit immediate, sign-extended. -/
def imm49 (x : BitVec 49) : W64 := x.signExtend 64
/-- A 39-bit immediate, sign-extended. -/
def imm39 (x : BitVec 39) : W64 := x.signExtend 64

end Sys2Proof.Machine
end

