-- ==== Sys2Proof/Machine/Seq.lean ====
section
/-! DEFINITION. The sequencer's words: the caches (R309 to R312), what each short operation reads and does (R324 to R331), the
joint effect of a paired word (R298, R332), traps (R313, R321) and the issue of long words (R304, R305, R335). A command of a
short operation gives one slot of the word at the task context's PC; the word takes effect with its slot B (log entry 15). -/
namespace Sys2Proof.Machine

/-! ### The sequencer caches -/

/-- The way of a set that holds a line. -/
def SCache.find (s : SCache) (host : Bool) (line : Nat) : Option Nat :=
  (List.range 4).find? (fun w =>
    let l := Tab.get {} s.lines (4 * (line % 256) + w)
    l.valid && l.host = host && l.line = line)

/-- The line in a way of a set. -/
def SCache.way (s : SCache) (set w : Nat) : SLine := Tab.get {} s.lines (4 * set + w)

/-- Change the line in a way of a set. -/
def SCache.upd (s : SCache) (set w : Nat) (f : SLine → SLine) : SCache :=
  { s with lines := Tab.set {} s.lines (4 * set + w) (f (s.way set w)) }

/-- Add 1 to every age of a set that is below 3 (R79). -/
def SCache.older (s : SCache) (set : Nat) : SCache :=
  iter 4 (fun w s => s.upd set w (fun l => { l with age := min 3 (l.age + 1) })) s

/-- The way that a fill takes (R79 with the streaming case left out): invalid, else of age 3, else after ageing. -/
def SCache.victim (s : SCache) (set : Nat) : Nat → SCache × Nat
  | 0 => (s, 0)
  | n + 1 =>
    match (List.range 4).find? (fun w => !(s.way set w).valid) with
    | some w => (s, w)
    | none =>
      match (List.range 4).find? (fun w => (s.way set w).age = 3) with
      | some w => (s, w)
      | none => (s.older set).victim set n

/-- Write a line back to its memory and mark it clean. -/
def Blk.writeBack (b : Blk) (c : Nat) (key : Nat) : Blk :=
  let l := Tab.get {} (b.core c).dc.lines key
  if !l.valid || !l.dirty then b
  else
    let b := if l.host then b.hostWrite (64 * l.line) (Sect.bytes l.data) else b.passWrite l.cr (64 * l.line) (Sect.bytes l.data)
    (b.updCore c (fun k => { k with dc := { k.dc with lines := Tab.set {} k.dc.lines key { l with dirty := false } } })).inc
      (coreReg c 0xA0) 1

/-- Write back every dirty line of core c (R305, R306). -/
def Blk.cleanAll (b : Blk) (c : Nat) : Blk := ((b.core c).dc.lines.map (·.1)).foldl (fun b k => b.writeBack c k) b

/-- Put a line into a cache; a dirty victim of the data cache is written back. -/
def Blk.fillLine (b : Blk) (c : Nat) (data host : Bool) (line cr : Nat) (d : Sect) : Blk :=
  let s := if data then (b.core c).dc else (b.core c).ic
  let (s, w) := s.victim (line % 256) 4
  let b := b.updCore c (fun k => if data then { k with dc := s } else { k with ic := s })
  let b := if data then b.writeBack c (4 * (line % 256) + w) else b
  let put := fun (s : SCache) => s.upd (line % 256) w (fun _ => { valid := true, host := host, line := line, cr := cr, age := 1, data := d })
  b.updCore c (fun k => if data then { k with dc := put k.dc } else { k with ic := put k.ic })

/-- A parity error that an access of a sequencer cache meets (R312): a clean line is invalidated and logged; a dirty data line
stops the core. The flag answers whether the core has stopped. -/
def Blk.seqParity (b : Blk) (c : Nat) (data : Bool) (set : Nat) (par : SeqParity) : Blk × Bool :=
  match par with
  | .none => (b, false)
  | .err w =>
    let s := if data then (b.core c).dc else (b.core c).ic
    let l := s.way set w.val
    if !l.valid then (b, false) else
    let b := (b.inc (coreReg c 0xA8) 1).log (coreReg c 0x18) 0
      (BitVec.ofNat 64 ((if data then 4 else 0) + (if l.dirty then 8 else 0) + set <<< 8 + w.val <<< 16))
    if l.dirty then (b.coreFatal c 1, true)
    else
      let inv := fun (s : SCache) => s.upd set w.val (fun _ => {})
      (b.correctable.updCore c (fun k => if data then { k with dc := inv k.dc } else { k with ic := inv k.ic }), false)

/-- What an access of the sequencer's data memory answers. -/
inductive Da
  | data (d : Sect)
  | wait
  | fatal
  deriving DecidableEq, Repr

/-- Read the 64-byte line that a word's access needs: from the data cache, from what uncached reads have returned, or the task
context waits for it. -/
def Blk.dataLine (b : Blk) (c t : Nat) (host : Bool) (line cr : Nat) (par : SeqParity) : Blk × Da :=
  let den := b.rb (coreReg c 0) 1
  match (if den then b.seqParity c true (line % 256) par else (b, false)) with
  | (b, true) => (b, .fatal)
  | (b, false) =>
    match (if den then (b.core c).dc.find host line else none) with
    | some w =>
      let l := (b.core c).dc.way (line % 256) w
      (b.updCore c (fun k => { k with dc := k.dc.upd (line % 256) w (fun l => { l with age := 0 }) }), .data l.data)
    | none =>
      match (b.task c t).lines.find? (fun e => e.1 = host && e.2.1 = line) with
      | some e => (b, .data e.2.2)
      | none =>
        let b := if den && (b.task c t).want = none then b.inc (coreReg c 0x98) 1 else b
        (b.updTask c t (fun x => { x with want := some (host, line, cr) }), .wait)

/-! ### What a short operation does -/

/-- A store of a word: where it goes and its bytes. -/
structure SeqStore where
  dev : Bool
  pa : Nat
  cr : Nat
  va : Nat
  tlb : Tlb
  bytes : List Byte
  deriving DecidableEq, Repr

/-- What one slot does when its word issues. -/
structure Eff where
  g : Option (Nat × W64) := none
  s : Option (Nat × W64) := none
  f : Option (Nat × Bool) := none
  prod : Option W128 := none
  jump : Option W64 := none
  st : Option SeqStore := none
  inv : Option (CacheOp × List (Bool × Nat × Nat)) := none
  send : Option W32 := none
  recv : Bool := false
  eret : Bool := false
  halt : Bool := false
  deriving DecidableEq, Repr

/-- What evaluating a slot answers. -/
inductive Ev
  | ok (e : Eff)
  | wait
  | await (anchor target : Nat)
  | trap
  | fail (st : Nat)
  | xlt (kind : Nat) (va : W64)
  | gone
  deriving DecidableEq, Repr

/-- General register i: g0 reads as zero (R296). -/
def Task.gr (x : Task) (i : Nat) : W64 := if i = 0 then 0 else Tab.get 0 x.g i

/-- Write general register i: a write of g0 is discarded. -/
def Task.setGr (x : Task) (i : Nat) (v : W64) : Task := if i = 0 then x else { x with g := Tab.set 0 x.g i v }

/-- The register arithmetic of R324 and R325. -/
def AluOp.eval (op : AluOp) (a b : W64) : W64 :=
  let n := b.toNat % 64
  match op with
  | .add => a + b
  | .sub => a - b
  | .and => a &&& b
  | .or => a ||| b
  | .xor => a ^^^ b
  | .andn => a &&& ~~~b
  | .sll => a <<< n
  | .srl => a >>> n
  | .sra => a.sshiftRight n
  | .rol => a.rotateLeft n
  | .seq => if a = b then 1 else 0
  | .slt => if a.slt b then 1 else 0
  | .sltu => if a.ult b then 1 else 0

/-- The branch conditions of R328. -/
def Cond.holds (c : Cond) (a b : W64) : Bool :=
  match c with
  | .eq => a = b
  | .ne => a ≠ b
  | .lt => a.slt b
  | .ge => !a.slt b
  | .ltu => a.ult b
  | .geu => !a.ult b

/-- The 128-bit product of R299. -/
def product (signed : Bool) (a b : W64) : W128 :=
  if signed then a.signExtend 128 * b.signExtend 128 else a.setWidth 128 * b.setWidth 128

/-- A read of special register sr by MFS (R326); none where it is reserved. -/
def Blk.special (b : Blk) (c t sr : Nat) : Option W64 :=
  let x := b.task c t
  if sr = 0 then some x.phi
  else if sr = 1 then some x.plo
  else if 8 ≤ sr ∧ sr < 16 then some (Tab.get 0 x.s (sr - 8))
  else if sr = 16 then some x.epc
  else if sr = 17 then some x.cause
  else if sr = 18 then
    some (BitVec.ofNat 64 (c + t <<< 3 + ((x.cmd.bind b.cmd).map (·.ring)).getD 0 <<< 5 +
      (if b.rb (coreReg c 0x700) 1 then 2048 else 0)))
  else if sr = 19 then some b.time
  else none

/-- A read of a summary register's flags waits for the CHAIN that writes it (R174). -/
def Task.flagWaits (x : Task) (n : Nat) : Bool := decide (80 ≤ n ∧ n < 112) && x.sPend.contains ((n - 80) % 8)

/-- The physical ranges of a byte range of virtual memory, granule by granule, for the cache operations of R330. -/
def Blk.ranges (b : Blk) (c t ctx : Nat) : Nat → Nat → Nat → Blk × Ev × List (Bool × Nat × Nat)
  | 0, _, _ => (b, .ok {}, [])
  | k + 1, va, n =>
    if n = 0 then (b, .ok {}, []) else
    let m := min n (2 ^ 30 - va % 2 ^ 30)
    match b.xl (.seqData c t) ctx va false with
    | (b, .wait) => (b, .wait, [])
    | (b, .bad k) => (b, .xlt k (BitVec.ofNat 64 va), [])
    | (b, .ok tl pa) =>
      match b.ranges c t ctx k (va + m) (n - m) with
      | (b, e, l) => (b, e, (!tl.dev, pa, m) :: l)

/-- Sign or zero extension of a loaded value. -/
def loadVal (signed : Bool) (size v : Nat) : W64 := if signed then sext64 (8 * size) v else BitVec.ofNat 64 v

/-- Evaluate a slot: its sources are read, its accesses are translated and looked up; nothing is written (R298). `sent` and `recd`
are the courier words that the word's other slot has already moved (R332). -/
def Blk.evalOp (b : Blk) (c t : Nat) (sent recd : Nat) (op : SOp) : Blk × Ev :=
  let k := b.core c
  let x := k.task t
  let ctx := ((x.cmd.bind b.cmd).map (·.ctx)).getD 0
  match op with
  | .nop => (b, .ok {})
  | .alu op rd ra rb => (b, .ok { g := some (rd, op.eval (x.gr ra) (x.gr rb)) })
  | .alui op rd ra i => (b, .ok { g := some (rd, op.eval (x.gr ra) i) })
  | .movi rd i => (b, .ok { g := some (rd, i) })
  | .mul sg ra rb => (b, .ok { prod := some (product sg (x.gr ra) (x.gr rb)) })
  | .mfs rd sr =>
    match b.special c t sr with
    | none => (b, .trap)
    | some v => if 8 ≤ sr ∧ sr < 16 ∧ x.sPend.contains (sr - 8) then (b, .wait) else (b, .ok { g := some (rd, v) })
  | .mts sr ra => if (8 ≤ sr ∧ sr < 16) ∨ sr = 16 then (b, .ok { s := some (sr, x.gr ra) }) else (b, .trap)
  | .load size sg rd ra i par =>
    let va := (x.gr ra + i).toNat
    if va ≥ 2 ^ 57 then (b, .xlt 11 (BitVec.ofNat 64 va))
    else if va % size ≠ 0 then (b, .fail 0x32)
    else
      match b.xl (.seqData c t) ctx va false with
      | (b, .wait) => (b, .wait)
      | (b, .bad k) => (b, .xlt k (BitVec.ofNat 64 va))
      | (b, .ok tl pa) =>
        match b.dataLine c t (!tl.dev) (pa / 64) tl.cr par with
        | (b, .wait) => (b, .wait)
        | (b, .fatal) => (b, .gone)
        | (b, .data d) => (b, .ok { g := some (rd, loadVal sg size (leNat (((Sect.bytes d).drop (pa % 64)).take size))) })
  | .store size rd ra i par =>
    let va := (x.gr ra + i).toNat
    if va ≥ 2 ^ 57 then (b, .xlt 11 (BitVec.ofNat 64 va))
    else if va % size ≠ 0 then (b, .fail 0x32)
    else
      match b.xl (.seqData c t) ctx va true with
      | (b, .wait) => (b, .wait)
      | (b, .bad k) => (b, .xlt k (BitVec.ofNat 64 va))
      | (b, .ok tl pa) =>
        let s : SeqStore := { dev := tl.dev, pa := pa, cr := tl.cr, va := va, tlb := tl, bytes := leBytes size (x.gr rd).toNat }
        if b.rb (coreReg c 0) 1 then
          match b.dataLine c t (!tl.dev) (pa / 64) tl.cr par with
          | (b, .wait) => (b, .wait)
          | (b, .fatal) => (b, .gone)
          | (b, .data _) => (b, .ok { st := some s })
        else if tl.dev && (if tierOf pa < 3 then !b.paRange pa size else (b.window pa).isNone) then (b, .xlt 7 (BitVec.ofNat 64 va))
        else (b, .ok { st := some s })
  | .br cd ra rb off => (b, .ok { jump := if cd.holds (x.gr ra) (x.gr rb) then some (x.pc + off * 16) else none })
  | .bf want fa off =>
    if x.flagWaits fa then (b, .wait)
    else (b, .ok { jump := if b.flag c t fa = want then some (x.pc + off * 16) else none })
  | .jal rd off => (b, .ok { g := some (rd, x.pc + 16), jump := some (x.pc + off * 16) })
  | .jalr rd ra i =>
    let tg := x.gr ra + i
    if tg.toNat ≥ 2 ^ 57 then (b, .xlt 11 tg)
    else if tg.toNat % 16 ≠ 0 then (b, .fail 0x32)
    else (b, .ok { g := some (rd, x.pc + 16), jump := some tg })
  | .eret => if x.emu then (b, .ok { jump := some (x.epc + 16), eret := true }) else (b, .fail 0x53)
  | .flag op fd fa fb =>
    if x.flagWaits fa || x.flagWaits fb then (b, .wait)
    else (b, .ok { f := some (fd, op.value (b.flag c t fd) (b.flag c t fa) (b.flag c t fb)) })
  | .frd rg fb => if x.flagWaits fb then (b, .wait) else (b, .ok { g := some (rg, if b.flag c t fb then 1 else 0) })
  | .fwr rg fb => (b, .ok { f := some (fb, bit (x.gr rg) 0) })
  | .ftas rg fb =>
    if x.flagWaits fb then (b, .wait)
    else (b, .ok { g := some (rg, if b.flag c t fb then 1 else 0), f := some (fb, true) })
  | .cache op ra rb =>
    let lo := (x.gr ra).toNat
    let n := (x.gr rb).toNat
    match b.ranges c t ctx (n / 2 ^ 30 + 2) lo n with
    | (b, .ok _, l) => (b, .ok { inv := some (op, l) })
    | (b, e, _) => (b, e)
  | .send ra w =>
    let used := k.couOut.length + (if k.couHalf.isSome then 1 else 0)
    let room := 4096 - (2 * used - (if k.couHalf.isSome then 1 else 0))
    if w && (room ≤ sent || b.qHeld 9 c c) then (b, .wait) else (b, .ok { send := some ((x.gr ra).setWidth 32) })
  | .recv rd w =>
    match (if b.qHeld 10 c c then none else (k.couIn.drop recd).head?) with
    | some (some v) =>
      if (k.couIn.take recd).all Option.isSome then (b, .ok { g := some (rd, v.setWidth 64), recv := true })
      else if w then (b, .wait) else (b, .ok { g := some (rd, 0x8000000000000000) })
    | _ => if w then (b, .wait) else (b, .ok { g := some (rd, 0x8000000000000000) })
  | .await ra rb anc =>
    let a := (fld (x.gr rb) 0 15 + anc) % 32768
    let tg := fld (x.gr ra) 0 48
    if tg ≤ b.anchor a || x.awok.contains (a, tg) then (b, .ok {}) else (b, .await a tg)
  | .waitd m => if x.tags.any (fun n => m.testBit n) then (b, .wait) else (b, .ok {})
  | .halt => (b, .ok { halt := true })

/-! ### The effect of a word -/

/-- Add words to the outbound courier of core c through its packer (R372); a word without room is discarded and sets OVR. -/
def Blk.courierPut (b : Blk) (c cmd : Nat) (v : W32) : Blk :=
  let k := b.core c
  if b.qHeld 9 c c then b.setFld (0xA0010 + 0x40 * c) 16 1 1 else
  match k.couHalf with
  | some (lo, _, _) =>
    b.updCore c (fun k => { k with couHalf := none, couOut := k.couOut ++ [(lo.setWidth 64 ||| (v.setWidth 64 <<< 32), 8)] })
  | none =>
    if k.couOut.length < 2048 then b.updCore c (fun k => { k with couHalf := some (v, cmd, b.time.toNat) })
    else b.setFld (0xA0010 + 0x40 * c) 16 1 1

/-- Write the packer's waiting half (R372). -/
def Blk.courierHalf (b : Blk) (c : Nat) : Blk :=
  b.updCore c (fun k => match k.couHalf with
    | some (lo, _, _) => { k with couHalf := none, couOut := k.couOut ++ [(lo.setWidth 64, 4)] }
    | none => k)

/-- A store takes effect in the data cache, or at its memory while the cache is disabled. -/
def Blk.seqStore (b : Blk) (c t : Nat) (s : SeqStore) : Blk :=
  let line := s.pa / 64
  if b.rb (coreReg c 0) 1 then
    match (b.core c).dc.find (!s.dev) line with
    | some w => b.updCore c (fun k => { k with dc := k.dc.upd (line % 256) w (fun l =>
        { l with dirty := true, age := 0, data := patchSect l.data (s.pa % 64) s.bytes }) })
    | none => b.doParts (b.task c t).cmd [{ t := s.tlb, pa := s.pa, bytes := s.bytes }]
  else b.doParts (b.task c t).cmd [{ t := s.tlb, pa := s.pa, bytes := s.bytes }]

/-- A line touches a physical range. -/
def touches (l : SLine) (r : Bool × Nat × Nat) : Bool := l.host = r.1 && decide (64 * l.line < r.2.1 + r.2.2 ∧ r.2.1 < 64 * l.line + 64)

/-- The cache operations of R330. -/
def Blk.cacheRange (b : Blk) (c : Nat) (op : CacheOp) (l : List (Bool × Nat × Nat)) : Blk :=
  let drop := fun (s : SCache) => { s with lines := s.lines.filter (fun e => !l.any (touches e.2)) }
  match op with
  | .dcinv => b.updCore c (fun k => { k with dc := drop k.dc })
  | .icinv => b.updCore c (fun k => { k with ic := drop k.ic })
  | .dcclean => (((b.core c).dc.lines.filter (fun e => l.any (touches e.2))).map (·.1)).foldl (fun b k => b.writeBack c k) b

/-- One slot's effect, after its word has been found to issue. -/
def Blk.doEff (b : Blk) (c t : Nat) (e : Eff) : Blk :=
  let b := match e.st with | some s => b.seqStore c t s | none => b
  let b := match e.inv with | some (op, l) => b.cacheRange c op l | none => b
  let b := match e.send with | some v => b.courierPut c ((b.task c t).cmd.getD 0) v | none => b
  let b := if e.recv then b.updCore c (fun k => { k with couIn := k.couIn.drop 1 }) else b
  let b := match e.f with | some (n, v) => b.setFlag c n v | none => b
  b.updTask c t (fun x =>
    let x := match e.g with | some (i, v) => x.setGr i v | none => x
    let x := match e.s with | some (i, v) => if i = 16 then { x with epc := v } else { x with s := Tab.set 0 x.s (i - 8) v } | none => x
    let x := match e.prod with | some p => { x with prods := x.prods ++ [p] } | none => x
    { x with emu := x.emu && !e.eret, halted := x.halted || e.halt })

/-- The next PC: slot A's target before slot B's; with HALT no transfer is taken (R298, R332). -/
def nextPc (pc : W64) (ea eb : Eff) : W64 :=
  if ea.halt || eb.halt then pc + 16
  else
    match ea.jump, eb.jump with
    | some p, _ => p
    | none, some p => p
    | none, none => pc + 16

/-- A word has issued: it is counted, the PC moves, a single step ends. -/
def Blk.retire (b : Blk) (c t : Nat) (pc : W64) : Blk :=
  let b := b.updTask c t (fun x => { x with pc := pc, slotA := none, word := none, lines := [], awok := [], waitFrom := none })
  let b := b.updCore c (fun k => if k.stepOne = some t then { k with stepOne := none } else k)
  b.inc (coreReg c 0x80) 1

/-- A trap of a reserved opcode (R313): to the emulation handler, or BAD_OPCODE. -/
def Blk.trap (b : Blk) (c t cause : Nat) : Blk :=
  let x := b.task c t
  let vec := b.reg (coreReg c 0x10)
  let b := b.updCore c (fun k => if k.stepOne = some t then { k with stepOne := none } else k)
  if x.emu || vec = 0 then
    match x.cmd with
    | some id => b.failCmd id 0x53
    | none => b
  else
    (b.updTask c t (fun x => { x with
      epc := x.pc, cause := BitVec.ofNat 64 (1 + cause), emu := true, pc := vec, slotA := none, word := none })).inc (coreReg c 0xB0) 1

/-- The command of a task context fails. -/
def Blk.failTask (b : Blk) (c t st : Nat) : Blk :=
  match (b.task c t).cmd with
  | some id => b.failCmd id st
  | none => b

/-- Words of task context t of core c can issue now: it runs a program, waits for nothing, and the core issues. -/
def Blk.canIssue (b : Blk) (c t : Nat) : Bool :=
  let x := b.task c t
  b.seqIssues c && x.st = .running && x.prog && !x.stop && !x.halted && x.want.isNone && x.parked.isNone &&
  (!b.dbgHalted c || (b.core c).stepOne = some t)

/-- A long word can issue: no paired word of the task context is being taken or waits. -/
def Blk.canLong (b : Blk) (c t : Nat) : Bool :=
  b.canIssue c t && (b.task c t).slotA.isNone && (b.task c t).word.isNone

/-- The operation waits for the delivery of elements: a WAITD (R196). -/
def SOp.isWaitd : SOp → Bool
  | .waitd _ => true
  | _ => false

/-- Remember that the word waits, and since when it has waited for an element. -/
def Blk.holdWord (b : Blk) (c t : Nat) (a o : SOp) : Blk :=
  b.updTask c t (fun x =>
    let w := if x.waitFrom.isNone && (a.isWaitd || o.isWaitd) then some b.time.toNat else x.waitFrom
    { x with slotA := none, word := some (a, o), waitFrom := w })

/-- A slot of a word cannot issue, and why: traps and failures of the word take precedence over waits. -/
def Ev.stops (e : Ev) : Bool :=
  match e with
  | .ok _ => false
  | .wait => false
  | .await _ _ => false
  | _ => true

/-- Carry out what stops a slot's word. -/
def Blk.stopWord (b : Blk) (c t cause : Nat) (e : Ev) : Blk :=
  match e with
  | .trap => b.trap c t cause
  | .fail st => b.failTask c t st
  | .xlt k va => b.xltFatal (.seqData c t) (((b.task c t).cmd.bind b.cmd).map (·.ctx) |>.getD 0) k va
  | _ => b

/-- The slot names a special register that is reserved for its direction. -/
def Blk.reservedOp (b : Blk) (c t : Nat) (op : SOp) : Bool :=
  match op with
  | .mfs _ sr => (b.special c t sr).isNone
  | .mts sr _ => !decide ((8 ≤ sr ∧ sr < 16) ∨ sr = 16)
  | _ => false

/-- Issue a paired word, or remember that it waits (R298, R332). A reserved slot traps before either slot takes effect. -/
def Blk.issueWord (b : Blk) (c t : Nat) (a o : SOp) : Blk :=
  if b.reservedOp c t a || b.reservedOp c t o then
    b.trap c t ((if b.reservedOp c t a then 256 else 0) + (if b.reservedOp c t o then 512 else 0))
  else
  match b.evalOp c t 0 0 a with
  | (b, ea) =>
    let sent := match a with | .send _ _ => 1 | _ => 0
    let recd := match ea with | .ok e => if e.recv then 1 else 0 | _ => 0
    if ea = .gone then b else
    match b.evalOp c t sent recd o with
    | (b, eb) =>
      if eb = .gone then b
      else if ea = .trap || eb = .trap then b.trap c t ((if ea = .trap then 256 else 0) + (if eb = .trap then 512 else 0))
      else if ea.stops then b.stopWord c t 256 ea
      else if eb.stops then b.stopWord c t 512 eb
      else
        match ea, eb with
        | .ok ea, .ok eb =>
          let pc := nextPc (b.task c t).pc ea eb
          ((b.doEff c t ea).doEff c t eb).retire c t pc
        | .await k v, _ =>
          ((b.holdWord c t a o).updTask c t (fun x => { x with st := .waiting, waitAnc := some (k, v) })).waitAnchor
            { anchor := k, target := v, who := .task c t }
        | _, .await k v =>
          ((b.holdWord c t a o).updTask c t (fun x => { x with st := .waiting, waitAnc := some (k, v) })).waitAnchor
            { anchor := k, target := v, who := .task c t }
        | _, _ => b.holdWord c t a o

/-- The waiting word of a task context tries to issue again. -/
def Blk.retryWord (b : Blk) (c t : Nat) : Blk :=
  if !b.canIssue c t then b else
  match (b.task c t).word with
  | some (a, o) => b.issueWord c t a o
  | none => b

/-- One slot of the word at the PC: slot A waits for slot B, and slot B issues the word. -/
def Blk.slotOp (b : Blk) (s : Slot) (op : SOp) : Blk :=
  if !b.canIssue s.c.val s.t.val then b else
  match s.pos with
  | .a => b.updTask s.c.val s.t.val (fun x => { x with slotA := some op })
  | .b =>
    match (b.task s.c.val s.t.val).slotA, (b.task s.c.val s.t.val).word with
    | none, none => b
    | none, some (a, o) => if o = op then b.issueWord s.c.val s.t.val a o else b
    | some a, none => b.issueWord s.c.val s.t.val a op
    | some a, some w => if w = (a, op) then b.issueWord s.c.val s.t.val a op else b

end Sys2Proof.Machine
end

