-- ==== Sys2Proof/Machine/Descs.lean ====
section
/-! DEFINITION. Descriptor reads through the dispatcher's cache (R28, R352), the copies of tables that a command holds (R26 to R28,
R36, R216, R252, R415, R423), and the stream, pool and scatter descriptors with their checks (R48 to R50, R93, R94, R111, R114,
R221, R222, R348). -/
namespace Sys2Proof.Machine

/-- What reading and checking descriptors answers: what was read, a wait, a status, or a translation failure. -/
inductive Ds (α : Type)
  | ok (a : α)
  | wait
  | st (n : Nat)
  | xlt (kind va : Nat)
  deriving DecidableEq, Repr

/-- n 64-bit words of memory from bytes. -/
def toWords (n : Nat) (l : List Byte) : List W64 := (List.range n).map (fun i => BitVec.ofNat 64 (leNat ((l.drop (8 * i)).take 8)))

/-- Read n bytes of virtual memory as words. -/
def Blk.words (b : Blk) (r : Req) (ctx : Nat) (v : View) (va n : Nat) : Blk × Ds (List W64) :=
  match b.vread r ctx v va (8 * n) with
  | (b, .bytes l) => (b, .ok (toWords n l))
  | (b, .wait) => (b, .wait)
  | (b, .poison) => (b, .st 0x40)
  | (b, .fail k) => (b, .xlt k va)

/-- Enter a block into the descriptor cache of 2,048 entries. -/
def Blk.dcFill (b : Blk) (ctx n : Nat) (d : Sect) : Blk :=
  { b with dcache := ((ctx, n, d) :: b.dcache.filter (fun e => !(e.1 = ctx && e.2.1 = n))).take 2048 }

/-- Read a 64-byte descriptor through the descriptor cache. -/
def Blk.desc (b : Blk) (r : Req) (ctx : Nat) (v : View) (va : Nat) : Blk × Ds (List W64) :=
  match b.dcache.find? (fun e => e.1 = ctx && e.2.1 = va / 64) with
  | some e => (b, .ok (Sect.words e.2.2))
  | none =>
    match b.words r ctx v va 8 with
    | (b, .ok l) => (b.dcFill ctx (va / 64) (sectOf (wordBytes l)), .ok l)
    | x => x

/-! ### Tables -/

/-- The checks that precede reading the TX and the SMD. -/
def TableCopy.early (t : TableCopy) : Option Nat :=
  if fld (qw t.td 0) 0 4 ≠ 1 then some 0x50
  else if t.tdRes || t.sizeBad || t.xptr % 64 ≠ 0 || t.shardmap % 64 ≠ 0 || (t.needTx && t.xptr = 0) then some 0x51
  else none

/-- Read the TX and the SMD that a TD names. -/
def Blk.tabParts (b : Blk) (r : Req) (v : View) (t : TableCopy) : Blk × Ds TableCopy :=
  match (if t.xptr = 0 then (b, .ok []) else b.desc r t.ctx v t.xptr) with
  | (b, .ok tx) =>
    match (if t.shardmap = 0 then (b, .ok []) else b.desc r t.ctx v t.shardmap) with
    | (b, .ok smd) => (b, .ok { t with tx := tx, smd := smd })
    | (b, .wait) => (b, .wait)
    | (b, .st n) => (b, .st n)
    | (b, .xlt k va) => (b, .xlt k va)
  | (b, .wait) => (b, .wait)
  | (b, .st n) => (b, .st n)
  | (b, .xlt k va) => (b, .xlt k va)

/-- Read and check Q0 of the statistics block (R216). -/
def Blk.tabStats (b : Blk) (r : Req) (v : View) (t : TableCopy) : Blk × Ds TableCopy :=
  if t.tx = [] || t.statsPtr = 0 then (b, .ok t)
  else
    match b.xl r t.ctx t.statsPtr false with
    | (b, .wait) => (b, .wait)
    | (b, .bad k) => (b, .xlt k t.statsPtr)
    | (b, .ok tl _) =>
      if !tl.dev then (b, .st 0x51)
      else
        match b.words r t.ctx v t.statsPtr 1 with
        | (b, .ok l) =>
          if fld (qw l 0) 0 4 ≠ 1 then (b, .st 0x50)
          else if res (qw l 0) 4 28 then (b, .st 0x51)
          else (b, .ok { t with thresh := BitVec.ofNat 32 (fld (qw l 0) 32 32) })
        | (b, .wait) => (b, .wait)
        | (b, .st n) => (b, .st n)
        | (b, .xlt k va) => (b, .xlt k va)

/-- Read the step word of a replicated table (R423). -/
def Blk.tabStep (b : Blk) (r : Req) (v : View) (t : TableCopy) : Blk × Ds TableCopy :=
  if t.reprows = 0 then (b, .ok t)
  else
    match b.words r t.ctx v (fld (qw t.smd 5) 0 57) 1 with
    | (b, .ok l) => (b, .ok { t with req := fld (qw l 0) 0 32 })
    | (b, .wait) => (b, .wait)
    | (b, .st n) => (b, .st n)
    | (b, .xlt k va) => (b, .xlt k va)

/-- Continue with what a read answered. -/
def Ds.bind {α β : Type} (x : Blk × Ds α) (f : Blk → α → Blk × Ds β) : Blk × Ds β :=
  match x with
  | (b, .ok a) => f b a
  | (b, .wait) => (b, .wait)
  | (b, .st n) => (b, .st n)
  | (b, .xlt k va) => (b, .xlt k va)

/-- The copy of table `num` that command `id` holds, read and checked where it holds none yet. -/
def Blk.table (b : Blk) (id : Nat) (v : View) (num : Nat) : Blk × Ds TableCopy :=
  match b.cmd id with
  | none => (b, .wait)
  | some m =>
    match m.tabs.find? (fun t => t.num = num) with
    | some t => (b, .ok t)
    | none =>
      if num ≥ m.dcount then (b, .st 0x32)
      else
        let r := Req.desc id
        Ds.bind (b.desc r m.ctx v (m.dbase.toNat + 64 * num)) (fun b td =>
          let t : TableCopy := { num := num, ctx := m.ctx, td := td }
          match t.early with
          | some st => (b, .st st)
          | none =>
            Ds.bind (b.tabParts r v t) (fun b t =>
              match b.tabBad t with
              | some st => (b, .st st)
              | none =>
                Ds.bind (b.tabStats r v t) (fun b t =>
                  Ds.bind (b.tabStep r v t) (fun b t =>
                    (b.updCmd id (fun c => { c with tabs := c.tabs ++ [t] }), .ok t)))))

/-! ### The stream descriptor -/

/-- Bytes of an index. -/
def sdIw (sd : List W64) : Nat := if bit (qw sd 0) 7 then 8 else 4
/-- Number of dimensions. -/
def sdDims (sd : List W64) : Nat := fld (qw sd 0) 4 3
/-- WEN. -/
def sdWen (sd : List W64) : Bool := bit (qw sd 0) 11
/-- WFMT. -/
def sdWfmt (sd : List W64) : Nat := fld (qw sd 0) 12 2
/-- QUEUE. -/
def sdQueue (sd : List W64) : Nat := fld (qw sd 0) 32 4
/-- TABLE. -/
def sdTable (sd : List W64) : Nat := fld (qw sd 0) 16 16
/-- Half-word i of the words from Q3 on. -/
def sdHalf (sd : List W64) (i : Nat) : Nat := fld (qw sd (3 + i / 2)) (32 * (i % 2)) 32
/-- Size of dimension k. -/
def sdSize (sd : List W64) (k : Nat) : Nat := if k < sdDims sd then sdHalf sd k else 1
/-- Stride of dimension k. -/
def sdStride (sd : List W64) (k : Nat) : Int := if k < sdDims sd then (BitVec.ofNat 32 (sdHalf sd (5 + k))).toInt else 0
/-- Number of elements of a pass. -/
def sdElems (sd : List W64) : Nat := (List.range 5).foldl (fun n k => n * sdSize sd k) 1
/-- IBASE. -/
def sdIbase (sd : List W64) : Nat := fld (qw sd 1) 0 57
/-- WBASE. -/
def sdWbase (sd : List W64) : Nat := fld (qw sd 2) 0 57

/-- Displacement of element e in the walk of R49, dimension k outward. -/
def sdDisp (sd : List W64) : Nat → Nat → Nat → Int
  | 0, _, _ => 0
  | n + 1, k, e => (e % sdSize sd k : Nat) * sdStride sd k + sdDisp sd n (k + 1) (e / sdSize sd k)

/-- Address of the index of element e, in 64-bit two's complement (R49). -/
def sdIdxAddr (sd : List W64) (e : Nat) : Nat := (((sdIbase sd : Nat) + sdDisp sd 5 0 e : Int) % 2 ^ 64).toNat

/-- The checks of R50 over the bases, which a REARM repeats. -/
def sdBaseBad (sd : List W64) : Bool :=
  anyOf [
    res (qw sd 1) 57 7, res (qw sd 2) 57 7, sdIbase sd % sdIw sd ≠ 0,
    sdWen sd && (sdWbase sd = 0 || sdWbase sd % wsize (sdWfmt sd) ≠ 0), !sdWen sd && sdWbase sd ≠ 0]

/-- The checks of R50 that need no table. `inl` says that the indices come with the command. -/
def sdBad (sd : List W64) (inl : Bool) : Option Nat :=
  let nd := sdDims sd
  if fld (qw sd 0) 0 4 ≠ 1 then some 0x50
  else if anyOf [
      bit (qw sd 0) 10, res (qw sd 0) 14 2, res (qw sd 0) 49 15, nd = 0, nd > 5,
      (List.range 5).any (fun k => if k < nd then sdHalf sd k = 0 else sdHalf sd k ≠ 0 || sdHalf sd (5 + k) ≠ 0),
      sdElems sd > 2 ^ 40,
      (List.range 5).any (fun k => k < nd && sdStride sd k % (sdIw sd : Int) ≠ 0),
      sdBaseBad sd,
      inl && (nd ≠ 1 || sdIbase sd ≠ 0 || sdStride sd 0 ≠ (sdIw sd : Int))] then some 0x51
  else none

/-- A weight format that only FP64 tables take. -/
def sdTabBad (sd : List W64) (t : TableCopy) : Bool := sdWfmt sd = 3 && !t.fp64

/-! ### The pool descriptor -/

/-- MODE of a PD or SCD. -/
def pdMode (pd : List W64) : Nat := fld (qw pd 0) 4 3
/-- BFMT: lengths. -/
def pdLens (pd : List W64) : Bool := bit (qw pd 0) 7
/-- Bytes of a boundary entry. -/
def pdBw (pd : List W64) : Nat := if bit (qw pd 0) 8 then 8 else 4
/-- ODT. -/
def pdOdt (pd : List W64) : Nat := fld (qw pd 0) 9 2
/-- DEST. -/
def pdDest (pd : List W64) : Bool := bit (qw pd 0) 11
/-- TB. -/
def pdTb (pd : List W64) : Nat := fld (qw pd 0) 12 3
/-- QUEUE of a PD or SCD. -/
def pdQueue (pd : List W64) : Nat := fld (qw pd 0) 16 4
/-- Number of bags of a PD. -/
def pdNb (pd : List W64) : Nat := fld (qw pd 0) 24 24 + 1
/-- BBASE of a PD or SCD. -/
def pdBbase (pd : List W64) : Nat := fld (qw pd 1) 0 57
/-- OBASE. -/
def pdObase (pd : List W64) : Nat := fld (qw pd 2) 0 57
/-- OSTRIDE. -/
def pdOstride (pd : List W64) : Nat := fld (qw pd 3) 0 32

/-- The format of an output element (R110). -/
def odtFmt (odt : Nat) (t : TableCopy) : FFmt :=
  match odt with
  | 0 => t.acc
  | 1 => .fp32
  | 2 => .bf16
  | _ => .fp16

/-- The next multiple of n at or above x. -/
def upTo (n x : Nat) : Nat := (x + n - 1) / n * n

/-- Output row bytes (R110). -/
def outBytes (pd : List W64) (t : TableCopy) : Nat :=
  let n := t.d * (odtFmt (pdOdt pd) t).size
  if pdMode pd = 4 then upTo 8 (2 * n) + 8 else n

/-- The checks of R94 and R111. -/
def pdBad (pd sd : List W64) (t : TableCopy) : Option Nat :=
  if fld (qw pd 0) 0 4 ≠ 1 then some 0x50
  else if anyOf [
      pdMode pd > 4, bit (qw pd 0) 15, res (qw pd 0) 20 4, res (qw pd 0) 48 16, res (qw pd 1) 57 7, res (qw pd 2) 57 7,
      res (qw pd 3) 32 32, qw pd 4 ≠ 0, qw pd 5 ≠ 0, qw pd 6 ≠ 0, qw pd 7 ≠ 0,
      if pdDest pd then pdTb pd > 5 || pdObase pd ≠ 0 || pdOstride pd ≠ 0 else pdTb pd ≠ 0,
      pdBbase pd % pdBw pd ≠ 0, pdObase pd % 16 ≠ 0, pdOstride pd % 16 ≠ 0,
      !pdDest pd && pdOstride pd < outBytes pd t,
      pdMode pd = 2 && !sdWen sd,
      pdDest pd && (pdOdt pd ≠ 0 || t.fp64 || pdMode pd = 4 || t.d > 128 || pdNb pd > 128)] then some 0x51
  else none

/-! ### The scatter descriptor -/

/-- GSRC: gradients in a tile buffer. -/
def scGsrc (d : List W64) : Bool := bit (qw d 0) 9
/-- GTB. -/
def scGtb (d : List W64) : Nat := fld (qw d 0) 10 3
/-- DE. -/
def scDe (d : List W64) : Bool := bit (qw d 0) 13
/-- RSIG. -/
def scRsig (d : List W64) : Bool := bit (qw d 0) 14
/-- TALLY. -/
def scTally (d : List W64) : Nat := fld (qw d 0) 20 8
/-- Number of bags. -/
def scNb (d : List W64) : Nat := fld (qw d 0) 32 24 + 1
/-- GBASE. -/
def scGbase (d : List W64) : Nat := fld (qw d 2) 0 57
/-- GSTRIDE. -/
def scGstride (d : List W64) : Nat := fld (qw d 3) 0 32
/-- ANCHOR. -/
def scAnchor (d : List W64) : Nat := fld (qw d 3) 32 15

/-- The checks of R222 that look at the SCD, the SD and the table. -/
def scdBad (b : Blk) (d sd : List W64) (t : TableCopy) : Option Nat :=
  let elem := pdMode d = 3
  if fld (qw d 0) 0 4 ≠ 1 then some 0x50
  else if anyOf [
      pdMode d > 3, bit (qw d 0) 15, res (qw d 0) 28 4, res (qw d 0) 56 8, res (qw d 1) 57 7, res (qw d 2) 57 7,
      res (qw d 3) 47 17, qw d 4 ≠ 0, qw d 5 ≠ 0, qw d 6 ≠ 0, qw d 7 ≠ 0,
      elem && (pdLens d || bit (qw d 0) 8 || scNb d ≠ 1 || pdBbase d ≠ 0),
      if scGsrc d then scGtb d > 5 || scGbase d ≠ 0 || scGstride d ≠ 0 else scGtb d ≠ 0,
      !scRsig d && scAnchor d ≠ 0,
      !t.train, pdMode d = 2 && !sdWen sd, scDe d && (!t.compact || elem),
      scGsrc d && (scNb d > 128 || t.d > 128 || t.fp64 || elem),
      pdBbase d % pdBw d ≠ 0, scGbase d % 16 ≠ 0, scGstride d % 16 ≠ 0,
      !scGsrc d && scGstride d < t.d * t.acc.size] then some 0x51
  else if !b.build.arrays && (t.compact || scDe d || scGsrc d) then some 0x53
  else none

/-! ### Issuing a long operation (R304, R305, R334, R335) -/

/-- The lowest-numbered free tag. -/
def Task.freeTag (x : Task) : Option Nat := (List.range 16).find? (fun n => !x.tags.contains n)

/-- A long operation of task context t ends its word: the tag is taken and written to rd, and the word is counted. -/
def Blk.longDone (b : Blk) (c t rd tag : Nat) : Blk :=
  (b.updTask c t (fun x => ({ x with tags := tag :: x.tags } : Task).setGr rd (BitVec.ofNat 64 tag))).retire c t ((b.task c t).pc + 16)

/-- The command of a task context. -/
def Blk.taskCmd (b : Blk) (c t : Nat) : Option Cmd := (b.task c t).cmd.bind b.cmd

/-- The failure that a descriptor read or check ends an operation's command with. -/
def Blk.dsFail {α : Type} (b : Blk) (id : Nat) (r : Req) (ctx : Nat) (x : Ds α) : Blk :=
  match x with
  | .st n => b.failCmd id n
  | .xlt k va => b.xltFatal r ctx k (BitVec.ofNat 64 va)
  | _ => b

/-- Issue a long operation: the descriptor at ga + IMM is read and checked by `chk`; `act` carries the operation out with the tag
that it takes. Where `chk` waits, nothing but its walks has happened. -/
def Blk.longOp {α : Type} (b : Blk) (c t ra : Nat) (imm : W64) (v : View)
    (chk : Blk → Cmd → List W64 → Blk × Ds α) (act : Blk → Cmd → Nat → List W64 → α → Blk) : Blk :=
  if !b.canLong c t then b else
  match b.taskCmd c t, (b.task c t).freeTag with
  | some m, some tag =>
    let b := b.cleanAll c
    let va := ((b.task c t).gr ra + imm).toNat
    if va ≥ 2 ^ 57 then b.failCmd m.id 0x32
    else if va % 64 ≠ 0 then b.failCmd m.id 0x51
    else
      match b.desc (.desc m.id) m.ctx v va with
      | (b, .ok d) =>
        match chk b m d with
        | (b, .ok a) => act b m tag d a
        | (b, x) => b.dsFail m.id (.desc m.id) m.ctx x
      | (b, x) => b.dsFail m.id (.desc m.id) m.ctx x
  | _, _ => b

end Sys2Proof.Machine
end

