-- ==== Sys2Proof/Machine/Pool.lean ====
section
/-! DEFINITION. Bags (R96 to R112, R288): accumulators and their joins, pitches, finishing, output rows, and how an element's
delivery closes and settles its bag. Also the measurement of a conversion (R210, R211). -/
namespace Sys2Proof.Machine

/-! ### Measured conversions (R210, R211) -/

/-- A finite pattern of format f. -/
def fvFin (x : FV) : Bool :=
  match x with
  | .fin _ _ _ => true
  | _ => false

/-- The squared error and squared value of one conversion, in fp64. A NaN value adds to neither sum; an infinite result of a finite
value adds an infinite error. -/
def mseTerm (x d : FV) : Nat × Nat :=
  let f := FFmt.fp64
  if x = .nan then (0, 0)
  else
    let xb := f.cvtV x 0
    let e := if fvFin x && !fvFin d then f.infBits false
             else let y := f.sub xb (f.cvtV d 0); f.mul y y
    (e, f.mul xb xb)

/-- Add a list of conversions to an error sum and a signal sum. -/
def mseSum (l : List (FV × FV)) (es : W64 × W64) : W64 × W64 :=
  l.foldl (fun s p =>
    let t := mseTerm p.1 p.2
    (BitVec.ofNat 64 (FFmt.fp64.add s.1.toNat t.1), BitVec.ofNat 64 (FFmt.fp64.add s.2.toNat t.2))) es

/-- A command measures conversions. -/
def Blk.measure (b : Blk) (id : Nat) (l : List (FV × FV)) : Blk :=
  b.updCmd id (fun c => let s := mseSum l (c.err, c.sig); { c with err := s.1, sig := s.2 })

/-- Add to the totals that a command will add to a table's statistics block (R215, R216): a counter or an fp64 sum. -/
def Cmd.stat (c : Cmd) (addr k n : Nat) : Cmd :=
  if addr = 0 then c else
  let s := (c.stats.find? (fun s => s.addr = addr)).getD { addr := addr, cnt := List.replicate 10 0, sums := List.replicate 10 0 }
  { c with stats := { s with cnt := s.cnt.set k (s.cnt.getD k 0 + n) } :: c.stats.filter (fun s => s.addr ≠ addr) }

/-- Add fp64 amounts to two sums of a table's totals. -/
def Cmd.statSum (c : Cmd) (addr k : Nat) (es : W64 × W64) : Cmd :=
  if addr = 0 then c else
  let s := (c.stats.find? (fun s => s.addr = addr)).getD { addr := addr, cnt := List.replicate 10 0, sums := List.replicate 10 0 }
  let add := fun (l : List W64) (i : Nat) (v : W64) => l.set i (BitVec.ofNat 64 (FFmt.fp64.add (l.getD i 0).toNat v.toNat))
  { c with stats := { s with sums := add (add s.sums k es.1) (k + 1) es.2 } :: c.stats.filter (fun s => s.addr ≠ addr) }

/-- Where a table's statistics lie, 0 for none. -/
def TableCopy.stats (t : TableCopy) : Nat := if t.tx = [] then 0 else t.statsPtr

/-! ### Accumulators (R99) -/

/-- Apply a function lane by lane. -/
def zipLanes (f : Nat → Nat → Nat) (a b : List W64) : List W64 :=
  List.zipWith (fun x y => BitVec.ofNat 64 (f x.toNat y.toNat)) a b

/-- An empty accumulator of n lanes. -/
def Accu.zero (n : Nat) : Accu := { lanes := List.replicate n 0, m2 := List.replicate n 0, cnt := 0 }

/-- A lane divided by an exact integer, rounded once. -/
def divInt (f : FFmt) (a n : Nat) : Nat := f.divV (.of f a) (.fin false n 0) a n

/-- Add one term of weight w to an accumulator under a pooling mode. -/
def Accu.add (f : FFmt) (mode w : Nat) (x : List W64) (a : Accu) : Accu :=
  let c := a.cnt + 1
  match mode with
  | 2 => { a with cnt := c, lanes := zipLanes (fun s y => f.add s (f.mul w y)) a.lanes x }
  | 3 => { a with cnt := c, lanes := zipLanes (fun s y => f.add s (f.mul y y)) a.lanes x }
  | 4 =>
    let m := zipLanes (fun s y => f.add s (divInt f (f.sub y s) c)) a.lanes x
    let q := List.zipWith (fun (p : W64 × W64) (mx : W64 × W64) =>
      BitVec.ofNat 64 (f.add p.2.toNat (f.mul (f.sub mx.2.toNat p.1.toNat) (f.sub mx.2.toNat mx.1.toNat))))
      (a.lanes.zip a.m2) (m.zip x)
    { cnt := c, lanes := m, m2 := q }
  | _ => { a with cnt := c, lanes := zipLanes f.add a.lanes x }

/-- Join two partials (R99); a partial without terms changes nothing. -/
def Accu.join (f : FFmt) (mode : Nat) (a b : Accu) : Accu :=
  if b.cnt = 0 then a else if a.cnt = 0 then b else
  let n := a.cnt + b.cnt
  if mode = 4 then
    let quot := fun (k : Nat) => f.divV (.fin false k 0) (.fin false n 0) k n
    { cnt := n
      lanes := zipLanes (fun x y => f.add x (f.mul (f.sub y x) (quot b.cnt))) a.lanes b.lanes
      m2 := List.zipWith (fun (p q : W64 × W64) =>
        let d := f.sub q.1.toNat p.1.toNat
        BitVec.ofNat 64 (f.add (f.add p.2.toNat q.2.toNat) (f.mul (f.mul d d) (quot (a.cnt * b.cnt)))))
        (a.lanes.zip a.m2) (b.lanes.zip b.m2) }
  else { cnt := n, lanes := zipLanes f.add a.lanes b.lanes, m2 := a.m2 }

/-- The results of a closed bag (R100, R105): lanes, and for MEANVAR the variances. -/
def Accu.finish (f : FFmt) (mode : Nat) (a : Accu) : List W64 × List W64 :=
  let quot := fun (l : List W64) => l.map (fun x => if a.cnt = 0 then 0 else BitVec.ofNat 64 (divInt f x.toNat a.cnt))
  match mode with
  | 1 => (quot a.lanes, [])
  | 4 => (a.lanes, quot a.m2)
  | _ => (a.lanes, [])

/-! ### Pitches (R103) -/

/-- Join kept partials of equal level, as in a binary counter: the newest stands first. -/
def joinKept (f : FFmt) (mode : Nat) : Nat → List (Nat × Accu) → List (Nat × Accu)
  | 0, l => l
  | n + 1, l =>
    match l with
    | (i, a) :: (j, b) :: t => if i = j then joinKept f mode n ((i + 1, b.join f mode a) :: t) else l
    | l => l

/-- Size of pitch p of a bag of a span. -/
def pitchSize (span p : Nat) : Nat := min 65536 (span - 65536 * p)

/-- One element of a bag has been delivered: its term, if it has one, is added, and a complete pitch is kept. -/
def Bag.take (f : FFmt) (mode lanes span off : Nat) (term : Option (Nat × List W64)) (g : Bag) : Bag :=
  let p := off / 65536
  let old := (g.pitches.find? (fun e => e.1 = p)).getD (p, 0, {})
  let a := match term with
    | some (w, x) => (if old.2.2.lanes = [] then Accu.zero lanes else old.2.2).add f mode w x
    | none => old.2.2
  let n := old.2.1 + 1
  let rest := g.pitches.filter (fun e => e.1 ≠ p)
  if n = pitchSize span p ∧ span > 65536 then
    { g with pitches := rest, kept := joinKept f mode (g.kept.length + 1) ((0, a) :: g.kept) }
  else { g with pitches := (p, n, a) :: rest }

/-- Join a partial that an owner returned to the pitch of an offset (R418). -/
def Bag.joinAt (f : FFmt) (mode lanes off : Nat) (x : Accu) (g : Bag) : Bag :=
  let p := off / 65536
  let old := (g.pitches.find? (fun e => e.1 = p)).getD (p, 0, Accu.zero lanes)
  { g with pitches := (p, old.2.1, old.2.2.join f mode x) :: g.pitches.filter (fun e => e.1 ≠ p) }

/-- Everything a bag has accumulated, joined. -/
def Bag.total (f : FFmt) (mode lanes : Nat) (g : Bag) : Accu :=
  (g.kept.map (·.2) ++ g.pitches.map (·.2.2)).foldl (fun a x => a.join f mode x) (Accu.zero lanes)

/-! ### The pass's view of its bags -/

/-- The pass is consumed by a POOL. -/
def Consumer.isPool : Consumer → Bool
  | .pool _ _ _ _ => true
  | _ => false

/-- MODE of the consumer. -/
def SQ.mode (s : SQ) : Nat := pdMode s.cons.d
/-- A SCAT of element vectors. -/
def SQ.elemMode (s : SQ) : Bool := s.cons.isScat && s.mode = 3
/-- A SCAT with DE = 1. -/
def SQ.de (s : SQ) : Bool := s.cons.isScat && scDe s.cons.d
/-- Bags of the pass. -/
def SQ.nb (s : SQ) : Nat := if s.cons.isScat then scNb s.cons.d else pdNb s.cons.d
/-- Elements of the pass. -/
def SQ.elems (s : SQ) : Nat := sdElems s.sd
/-- Elements that R98 lets issue. -/
def SQ.lim (s : SQ) : Nat := s.limit.getD s.elems
/-- Elements are expanded before they are pooled (R113). -/
def SQ.expandFirst (s : SQ) : Bool := s.tab.compact && s.cons.isPool && 3 ≤ s.mode
/-- Bags are expanded after they are pooled (R113). -/
def SQ.expandLast (s : SQ) : Bool := s.tab.compact && s.cons.isPool && s.mode < 3
/-- Lanes that are pooled. -/
def SQ.width (s : SQ) : Nat := if s.expandFirst then s.tab.d else s.tab.n
/-- The forward mode of the pass; a SCAT with DE pools in its own mode (R226). -/
def SQ.fmt (s : SQ) : FFmt := s.tab.acc
/-- Bag-store slots of one accumulator (R107). -/
def SQ.unit (s : SQ) : Nat :=
  let n := if s.tab.fp64 then (s.width + 63) / 64 else (s.width + 127) / 128
  if s.mode = 4 then 2 * n else n

/-- First ordinal of bag k. -/
def SQ.start (s : SQ) (k : Nat) : Nat := if k = 0 then 0 else s.ends.getD (k - 1) 0
/-- First ordinal after bag k. -/
def SQ.stop (s : SQ) (k : Nat) : Nat := s.ends.getD k 0
/-- Elements of bag k. -/
def SQ.span (s : SQ) (k : Nat) : Nat := s.stop k - s.start k
/-- The bag of an ordinal, none while the entry that ends it has not been read. -/
def SQ.bagOf (s : SQ) (e : Nat) : Option Nat :=
  let k := (s.ends.takeWhile (fun x => x ≤ e)).length
  if k < s.ends.length then some k else none
/-- Bag k has failed. -/
def SQ.hasFailed (s : SQ) (k : Nat) : Bool :=
  s.failed.contains k || (match s.failFrom with | some f => decide (f ≤ k) | none => false)

/-- Move the bag watermark over settled bags. -/
def advBw : Nat → SQ → SQ
  | 0, s => s
  | n + 1, s =>
    if (match s.failFrom with | some f => decide (f ≤ s.bw) | none => false) then { s with bw := s.nb, settled := [] }
    else if s.settled.contains s.bw then advBw n { s with bw := s.bw + 1, settled := s.settled.erase s.bw }
    else s

/-- Bag k settles (R288). -/
def SQ.settle (s : SQ) (k : Nat) : SQ :=
  let s := if k < s.bw || s.settled.contains k then s else { s with settled := k :: s.settled }
  advBw (s.settled.length + 1) s

/-- Move the delivery watermark over delivered elements. -/
def advW : Nat → SQ → SQ
  | 0, s => s
  | n + 1, s =>
    if s.limit.isSome && s.lim ≤ s.w then { s with w := s.elems, dlv := [] }
    else if s.dlv.contains s.w then advW n { s with w := s.w + 1, dlv := s.dlv.erase s.w }
    else s

/-- Element e is delivered. -/
def SQ.deliver (s : SQ) (e : Nat) : SQ :=
  let s := if e < s.w || s.dlv.contains e then s else { s with dlv := e :: s.dlv }
  advW (s.dlv.length + 1) { s with
    flight := s.flight.filter (fun x => x.ord ≠ e)
    parts := s.parts.filter (fun p => p.1 ≠ e)
    pbad := s.pbad.filter (fun p => p.1 ≠ e) }

/-- Bag-store slots that a bag holds. -/
def SQ.bagSlots (s : SQ) (g : Bag) : Nat :=
  s.unit * ((g.pitches.filter (fun p => p.2.2.lanes ≠ [])).length + (g.kept.filter (fun p => p.2.lanes ≠ [])).length)

/-- Store bag g, with its slots counted in the core's bag store. -/
def Blk.putBag (b : Blk) (c q : Nat) (g : Bag) : Blk :=
  let s := b.sq c q
  let old := ((s.bags.find? (fun x => x.b = g.b)).map (·.slots)).getD 0
  let g := { g with slots := s.bagSlots g }
  b.updCore c (fun k => { k with bagUsed := k.bagUsed + g.slots - old }.updSq q (fun s => { s with
    bags := g :: s.bags.filter (fun x => x.b ≠ g.b) }))

/-- Bag k leaves the bag store; its slots are freed. -/
def Blk.dropBag (b : Blk) (c q k : Nat) : Blk :=
  let n := (((b.sq c q).bags.find? (fun x => x.b = k)).map (·.slots)).getD 0
  b.updCore c (fun x => { x with bagUsed := x.bagUsed - n }.updSq q (fun s => { s with bags := s.bags.filter (fun g => g.b ≠ k) }))

/-- Bag k of the pass, new where it is not open. -/
def SQ.bag (s : SQ) (k : Nat) : Bag := (s.bags.find? (fun g => g.b = k)).getD { b := k }

/-- The pass has delivered every element and settled every bag, and nothing of it is under way. -/
def SQ.spent (s : SQ) : Bool :=
  s.st = .active && !s.ended && s.cons ≠ .none && s.elems ≤ s.w && s.nb ≤ s.bw && s.out.isEmpty && s.batches.isEmpty &&
    s.gbatch.isEmpty && s.ready.isEmpty

/-- Rows of a tile buffer are written as fp32, the lanes beyond the row as +0 (R111). -/
def Tile.putRow (t : Tile) (row : Nat) (l : List W32) : Tile :=
  iter 128 (fun j t => t.put (128 * row + j) (l.getD j 0)) { t with isInt := false }

/-- A pass whose last element has been delivered and whose last bag has settled ends (R57); the rows of its tile buffer beyond the last
bag are written as +0 (R111). One that has to add dE, to signal owners or to answer an RGRAD ends in the event that does so. -/
def Blk.passCheck (b : Blk) (c q : Nat) : Blk :=
  let s := b.sq c q
  if !s.spent then b
  else if s.cons.isScat then (if s.de || s.srv || scRsig s.cons.d then b else (b.scEnd c q).leavePass c q false)
  else
    match s.cons.tb with
    | none => b.leavePass c q false
    | some i =>
      if (b.tile c i).holds s.ownerTask (8 + q) true then
        (b.updTile c i (fun t => (List.range' s.nb (128 - s.nb)).foldl (fun t r => t.putRow r []) t)).leavePass c q false
      else b

/-- Bag k settles. -/
def Blk.settle (b : Blk) (c q k : Nat) : Blk := (b.updSq c q (fun s => s.settle k)).passCheck c q

/-- A bag fails (R44, R45, R52, R469): its record leaves the store, nothing of it will be written, one event record names it. -/
def Blk.failBag (b : Blk) (c q k st : Nat) (row : W64) : Blk :=
  let s := b.sq c q
  if s.hasFailed k then b else
  let id := s.owner
  let pl := match b.cmd id with | some m => (m.ring, m.pos) | none => (0, 0)
  let b := b.meet id st
  let b := b.event 0x20 pl.1 c s.ownerTask [BitVec.ofNat 64 (s.tab.num + (pl.2 % 65536) <<< 16), row, BitVec.ofNat 64 k]
  let b := b.dropBag c q k
  let b := b.updCore c (fun x => { x with feed := x.feed.filter (fun f => !(f.q = q && f.bag = k)) })
  let b := b.updSq c q (fun s => { s with failed := k :: s.failed })
  if s.srv then (b.updCmd id (fun m => { m with replies := m.replies ++ [(k, 0, 0x40, [])] })).settle c q k
  else b.settle c q k

/-! ### Output rows (R110, R111) -/

/-- Convert lanes to the output format; the bytes, and what is measured. -/
def outLanes (odt : Nat) (t : TableCopy) (l : List W64) : List Byte × List (FV × FV) :=
  let f := odtFmt odt t
  let ys := l.map (fun x => (x.toNat, f.cvt t.acc x.toNat))
  (ys.flatMap (fun p => leBytes f.size p.2),
   if f = t.acc then [] else ys.map (fun p => (FV.of t.acc p.1, FV.of f p.2)))

/-- The output row of a bag: the bytes of the lanes and variances, the bytes of the count, and what is measured. -/
def outRow (pd : List W64) (t : TableCopy) (x : List W64) (v : List W64) (n : Nat) : List Byte × List Byte × List (FV × FV) :=
  let a := outLanes (pdOdt pd) t x
  if pdMode pd = 4 then
    let z := outLanes (pdOdt pd) t v
    (a.1 ++ z.1, leBytes 8 n, a.2 ++ z.2)
  else (a.1, [], a.2)

/-- An output write is given up. -/
def Blk.dropOut (b : Blk) (c q bag : Nat) : Blk := b.updSq c q (fun s => { s with out := s.out.filter (fun x => x.bag ≠ bag) })

/-- Translate the writes of an output row: its lanes, and its count at the next multiple of 8; the bytes between are no part of the
row's contents and are not written (R110). -/
def Blk.outXlate (b : Blk) (c q : Nat) (o : OutW) : Blk × Wx :=
  let s := b.sq c q
  match b.xlWrite (.bagOut c q o.bag) s.ctx o.va o.bytes with
  | (b, .parts ps) =>
    match b.xlWrite (.bagOut c q o.bag) s.ctx (o.va + upTo 8 o.bytes.length) o.count with
    | (b, .parts qs) => (b, .parts (ps ++ qs))
    | x => x
  | x => x

/-- Issue the output write of a bag: device parts are queued, window parts are sent, host parts wait for the acknowledgement.
Where its address does not translate yet it stays unissued (R112, R287). -/
def Blk.outIssue (b : Blk) (c q : Nat) (o : OutW) : Blk :=
  let s := b.sq c q
  if o.issued || !b.issues then b else
  match b.outXlate c q o with
  | (b, .wait) => b
  | (b, .fail k) => (b.dropOut c q o.bag).xltFatal (.bagOut c q o.bag) s.ctx k (BitVec.ofNat 64 o.va)
  | (b, .parts ps) =>
    let (b, is, hs) := b.issueParts (some s.owner) ps
    b.updSq c q (fun s => { s with out := s.out.map (fun x => if x.bag = o.bag then { x with issued := true, ids := is, hosts := hs } else x) })

/-- Write the tile-buffer rows that wait for the pass's lock, once it is held (R111). -/
def Blk.tileOut (b : Blk) (c q : Nat) : Blk :=
  let s := b.sq c q
  match s.cons.tb with
  | none => b
  | some i =>
    if !(b.tile c i).holds s.ownerTask (8 + q) true then b else
    s.out.foldl (fun b o =>
      let row := (List.range (o.bytes.length / 4)).map (fun j => BitVec.ofNat 32 (leNat ((o.bytes.drop (4 * j)).take 4)))
      let b := b.updTile c i (fun t => t.putRow o.bag row)
      b.updSq c q (fun s => ({ s with out := s.out.filter (fun x => x.bag ≠ o.bag) } : SQ).settle o.bag)) b

/-- A bag's result is handed to the output path (R110 to R112). -/
def Blk.outPut (b : Blk) (c q k : Nat) (x v : List W64) (n : Nat) : Blk :=
  let s := b.sq c q
  let pd := s.cons.d
  let r := outRow pd s.tab x v n
  let b := b.measure s.owner r.2.2
  let o : OutW := { bag := k, va := if pdDest pd then 0 else pdObase pd + k * pdOstride pd, bytes := r.1, count := r.2.1 }
  let b := b.updSq c q (fun s => { s with out := s.out ++ [o] })
  if pdDest pd then (b.tileOut c q).passCheck c q else b.outIssue c q o

/-- A bag closes (R100, R105, R108): of a POOL it is finished and handed on, of a served command it is put in the reply. -/
def Blk.closeBag (b : Blk) (c q k : Nat) : Blk :=
  let s := b.sq c q
  if s.hasFailed k then b else
  let f := s.fmt
  let a := (s.bag k).total f s.mode s.width
  let id := s.owner
  match s.cons with
  | .none => b
  | .scat _ _ _ _ =>
    if s.de && a.cnt ≠ 0 && !s.pbags.any (fun p => p.1 = k) then
      let r := a.finish f s.mode
      (b.dropBag c q k).updSq c q (fun s => { s with pbags := s.pbags ++ [(k, a.cnt, r.1)] })
    else b.dropBag c q k
  | .pool _ _ _ _ =>
    if s.srv then
      let b := b.updCmd id (fun m => { m with replies := m.replies ++ [(k, a.cnt, 0, if s.mode = 4 then a.lanes ++ a.m2 else a.lanes)] })
      (b.dropBag c q k).settle c q k
    else
      let r := a.finish f s.mode
      if a.cnt = 0 then
        let b := (b.updCmd id (fun m => m.flag 2)).dropBag c q k
        let z := List.replicate s.tab.d (0 : W64)
        b.outPut c q k z z 0
      else if s.expandLast then
        b.updCore c (fun x => { x with
          feed := x.feed ++ [{ q := q, bag := k, v := r.1 }]
          feedFrom := if x.feed.all (·.sent) then b.time.toNat else x.feedFrom })
      else (b.dropBag c q k).outPut c q k r.1 r.2 a.cnt

/-- Task contexts that GX mode switched out while they waited for an element of their passes become ready; a built-in routine that runs
starts to wait for the next (R196). -/
def Blk.gxReady (b : Blk) (c id : Nat) : Blk :=
  b.updCore c (fun k => (List.range 4).foldl (fun k t =>
    k.updTask t (fun x =>
      if x.cmd ≠ some id then x
      else if x.st = .waiting && x.waitAnc.isNone then { x with st := .ready }
      else if x.waitFrom.isSome && !x.prog then { x with waitFrom := some b.time.toNat }
      else x)) k)

/-- Element e, of bag k, is delivered with its term (R53); a bag whose last element this is closes (R108). -/
def Blk.deliver (b : Blk) (c q e k : Nat) (term : Option (Nat × List W64)) : Blk :=
  let s := b.sq c q
  if e < s.w || s.dlv.contains e then b else
  let pools := s.cons.isPool || (s.de && !s.pbags.any (fun p => p.1 = k))
  let b := if s.hasFailed k || !pools then b
    else b.putBag c q ((s.bag k).take s.fmt s.mode s.width (s.span k) (e - s.start k) term)
  let n := Tab.get 0 s.got k + 1
  let b := b.updSq c q (fun s => ({ s with got := if n = s.span k then Tab.del s.got k else Tab.set 0 s.got k n } : SQ).deliver e)
  let b := b.gxReady c s.owner
  let b := if n = s.span k then b.closeBag c q k else b
  let b := if n = s.span k && s.cons.isScat then b.updSq c q (fun s => s.settle k) else b
  b.passCheck c q

/-- The weight of a term: the element's in WSUM, 1 in the other modes. -/
def SQ.wt (s : SQ) (x : Elem) : Nat := if s.mode = 2 then x.wt.toNat else s.fmt.ofInt 1

/-- The consumer accepts the dequantised value of an element (R53, R113, R117): it is pooled, or sent to the feeder to be expanded. -/
def Blk.accept (b : Blk) (c q : Nat) (x : Elem) (v : List W64) : Blk :=
  let s := b.sq c q
  match s.bagOf x.ord with
  | none => b
  | some k =>
    if s.hasFailed k then b.deliver c q x.ord k none
    else if s.expandFirst then
      b.updCore c (fun y => { y with
        feed := y.feed ++ [{ q := q, bag := k, ord := some x.ord, v := v }]
        feedFrom := if y.feed.all (·.sent) then b.time.toNat else y.feedFrom })
    else b.deliver c q x.ord k (some (s.wt x, v))

end Sys2Proof.Machine
end

