-- ==== Sys2Proof/Machine/Index.lean ====
section
/-! DEFINITION. The index unit: index, weight and boundary sectors (R49 to R52, R97), boundary entries and their faults (R96, R98),
the resolution of elements (R39 to R43, R413 to R416), and the order in which elements reach the consumer (R20, R55). -/
namespace Sys2Proof.Machine

/-! ### Boundaries (R96 to R98) -/

/-- A signed integer of n bytes. -/
def sInt (l : List Byte) : Int := (BitVec.ofNat (8 * l.length) (leNat l)).toInt

/-- Boundary entries of the pass. -/
def SQ.nent (s : SQ) : Nat := if s.elemMode then 0 else if pdLens s.cons.d then s.nb else s.nb + 1

/-- What a sector read of kind k has returned for a block. -/
def SQ.sec (s : SQ) (k n : Nat) : Option Resp := (s.secs.find? (fun e => e.1 = k && e.2.1 = n)).map (·.2.2)

/-- The bytes of a value at an address in the sectors of a kind: none while its sector has not returned. -/
def SQ.secVal (s : SQ) (k va n : Nat) : Option (Option (List Byte)) :=
  match s.sec k (va / 64) with
  | none => none
  | some (.data d) => some (some (((Sect.bytes d).drop (va % 64)).take n))
  | some _ => some none

/-- The next boundary entry: none while it has not been read; some none where it is poisoned. -/
def SQ.nextEntry (s : SQ) : Option (Option Int) :=
  let n := pdBw s.cons.d
  match s.binl with
  | some l => some (some (sInt ((l.drop (n * s.entries)).take n)))
  | none => (s.secVal 2 (pdBbase s.cons.d + n * s.entries) n).map (Option.map sInt)

/-- Elements at or beyond e are not issued (R98): they are delivered now, and a SCAT counts them as null contributions. -/
def SQ.cut (s : SQ) (e : Nat) : SQ :=
  let s := { s with limit := some e, nulls := if s.cons.isScat then s.nulls + (s.elems - e) else s.nulls }
  advW (s.dlv.length + 1) s

/-- One boundary entry is taken (R96, R98, R104, R105). The flag answers whether it was. -/
def Blk.bndOne (b : Blk) (c q : Nat) : Blk × Bool :=
  let s := b.sq c q
  if s.st ≠ .active || s.ended || s.cons = .none || s.nent ≤ s.entries || s.failFrom.isSome then (b, false) else
  match s.nextEntry with
  | none => (b, false)
  | some none =>
    let b := iter 20 (fun i b => if (b.sq c i).owner = s.owner then
      b.updSq c i (fun s => { s with out := s.out.filter (fun o => o.issued) }) else b) b
    (b.failCmd s.owner 0x40, false)
  | some (some v) =>
    let k := s.ends.length
    let lens := pdLens s.cons.d
    let b := b.updSq c q (fun s => { s with entries := s.entries + 1 })
    if !lens && s.entries = 0 then (b.updSq c q (fun s => { s with ofs0 := some v }), true)
    else
      let prev : Int := (s.start k : Nat)
      let e : Int := if lens then prev + v else v - s.ofs0.getD 0
      if e < prev || e > (s.elems : Int) then
        let b := b.meet s.owner 0x51
        let b := b.updSq c q (fun s => ({ s with failFrom := some k } : SQ).cut (s.start k))
        ((b.updSq c q (fun s => advBw (s.settled.length + 1) s)).passCheck c q, false)
      else
        let b := b.updSq c q (fun s => { s with ends := s.ends ++ [e.toNat] })
        let b := if e - prev > 65536 then b.updCmd s.owner (fun m => m.flag 3) else b
        let b := if e = prev then
            (let b := b.closeBag c q k
             if s.cons.isScat then b.updSq c q (fun s => s.settle k) else b)
          else b
        let b := if k + 1 = s.nb && e < (s.elems : Int) then
            (b.meet s.owner 0x51).updSq c q (fun s => s.cut e.toNat)
          else b
        (b.passCheck c q, true)

/-- Take the boundary entries that have been read, n at most. -/
def Blk.bndPump : Nat → Nat → Nat → Blk → Blk
  | 0, _, _, b => b
  | n + 1, c, q, b =>
    match b.bndOne c q with
    | (b, true) => b.bndPump n c q
    | (b, false) => b

/-! ### Shard maps (R412, R413, R415, R416) -/

/-- START of entry k in a sector of four entries. -/
def entStart (d : Sect) (k : Nat) : Nat := fld (Sect.word d (2 * (k % 4))) 0 41
/-- NODE of entry k. -/
def entNode (d : Sect) (k : Nat) : Nat := fld (Sect.word d (2 * (k % 4) + 1)) 0 16
/-- RWIN of entry k. -/
def entRwin (d : Sect) (k : Nat) : Nat := fld (Sect.word d (2 * (k % 4) + 1)) 16 12

/-- ENTRIES. -/
def TableCopy.entries (t : TableCopy) : Nat := fld (qw t.smd 1) 0 57

/-- The entries of a sector break R415: reserved bits, START out of order or not 0, the own node named twice. -/
def entBad (t : TableCopy) (node k : Nat) (d : Sect) (known : List Nat) : Bool :=
  let ks := (List.range' (k / 4 * 4) 4).filter (fun i => i < t.nshard)
  anyOf [
    ks.any (fun i => res (Sect.word d (2 * (i % 4))) 41 23 || res (Sect.word d (2 * (i % 4) + 1)) 28 36),
    ks.any (fun i => i = 0 && entStart d i ≠ 0),
    ks.any (fun i => t.skind = 2 && entStart d i ≠ 0),
    t.skind = 1 && ks.any (fun i => ks.any (fun j => i < j && entStart d j < entStart d i)),
    decide (((ks.filter (fun i => entNode d i = node)).length) + (known.filter (fun i => !ks.contains i)).length > 1)]

/-- Entries of the shard cache that name this chip's node. -/
def Blk.ownEntries (b : Blk) (c : Nat) (t : TableCopy) : List Nat :=
  (b.core c).shc.flatMap (fun e =>
    let i0 := (64 * e.2.1 - t.entries) / 16
    if e.1 = t.ctx ∧ t.entries ≤ 64 * e.2.1 ∧ i0 < t.nshard then
      (List.range' i0 4).filter (fun i => i < t.nshard && entNode e.2.2 i = b.node)
    else [])

/-- Read shard entry k through the core's shard cache of 1,024 entries. -/
def Blk.shardEntry (b : Blk) (c q : Nat) (t : TableCopy) (rd : View) (k : Nat) : Blk × Ds Sect :=
  let n := (t.entries + 16 * k) / 64
  match (b.core c).shc.find? (fun e => e.1 = t.ctx && e.2.1 = n) with
  | some e => (b, .ok e.2.2)
  | none =>
    match b.words (.idx c q n) t.ctx rd (64 * n) 8 with
    | (b, .ok l) =>
      let d := sectOf (wordBytes l)
      if entBad t b.node k d (b.ownEntries c t) then (b, .st 0x51)
      else (b.updCore c (fun x => { x with shc := ((t.ctx, n, d) :: x.shc).take 256 }), .ok d)
    | (b, .wait) => (b, .wait)
    | (b, .st n) => (b, .st n)
    | (b, .xlt k va) => (b, .xlt k va)

/-- The shard of row g under RANGE: binary search between lo and hi. -/
def Blk.shardFind (c q : Nat) (t : TableCopy) (rd : View) (g : Nat) : Nat → Nat → Nat → Blk → Blk × Ds Nat
  | 0, lo, _, b => (b, .ok lo)
  | n + 1, lo, hi, b =>
    if hi ≤ lo + 1 then (b, .ok lo) else
    let m := (lo + hi) / 2
    Ds.bind (b.shardEntry c q t rd m) (fun b d =>
      if entStart d m ≤ g then b.shardFind c q t rd g n m hi else b.shardFind c q t rd g n lo m)

/-- Where row g of a table is (R416): the own shard's row, the replica record, or a row of another chip. -/
def Blk.locate (b : Blk) (c q : Nat) (t : TableCopy) (rd : View) (g : Nat) (scat : Bool) : Blk × Ds EKind :=
  if g < t.reprows && !scat then (b, .ok (.replica g))
  else
    Ds.bind (if t.skind = 2 then (b, .ok (g % t.nshard)) else b.shardFind c q t rd g 17 0 t.nshard) (fun b k =>
      Ds.bind (b.shardEntry c q t rd k) (fun b d =>
        let i := if t.skind = 2 then g / t.nshard else g - entStart d k
        if entNode d k = b.node then (b, .ok (.row i)) else (b, .ok (.remote (entNode d k) (entRwin d k) i))))

/-! ### Elements that need no row read -/

/-- The default row that the pass's command holds for its table: none while it is not held. -/
def Blk.heldDflt (b : Blk) (s : SQ) : Option (Option (List W64)) :=
  ((b.cmd s.owner).bind (fun m => m.dflts.find? (fun e => e.1 = s.tab.num))).bind (·.2)

/-- Deliver an element with the zero row (R43, R117). -/
def Blk.acceptZero (b : Blk) (c q : Nat) (x : Elem) : Blk :=
  let s := b.sq c q
  match s.bagOf x.ord with
  | none => b
  | some k => b.deliver c q x.ord k (some (s.wt x, List.replicate s.width 0))

/-- Deliver an element that needs no row read; the flag answers whether it was delivered (R53). A null element of a SCAT counts as a
null contribution. -/
def Blk.placeElem (b : Blk) (c q : Nat) (x : Elem) : Blk × Bool :=
  let s := b.sq c q
  let k := (s.bagOf x.ord).getD 0
  match x.kind with
  | .masked => (b.deliver c q x.ord k none, true)
  | .nul _ => (b.deliver c q x.ord k none, true)
  | .bad => (b.deliver c q x.ord k none, true)
  | .zero _ => (b.acceptZero c q x, true)
  | .deflt _ =>
    match b.heldDflt s with
    | none => (b, false)
    | some none => ((b.failBag c q k 0x40 0xFFFFFFFFFFFFFFFF).deliver c q x.ord k none, true)
    | some (some v) => (b.accept c q x v, true)
  | _ => (b, false)

/-- Deliver the elements in flight that need no row read, in ordinal order where the block fetches ahead (R20); n at most. -/
def Blk.drainFlight : Nat → Nat → Nat → Blk → Blk
  | 0, _, _, b => b
  | n + 1, c, q, b =>
    let s := b.sq c q
    if s.ended then b else
    match s.flight.find? (fun x => (b.build.overlap || x.ord = s.w) &&
        (match x.kind with
         | .deflt _ => (b.heldDflt s).isSome && !(b.core c).feed.any (fun f => f.q = q && f.ord = some x.ord)
         | .masked => true
         | .nul _ => true
         | .bad => true
         | .zero _ => true
         | _ => false)) with
    | none => b
    | some x =>
      match b.placeElem c q x with
      | (b, true) => (b.updSq c q (fun s => if s.expandFirst && (match x.kind with | .deflt _ => true | _ => false) then s
          else { s with flight := s.flight.filter (fun y => y.ord ≠ x.ord) })).drainFlight n c q
      | (b, false) => b

/-! ### Resolution -/

/-- The weights of the pass are read (R51, R94). -/
def SQ.wread (s : SQ) : Bool := sdWen s.sd && s.cons ≠ .none && (s.mode = 2 || s.elemMode)

/-- The index of element e: none while its sector has not returned, some none where it is poisoned. -/
def SQ.index (s : SQ) (e : Nat) : Option (Option Nat) :=
  let n := sdIw s.sd
  match s.inl with
  | some l => some (some (leNat ((l.drop (n * e)).take n)))
  | none => (s.secVal 0 (sdIdxAddr s.sd e) n).map (Option.map leNat)

/-- The weight of element e in the accumulator format. -/
def SQ.weight (s : SQ) (e : Nat) : Option (Option Nat) :=
  if !s.wread then some (some 0) else
  let n := wsize (sdWfmt s.sd)
  let w := fun (l : List Byte) => widenW (sdWfmt s.sd) s.fmt (leNat l)
  match s.winl with
  | some l => some (some (w ((l.drop (n * e)).take n)))
  | none => (s.secVal 1 (sdWbase s.sd + n * e) n).map (Option.map w)

/-- What R39 makes of an index; with DE = 1 a SCAT resolves for its recomputed code vector too, so its invalid indices keep their
default row (R226). An index served for another chip is an owner-side index where the table is sharded (R414). -/
def SQ.resolve (s : SQ) (idx : Nat) : EKind :=
  if s.srv && s.tab.sharded then s.tab.resolveOwn (8 * sdIw s.sd) idx (s.cons.isScat && !s.de)
  else s.tab.resolve (8 * sdIw s.sd) idx (s.cons.isScat && !s.de)

/-- Counts and flags of a resolved kind (R40). -/
def Blk.countKind (b : Blk) (s : SQ) (k : EKind) : Blk :=
  let inv := match k with
    | .zero i => i
    | .deflt i => i
    | .nul i => i
    | _ => false
  if !inv then b else
  b.updCmd s.owner (fun m =>
    let m := ({ m with invidx := m.invidx + 1 }.flag 0).stat s.tab.stats 1 1
    if s.cons.isScat then m else ({ m with defsub := m.defsub + 1 }.flag 1).stat s.tab.stats 2 1)

/-- The kind contributes nothing in a SCAT (R223). -/
def EKind.isNull (k : EKind) : Bool :=
  match k with
  | .masked => true
  | .nul _ => true
  | .zero _ => true
  | .deflt _ => true
  | .bad => true
  | _ => false

/-- The bag store lets the element's bag, or its pitch, be opened (R108). A masked element needs no slot (R105). -/
def Blk.bagRoom (b : Blk) (c : Nat) (s : SQ) (x : Elem) (k : Nat) : Bool :=
  let free := 8192 - (b.core c).bagUsed
  if s.cons.isScat && !s.de || s.hasFailed k || x.kind = .masked || x.kind = .bad then true else
  let g := s.bag k
  if s.bagSlots g = 0 then decide (1024 < free ∧ s.unit ≤ free)
  else g.pitches.any (fun p => p.1 = (x.ord - s.start k) / 65536 && p.2.2.lanes ≠ []) || decide (s.unit ≤ free)

/-- The kind is a row of another chip. -/
def EKind.isRemote (k : EKind) : Bool :=
  match k with
  | .remote _ _ _ => true
  | _ => false

/-- The index or the weight of element e came from a confidential page (R408). -/
def SQ.confElem (s : SQ) (e : Nat) : Bool :=
  s.csec.contains (0, sdIdxAddr s.sd e / 64) || (s.wread && s.csec.contains (1, (sdWbase s.sd + wsize (sdWfmt s.sd) * e) / 64))

/-- A resolved element takes its place: delivered at once, or buffered for issue or for its contributions. -/
def Blk.putElem (b : Blk) (c q : Nat) (x : Elem) : Blk :=
  let s := b.sq c q
  let b := b.countKind s x.kind
  let k := (s.bagOf x.ord).getD 0
  let b := b.updSq c q (fun s => { s with
    nextRes := s.nextRes + 1
    cord := if x.kind.isRemote && s.confElem x.ord then x.ord :: s.cord else s.cord
    terms := if x.kind = .masked then s.terms else Tab.upd 0 s.terms k (· + 1) })
  if s.cons.isScat then
    if x.kind.isNull then
      let b := b.scNull c q 1
      if s.de && x.kind ≠ .bad && !s.hasFailed k then b.updSq c q (fun s => { s with buf := s.buf ++ [x] })
      else b.deliver c q x.ord k none
    else b.updSq c q (fun s => { s with ready := s.ready ++ [x] })
  else if (b.build.overlap || x.ord = s.w) && b.bagRoom c s x k then
    match b.placeElem c q x with
    | (b, true) => b.updSq c q (fun s => if s.expandFirst && (b.core c).feed.any (fun f => f.q = q && f.ord = some x.ord)
        then { s with flight := s.flight ++ [x] } else s)
    | (b, false) => b.updSq c q (fun s => { s with buf := s.buf ++ [x] })
  else b.updSq c q (fun s => { s with buf := s.buf ++ [x] })

/-- Resolve the next element of a pass (R39 to R43, R416); the flag answers whether it was. -/
def Blk.resolveOne (b : Blk) (c q : Nat) (rd : View) : Blk × Bool :=
  let s := b.sq c q
  let e := s.nextRes
  if s.st ≠ .active || s.ended || s.cons = .none || s.lim ≤ e || (!s.cons.isScat && 256 ≤ s.buf.length) then (b, false) else
  match s.bagOf e with
  | none => (b, false)
  | some k =>
    if s.inl = none ∧ sdIdxAddr s.sd e ≥ 2 ^ 57 then
      (b.xltFatal (.idx c q (sdIdxAddr s.sd e / 64)) s.ctx 11 (BitVec.ofNat 64 (sdIdxAddr s.sd e)), false)
    else
      let dead := fun (b : Blk) => ((b.failBag c q k 0x40 0xFFFFFFFFFFFFFFFF).putElem c q { ord := e, kind := .bad, wt := 0 }, true)
      match s.index e with
      | none => (b, false)
      | some none => dead b
      | some (some idx) =>
        let kind := s.resolve idx
        if kind = .masked then (b.putElem c q { ord := e, kind := kind, wt := 0 }, true)
        else
          match s.weight e with
          | none => (b, false)
          | some none => dead b
          | some (some w) =>
            match kind with
            | .row g =>
              if s.tab.sharded && !s.srv then
                match b.locate c q s.tab rd g s.cons.isScat with
                | (b, .ok kd) => (b.putElem c q { ord := e, kind := kd, wt := BitVec.ofNat 64 w }, true)
                | (b, .wait) => (b, false)
                | (b, .st st) => (b.failCmd s.owner st, false)
                | (b, .xlt x va) => (b.xltFatal (.idx c q (va / 64)) s.ctx x (BitVec.ofNat 64 va), false)
              else (b.putElem c q { ord := e, kind := kind, wt := BitVec.ofNat 64 w }, true)
            | kd => (b.putElem c q { ord := e, kind := kd, wt := BitVec.ofNat 64 w }, true)

/-- Resolve elements, n at most. -/
def Blk.resolvePump : Nat → Nat → Nat → View → Blk → Blk
  | 0, _, _, _, b => b
  | n + 1, c, q, rd, b =>
    match b.resolveOne c q rd with
    | (b, true) => b.resolvePump n c q rd
    | (b, false) => b

/-- Ordinals that the index unit may be reading for. -/
def SQ.window (s : SQ) : List Nat := List.range' s.nextRes (min s.elems (s.nextRes + 1024) - s.nextRes)

/-- Sectors whose elements have all been resolved, and boundary sectors whose entries have all been taken, are dropped. -/
def SQ.dropSecs (s : SQ) : SQ :=
  let ws := s.window
  let secs := s.secs.filter (fun e =>
    if e.1 = 0 then ws.any (fun o => sdIdxAddr s.sd o / 64 = e.2.1)
    else if e.1 = 1 then ws.any (fun o => (sdWbase s.sd + wsize (sdWfmt s.sd) * o) / 64 = e.2.1)
    else decide ((pdBbase s.cons.d + pdBw s.cons.d * s.entries) / 64 ≤ e.2.1))
  { s with secs := secs, csec := s.csec.filter (fun e => secs.any (fun x => x.1 = e.1 && x.2.1 = e.2)) }

/-- Take boundary entries and resolve elements as far as what has been read allows. -/
def Blk.pass (b : Blk) (c q : Nat) (rd : View) : Blk :=
  if b.qHeld 2 c q then b else
  let b := b.bndPump 512 c q
  let b := b.resolvePump 512 c q rd
  let b := b.drainFlight 512 c q
  b.updSq c q (fun s => if s.secs.isEmpty then s else s.dropSecs)

/-- Keep a sector that has been read, and whether its page is confidential (R408). -/
def SQ.keepSec (s : SQ) (kind k : Nat) (x : Resp) (conf : Bool) : SQ :=
  { s with secs := (kind, k, x) :: s.secs, csec := if conf then (kind, k) :: s.csec else s.csec }

/-- A sector read of a stream queue returns (R52, R97): an unwanted return changes nothing; a fault or refusal is handled before
its data is used. -/
def Blk.sector (b : Blk) (c q kind k : Nat) (r : Req) (x : Resp) (rd : View) : Blk :=
  let s := b.sq c q
  if (s.sec kind k).isSome then b else
  match b.vread r s.ctx { blocks := [(k, x)] } (64 * k) 64 with
  | (b, .wait) => b
  | (b, .fail e) => b.xltFatal r s.ctx e (BitVec.ofNat 64 (64 * k))
  | (b, .poison) => (b.updSq c q (fun y => y.keepSec kind k .poison (b.confAt r s.ctx (64 * k)))).pass c q rd
  | (b, .bytes l) => (b.updSq c q (fun y => y.keepSec kind k (.data (sectOf l)) (b.confAt r s.ctx (64 * k)))).pass c q rd

/-- The stream queue, or short-path pass, reads sectors now. -/
def Blk.reads (b : Blk) (c q : Nat) : Bool :=
  let s := b.sq c q
  b.unitIssues c && s.st = .active && !s.ended

/-- INDEX_SECTOR_RETURN (R52): block k holds an index, or a weight, that the pass will need next. -/
def execIndexSectorReturn (c : Fin 8) (q : Fin 20) (kind : SecKind) (k : Nat) (r : Resp) (rd : View) (s : State) : Out :=
  upd (fun b =>
    let x := b.sq c.val q.val
    if !b.reads c.val q.val then b else
    match kind with
    | .index =>
      if x.inl.isNone && x.window.any (fun o => sdIdxAddr x.sd o / 64 = k) then b.sector c.val q.val 0 k (.idx c.val q.val k) r rd else b
    | .weight =>
      if x.wread && x.winl.isNone && x.window.any (fun o => (sdWbase x.sd + wsize (sdWfmt x.sd) * o) / 64 = k) then
        b.sector c.val q.val 1 k (.wgt c.val q.val k) r rd
      else b) s

/-- BOUNDARY_SECTOR_RETURN (R97): block k holds boundary entries that have not been taken. -/
def execBoundarySectorReturn (c : Fin 8) (q : Fin 20) (k : Nat) (r : Resp) (s : State) : Out :=
  upd (fun b =>
    let x := b.sq c.val q.val
    let lo := pdBbase x.cons.d + pdBw x.cons.d * x.entries
    let hi := pdBbase x.cons.d + pdBw x.cons.d * x.nent
    if b.reads c.val q.val && x.cons ≠ .none && x.binl.isNone && decide (lo / 64 ≤ k ∧ 64 * k < hi) then
      b.sector c.val q.val 2 k (.bnd c.val q.val k) r { blocks := [] }
    else b) s

end Sys2Proof.Machine
end

