-- ==== Sys2Proof/Machine/RowCache.lean ====
section
/-! DEFINITION. The row cache (R71 to R91): location of a line, the frequency sketch, lookups, fills, replacement, parity, and the
writes of its control registers. -/
namespace Sys2Proof.Machine

/-- The slice of a line (R71). -/
def Blk.slice (b : Blk) (line : Nat) : Nat :=
  let pa := 128 * line
  (pa / 2 ^ 7 % 16 ^^^ pa / 2 ^ 23 % 16 ^^^ pa / 2 ^ 39 % 16) % max 1 b.build.rcache

/-- The set of a line within its slice. -/
def rcSet (line : Nat) : Nat := line / 16 % 4096

/-- Key of a way of a line's set in the line store. -/
def Blk.rcKey (b : Blk) (line w : Nat) : Nat := (b.slice line * 4096 + rcSet line) * 16 + w

/-- The line in a way. -/
def Blk.rcWay (b : Blk) (line w : Nat) : RcLine := Tab.get {} b.rc.lines (b.rcKey line w)

/-- Change the line in a way. -/
def Blk.rcPut (b : Blk) (line w : Nat) (l : RcLine) : Blk :=
  { b with rc := { b.rc with lines := Tab.set {} b.rc.lines (b.rcKey line w) l } }

/-- A way of a line's set is disabled (R89). -/
def Blk.wayOff (b : Blk) (line w : Nat) : Bool := b.rb (0x50040 + 8 * b.slice line) w

/-- A line store entry holds a line. -/
def RcLine.valid (l : RcLine) : Bool := l.v0 || l.v1

/-- The way that holds a line. -/
def Blk.rcFind (b : Blk) (line : Nat) : Option Nat :=
  (List.range 16).find? (fun w => (b.rcWay line w).valid && (b.rcWay line w).line = line)

/-- Count k of CK_RC_CNT. -/
def Blk.rcCnt (b : Blk) (k : Nat) : Blk := b.inc (0x50100 + 8 * k) 1

/-- A parity error is logged in CK_RC_PERR and counted (R84, R88). -/
def Blk.rcPerr (b : Blk) (line w : Nat) (data : Bool) : Blk :=
  ((b.log 0x50010 0 (BitVec.ofNat 64 ((if data then 4 else 0) + b.slice line <<< 4 + rcSet line <<< 8 + w <<< 20))).rcCnt
    (if data then 11 else 10)).correctable

/-! ### The sketch (R75 to R78) -/

/-- Counter of bank i for a line. -/
def skKey (i line : Nat) : Nat := i * 1048576 + Config.sketchHash i line % 1048576

/-- The estimate for a line: the smallest of its four counters. -/
def Blk.estimate (b : Blk) (line : Nat) : Nat :=
  (List.range 4).foldl (fun m i => min m (Tab.get 0 b.rc.sketch (skKey i line))) 15

/-- One lookup that may cause a fill increments the counters of its line. -/
def Blk.skInc (b : Blk) (line : Nat) : Blk :=
  let sk := (List.range 4).foldl (fun t i => Tab.upd 0 t (skKey i line) (fun n => min 15 (n + 1))) b.rc.sketch
  { b with rc := { b.rc with sketch := sk, incs := b.rc.incs + 1 } }

/-- AGEP. -/
def Blk.agep (b : Blk) : Nat := clamp 10 30 (b.rf 0x50000 8 5)

/-- SKETCH_HALVING (R78): 2^AGEP increments have been taken and the sweep starts. -/
def execSketchHalving (s : State) : Out :=
  upd (fun b => onlyIf (b.live && !b.rc.halving && decide (2 ^ b.agep ≤ b.rc.incs))
    (fun b => { b with rc := { b.rc with halving := true, incs := 0 } }) b) s

/-- SKETCH_HALVING_DONE (R78): every counter has been shifted right by one bit. -/
def execSketchHalvingDone (s : State) : Out :=
  upd (fun b => onlyIf (b.live && b.rc.halving)
    (fun b => { b with rc := { b.rc with
      halving := false
      sketch := (b.rc.sketch.map (fun e => (e.1, e.2 / 2))).filter (fun e => e.2 ≠ 0) } }) b) s

/-! ### Lookups (R73, R76, R77, R81, R84) -/

/-- Sectors of a line that a range of it touches. -/
def needs (pa n : Nat) : Bool × Bool := (decide (pa % 128 < 64), decide (64 < pa % 128 + n))

/-- The bytes of a line. -/
def lineBytes (s0 s1 : Sect) : List Byte := Sect.bytes s0 ++ Sect.bytes s1

/-- What a lookup answers: bytes, a fill to wait for, a read past the cache, or a wait for a fill that does not match. -/
inductive Look
  | hit (l : List Byte)
  | fill (id : Nat)
  | bypass
  | again
  deriving DecidableEq, Repr

/-- Handle the parity error that a lookup meets (R84). -/
def Blk.rcParity (b : Blk) (line : Nat) (par : RcParity) : Blk :=
  match par with
  | .none => b
  | .tag w => if (b.rcWay line w.val).valid then (b.rcPut line w.val {}).rcPerr line w.val false else b
  | .data w => if b.rcFind line = some w.val then (b.rcPut line w.val {}).rcPerr line w.val true else b

/-- Fills outstanding in a line's slice. -/
def Blk.fillsIn (b : Blk) (line : Nat) : Nat := (b.rc.fills.filter (fun f => b.slice f.line = b.slice line)).length

/-- One sector of device memory as a 64-byte block. -/
def Blk.sectorAt (b : Blk) (cr s : Nat) : Sect := sectOf (b.readSector cr s)

/-- A lookup of n bytes at pa, inside one line. `fills` says that it may cause a fill, `home` is the line that the sketch counts,
`strm` is STREAMFILL. -/
def Blk.rcLook (b : Blk) (cr pa n home : Nat) (fills strm : Bool) (par : RcParity) : Blk × Look :=
  let line := pa / 128
  let nd := needs pa n
  let b := b.rcParity line par
  let way := b.rcFind line
  let vic := (b.rc.vict.find? (fun v => v.l.line = line && v.l.valid)).map (·.l)
  let held := match way with
    | some w => some (b.rcWay line w)
    | none => vic
  let has := fun (l : RcLine) => (!nd.1 || l.v0) && (!nd.2 || l.v1)
  let match_ := b.rc.fills.find? (fun f => f.line = line && !f.overW)
  let part := fun (l : RcLine) => ((lineBytes l.s0 l.s1).drop (pa % 128)).take n
  match held with
  | some l =>
    if has l then
      let b := if fills then b.skInc home else b
      let b := match way with
        | some w => if strm then b else b.rcPut line w { l with age := 0 }
        | none => b.rcCnt 5
      (b.rcCnt 0, .hit (part l))
    else if !fills then (b.rcCnt 2, .bypass)
    else
      match match_ with
      | some f =>
        if (!nd.1 || f.f0 || l.v0) && (!nd.2 || f.f1 || l.v1) then
          let fresh := fun (x : Fill) => if x.id ≠ f.id then x else
            { x with s0 := if !x.f0 && l.v0 then l.s0 else x.s0, s1 := if !x.f1 && l.v1 then l.s1 else x.s1 }
          ((({ b with rc := { b.rc with fills := b.rc.fills.map fresh } } : Blk).skInc home).rcCnt 3, .fill f.id)
        else (b, .again)
      | none =>
        let b := b.skInc home
        if b.fillsIn line ≥ 512 then (b.rcCnt 4, .bypass)
        else
          let f : Fill := { id := b.rc.nextFill, line := line, f0 := nd.1 && !l.v0, f1 := nd.2 && !l.v1,
                            s0 := if l.v0 then l.s0 else b.sectorAt cr (2 * line), s1 := if l.v1 then l.s1 else b.sectorAt cr (2 * line + 1),
                            cr := cr, install := true, stream := strm }
          (({ b with rc := { b.rc with fills := b.rc.fills ++ [f], nextFill := b.rc.nextFill + 1 } } : Blk).rcCnt 2, .fill f.id)
  | none =>
    match match_ with
    | some f =>
      if (!nd.1 || f.f0) && (!nd.2 || f.f1) then
        ((if fills then b.skInc home else b).rcCnt 3, .fill f.id)
      else if fills then (b, .again) else (b.rcCnt 1, .bypass)
    | none =>
      if !fills then (b.rcCnt 1, .bypass) else
      let b := b.skInc home
      if b.fillsIn line ≥ 512 then (b.rcCnt 4, .bypass)
      else
        let inst := decide (b.rf 0x50000 4 4 ≤ b.estimate home)
        let f : Fill := { id := b.rc.nextFill, line := line, f0 := nd.1, f1 := nd.2, s0 := b.sectorAt cr (2 * line),
                          s1 := b.sectorAt cr (2 * line + 1), cr := cr, install := inst, stream := strm }
        let b := { b with rc := { b.rc with fills := b.rc.fills ++ [f], nextFill := b.rc.nextFill + 1 } }
        ((if inst then b else b.rcCnt 7).rcCnt 1, .fill f.id)

/-! ### Fills (R79, R82, R83) -/

/-- The way that an install takes: the lowest invalid enabled way, else the lowest enabled way of age 3, ageing the enabled ways
until there is one. -/
def Blk.rcVictim (line : Nat) : Nat → Blk → Blk × Option Nat
  | 0, b => (b, none)
  | n + 1, b =>
    let ws := (List.range 16).filter (fun w => !b.wayOff line w)
    if ws.isEmpty then (b, none) else
    match ws.find? (fun w => !(b.rcWay line w).valid) with
    | some w => (b, some w)
    | none =>
      match ws.find? (fun w => (b.rcWay line w).age = 3) with
      | some w => (b, some w)
      | none => (ws.foldl (fun b w => b.rcPut line w { b.rcWay line w with age := (b.rcWay line w).age + 1 }) b).rcVictim line n

/-- Install a fill that has returned (R79, R82): into its resident line, or into a way whose old line moves to the victim buffer. -/
def Blk.install (b : Blk) (f : Fill) : Blk :=
  match b.rcFind f.line with
  | some w =>
    let l := b.rcWay f.line w
    let l := if f.f0 && !l.v0 then { l with v0 := true, s0 := f.s0 } else l
    let l := if f.f1 && !l.v1 then { l with v1 := true, s1 := f.s1 } else l
    (b.rcPut f.line w l).rcCnt 6
  | none =>
    match b.rcVictim f.line 4 with
    | (b, none) => b.rcCnt 8
    | (b, some w) =>
      let old := b.rcWay f.line w
      if old.valid && (b.rc.vict.filter (fun v => v.slice = b.slice f.line)).length ≥ 16 then b.rcCnt 8
      else
        let b := if old.valid then { b with rc := { b.rc with vict := b.rc.vict ++ [{ slice := b.slice f.line, l := old }] } } else b
        (b.rcPut f.line w { line := f.line, v0 := f.f0, v1 := f.f1, age := if f.stream then 3 else 1, s0 := f.s0, s1 := f.s1 }).rcCnt 6

/-- Give what a fill delivers to the pieces that wait on it, with its poisoned sectors. -/
def Blk.fillGive (b : Blk) (f : Fill) (bad : List Nat) : Blk :=
  let give := fun (p : Piece) =>
    if p.fill = some f.id then
      { p with fill := none, bad := p.bad ++ bad, byte := some (((lineBytes f.s0 f.s1).drop (p.pa % 128)).take p.len) }
    else p
  { b with cores := b.cores.map (fun e => (e.1, { e.2 with trk := e.2.trk.map (fun t => { t with pieces := t.pieces.map give }) })) }

/-- FILL_RETURN (R79 to R83): the waiters get the fill's data, and the line is installed where its marks allow. A poisoned return
marks its sectors at the port (R44). -/
def execFillReturn (fill : Nat) (poison : Bool) (s : State) : Out :=
  upd (fun b =>
    match b.rc.fills.find? (fun f => f.id = fill) with
    | none => b
    | some f =>
      if !b.live then b else
      let secs := (if f.f0 then [2 * f.line] else []) ++ (if f.f1 then [2 * f.line + 1] else [])
      let bad := secs.filter (fun x => poison || b.bad.contains x)
      let b := if poison then { b with bad := b.bad ++ secs.filter (fun x => !b.bad.contains x) } else b
      let b := { b with rc := { b.rc with fills := b.rc.fills.filter (fun x => x.id ≠ fill) } }
      let b := b.fillGive f bad
      if !f.install then b
      else if f.overW || !bad.isEmpty || !b.rcOn then b.rcCnt 8
      else b.install f) s

/-! ### Writes of CK_RC_CTRL and CK_RC_WAYDIS (R85, R86, R89, R90) -/

/-- The enable bit of CK_RC_CTRL is written (R85). -/
def Blk.rcEnable (b : Blk) (v : Bool) : Blk :=
  let en := b.rb 0x50000 0
  if v && !en then
    if b.rc.clean && !b.rc.inv then b.setFld 0x50000 0 1 1
    else (b.setFld 0x50008 3 1 1).event 0x40 0 0 0 []
  else if !v && en then { b.setFld 0x50000 0 1 0 with rc := { b.rc with clean := false } }
  else b

/-- A host write of CK_RC_CTRL: the sweep, the counters, the thresholds and the enable. -/
def Blk.rcCtrlWrite (b : Blk) (h : Half) (v : W64) : Blk :=
  if !b.regOpen 0x50000 then b else
  let b := if wrOne h v 1 && !b.rc.inv then { b with rc := { b.rc with inv := true } } else b
  let b := if wrOne h v 2 then iter 12 (fun k b => b.setReg (0x50100 + 8 * k) 0) b else b
  if covers h 0 then
    let b := (b.setFld 0x50000 4 4 (fld v 4 4)).setFld 0x50000 8 5 (fld v 8 5)
    b.rcEnable (bit v 0)
  else b

/-- INVAL: a write of CK_RC_CTRL. -/
def execInval (h : Half) (v : W64) (s : State) : Out := upd (fun b => b.rcCtrlWrite h v) s
/-- RC_EN_WRITE: a write of CK_RC_CTRL. -/
def execRcEnWrite (h : Half) (v : W64) (s : State) : Out := upd (fun b => b.rcCtrlWrite h v) s
/-- CLRCNT: a write of CK_RC_CTRL. -/
def execClrcnt (h : Half) (v : W64) (s : State) : Out := upd (fun b => b.rcCtrlWrite h v) s

/-- RC_INVAL_DONE (R85): every valid bit, age and sketch counter has been cleared. -/
def execRcInvalDone (s : State) : Out :=
  upd (fun b => onlyIf (b.live && b.rc.inv)
    (fun b => { b with rc := { b.rc with inv := false, clean := true, lines := [], vict := [], sketch := [], incs := 0 } }) b) s

/-- A write of CK_RC_WAYDIS[sl] (R89, R90): newly disabled ways leave replacement at once and are invalidated later. -/
def Blk.waydisWrite (b : Blk) (sl : Nat) (h : Half) (v : W64) : Blk :=
  let o := 0x50040 + 8 * sl
  if !b.regOpen o then b else
  let old := b.rf o 0 16
  let b := b.fieldWrite o h v
  let fresh := (List.range 16).filter (fun w => b.rb o w && !old.testBit w)
  { b with rc := { b.rc with dying := b.rc.dying ++ (fresh.map (fun w => 16 * sl + w)).filter (fun x => !b.rc.dying.contains x) } }

/-- WAYDIS_WRITE. -/
def execWaydisWrite (sl : Fin 16) (h : Half) (v : W64) (s : State) : Out := upd (fun b => b.waydisWrite sl.val h v) s

/-- WAYDIS_INVAL_DONE (R90): the lines of the ways disabled in a slice have been invalidated. -/
def execWaydisInvalDone (sl : Fin 16) (s : State) : Out :=
  upd (fun b => onlyIf b.live (fun b =>
    let ws := (List.range 16).filter (fun w => b.rc.dying.contains (16 * sl.val + w))
    { b with rc := { b.rc with
      dying := b.rc.dying.filter (fun x => x / 16 ≠ sl.val)
      lines := b.rc.lines.filter (fun e => !(e.1 / 65536 = sl.val && ws.contains (e.1 % 16))) } }) b) s

end Sys2Proof.Machine
end

