-- ==== Sys2Proof/Machine/Camp.lean ====
section
/-! DEFINITION. The camp directory and the migrator (R251 to R261). A copy or write-back reads its source when it lands; what
changed at home meanwhile is carried by RECOPY and UPDATES as R256 has it. -/
namespace Sys2Proof.Machine

/-- DIREN. -/
def Blk.diren (b : Blk) : Bool := b.rb 0x30418 0
/-- CDLOG2. -/
def Blk.cdlog (b : Blk) : Nat := clamp 10 28 (b.rf 0x30400 0 5)
/-- SLOTS. -/
def Blk.campSlots (b : Blk) : Nat := b.rf 0x30410 0 40
/-- Base of the camp pool. -/
def Blk.poolBase (b : Blk) : Nat := 4096 * b.rf 0x30408 12 30
/-- Address of camp slot s (R258). -/
def Blk.slotAddr (b : Blk) (s : Nat) : Nat :=
  b.poolBase + ((b.campSlots + 7) / 8 + 4095) / 4096 * 4096 + s * 2 ^ clamp 6 12 (b.rf 0x30408 0 4)
/-- PROMO. -/
def Blk.promo (b : Blk) : Nat := max 1 (b.rf 0x30418 4 4)
/-- Count k of CK_MIG_CNT. -/
def Blk.migCnt (b : Blk) (k : Nat) : Blk := b.inc (0x30480 + 8 * k) 1

/-- The entry of a home address. -/
def Blk.camp (b : Blk) (home : Nat) : Option Camp := b.mig.camps.find? (fun e => e.home = home)

/-- The code of a state in a directory entry (R253). -/
def CState.code : CState → Nat
  | .filling => 1
  | .live => 2
  | .draining => 3

/-- Write 32 bytes of the directory (write-through, R253). -/
def Blk.dirStore (b : Blk) (bucket way : Nat) (ws : List W64) : Blk :=
  b.passWrite 0 (4096 * b.rf 0x30400 12 30 + 128 * bucket + 32 * way) (wordBytes ws)

/-- Write the entry of a camp to the directory. -/
def Blk.campStore (b : Blk) (e : Camp) : Blk :=
  b.dirStore e.bucket e.way
    [BitVec.ofNat 64 (e.st.code + (if e.recopy then 4 else 0) + (if e.stuck then 8 else 0) + (e.home / 16) <<< 8), BitVec.ofNat 64 e.slot, 0, 0]

/-- A row is in a stable state (R268): it has no entry, or a LIVE one of which nothing is demanded. -/
def Blk.campStable (b : Blk) (home : Nat) : Bool :=
  match b.camp home with
  | none => true
  | some e => e.st = .live && !e.demote && !e.discard

/-- Advice whose rows are all stable ends (R268): its count is reported and its tag ends. -/
def Blk.advSweep (b : Blk) : Blk :=
  let l := b.advs.map (fun (a : Adv) => { a with homes := a.homes.filter (fun h => !b.campStable h) })
  let done := fun (a : Adv) => a.left = 0 && a.homes.isEmpty
  (l.filter done).foldl (fun b a => (b.updCmd a.cmd (fun m => { m with rows := m.rows + a.changed })).endTag a.c a.task a.tag)
    { b with advs := l.filter (fun a => !done a) }

/-- Change a camp; the directory is written where its entry changes. -/
def Blk.setCamp (b : Blk) (e : Camp) : Blk :=
  let old := b.camp e.home
  let b : Blk := { b with mig := { b.mig with camps := b.mig.camps.map (fun (x : Camp) => if x.home = e.home then e else x) } }
  (if old.map (fun (x : Camp) => (x.st.code, x.recopy, x.stuck)) = some (e.st.code, e.recopy, e.stuck) then b else b.campStore e).advSweep

/-- Set or clear the bit of a slot in the slot map (R258). -/
def Blk.mapBit (b : Blk) (s : Nat) (v : Bool) : Blk :=
  let a := b.poolBase + s / 8
  let old := (b.devRead 0 a 1).headD 0
  let m : Byte := BitVec.ofNat 8 (2 ^ (s % 8))
  b.passWrite 0 a [if v then old ||| m else old &&& ~~~m]

/-- Remove an entry and free its slot. -/
def Blk.campRemove (b : Blk) (e : Camp) : Blk :=
  let b := b.dirStore e.bucket e.way [0, 0, 0, 0]
  let b := { b with mig := { b.mig with
    camps := b.mig.camps.filter (fun x => x.home ≠ e.home)
    slots := b.mig.slots.erase e.slot } }
  (b.mapBit e.slot false).advSweep

/-- What the in-flight counts and the pending demands of an entry allow now (R256). -/
def Blk.campStep (b : Blk) (home : Nat) : Blk :=
  match b.camp home with
  | none => b
  | some e =>
    match e.st with
    | .filling =>
      if e.discard && e.lookups = 0 && e.updates = 0 then b.campRemove e
      else if e.recopyWait && e.updates = 0 then
        (b.setCamp { e with recopy := false, recopyWait := false, copying := true, tries := e.tries + 1 }).migCnt 6
      else b
    | .live =>
      if e.discard && e.lookups = 0 && e.updates = 0 then b.campRemove e
      else if e.demote && e.updates = 0 then b.setCamp { e with st := .draining, demote := false, copying := true, landed := false }
      else b
    | .draining => if e.landed && e.lookups = 0 then (b.campRemove e).migCnt 1 else b

/-- Add to the in-flight counts of an entry. -/
def Blk.campCount (b : Blk) (home : Nat) (dl du : Int) : Blk :=
  match b.camp home with
  | none => b
  | some e => (b.setCamp { e with lookups := (e.lookups + dl).toNat, updates := (e.updates + du).toNat }).campStep home

/-! ### Insertion (R254) -/

/-- The two candidate buckets of a home address. -/
def Blk.buckets (b : Blk) (home : Nat) : Nat × Nat :=
  (Config.campBucket 0 home % 2 ^ b.cdlog, Config.campBucket 1 home % 2 ^ b.cdlog)

/-- A free way of a bucket. -/
def Blk.freeWay (b : Blk) (k : Nat) : Option Nat :=
  (List.range 4).find? (fun w => !b.mig.camps.any (fun e => e.bucket = k && e.way = w))

/-- The moves that would free a place in bucket k, nearest last: an entry and the bucket it moves to; n moves at most. -/
def Blk.campPath (b : Blk) : Nat → Nat → Option (List (Nat × Nat))
  | 0, k => if (b.freeWay k).isSome then some [] else none
  | n + 1, k =>
    if (b.freeWay k).isSome then some [] else
    match b.mig.camps.find? (fun e => e.bucket = k && e.way = n % 4) with
    | none => none
    | some e =>
      let o := if (b.buckets e.home).1 = k then (b.buckets e.home).2 else (b.buckets e.home).1
      if o = k then none else (b.campPath n o).map (fun l => l ++ [(e.home, o)])

/-- Move an entry to a free way of another bucket. -/
def Blk.campMove (b : Blk) (home k : Nat) : Blk :=
  match b.camp home, b.freeWay k with
  | some e, some w =>
    let n := { e with bucket := k, way := w }
    let b := b.campStore n
    let b := { b with mig := { b.mig with camps := b.mig.camps.map (fun (x : Camp) => if x.home = home then n else x) } }
    b.dirStore e.bucket e.way [0, 0, 0, 0]
  | _, _ => b

/-- A place for a key, after at most 16 moves. -/
def Blk.campPlace (b : Blk) (home : Nat) : Blk × Option (Nat × Nat) :=
  let bs := b.buckets home
  match b.freeWay bs.1 with
  | some w => (b, some (bs.1, w))
  | none =>
    match b.freeWay bs.2 with
    | some w => (b, some (bs.2, w))
    | none =>
      match b.campPath 16 bs.1 with
      | none => (b, none)
      | some l =>
        let b := l.foldl (fun b m => b.campMove m.1 m.2) b
        (b, (b.freeWay bs.1).map (fun w => (bs.1, w)))

/-- The lowest free slot of the pool. -/
def Blk.freeSlot (b : Blk) : Option Nat :=
  ((List.range (b.mig.slots.length + 1)).find? (fun s => !b.mig.slots.contains s)).bind (fun s => if s < b.campSlots then some s else none)

/-- Promote a row (R256): a slot, a place, the map bit, and a FILLING entry whose copy has started. -/
def Blk.promote (b : Blk) (x : Cand) : Blk :=
  if (b.camp x.home).isSome then b else
  match b.freeSlot with
  | none => b.migCnt 4
  | some s =>
    match b.campPlace x.home with
    | (b, none) => b.migCnt 3
    | (b, some (k, w)) =>
      let b := b.mapBit s true
      let e : Camp := { home := x.home, sect := x.sect, slot := s, bucket := k, way := w, st := .filling, bytes := x.bytes,
                        rowBytes := x.rowBytes, sent := 0 }
      let b := { b with mig := { b.mig with camps := b.mig.camps ++ [e], slots := b.mig.slots ++ [s] } }
      b.campStore e

/-- A lookup served at home becomes a promotion candidate (R260). -/
def Blk.candidate (b : Blk) (x : Cand) : Blk :=
  if (b.camp x.home).isSome || b.mig.cands.any (fun y => y.home = x.home) then b
  else if b.mig.cands.length ≥ 64 then b.migCnt 5
  else { b with mig := { b.mig with cands := b.mig.cands ++ [x] } }

/-! ### Events -/

/-- Copy the row and its scale entry of a camp between home and slot. -/
def Blk.campCopy (b : Blk) (e : Camp) (out : Bool) : Blk :=
  let a := b.slotAddr e.slot
  let so := (e.rowBytes + 15) / 16 * 16
  let mv := fun (b : Blk) (src dst n : Nat) => b.passWrite 0 dst (b.devRead 0 src n)
  let b := if out then mv b a e.home e.rowBytes else mv b e.home a e.rowBytes
  if e.sect = 0 then b else if out then mv b (a + so) e.sect 4 else mv b e.sect (a + so) 4

/-- The source of a camp's copy, or write-back, is poisoned. -/
def Blk.campBadSrc (b : Blk) (e : Camp) (out : Bool) : Bool :=
  let a := b.slotAddr e.slot
  if out then b.devBad a (if e.sect = 0 then e.rowBytes else (e.rowBytes + 15) / 16 * 16 + 4)
  else b.devBad e.home e.rowBytes || (e.sect ≠ 0 && b.devBad e.sect 4)

/-- CAMP_COPY_LANDED (R256). -/
def Blk.campCopied (b : Blk) (home : Nat) (poison : Bool) : Blk :=
  match b.camp home with
  | none => b
  | some e =>
    if e.st ≠ .filling || !e.copying then b
    else if poison || b.campBadSrc e false then (b.campRemove e).migCnt 2
    else
      let b := b.campCopy e false
      if !e.recopy && e.updates = 0 then (((b.setCamp { e with st := .live, copying := false }).migCnt 0).campStep home)
      else if e.tries < 8 then (b.setCamp { e with copying := false, recopyWait := true }).campStep home
      else (b.campRemove e).migCnt 2

/-- CAMP_COPY_LANDED. -/
def execCampCopyLanded (home : Nat) (poison : Bool) (s : State) : Out :=
  upd (fun b => onlyIf b.live (fun b => b.campCopied home poison) b) s

/-- CAMP_WRITEBACK_LANDED (R256). -/
def Blk.campWritten (b : Blk) (home : Nat) (poison : Bool) : Blk :=
  match b.camp home with
  | none => b
  | some e =>
    if e.st ≠ .draining || !e.copying then b
    else if poison || b.campBadSrc e true then
      ((b.setCamp { e with st := .live, stuck := true, copying := false }).event 0x22 0 0 0 [BitVec.ofNat 64 home]).migCnt 7
    else ((b.campCopy e true).setCamp { e with copying := false, landed := true }).campStep home

/-- CAMP_WRITEBACK_LANDED. -/
def execCampWritebackLanded (home : Nat) (poison : Bool) (s : State) : Out :=
  upd (fun b => onlyIf b.live (fun b => b.campWritten home poison) b) s

/-- Demote an entry that is LIVE and not STUCK (R256, R261). -/
def Blk.demote (b : Blk) (home : Nat) : Blk :=
  match b.camp home with
  | none => b
  | some e => if e.st = .live && !e.stuck then (b.setCamp { e with demote := true }).campStep home else b

/-- Promote the candidates of one window (R261), n at most, in arrival order. -/
def promoteN : Nat → Blk → Blk
  | 0, b => b
  | n + 1, b =>
    match b.mig.cands with
    | [] => b
    | x :: t => promoteN n (({ b with mig := { b.mig with cands := t } } : Blk).promote x)

/-- MIGRATOR_WINDOW (R261): the promotions and the scan of a window of 1,024 T-ticks. -/
def Blk.migWindow (b : Blk) : Blk :=
  let w := b.time.toNat / 1024
  if !b.issues || !b.diren || !b.rb 0x30418 1 || b.mig.recov || w < b.mig.window then b else
  let b := { b with mig := { b.mig with window := w + 1 } }
  let b := promoteN (b.rf 0x30418 16 16) b
  let n := 2 ^ b.cdlog
  let k := min n (b.rf 0x30418 32 16)
  let lo := b.mig.scan % n
  let scanned := fun (e : Camp) => decide ((e.bucket + n - lo) % n < k)
  let low := if (b.campSlots - b.mig.slots.length) * 16 < b.campSlots then b.promo else b.rf 0x30418 8 4
  let hit := (b.mig.camps.filter (fun e => scanned e && e.st = .live && !e.stuck && decide (b.estimate (e.home / 128) < low))).map (·.home)
  let b := hit.foldl Blk.demote b
  { b with mig := { b.mig with scan := (lo + k) % n } }

/-- MIGRATOR_WINDOW. -/
def execMigratorWindow (s : State) : Out := upd Blk.migWindow s

/-- DIRECTORY_SWEEP (R259): after a block reset with DIREN = 1 the sweep runs; it runs while RECOV reads 1. -/
def execDirectorySweep (s : State) : Out :=
  upd (fun b => onlyIf (b.live && b.diren && b.mig.recov) (fun b =>
    let gone := b.mig.camps.filter (fun e => e.st = .filling)
    let b := gone.foldl Blk.campRemove b
    (b.mig.camps.filter (fun e => e.st = .draining)).foldl (fun b e => b.setCamp { e with st := .live, copying := false, landed := false }) b) b) s

/-- DIRECTORY_SWEEP_DONE (R259): tiered lookups are served from now on. -/
def execDirectorySweepDone (s : State) : Out :=
  upd (fun b => onlyIf (b.live && b.mig.recov && !b.mig.camps.any (fun e => e.st ≠ .live))
    (fun b => { b with mig := { b.mig with recov := false } }) b) s

end Sys2Proof.Machine
end

