-- ==== Sys2Proof/Machine/Stream.lean ====
section
/-! DEFINITION. The data unit: which element is issued next (R20, R21, R54, R59 to R62, R67, R108, R288), how a row read is cut into
pieces (R71, R249, R287, R394, R401), the camp consult and the row-cache lookup of a piece, and what a returned row does (R42 to R46,
R195, R423, R469, R470). Also the batches pushed down to other chips (R395, R417). -/
namespace Sys2Proof.Machine

/-! ### Pieces of a read -/

/-- Cut n bytes at pa into pieces inside blocks of `gran` bytes; k pieces at most. -/
def cutPieces (dev : Bool) (cr gran : Nat) : Nat → Nat → Nat → Nat → Nat → List Piece
  | 0, _, _, _, _ => []
  | k + 1, va, pa, n, off =>
    if n = 0 then [] else
    let m := min n (gran - pa % gran)
    { va := va, pa := pa, len := m, off := off, dev := dev, cr := cr, home := pa / 128 } ::
      cutPieces dev cr gran k (va + m) (pa + m) (n - m) (off + m)

/-- Pieces of a range that lies in one page: a refused device address fails; a window of this chip's own node is read through its
receive window (R401). -/
def Blk.pagePieces (b : Blk) (t : Tlb) (va pa n off : Nat) : Ds (List Piece) :=
  if !t.dev then .ok (cutPieces false 0 4096 (n / 4096 + 2) va pa n off)
  else if tierOf pa < 3 then
    if b.paRange pa n then .ok (cutPieces true t.cr 128 (n / 128 + 2) va pa n off) else .xlt 7 va
  else
    match b.window pa with
    | none => .xlt 7 va
    | some (node, rwin) =>
      if node = b.node then
        match b.rwtAddr rwin 1 (pa % 2 ^ 32) n true with
        | (0, x) => .ok (cutPieces true (fld (b.rwt rwin).1 8 4) 128 (n / 128 + 2) va x n off)
        | (st, _) => .st st
      else .ok (cutPieces true t.cr 4096 (n / 4096 + 2) va pa n off)

/-- Translate a range and cut it into pieces; both halves of a split must translate (R287); k pages at most. -/
def Blk.rangePieces (r : Req) (ctx : Nat) : Nat → Nat → Nat → Nat → Blk → Blk × Ds (List Piece)
  | 0, _, _, _, b => (b, .ok [])
  | k + 1, va, n, off, b =>
    if n = 0 then (b, .ok []) else
    let m := min n (2 ^ 30 - va % 2 ^ 30)
    match b.xl r ctx va false with
    | (b, .wait) => (b, .wait)
    | (b, .bad k) => (b, .xlt k va)
    | (b, .ok t pa) =>
      match b.pagePieces t va pa m off with
      | .ok l => Ds.bind (b.rangePieces r ctx k (va + m) (n - m) (off + m)) (fun b l2 => (b, .ok (l ++ l2)))
      | x => (b, x)

/-- The byte ranges that a slot reads: address, length, offset in its bytes. -/
def SQ.ranges (s : SQ) (t : TSlot) : List (Nat × Nat × Nat) :=
  let tb := s.tab
  let rb := tb.rowBytes
  let sc := fun (va : Nat) => if tb.scaled then [(va, 4, rb)] else []
  match t.plane with
  | some p =>
    let as_ := t.grp.map (fun g => if p then tb.sbase + 4 * g.2.2 else tb.dbase + tb.stride * g.2.2)
    let lo := as_.foldl min (as_.headD 0)
    let hi := as_.foldl max 0 + (if p then 4 else rb)
    [(lo, hi - lo, 0)]
  | none =>
    match t.kind with
    | .row => (tb.dbase + tb.stride * t.row, rb, 0) :: sc (tb.sbase + 4 * t.row)
    | .deflt => (tb.defptr, rb, 0) :: sc (tb.defptr + tb.stride)
    | .replica => [(tb.rbase + t.row * tb.rstride, tb.repBytes, 0)]
    | .remote => []

/-- Change tracker slot i of core c. -/
def Blk.updSlot (b : Blk) (c i : Nat) (f : TSlot → TSlot) : Blk :=
  b.updCore c (fun k => { k with trk := k.trk.map (fun t => if t.id = i then f t else t) })

/-- A piece lies in window space of another chip. -/
def Piece.far (p : Piece) : Bool := p.dev && tierOf p.pa = 3

/-- Send the RDs of a slot's window pieces (R394, R401), each rounded out to 8 bytes. -/
def Blk.sendReads (b : Blk) (c i : Nat) (id : Nat) (l : List (Nat × Piece)) : Blk :=
  l.foldl (fun b x =>
    let p := x.2
    match b.window p.pa with
    | none => b
    | some (node, rwin) =>
      let off := p.pa % 2 ^ 32
      let lo := off / 8 * 8
      let n := upTo 8 (off + p.len - lo)
      match b.lxRequest (some id) (.read c i x.1) node 1 rwin [BitVec.ofNat 64 (lo + n <<< 32)] (p.cr ≠ 0) with
      | (b, .sent) => b
      | (b, .noRoute) => b.failCmd id 0x60
      | (b, .notPermitted) => b.failCmd id 0x32) b

/-- Reads of the slot look up the row cache (R72). -/
def Blk.looksUp (b : Blk) (s : SQ) (t : TSlot) (p : Piece) : Bool :=
  s.tab.cache && t.kind ≠ .replica && p.dev && tierOf p.pa < 3 && b.rcOn

/-- The bucket of the core holds back a piece of a row: regulation applies after the row cache (R61, R62). -/
def Blk.pieceShut (b : Blk) (c q : Nat) (p : Piece) : Bool := b.shutAt c p.dev p.pa && !b.uncharged c q

/-- A piece that goes to its port without a lookup waits there while the bucket lets nothing through. -/
def Blk.holdPiece (b : Blk) (c : Nat) (t : TSlot) (p : Piece) : Piece :=
  { p with hold := !b.looksUp (b.sq c t.q) t p && b.pieceShut c t.q p }

/-- Translate the reads of a slot (R278, R279, R287): its pieces are set once every part has translated. -/
def Blk.slotXlate (b : Blk) (c i : Nat) : Blk :=
  match (b.core c).slot i with
  | none => b
  | some t =>
    let s := b.sq c t.q
    if !t.pieces.isEmpty || t.late || t.got || t.kind = .remote then b else
    let go := (s.ranges t).foldl (fun (x : Blk × Ds (List Piece)) r =>
      Ds.bind x (fun b l => Ds.bind (b.rangePieces (.row c i) s.ctx 3 r.1 r.2.1 r.2.2) (fun b l2 => (b, .ok (l ++ l2)))))
      ((b, .ok []) : Blk × Ds (List Piece))
    match go with
    | (b, .ok l) =>
      let b := b.updSlot c i (fun t => { t with pieces := l.map (b.holdPiece c t) })
      b.sendReads c i s.owner (((List.range l.length).zip l).filter (fun x => x.2.far))
    | (b, .wait) => b
    | (b, .st n) => b.failCmd s.owner n
    | (b, .xlt k va) => b.xltFatal (.row c i) s.ctx k (BitVec.ofNat 64 va)

/-- A new tracker slot (R59). -/
def Blk.newSlot (b : Blk) (c : Nat) (t : TSlot) : Blk :=
  let i := (b.core c).nextSlot
  (b.updCore c (fun k => { k with trk := k.trk ++ [{ t with id := i }], nextSlot := i + 1, cur := some (b.sq c t.q).owner })).slotXlate c i

/-- Free tracker slot i. -/
def Blk.freeSlotT (b : Blk) (c i : Nat) : Blk := b.updCore c (fun k => { k with trk := k.trk.filter (fun t => t.id ≠ i) })

/-! ### Pooling pushdown (R395, R417) -/

/-- Bytes of the lanes that an owner returns for one bag. -/
def SQ.laneBytes (s : SQ) : Nat := s.width * s.fmt.size * (if s.mode = 4 then 2 else 1)

/-- Pad bytes to a multiple of 8. -/
def pad8 (l : List Byte) : List Byte := l ++ List.replicate (upTo 8 l.length - l.length) 0

/-- The bags of a batch in order of first entry, with their elements. -/
def batchBags (l : List (Nat × Nat × Nat × W64)) : List (Nat × List (Nat × Nat × Nat × W64)) :=
  let bs := l.foldl (fun (acc : List Nat) e => if acc.contains e.2.1 then acc else acc ++ [e.2.1]) []
  bs.map (fun k => (k, l.filter (fun e => e.2.1 = k)))

/-- 64-bit indices are sent where the stream's are, or where an owner-side index needs them. -/
def SQ.wideIdx (s : SQ) (l : List Nat) : Bool := sdIw s.sd = 8 || l.any (fun i => i ≥ 2 ^ 31)

/-- The three arrays of an RPOOL or RGRAD body: lengths, indices, weights. -/
def SQ.idxArrays (s : SQ) (bags : List (Nat × List (Nat × Nat × Nat × W64))) : List Byte :=
  let es := bags.flatMap (·.2)
  let w := if s.wideIdx (es.map (·.2.2.1)) then 8 else 4
  pad8 (bags.flatMap (fun g => leBytes 2 g.2.length)) ++ pad8 (es.flatMap (fun e => leBytes w e.2.2.1)) ++
    (if s.wread then pad8 (es.flatMap (fun e => leBytes s.fmt.size e.2.2.2.toNat)) else [])

/-- The bits [63:44] of Q1 that RPOOL and RGRAD share, with RWIN. -/
def SQ.poolHi (s : SQ) (rwin mode : Nat) (idx : List Nat) : Nat :=
  rwin + mode <<< 12 + (if s.wideIdx idx then 1 <<< 15 else 0) + (if s.wread then 1 <<< 16 else 0) +
    (if s.wread && s.tab.fp64 then 3 <<< 17 else 0)

/-- Send the batch for a node as an RPOOL; indices and weights from a confidential page make it confidential (R408). -/
def Blk.sendBatch (b : Blk) (c q node : Nat) : Blk :=
  let s := b.sq c q
  match s.batches.find? (fun x => x.node = node) with
  | none => b
  | some x =>
    let bags := batchBags x.elems
    let es := bags.flatMap (·.2)
    let b := b.updSq c q (fun s => { s with batches := s.batches.filter (fun y => y.node ≠ node) })
    let body := BitVec.ofNat 64 (bags.length + es.length <<< 8) :: bytesWords ((s.idxArrays bags).length) (s.idxArrays bags)
    match b.lxRequest (some s.owner) (.rpool c q (bags.map (fun g => (g.1, g.2.map (·.1))))) node 3
        (s.poolHi x.rwin s.mode (es.map (·.2.2.1))) body (es.any (fun e => s.cord.contains e.1)) with
    | (b, .sent) => b.inc 0x70200 1
    | (b, .noRoute) => b.failCmd s.owner 0x60
    | (b, .notPermitted) => b.failCmd s.owner 0x32

/-- An element enters its owner's batch; a batch that holds 256 elements or 64 bags, or that one more bag would take past the size rule,
is sent (R417). -/
def Blk.batchAdd (b : Blk) (c q node rwin : Nat) (e : Nat × Nat × Nat × W64) : Blk :=
  let full := fun (x : Batch) =>
    let n := (batchBags x.elems).length
    decide (256 ≤ x.elems.length ∨ 64 ≤ n ∨ 32768 < (n + 1) * (8 + (b.sq c q).laneBytes))
  let b := b.updSq c q (fun s =>
    match s.batches.find? (fun x => x.node = node) with
    | some x => { s with batches := s.batches.map (fun y => if y.node = node then { x with elems := x.elems ++ [e] } else y) }
    | none => { s with batches := s.batches ++ [{ node := node, rwin := rwin, first := b.time.toNat, elems := [e] }] })
  match (b.sq c q).batches.find? (fun x => x.node = node) with
  | some x => if full x then b.sendBatch c q node else b
  | none => b

/-- Once the last element of a pass has been resolved and issued, its batches are sent (R417). -/
def Blk.flushBatches (b : Blk) (c q : Nat) : Blk :=
  let s := b.sq c q
  if s.lim ≤ s.nextRes && !(s.buf ++ s.redo).any (fun x => x.kind.isRemote) then
    (s.batches.map (·.node)).foldl (fun b n => b.sendBatch c q n) b
  else b

/-- RPOOL_BATCH_TIMER (R417): 64 T-ticks have passed since a batch's first element. -/
def execRpoolBatchTimer (c : Fin 8) (q : Fin 20) (node : BitVec 16) (s : State) : Out :=
  upd (fun b =>
    match (b.sq c.val q.val).batches.find? (fun x => x.node = node.toNat) with
    | some x =>
      if b.unitIssues c.val && decide (x.first + 64 ≤ b.time.toNat) then b.sendBatch c.val q.val node.toNat
      else b
    | none => b) s

/-! ### Issue -/

/-- MAXOUT. -/
def SQ.maxout (s : SQ) : Nat := fld (qw s.sd 0) 36 13 + 1

/-- The element that a pass issues next. -/
def SQ.head (s : SQ) : Option Elem := (s.redo ++ s.buf).head?

/-- Slots that an element takes (R59): a default record that is held or already being read takes none. -/
def Blk.need (b : Blk) (s : SQ) (x : Elem) : Nat :=
  match x.kind with
  | .row _ => 1
  | .pair _ _ => 2
  | .replica _ => 1
  | .remote _ _ _ => 1
  | .deflt _ =>
    if ((b.cmd s.owner).map (fun m => m.dflts.any (fun e => e.1 = s.tab.num))).getD false then 0 else 1
  | _ => 0

/-- Fetch-ahead slots of R20 that a read reserves. -/
def TableCopy.fetchSlots (t : TableCopy) : Nat := (t.rowBytes + 127) / 128

/-- Fetch-ahead slots reserved on a core. -/
def Blk.fetchUsed (b : Blk) (c : Nat) : Nat :=
  (b.core c).trk.foldl (fun n t => if t.kind = .row || t.kind = .replica then n + (b.sq c t.q).tab.fetchSlots else n) 0

/-- Fetch-ahead slots that the reads of an element reserve. -/
def SQ.ahead (s : SQ) (x : Elem) : Nat :=
  match x.kind with
  | .row _ => s.tab.fetchSlots
  | .pair _ _ => 2 * s.tab.fetchSlots
  | .replica _ => s.tab.fetchSlots
  | _ => 0

/-- A pass that will make row requests which it has not made (R20). -/
def SQ.issuing (s : SQ) : Bool :=
  (s.st = .active || s.st = .parked) && !s.ended && s.cons ≠ .none && (!s.cons.isScat || s.de) && (decide (s.nextRes < s.lim) || !s.buf.isEmpty)

/-- The core may issue row requests of a command: no other command whose requests it has begun has some left (R20, R21). -/
def Core.turn (k : Core) (id : Nat) : Bool :=
  match k.cur with
  | none => true
  | some o => o = id || !k.qs.any (fun e => e.2.owner = o && e.2.issuing)

/-- The pass can issue its next element (R20, R21, R54, R59, R108, R288). -/
def Blk.canIssueElem (b : Blk) (c q : Nat) : Bool :=
  let k := b.core c
  let s := k.sq q
  if s.st ≠ .active || s.ended || s.cons = .none || b.qHeld 2 c q then false else
  match s.head with
  | none => false
  | some x =>
    match s.bagOf x.ord with
    | none => false
    | some g =>
      let n := b.need s x
      decide (x.ord < s.w + 8192) && decide (g < s.bw + 8192) &&
      (q ≥ 16 || decide (k.held q + n ≤ s.maxout) || (s.maxout = 1 && n = 2 && k.held q = 0)) &&
      decide (k.trk.length + n ≤ 8192) && b.bagRoom c s x g && k.turn s.owner &&
      (if b.build.overlap then k.trk.all (fun t => (k.sq t.q).owner = s.owner && !t.late)
       else decide (b.fetchUsed c + s.ahead x ≤ 512))

/-- An element leaves the buffer and is outstanding; its bag opens. -/
def Blk.takeElem (b : Blk) (c q : Nat) (x : Elem) : Blk :=
  let s := b.sq c q
  let k := (s.bagOf x.ord).getD 0
  let b := if s.hasFailed k || (s.cons.isScat && !s.de) || x.kind = .bad || x.kind = .masked then b
    else
      let g := s.bag k
      let p := (x.ord - s.start k) / 65536
      let old := (g.pitches.find? (fun e => e.1 = p)).getD (p, 0, {})
      b.putBag c q (if old.2.2.lanes ≠ [] then g
        else { g with pitches := (p, old.2.1, Accu.zero s.width) :: g.pitches.filter (fun e => e.1 ≠ p) })
  b.updSq c q (fun s => { s with
    redo := s.redo.filter (fun y => y.ord ≠ x.ord)
    buf := s.buf.filter (fun y => y.ord ≠ x.ord)
    flight := s.flight ++ [x] })

/-- The element's reads are issued (R59). -/
def Blk.readElem (b : Blk) (c q : Nat) (x : Elem) : Blk :=
  let s := b.sq c q
  let base : TSlot := { id := 0, q := q, ord := x.ord, row := 0 }
  match x.kind with
  | .row i => b.newSlot c { base with row := i }
  | .pair i j => (b.newSlot c { base with row := i }).newSlot c { base with row := j, half := 1 }
  | .replica g => b.newSlot c { base with row := g, kind := .replica }
  | .remote node rwin own =>
    (b.newSlot c { base with row := own, kind := .remote }).batchAdd c q node rwin (x.ord, (s.bagOf x.ord).getD 0, own, x.wt)
  | .deflt _ =>
    if b.need s x = 0 then b
    else (b.updCmd s.owner (fun m => { m with dflts := m.dflts ++ [(s.tab.num, none)] })).newSlot c { base with kind := .deflt }
  | _ => b

/-! ### The camp consult and the lookup of a piece (R72, R73, R251, R255, R260, R454) -/

/-- The slot's reads are row or scale-entry reads of a tiered table whose row lies in the bulk or far tier on a page without a
confidential region, and the directory is in use (R251, R454). -/
def Blk.tieredSlot (b : Blk) (s : SQ) (t : TSlot) : Bool :=
  s.tab.tiered && b.diren && t.kind = .row && t.plane.isNone &&
  (match t.pieces.head? with
   | some p => p.dev && p.cr = 0 && (tierOf p.pa = 1 || tierOf p.pa = 2)
   | none => false)

/-- Home address of the scale entry of a slot, 0 where there is none. -/
def TSlot.sect (t : TSlot) (rb : Nat) : Nat := ((t.pieces.find? (fun p => p.off = rb)).map (·.pa)).getD 0

/-- Consult the directory for a slot: a LIVE or DRAINING entry serves it from its camp (R255, R256). The flag answers whether the
consult was made. -/
def Blk.consult (b : Blk) (c i : Nat) : Blk × Bool :=
  match (b.core c).slot i with
  | none => (b, true)
  | some t =>
    let s := b.sq c t.q
    if t.consulted || !b.tieredSlot s t then (b, true)
    else if b.mig.recov then (b, false)
    else
      let home := ((t.pieces.head?).map (·.pa)).getD 0
      match b.camp home with
      | none => (b.updSlot c i (fun t => { t with consulted := true }), true)
      | some e =>
        if e.st = .filling then (b.updSlot c i (fun t => { t with consulted := true }), true)
        else if e.lookups ≥ 65535 then (b, false)
        else
          let a := b.slotAddr e.slot
          let so := s.tab.scaleOff
          let rb := s.tab.rowBytes
          let mv := fun (p : Piece) => (p.va, p.off, p.len, p.home)
          let homes := t.pieces.map mv
          let row := cutPieces true 0 128 40 0 a rb 0
          let sc := if s.tab.scaled then cutPieces true 0 128 2 0 (a + so) 4 rb else []
          let fix := fun (p : Piece) =>
            { p with home := ((homes.filter (fun h => h.2.1 ≤ p.off)).getLast?.map (fun h => h.2.2.2)).getD p.home }
          let b := b.updSlot c i (fun t => { t with consulted := true, camp := some home, pieces := (row ++ sc).map (fun p => b.holdPiece c t (fix p)) })
          (b.campCount home 1 0, true)

/-- STREAMFILL. -/
def SQ.streamfill (s : SQ) : Bool := bit (qw s.sd 0) 9

/-- ROW_CACHE_LOOKUP (R73): the slot's piece on a line is looked up; a tiered row is first sought in the camp directory, and one
that is served at home with a high estimate becomes a candidate. A lookup that would need the port waits while the core's bucket
lets nothing through (R62). -/
def Blk.rowLookup (b : Blk) (c i line : Nat) (par : RcParity) : Blk :=
  if !b.coreLive c then b else
  match b.consult c i with
  | (b, false) => b
  | (b, true) =>
    match (b.core c).slot i with
    | none => b
    | some t =>
      let s := b.sq c t.q
      match t.pieces.find? (fun p => p.pa / 128 = line && p.byte.isNone && p.fill.isNone && !p.looked) with
      | none => b
      | some p =>
        if !b.looksUp s t p then b else
        let tiered := b.tieredSlot s t
        let old := b
        match b.rcLook p.cr p.pa p.len p.home true s.streamfill par with
        | (b, r) =>
          if old.pieceShut c t.q p && (r = .bypass || b.rc.nextFill ≠ old.rc.nextFill) then old else
          let set := fun (f : Piece → Piece) (b : Blk) => b.updSlot c i (fun t => { t with pieces := t.pieces.map (fun y => if y = p then f y else y) })
          let b := match r with
            | .hit l => set (fun y => { y with byte := some l }) b
            | .fill id => set (fun y => { y with fill := some id }) b
            | .bypass => set (fun y => { y with looked := true }) b
            | .again => b
          if tiered && t.camp.isNone && p.off = 0 && r ≠ .again && decide (b.promo ≤ b.estimate p.home) then
            b.candidate { home := p.pa, sect := t.sect s.tab.rowBytes, rowBytes := s.tab.rowBytes,
                          bytes := if s.tab.scaled then s.tab.scaleOff + 4 else s.tab.rowBytes }
          else b

/-- ROW_CACHE_LOOKUP. -/
def execRowCacheLookup (c : Fin 8) (slot line : Nat) (par : RcParity) (s : State) : Out :=
  upd (fun b => b.rowLookup c.val slot line par) s

/-! ### Rows that return -/

/-- The bytes of a piece: served already, read at its port, or returned by the host; none while it waits. The flags mark
the bytes of poisoned sectors (R44). -/
def Blk.pieceBytes (b : Blk) (s : SQ) (t : TSlot) (rd : View) (p : Piece) : Option (List Byte × List Bool) :=
  let flags := fun (f : Nat → Bool) => (List.range p.len).map f
  match p.byte with
  | some l => some (l, flags (fun i => p.bad.contains ((p.pa + i) / 64)))
  | none =>
    if p.fill.isSome || p.far then none
    else if p.dev then
      if b.looksUp s t p && !p.looked then none
      else some (b.devRead p.cr p.pa p.len, flags (fun i => b.bad.contains ((p.pa + i) / 64) || rd.get ((p.va + i) / 64) = some .poison))
    else
      let ns := sectorsOf p.va p.len
      if ns.any (fun n => (rd.get n).isNone) then none
      else
        let get := fun (n : Nat) => match rd.get n with | some (.data d) => Sect.bytes d | _ => List.replicate 64 0
        some (((ns.flatMap get).drop (p.va % 64)).take p.len,
          flags (fun i => match rd.get ((p.va + i) / 64) with | some (.data _) => false | _ => true))

/-- Host pieces that an error response refuses (R490). -/
def pieceRefused (rd : View) (p : Piece) : Bool := p.byte.isNone && (sectorsOf p.va p.len).any (fun n => rd.get n = some .error) && !p.dev

/-- The bytes of a whole slot, with the marks of poison; none while a piece waits. -/
def Blk.slotBytes (b : Blk) (s : SQ) (t : TSlot) (rd : View) : Option (List Byte × List Bool) :=
  if t.pieces.isEmpty then none else
  t.pieces.foldl (fun a p =>
    match a, b.pieceBytes s t rd p with
    | some (l, x), some (m, y) => some (l ++ m, x ++ y)
    | _, _ => none) (some ([], []))

/-- The parts of an element that its rows must bring: ordinal, half and plane. -/
def SQ.wants (s : SQ) (x : Elem) : List (Nat × Nat) :=
  let pl := if s.tab.scaled then [0, 1] else [0]
  match x.kind with
  | .pair _ _ => pl.map (fun p => (0, p)) ++ pl.map (fun p => (1, p))
  | _ => pl.map (fun p => (0, p))

/-- The bytes of a part. -/
def SQ.part (s : SQ) (e h p : Nat) : List Byte := ((s.parts.find? (fun x => x.1 = e && x.2.1 = h && x.2.2.1 = p)).map (·.2.2.2)).getD []

/-- Every part of an element has arrived. -/
def SQ.complete (s : SQ) (x : Elem) : Bool :=
  (s.wants x).all (fun w => s.parts.any (fun y => y.1 = x.ord && y.2.1 = w.1 && y.2.2.1 = w.2))

/-- The dequantised value of a complete element (R34, R42). -/
def SQ.value (s : SQ) (x : Elem) : List W64 :=
  let v := fun (h : Nat) => s.tab.dequant (s.part x.ord h 0) (s.part x.ord h 1)
  match x.kind with
  | .pair _ _ => zipLanes s.fmt.add (v 0) (v 1)
  | _ => v 0

/-- The row that an event record names. -/
def EKind.rowOf (k : EKind) : W64 :=
  match k with
  | .row i => BitVec.ofNat 64 i
  | .pair i _ => BitVec.ofNat 64 i
  | .replica i => BitVec.ofNat 64 i
  | _ => 0xFFFFFFFFFFFFFFFF

/-- The row of an element whose read was poisoned, for its event record (R44, R359): of a two-way element, the half's row. -/
def SQ.badRow (s : SQ) (x : Elem) : W64 :=
  match x.kind, s.pbad.find? (fun p => p.1 = x.ord) with
  | .pair _ j, some (_, 1) => BitVec.ofNat 64 j
  | _, _ => x.kind.rowOf

/-- Poison of a code row that a SCAT with DE = 1 recomputes from: the bag adds nothing to dE (R226). -/
def Blk.failCodes (b : Blk) (c q k : Nat) (row : W64) : Blk :=
  let s := b.sq c q
  if s.pbags.any (fun p => p.1 = k) then b else
  let pl := match b.cmd s.owner with | some m => (m.ring, m.pos) | none => (0, 0)
  let b := (b.meet s.owner 0x40).event 0x20 pl.1 c s.ownerTask
    [BitVec.ofNat 64 (s.tab.num + (pl.2 % 65536) <<< 16), row, BitVec.ofNat 64 k]
  (b.dropBag c q k).updSq c q (fun s => { s with pbags := s.pbags ++ [(k, 0, [])] })

/-- A complete element reaches the consumer: pooled, or handled as poisoned under R44. -/
def Blk.elemDone (b : Blk) (c q : Nat) (x : Elem) : Blk :=
  let s := b.sq c q
  let k := (s.bagOf x.ord).getD 0
  if !s.pbad.any (fun p => p.1 = x.ord) then b.accept c q x (s.value x)
  else if s.tab.poisub then
    let b := b.updCmd s.owner (fun m => ({ m with defsub := m.defsub + 1 }.flag 1).stat s.tab.stats 2 1)
    if s.tab.defmode then
      let y : Elem := { x with kind := .deflt false }
      let b := b.updSq c q (fun s => { s with
        flight := s.flight.filter (fun z => z.ord ≠ x.ord), parts := s.parts.filter (fun p => p.1 ≠ x.ord), pbad := s.pbad.filter (fun p => p.1 ≠ x.ord), redo := y :: s.redo })
      match b.heldDflt (b.sq c q) with
      | some _ => ((b.takeElem c q y).placeElem c q y).1
      | none => b
    else b.acceptZero c q x
  else if s.cons.isScat then (b.failCodes c q k (s.badRow x)).deliver c q x.ord k none
  else (b.failBag c q k 0x40 (s.badRow x)).deliver c q x.ord k none

/-- Slots whose rows have all been accepted are free (R59). -/
def Blk.sweepGot (b : Blk) (c q : Nat) : Blk :=
  let fl := (b.sq c q).flight
  let waits := fun (e : Nat) => fl.any (fun x => x.ord = e)
  b.updCore c (fun k => { k with trk := k.trk.filter (fun t =>
    !(t.q = q && t.got && !(if t.plane.isSome then t.grp.any (fun g => waits g.1) else waits t.ord))) })

/-- Elements in flight whose parts are complete reach the consumer, in ordinal order where the block fetches ahead; n at most. -/
def Blk.drainParts : Nat → Nat → Nat → Blk → Blk
  | 0, _, _, b => b
  | n + 1, c, q, b =>
    let s := b.sq c q
    if s.ended then b else
    match s.flight.find? (fun x => (b.build.overlap || x.ord = s.w) && s.parts.any (fun p => p.1 = x.ord) && s.complete x &&
        !(b.core c).feed.any (fun f => f.q = q && f.ord = some x.ord)) with
    | none => b.sweepGot c q
    | some x =>
      let b := b.elemDone c q x
      let b := if s.expandFirst then b.updSq c q (fun s => { s with parts := s.parts.filter (fun p => p.1 ≠ x.ord) }) else b
      (b.drainFlight 512 c q).drainParts n c q

/-- Elements in flight that can reach the consumer do. -/
def Blk.drain (b : Blk) (c q : Nat) : Blk := (b.drainFlight 512 c q).drainParts 512 c q

/-! ### Issuing the next element -/

/-- Issue the next element of a pass. -/
def Blk.issueElem (b : Blk) (c q : Nat) : Blk :=
  match (b.sq c q).head with
  | none => b
  | some x => (((b.takeElem c q x).readElem c q x).drain c q).flushBatches c q

/-- Rows of a short-path pass grouped by the 128-byte line of a plane. -/
def lineGroups (addr : Nat → Nat) (l : List (Nat × Nat × Nat)) : List (List (Nat × Nat × Nat)) :=
  let ks := l.foldl (fun (acc : List Nat) e => let k := addr e.2.2 / 128; if acc.contains k then acc else acc ++ [k]) []
  ks.map (fun k => l.filter (fun e => addr e.2.2 / 128 = k))

/-- The row reads of an element: ordinal, half, row. -/
def Elem.rows (x : Elem) : List (Nat × Nat × Nat) :=
  match x.kind with
  | .row i => [(x.ord, 0, i)]
  | .pair i j => [(x.ord, 0, i), (x.ord, 1, j)]
  | _ => []

/-- The express lane can issue: every element of the pass has been resolved, and the slice has room for its bursts (R67). -/
def Blk.canBurst (b : Blk) (c q : Nat) : Bool :=
  let s := b.sq c q
  s.st = .active && !s.ended && s.cons ≠ .none && decide (s.lim ≤ s.nextRes) && !(s.redo ++ s.buf).isEmpty &&
  decide ((b.core c).trk.length + 256 ≤ 8192) && b.canIssueElem c q

/-- The express lane issues the elements of a short-path pass: one burst for each line of a plane (R67). -/
def Blk.burst (b : Blk) (c q : Nat) : Blk :=
  let s := b.sq c q
  let xs := s.redo ++ s.buf
  let plain := xs.filter (fun x => !x.rows.isEmpty)
  let b := xs.foldl (fun b x => b.takeElem c q x) b
  let rows := plain.flatMap Elem.rows
  let slot : TSlot := { id := 0, q := q, ord := 0, row := 0 }
  let b := (lineGroups (fun i => s.tab.dbase + s.tab.stride * i) rows).foldl (fun b g => b.newSlot c { slot with grp := g, plane := some false }) b
  let b := if s.tab.scaled then
      (lineGroups (fun i => s.tab.sbase + 4 * i) rows).foldl (fun b g => b.newSlot c { slot with grp := g, plane := some true }) b
    else b
  let b := (xs.filter (fun x => x.rows.isEmpty)).foldl (fun b x => b.readElem c q x) b
  (b.drain c q).flushBatches c q

/-- ROW_REQUEST_ISSUE (R60, R67): a waiting short-path request before any queue, else the next ready queue in turn. -/
def Blk.rowIssue (b : Blk) (c : Nat) : Blk :=
  if !b.unitIssues c then b else
  let v : View := { blocks := [] }
  let b := iter 20 (fun q b => if (b.sq c q).st = .active && !(b.sq c q).ended then b.pass c q v else b) b
  match (List.range 4).find? (fun t => b.canBurst c (16 + t)) with
  | some t => b.burst c (16 + t)
  | none =>
    match ((List.range 16).map (fun i => ((b.core c).rr + 1 + i) % 16)).find? (fun q => b.canIssueElem c q) with
    | some q => (b.updCore c (fun k => { k with rr := q })).issueElem c q
    | none => b

/-- ROW_REQUEST_ISSUE. -/
def execRowRequestIssue (c : Fin 8) (s : State) : Out := upd (fun b => b.rowIssue c.val) s

/-! ### Accepting a row -/

/-- A replica record's stamp is current (R423). -/
def TableCopy.current (t : TableCopy) (l : List Byte) : Bool :=
  let d := (BitVec.ofNat 32 (leNat ((l.drop t.stampOff).take 4))) - BitVec.ofNat 32 t.req
  decide (0 ≤ d.toInt)

/-- The read of a slot has ended: the camp's in-flight count falls, the slot is free (R59, R255). -/
def Blk.endSlot (b : Blk) (c : Nat) (t : TSlot) : Blk :=
  let b := match t.camp with | some h => b.campCount h (-1) 0 | none => b
  b.freeSlotT c t.id

/-- The read of a row has returned: its slot is free once the consumer accepts the row, which in a fetch-ahead build may be later (R20,
R59). -/
def Blk.rowGot (b : Blk) (c : Nat) (t : TSlot) : Blk :=
  if b.build.overlap then b.endSlot c t
  else (match t.camp with | some h => b.campCount h (-1) 0 | none => b).updSlot c t.id (fun t => { t with got := true, camp := none, pieces := [] })

/-- The bytes of a slot go to the elements it serves; `bad` marks the bytes that are poisoned. -/
def Blk.slotParts (b : Blk) (c : Nat) (t : TSlot) (l : List Byte) (bad : List Bool) : Blk :=
  let s := b.sq c t.q
  let rb := s.tab.rowBytes
  let cmd := s.owner
  let put := fun (e h p : Nat) (x : List Byte) (s : SQ) => { s with parts := (e, h, p, x) :: s.parts }
  let mark := fun (e h : Nat) (m : List Bool) (s : SQ) => if m.any id then { s with pbad := s.pbad ++ [(e, h)] } else s
  match t.plane with
  | some p =>
    let at_ := fun (i : Nat) => if p then s.tab.sbase + 4 * i else s.tab.dbase + s.tab.stride * i
    let lo := ((t.grp.map (fun g => at_ g.2.2)).foldl min ((t.grp.map (fun g => at_ g.2.2)).headD 0))
    let b := if p then b else b.updCmd cmd (fun m => { m with rows := m.rows + t.grp.length })
    b.updSq c t.q (fun s => t.grp.foldl (fun s g =>
      let o := at_ g.2.2 - lo
      let n := if p then 4 else rb
      mark g.1 g.2.1 ((bad.drop o).take n) (put g.1 g.2.1 (if p then 1 else 0) ((l.drop o).take n) s)) s)
  | none =>
    let b := b.updCmd cmd (fun m => { m with rows := m.rows + 1 })
    let so := if t.kind = .replica then s.tab.scaleOff else rb
    b.updSq c t.q (fun s =>
      let s := mark t.ord t.half bad (put t.ord t.half 0 (l.take rb) s)
      if s.tab.scaled then put t.ord t.half 1 ((l.drop so).take 4) s else s)

/-- ROW_RETURN (R59): the row is accepted and frees its slot; a late row is discarded (R195); a stale replica waits (R423). -/
def Blk.rowReturn (b : Blk) (c i : Nat) (rd : View) (f : RowFault) : Blk :=
  match (b.core c).slot i with
  | none => b
  | some t0 =>
    if !b.coreLive c || t0.stale || t0.kind = .remote || t0.faulted || t0.got then b else
    match b.consult c i with
    | (b, false) => b
    | (b, true) =>
      match (b.core c).slot i with
      | none => b
      | some t =>
        let s := b.sq c t.q
        if t.late then (b.endSlot c t).finishPass c t.q
        else if t.pieces.any (pieceRefused rd) then (b.endSlot c t).xltFatal (.row c i) s.ctx 7 (BitVec.ofNat 64 (((t.pieces.find? (pieceRefused rd)).map (·.va)).getD 0))
        else if t.pieces.any (fun p => p.hold && b.pieceShut c t.q p) then b
        else
          match b.slotBytes s t rd with
          | none => b
          | some (l, bad) =>
            let k := (s.bagOf t.ord).getD 0
            match f with
            | .selfCheck => (b.endSlot c t).failCmd s.owner 0x7F
            | .parity =>
              let b := b.rowGot c t
              let b := if t.plane.isSome then t.grp.foldl (fun b g => b.failBag c t.q ((s.bagOf g.1).getD 0) 0x42 0xFFFFFFFFFFFFFFFF) b
                       else b.failBag c t.q k 0x42 0xFFFFFFFFFFFFFFFF
              ((b.slotParts c t l bad).drainParts 512 c t.q).flushBatches c t.q
            | .none =>
              match t.kind with
              | .deflt =>
                let v := if bad.any id then none else some (s.tab.dequant (l.take s.tab.rowBytes) (l.drop s.tab.rowBytes))
                let b := b.updCmd s.owner (fun m => { m with dflts := m.dflts.map (fun e => if e.1 = s.tab.num then (e.1, some v) else e) })
                iter 20 (fun q b => if (b.sq c q).belayed then b else b.drain c q) (b.endSlot c t)
              | .replica =>
                if !bad.any id && !s.tab.current l then
                  if s.tab.repl = 1 then
                    b.updSlot c i (fun t => { t with
                      stale := true, rereads := t.rereads + 1, last := b.time.toNat
                      first := if t.rereads = 0 then b.time.toNat else t.first })
                  else
                    let b := (b.updCmd s.owner (fun m => m.flag 8)).inc 0x70210 1
                    ((b.rowGot c t).slotParts c t l bad).drainParts 512 c t.q
                else ((b.rowGot c t).slotParts c t l bad).drainParts 512 c t.q
              | _ => ((b.rowGot c t).slotParts c t l bad).drainParts 512 c t.q

/-- ROW_RETURN. -/
def execRowReturn (c : Fin 8) (slot : Nat) (rd : View) (f : RowFault) (s : State) : Out :=
  upd (fun b => b.rowReturn c.val slot rd f) s

/-- REPLICA_REREAD (R423): 64 T-ticks after its last read a record that is not current is read again. -/
def execReplicaReread (c : Fin 8) (slot : Nat) (rd : View) (s : State) : Out :=
  upd (fun b =>
    match (b.core c.val).slot slot with
    | none => b
    | some t =>
      if b.coreLive c.val && t.stale && !t.late && decide (t.last + 64 ≤ b.time.toNat) then
        let b := if t.rereads = 1 then b.inc 0x70218 1 else b
        let b := b.updSlot c.val slot (fun t => { t with stale := false, pieces := t.pieces.map (fun p => { p with byte := none, looked := false }) })
        b.rowReturn c.val slot rd .none
      else b) s

/-- REPLICA_WAITMAX (R423): the record has not become current in time, and the last copy read is used. -/
def execReplicaWaitmax (c : Fin 8) (slot : Nat) (s : State) : Out :=
  upd (fun b =>
    match (b.core c.val).slot slot with
    | none => b
    | some t =>
      let s := b.sq c.val t.q
      if b.coreLive c.val && t.stale && !t.late && decide (t.first + fld (qw s.tab.smd 6) 0 32 ≤ b.time.toNat) then
        match b.slotBytes s t { blocks := [] } with
        | none => b
        | some (l, bad) =>
          let b := (b.updCmd s.owner (fun m => m.flag 8)).inc 0x70210 1
          ((b.rowGot c.val t).slotParts c.val t l bad).drainParts 512 c.val t.q
      else b) s

end Sys2Proof.Machine
end

