-- ==== Sys2Proof/Machine/Gather.lean ====
section
/-! DEFINITION. GATHER, REARM and POOL (R57, R68, R92 to R95, R334 to R336), and the acknowledgement of a bag's output write (R112). -/
namespace Sys2Proof.Machine

/-- Bind an SD to a queue: pass 1 starts with watermark 0 (R57). -/
def Blk.bindSd (b : Blk) (c q : Nat) (m : Cmd) (task : Nat) (tag : Option Nat) (sd : List W64) (t : TableCopy) : Blk :=
  b.updSq c q (fun s => { st := .active, cmd := m.id, task := task, tag := tag, ctx := m.ctx, sd := sd, tab := t, pass := 1,
                          cons := s.nextCons })

/-- The checks of R50 with the table that the SD names (R26, R27, R36). -/
def Blk.sdCheck (b : Blk) (m : Cmd) (v : View) (sd : List W64) (inl : Bool) : Blk × Ds TableCopy :=
  match sdBad sd inl with
  | some st => (b, .st st)
  | none => Ds.bind (b.table m.id v (sdTable sd)) (fun b t => if sdTabBad sd t then (b, .st 0x51) else (b, .ok t))

/-- GATHER (R57, R334): it waits until its queue is FREE or ARMED_IDLE. -/
def Blk.gather (b : Blk) (c t rd ra : Nat) (imm : W64) (v : View) : Blk :=
  b.longOp c t ra imm v (fun b m d => b.sdCheck m v d false) (fun b m tag d tab =>
    let q := sdQueue d
    let s := b.sq c q
    if (s.st = .free || s.st = .armedIdle) && !b.qHeld 2 c q then
      ((b.bindSd c q m t (some tag) d tab).consStart c q).longDone c t rd tag
    else b)

/-- GATHER. -/
def execGather (x : Ctx) (rd ra : Greg) (imm : W64) (v : View) (s : State) : Out :=
  upd (fun b => b.gather x.c.val x.t.val rd.val ra.val imm v) s

/-- A long operation without a tag ends its word. -/
def Blk.plainDone (b : Blk) (c t : Nat) : Blk := b.retire c t ((b.task c t).pc + 16)

/-- REARM (R57, R68, R336). With RELEASE = 1 both register fields must name g0, or the word traps (R321). -/
def Blk.rearmOp (b : Blk) (c t ra rb q : Nat) (release : Bool) : Blk :=
  if !b.canLong c t then b
  else if release && (ra ≠ 0 || rb ≠ 0) then b.trap c t 1024
  else
    let x := b.task c t
    let ib := x.gr ra
    let wb := x.gr rb
    let s := b.sq c q
    let bad := !release && sdBaseBad ((s.sd.set 1 ib).set 2 wb)
    match s.st with
    | .free => b.failTask c t 0x53
    | .armedIdle =>
      let b := b.cleanAll c
      if release then
        (b.updSq c q (fun s => { passFlag := s.passFlag, pass := s.pass, nextCons := s.nextCons })).plainDone c t
      else if bad then b.failTask c t 0x51
      else ((b.updSq c q (fun s => s.rearm ib wb)).consStart c q).plainDone c t
    | _ =>
      if s.shadow.isSome then b
      else
        let b := b.cleanAll c
        if bad then b.failTask c t 0x51
        else
          let b := b.updSq c q (fun s => { s with shadow := some { release := release, ibase := ib, wbase := wb } })
          (match x.cmd with | some id => b.updCmd id (fun m => m.flag 7) | none => b).plainDone c t

/-- REARM. -/
def execRearm (x : Ctx) (ra rb : Greg) (q : Fin 16) (release : Bool) (s : State) : Out :=
  upd (fun b => b.rearmOp x.c.val x.t.val ra.val rb.val q.val release) s

/-- Bind a consumer to a pass of a queue (R95): the current pass if it has none, the next pass of an idle queue; it waits while the
current pass has another. The flag answers whether it was bound. -/
def Blk.bindCons (b : Blk) (c q : Nat) (k : Consumer) : Blk × Bool :=
  let s := b.sq c q
  match s.st with
  | .free => (b, false)
  | .armedIdle => if s.nextCons = .none then (b.updSq c q (fun s => { s with nextCons := k }), true) else (b, false)
  | _ =>
    if s.cons = .none then
      let b := (b.updSq c q (fun s => { s with cons := k })).consStart c q
      (b.pass c q { blocks := [] }, true)
    else (b, false)

/-- The checks of a PD against a stream (R94, R114). -/
def Blk.pdFits (b : Blk) (pd sd : List W64) (t : TableCopy) : Option Nat :=
  match pdBad pd sd t with
  | some st => some st
  | none => if t.compact && !b.build.arrays then some 0x53 else none

/-- The checks of a POOL against the stream of its queue (R94, R95, R114). -/
def Blk.pdCheck (b : Blk) (c : Nat) (pd : List W64) : Option Nat :=
  let s := b.sq c (pdQueue pd)
  if fld (qw pd 0) 0 4 ≠ 1 then some 0x50
  else if s.st = .free then some 0x53
  else b.pdFits pd s.sd s.tab

/-- POOL (R92, R95). -/
def Blk.poolOp (b : Blk) (c t rd ra : Nat) (imm : W64) (v : View) : Blk :=
  b.longOp c t ra imm v (fun b _ d => match b.pdCheck c d with | some st => (b, .st st) | none => (b, .ok ()))
    (fun b m tag d _ =>
      match b.bindCons c (pdQueue d) (.pool d m.id t (some tag)) with
      | (b, true) => b.longDone c t rd tag
      | (b, false) => b)

/-- POOL. -/
def execPool (x : Ctx) (rd ra : Greg) (imm : W64) (v : View) (s : State) : Out :=
  upd (fun b => b.poolOp x.c.val x.t.val rd.val ra.val imm v) s

/-- A bag's output write is acknowledged (R112): its host parts land and the bag settles. A write that has not issued tries again. -/
def Blk.bagAck (b : Blk) (c q k : Nat) : Blk :=
  let s := b.sq c q
  match s.out.find? (fun o => o.bag = k) with
  | none => b
  | some o =>
    if !b.coreLive c then b
    else if s.cons.tb.isSome then ((b.tileOut c q).passCheck c q).finishPass c q
    else if !o.issued then (b.outIssue c q o).finishPass c q
    else if !b.passed o.ids then b
    else
      let b := b.hostParts o.hosts
      let b := b.updSq c q (fun s => { s with out := s.out.filter (fun x => x.bag ≠ k) })
      (b.settle c q k).finishPass c q

/-- BAG_OUTPUT_ACK. -/
def execBagOutputAck (c : Fin 8) (q : Fin 20) (bag : Nat) (s : State) : Out := upd (fun b => b.bagAck c.val q.val bag) s

end Sys2Proof.Machine
end

