-- ==== Sys2Proof/Machine/ArrCore.lean ====
section
/-! DEFINITION. Arithmetic and operands of the cube array: formats (R127), exact integer sums and float sums in an open order (R128,
R129), the accumulate stage (R130), narrowing loads (R133), the conversion of expansion activations (R115, R210), the AD and its
checks (R131, R132), and the keys and sources of stationary planes (R123, R134). -/
namespace Sys2Proof.Machine

/-! ### Formats (R127) -/

/-- An integer FMT. -/
def fmtInt (f : Nat) : Bool := f < 2
/-- Bits of an element. -/
def fmtBits (f : Nat) : Nat := if f = 1 then 4 else if f = 3 ∨ f = 4 then 16 else if f = 5 then 32 else 8
/-- Activation rows of one wavefront. -/
def fmtRate (f : Nat) : Nat := if f = 0 ∨ f = 2 then 2 else if f = 1 then 4 else 1
/-- Bytes of n elements. -/
def fmtBytes (f n : Nat) : Nat := (n * fmtBits f + 7) / 8
/-- The floating format of a float FMT; `e5` selects E5M2 for FP8. -/
def fmtFloat (f : Nat) (e5 : Bool) : FFmt :=
  if f = 2 then (if e5 then .e5m2 else .e4m3) else if f = 3 then .bf16 else if f = 4 then .fp16 else .fp32

/-- An integer as a 32-bit word. -/
def w32i (i : Int) : W32 := BitVec.ofInt 32 i
/-- A code of n bits read as signed or unsigned. -/
def codeVal (n : Nat) (sgn : Bool) (v : Nat) : Int := let x := v % 2 ^ n; if sgn && x ≥ 2 ^ (n - 1) then (x : Int) - 2 ^ n else x
/-- An integer as an exact value. -/
def fvInt (i : Int) : FV := .fin (i < 0) i.natAbs 0

/-- Element i of a stored operand row: an integer, or an fp32 pattern. -/
def opElem (f : Nat) (sgn : Bool) (row : List Byte) (i : Nat) : W32 :=
  if f = 0 then w32i (codeVal 8 sgn (row.getD i 0).toNat)
  else if f = 1 then w32i (codeVal 4 sgn ((row.getD (i / 2) 0).toNat >>> (4 * (i % 2))))
  else
    let n := fmtBits f / 8
    let x := leNat ((row.drop (n * i)).take n)
    BitVec.ofNat 32 (FFmt.fp32.cvt (fmtFloat f sgn) x)

/-- The n elements of a stored operand row. -/
def opRow (f : Nat) (sgn : Bool) (n : Nat) (row : List Byte) : List W32 := (List.range n).map (opElem f sgn row)

/-- Narrow a tile element to FMT (R133): the operand, whether it was out of the code range, and the conversion. -/
def narrow (f : Nat) (sgn : Bool) (x : W32) : W32 × Bool × List (FV × FV) :=
  if fmtInt f then
    let n := fmtBits f
    let v := x.toInt
    let c := clampInt (if sgn then -(2 ^ (n - 1)) else 0) (if sgn then 2 ^ (n - 1) - 1 else 2 ^ n - 1) v
    (w32i c, v ≠ c, [(fvInt v, fvInt c)])
  else
    let g := fmtFloat f sgn
    let y := g.cvt .fp32 x.toNat
    let z := FFmt.fp32.cvt g y
    (BitVec.ofNat 32 z, false, if f = 5 then [] else [(FV.of .fp32 x.toNat, FV.of g y)])

/-! ### Sums -/

/-- Exact sum of products, in integers. -/
def dotInt (a w : List W32) : Int := (List.zipWith (fun x y => x.toInt * y.toInt) a w).foldl (· + ·) 0

/-- Insert by key. -/
def insertKey (k : Nat) (x : Nat) : List (Nat × Nat) → List (Nat × Nat)
  | [] => [(k, x)]
  | (a, y) :: t => if k < a then (k, x) :: (a, y) :: t else (a, y) :: insertKey k x t

/-- The terms of sum n in the order it takes. -/
def sumOrder (n : Nat) (l : List Nat) : List Nat :=
  ((List.range l.length).foldl (fun acc i => insertKey (Config.sumKey n i) (l.getD i 0) acc) []).map (·.2)

/-- Add terms along a tree whose shape is open: format, fuel, sum, node, terms. -/
def sumTree (f : FFmt) : Nat → Nat → Nat → List Nat → Nat
  | 0, _, _, l => l.getD 0 0
  | _ + 1, _, _, [] => 0
  | _ + 1, _, _, [x] => x
  | k + 1, n, p, l =>
    let m := 1 + Config.sumSplit n p % (l.length - 1)
    f.add (sumTree f k n (2 * p) (l.take m)) (sumTree f k n (2 * p + 1) (l.drop m))

/-- Sum n of terms in a format, each addition rounded to nearest even, in an unspecified order (R129, R172). -/
def sumIn (f : FFmt) (n : Nat) (l : List Nat) : Nat := sumTree f l.length n 1 (sumOrder n l)

/-- The same in fp32. -/
def sumFlt (n : Nat) (l : List Nat) : Nat := sumIn .fp32 n l

/-- The products of an activation row and a plane column, and +0 for the plane rows beyond both. -/
def products (a w : List W32) : List Nat := 0 :: List.zipWith (fun x y => FFmt.fp32.mul x.toNat y.toNat) a w

/-- Column j of a plane. -/
def planeCol (w : List (List W32)) (j : Nat) : List W32 := w.map (fun r => r.getD j 0)

/-- Columns of a matrix of n columns as rows. -/
def flipRows (n : Nat) (w : List (List W32)) : List (List W32) := (List.range n).map (planeCol w)

/-! ### The accumulate stage (R130) -/

/-- Saturating int32 addition, and whether it saturated. -/
def satAdd (a b : Int) : Int × Bool :=
  let s := a + b
  let c := clampInt (-(2 ^ 31)) (2 ^ 31 - 1) s
  (c, c ≠ s)

/-- The fp32 value of an accumulator. -/
def accF (int : Bool) (acc : W32) : Nat := if int then FFmt.fp32.ofInt acc.toInt else acc.toNat

/-- Apply the row and column scales. -/
def scaled (int : Bool) (acc rs cs : W32) : Nat := FFmt.fp32.mul (FFmt.fp32.mul rs.toNat cs.toNat) (accF int acc)

/-- Size of an element of a memory destination: ODT, with 00b the accumulator's own 32 bits. -/
def odtSize (odt : Nat) : Nat := if odt ≤ 1 then 4 else 2

/-- An accumulator value in the format ODT: its bytes and the conversion. -/
def odtElem (odt : Nat) (int : Bool) (x : W32) : List Byte × List (FV × FV) :=
  if odt = 0 || (odt = 1 && !int) then (leBytes 4 x.toNat, [])
  else
    let g : FFmt := if odt = 1 then .fp32 else if odt = 2 then .bf16 else .fp16
    let v := if int then fvInt x.toInt else FV.of .fp32 x.toNat
    let y := g.cvtV v x.toNat
    (leBytes g.size y, [(v, FV.of g y)])

/-! ### Expansion activations (R115) -/

/-- Convert an activation vector of fp32 lanes for EFMT: its operands, its scale, whether it held a NaN or an infinity, and the
conversions. -/
def expConv (efmt : Nat) (a : List W32) : List W32 × W32 × Bool × List (FV × FV) :=
  if efmt = 0 then
    if a.any (fun x => !FFmt.fp32.isFin x.toNat) then ([], 0, true, [])
    else
      let m := a.foldl (fun n x => max n (FFmt.fp32.abs x.toNat)) 0
      let sg := FFmt.fp32.divV (FV.of .fp32 m) (.fin false 127 0) m 127
      let s := FV.of .fp32 sg
      let q := a.map (fun x => if FFmt.fp32.isZero sg then (0 : Int) else clampInt (-127) 127 ((FV.of .fp32 x.toNat).quotInt s))
      let d := fun (i : Int) => match s with | .fin _ n e => FV.fin (i < 0) (n * i.natAbs) e | x => x
      (q.map w32i, BitVec.ofNat 32 sg, false, List.zipWith (fun x i => (FV.of .fp32 x.toNat, d i)) a q)
  else
    let g : FFmt := if efmt = 1 then .bf16 else .fp16
    let y := a.map (fun x => g.cvt .fp32 x.toNat)
    (y.map (fun z => BitVec.ofNat 32 (FFmt.fp32.cvt g z)), 0, false, List.zipWith (fun x z => (FV.of .fp32 x.toNat, FV.of g z)) a y)

/-- FMT of an E format. -/
def efmtFmt (efmt : Nat) : Nat := if efmt = 0 then 0 else if efmt = 1 then 3 else 4

/-! ### The array descriptor (R131) -/

/-- FMT. -/
def adFmt (d : List W64) : Nat := fld (qw d 0) 4 3
/-- ASGN. -/
def adAsgn (d : List W64) : Bool := bit (qw d 0) 7
/-- WSGN. -/
def adWsgn (d : List W64) : Bool := bit (qw d 0) 8
/-- WZP. -/
def adWzp (d : List W64) : Nat := fld (qw d 0) 10 2
/-- TRANS. -/
def adTrans (d : List W64) : Bool := bit (qw d 0) 12
/-- ACC. -/
def adAcc (d : List W64) : Bool := bit (qw d 0) 13
/-- SCALE. -/
def adScale (d : List W64) : Bool := bit (qw d 0) 14
/-- SSRC. -/
def adSsrc (d : List W64) : Bool := bit (qw d 0) 15
/-- ASRC. -/
def adAsrc (d : List W64) : Bool := bit (qw d 0) 16
/-- Tile-buffer fields: ATBLO, ATBHI, STBLO, STBHI. -/
def adTb (d : List W64) (i : Nat) : Nat := fld (qw d 0) (17 + 3 * i) 3
/-- Activation rows. -/
def adM (d : List W64) : Nat := fld (qw d 0) 29 7 + 1
/-- DLO. -/
def adDlo (d : List W64) : Nat := fld (qw d 0) 36 3
/-- DHI. -/
def adDhi (d : List W64) : Nat := fld (qw d 0) 39 3
/-- TQ. -/
def adTq (d : List W64) : Bool := bit (qw d 0) 58
/-- A base address of word i. -/
def adBase (d : List W64) (i : Nat) : Nat := fld (qw d i) 0 57
/-- SSTRIDE. -/
def adSstride (d : List W64) : Nat := fld (qw d 2) 0 32
/-- K. -/
def adK (d : List W64) : Nat := fld (qw d 2) 32 8 + 1
/-- N. -/
def adN (d : List W64) : Nat := fld (qw d 2) 40 8 + 1
/-- ASTRIDE. -/
def adAstride (d : List W64) : Nat := fld (qw d 4) 0 32
/-- OSTRIDE. -/
def adOstride (d : List W64) : Nat := fld (qw d 7) 0 32
/-- ODT. -/
def adOdt (d : List W64) : Nat := fld (qw d 7) 32 2
/-- A zero point in the code range of FMT. -/
def adZp (d : List W64) (lo : Nat) (sgn : Bool) : Int := codeVal (fmtBits (adFmt d)) sgn (fld (qw d 0) lo 8)
/-- The activation zero point. -/
def adZa (d : List W64) : Int := if bit (qw d 0) 9 then adZp d 42 (adAsgn d) else 0
/-- The results are int32. -/
def adInt (d : List W64) : Bool := fmtInt (adFmt d) && !adScale d
/-- The destination tile buffers. -/
def adDest (d : List W64) : List Nat := ([adDlo d, adDhi d].filter (· < 6)).eraseDups
/-- The activation tile buffers. -/
def adAtb (d : List W64) : List Nat := if adAsrc d then ([adTb d 0, adTb d 1].filter (· < 6)).eraseDups else []
/-- The stationary tile buffers. -/
def adStb (d : List W64) : List Nat := if adSsrc d then ([adTb d 2, adTb d 3].filter (· < 6)).eraseDups else []
/-- VBASE is used. -/
def adVec (d : List W64) : Bool := adWzp d = 2 || adScale d
/-- Address of the column scales. -/
def adCols (d : List W64) : Nat := adBase d 5 + (if adWzp d = 2 then 256 else 0)
/-- Address of the row scales. -/
def adRows (d : List W64) : Nat := adCols d + 1024

/-- The checks of R132 (log entry 40 says how the alignment of the operands is read). -/
def adBad (d : List W64) : Option Nat :=
  let f := adFmt d
  let al := (fmtBits f + 7) / 8
  if fld (qw d 0) 0 4 ≠ 1 then some 0x50
  else if anyOf [
      res (qw d 0) 59 5, res (qw d 1) 57 7, res (qw d 2) 48 16, res (qw d 3) 57 7, res (qw d 4) 32 32, res (qw d 5) 57 7,
      res (qw d 6) 57 7, res (qw d 7) 34 30, f ≥ 6, adWzp d = 3,
      adAsrc d && (adTb d 0 ≥ 6 || adTb d 1 = 6), adSsrc d && (adTb d 2 ≥ 6 || adTb d 3 = 6),
      (adAtb d ++ adStb d).any (fun t => (adDest d).contains t),
      !fmtInt f && (bit (qw d 0) 9 || adWzp d ≠ 0 || (f ≠ 2 && (adAsgn d || adWsgn d))),
      adBase d 1 % al ≠ 0, adSstride d % al ≠ 0, adBase d 3 % al ≠ 0, adAstride d % al ≠ 0,
      adBase d 5 % 64 ≠ 0, adBase d 6 % 16 ≠ 0, adOstride d % 16 ≠ 0,
      adSsrc d == decide (adBase d 1 ≠ 0), adAsrc d == decide (adBase d 3 ≠ 0), adVec d == decide (adBase d 5 = 0),
      adAcc d && (adDlo d = 6 || adDhi d = 6),
      adTq d && (adDest d).isEmpty] then some 0x51
  else none

/-! ### Reads for the array -/

/-- Read ranges of virtual memory, each of some bytes. -/
def Blk.vreads (r : Req) (ctx : Nat) (v : View) : List (Nat × Nat) → Blk → Blk × Ds (List (List Byte))
  | [], b => (b, .ok [])
  | (va, n) :: l, b =>
    match b.vread r ctx v va n with
    | (b, .wait) => (b, .wait)
    | (b, .poison) => (b, .st 0x40)
    | (b, .fail k) => (b, .xlt k va)
    | (b, .bytes x) => Ds.bind (Blk.vreads r ctx v l b) (fun b xs => (b, .ok (x :: xs)))

/-- fp32 patterns of bytes. -/
def words32 (n : Nat) (l : List Byte) : List W32 := (List.range n).map (fun i => BitVec.ofNat 32 (leNat ((l.drop (4 * i)).take 4)))

/-! ### Keys of planes (R123) -/

/-- A physical identity of a virtual address: address, tier, region. -/
def Blk.keyAddr (b : Blk) (c ctx va : Nat) : Blk × Ds (List Nat) :=
  match b.xl (.plane c) ctx va false with
  | (b, .wait) => (b, .wait)
  | (b, .bad k) => (b, .xlt k va)
  | (b, .ok t pa) => (b, .ok [pa, if t.dev then 1 else 0, t.cr, t.memtype])

/-- The tables on the squares of a plan, by square: number, where the square is in use. -/
def xpTable (xp : List W64) (s : Nat) : Option Nat := if bit (qw xp 0) (16 + s) then some (fld (qw xp (1 + s / 4)) (16 * (s % 4)) 16) else none

/-- Key addresses of a list of tables' E. -/
def Blk.keyTabs (c : Nat) : List TableCopy → Blk → Blk × Ds (List Nat)
  | [], b => (b, .ok [])
  | t :: l, b =>
    Ds.bind (b.keyAddr c t.ctx t.ebase) (fun b k => Ds.bind (Blk.keyTabs c l b) (fun b ks => (b, .ok (k ++ [t.num, t.r, t.d] ++ ks))))

/-- The key of a plane's contents. -/
def Blk.planeKey (b : Blk) (c : Nat) (src : PSrc) : Blk × Ds (List Nat) :=
  match src with
  | .none => (b, .wait)
  | .matx id _ ctx d =>
    if adSsrc d then (b, .ok [1, id])
    else Ds.bind (b.keyAddr c ctx (adBase d 1)) (fun b k =>
      let lay := [0, adFmt d, fld (qw d 0) 8 1, adWzp d, fld (qw d 0) 12 1, if adWzp d = 1 then fld (qw d 0) 50 8 else 0,
                  adSstride d, adK d, adN d]
      if adWzp d = 2 then Ds.bind (b.keyAddr c ctx (adBase d 5)) (fun b v => (b, .ok (lay ++ k ++ v))) else (b, .ok (lay ++ k)))
  | .exp t h tr => Ds.bind (b.keyAddr c t.ctx t.ebase) (fun b k => (b, .ok ([2, t.efmt, t.r, t.d, h, if tr then 1 else 0] ++ k)))
  | .squares xp tabs => Ds.bind (Blk.keyTabs c tabs b) (fun b k => (b, .ok (3 :: xp.map (·.toNat) ++ k)))
  | .inter id f n => (b, .ok [4, id, f, n])
  | .back id f n bi bj s => (b, .ok [5, id, f, n, bi, bj, if s then 1 else 0])
  | .grad q h bags => (b, .ok ([6, q, h] ++ bags))

/-- Plane p of a core. -/
def Core.plane (k : Core) (p : Nat) : Plane := Tab.get {} k.planes p
/-- Change plane p of core c. -/
def Blk.updPlane (b : Blk) (c p : Nat) (f : Plane → Plane) : Blk :=
  b.updCore c (fun k => { k with planes := Tab.set {} k.planes p (f (k.plane p)) })

/-- An issued instruction has wavefronts on the plane. -/
def Core.planeUsed (k : Core) (p : Nat) : Bool := k.iq.any (fun a => a.issued && !a.done && a.plane = p)

/-- The plane that holds a key, loading or resident. -/
def Core.planeOf (k : Core) (key : List Nat) : Option Nat :=
  (List.range 2).find? (fun p => (k.plane p).st ≠ .empty && (k.plane p).key = key && !(k.plane p).dying)

/-- The keys of a core's planes are cleared: at once, or once no wavefront names the plane (R124, R135). -/
def Blk.clearPlanes (b : Blk) (c : Nat) : Blk :=
  iter 2 (fun p b =>
    if (b.core c).planeUsed p then b.updPlane c p (fun x => { x with dying := true }) else b.updPlane c p (fun _ => {})) b

/-- A bound plan pins the plane that holds its squares (R122). -/
def Core.pinned (k : Core) (p : Nat) : Bool :=
  match k.plan, (k.plane p).src with
  | some pl, .squares xp _ => (k.plane p).st ≠ .empty && xp = pl.2
  | _, _ => false

/-- The plane that a new key is loaded into (R135): not pinned, not loading, named by no wavefront, and not that of the most recent
wavefront unless there is no other; the empty one, else the one used less recently. -/
def Core.target (k : Core) : Option Nat :=
  let ok := (List.range 2).filter (fun p => !k.pinned p && (k.plane p).st ≠ .loading && !k.planeUsed p)
  let l := if ok.any (fun p => k.lastPlane ≠ some p) then ok.filter (fun p => k.lastPlane ≠ some p) else ok
  match l.find? (fun p => (k.plane p).st = .empty) with
  | some p => some p
  | none => match l with
    | [0, 1] => if (k.plane 1).used < (k.plane 0).used then some 1 else some 0
    | p :: _ => some p
    | [] => none

end Sys2Proof.Machine
end

