-- ==== Sys2Proof/Machine/Inter.lean ====
section
/-! DEFINITION. The interaction and backward-interaction commands: their descriptors (R182, R183, R218), how their samples are mapped
onto planes and rows (R185, R219), and their outputs (R184, R186, R219). -/
namespace Sys2Proof.Machine

/-! ### The IXD (R182, R183) -/

/-- FMT. -/
def ixFmt (d : List W64) : Nat := fld (qw d 0) 4 3
/-- E5M2 of FP8; integer codes are signed. -/
def ixSgn (d : List W64) : Bool := fmtInt (ixFmt d) || bit (qw d 0) 7
/-- TRI. -/
def ixTri (d : List W64) : Nat := fld (qw d 0) 8 2
/-- ODT. -/
def ixOdt (d : List W64) : Nat := fld (qw d 0) 10 2
/-- SCL. -/
def ixScl (d : List W64) : Bool := bit (qw d 0) 12
/-- Features. -/
def ixF (d : List W64) : Nat := fld (qw d 0) 16 10 + 1
/-- Elements of a feature. -/
def ixD (d : List W64) : Nat := fld (qw d 0) 26 8 + 1
/-- Samples. -/
def ixN (d : List W64) : Nat := fld (qw d 0) 34 10 + 1
/-- XBASE. -/
def ixX (d : List W64) : Nat := fld (qw d 1) 0 57
/-- XFSTRIDE. -/
def ixXf (d : List W64) : Nat := fld (qw d 2) 0 32
/-- XSSTRIDE. -/
def ixXs (d : List W64) : Nat := fld (qw d 3) 0 48
/-- SBASE. -/
def ixS (d : List W64) : Nat := fld (qw d 4) 0 57
/-- OBASE. -/
def ixO (d : List W64) : Nat := fld (qw d 5) 0 57
/-- OSSTRIDE. -/
def ixOs (d : List W64) : Nat := fld (qw d 6) 0 48
/-- Bytes of a feature. -/
def ixXb (d : List W64) : Nat := fmtBytes (ixFmt d) (ixD d)
/-- The outputs are int32 before ODT. -/
def ixInt (d : List W64) : Bool := fmtInt (ixFmt d) && !ixScl d

/-- Number of elements of Z that TRI selects. -/
def triCount (tri f : Nat) : Nat := if tri = 0 then f * f else if tri = 1 then f * (f + 1) / 2 else f * (f - 1) / 2
/-- TRI selects (i, j). -/
def triSel (tri i j : Nat) : Bool := tri = 0 || (if tri = 1 then decide (i ≤ j) else decide (i < j))
/-- Place of (i, j) in the packed output (R186). -/
def triPos (tri f i j : Nat) : Nat :=
  if tri = 0 then i * f + j
  else if tri = 1 then i * f - i * (i - 1) / 2 + j - i
  else i * f - i * (i + 1) / 2 + j - i - 1
/-- The selected pairs in the order of the packed output. -/
def triPairs (tri f : Nat) : List (Nat × Nat) :=
  (List.range f).flatMap (fun i => ((List.range f).filter (triSel tri i)).map (fun j => (i, j)))

/-- The checks of R183. -/
def ixBad (d : List W64) : Option Nat :=
  if fld (qw d 0) 0 4 ≠ 1 then some 0x50
  else if anyOf [
      res (qw d 0) 13 3, res (qw d 0) 44 20, res (qw d 1) 57 7, res (qw d 2) 32 32, res (qw d 3) 48 16, res (qw d 4) 57 7,
      res (qw d 5) 57 7, res (qw d 6) 48 16, qw d 7 ≠ 0, ixFmt d ≥ 6, ixTri d = 3, ixF d = 1,
      bit (qw d 0) 7 && ixFmt d ≠ 2,
      ixX d % 16 ≠ 0, ixXf d % 16 ≠ 0, ixXs d % 64 ≠ 0, ixS d % 64 ≠ 0, ixO d % 16 ≠ 0, ixOs d % 16 ≠ 0,
      ixXf d < ixXb d, ixScl d == decide (ixS d = 0),
      ixOs d < triCount (ixTri d) (ixF d) * odtSize (ixOdt d)] then some 0x51
  else none

/-- Bytes of a sample's scales. -/
def ixSst (d : List W64) : Nat := upTo 64 (4 * ixF d)

/-! ### The BXD (R218) -/

/-- BF: the array format is FP32. -/
def bxFp32 (d : List W64) : Bool := bit (qw d 0) 4
/-- Address of the forward IXD. -/
def bxIxd (d : List W64) : Nat := fld (qw d 1) 0 57

/-- The checks of R218 that need no IXD. -/
def bxBad (d : List W64) : Option Nat :=
  if fld (qw d 0) 0 4 ≠ 1 then some 0x50
  else if anyOf [
      res (qw d 0) 5 59, res (qw d 1) 57 7, res (qw d 2) 57 7, res (qw d 3) 48 16, res (qw d 4) 57 7, res (qw d 5) 48 16,
      res (qw d 6) 32 32, qw d 7 ≠ 0, bxIxd d % 64 ≠ 0, fld (qw d 3) 0 48 % 16 ≠ 0,
      fld (qw d 4) 0 57 % 16 ≠ 0, fld (qw d 5) 0 48 % 16 ≠ 0, fld (qw d 6) 0 32 % 16 ≠ 0] then some 0x51
  else none

/-- The strides of R218 are too small for their contents. -/
def bxSmall (d x : List W64) : Bool :=
  anyOf [
    fld (qw d 6) 0 32 < 4 * ixD x, fld (qw d 3) 0 48 < 4 * triCount (ixTri x) (ixF x),
    fld (qw d 5) 0 48 < (ixF x - 1) * fld (qw d 6) 0 32 + 4 * ixD x]

/-! ### Units of work (R185, R219) -/

/-- Samples that share a plane. -/
def ixGroup (d : List W64) : Nat := if ixF d ≤ 256 then 256 / ixF d else 1
/-- Planes of a sample. -/
def ixBlocks (d : List W64) : Nat := (ixF d + 255) / 256
/-- Features in block h. -/
def ixCols (d : List W64) (h : Nat) : Nat := min 256 (ixF d - 256 * h)
/-- Activation rows that a sample presents to block h. -/
def ixRows (d : List W64) (h : Nat) : Nat :=
  let top := 256 * h + ixCols d h - 1
  if ixTri d = 0 then ixF d else if ixTri d = 1 then min (ixF d) (top + 1) else top
/-- The instructions of one sample: block and first row, at most 128 rows each. -/
def ixParts (d : List W64) : List (Nat × Nat) :=
  (List.range (ixBlocks d)).flatMap (fun h => (List.range ((ixRows d h + 127) / 128)).map (fun p => (h, 128 * p)))
/-- Array instructions of an interaction command. -/
def ixUnits (d : List W64) : Nat := ixN d * (ixParts d).length

/-- The planes of dX in the order they are used: output block, reduction block, and which of P1 and P2; zero blocks are skipped
(R219). -/
def bxPlanes (d : List W64) : List (Nat × Nat × Bool) :=
  let c := ixBlocks d
  (List.range c).flatMap (fun bi => (List.range c).flatMap (fun bj =>
    (if ixTri d = 0 || bj ≤ bi then [(bi, bj, false)] else []) ++ (if ixTri d = 0 || bi ≤ bj then [(bi, bj, true)] else [])))
/-- Groups of samples of a backward command. -/
def bxGroups (d : List W64) : Nat := (ixN d + ixGroup d - 1) / ixGroup d
/-- Array instructions of a backward-interaction command. -/
def bxUnits (d : List W64) : Nat := bxGroups d * (bxPlanes d).length
/-- Samples of the group that begins with sample f. -/
def bxCount (d : List W64) (f : Nat) : Nat := min (ixGroup d) (ixN d - f)

/-- Array instruction n of an interaction command. -/
def ixUnit (m : Cmd) (task n id : Nat) : AInstr :=
  let d := m.ixd
  let l := ixParts d
  let s := n / l.length
  let (h, i0) := l.getD (n % l.length) (0, 0)
  let f := s / ixGroup d * ixGroup d
  { id := id, kind := .inter, task := task, cmd := m.id, ctx := m.ctx, fmt := ixFmt d,
    kn := (ixD d, if ixF d ≤ 256 then bxCount d f * ixF d else ixCols d h)
    src := if ixF d ≤ 256 then .inter m.id f (bxCount d f) else .inter m.id s h
    info := (List.range' i0 (min 128 (ixRows d h - i0))).map (fun i =>
      [s, i, h, (s - f) * ixF d, if n % l.length + 1 = l.length then 1 else 0]) }

/-- Array instruction n of a backward-interaction command. -/
def bxUnit (m : Cmd) (task n id : Nat) : AInstr :=
  let d := m.ixd
  let l := bxPlanes d
  let f := n / l.length * ixGroup d
  let p := l.getD (n % l.length) (0, 0, false)
  { id := id, kind := .back, task := task, cmd := m.id, ctx := m.ctx, fmt := if bxFp32 m.bxd then 5 else 3,
    kn := (bxCount d f * ixCols d p.2.1, bxCount d f * ixCols d p.1),
    src := .back m.id f (bxCount d f) p.1 p.2.1 p.2.2
    info := (List.range (ixD d)).map (fun i => [f, i, p.1, if n % l.length + 1 = l.length then 1 else 0]) }

/-! ### Reads -/

/-- The ranges of features a to a + n - 1 of sample s. -/
def ixFeats (d : List W64) (s a n : Nat) : List (Nat × Nat) :=
  (List.range n).map (fun i => (ixX d + s * ixXs d + (a + i) * ixXf d, ixXb d))

/-- The operand row of a feature's bytes. -/
def ixRow (d : List W64) (l : List Byte) : List W32 := opRow (ixFmt d) (ixSgn d) (ixD d) l

/-- The scales of sample s. -/
def Blk.ixScales (b : Blk) (r : Req) (m : Cmd) (v : View) (s : Nat) : Blk × Ds (List W32) :=
  let d := m.ixd
  if !ixScl d then (b, .ok [])
  else Ds.bind (Blk.vreads r m.ctx v [(ixS d + s * ixSst d, 4 * ixF d)] b) (fun b l => (b, .ok (words32 (ixF d) (l.getD 0 []))))

/-- The plane rows of a group of samples, or of a block of one: plane column c holds a feature (R185). -/
def Blk.ixPlane (b : Blk) (r : Req) (m : Cmd) (v : View) (first n : Nat) : Blk × Ds (List (List W32)) :=
  let d := m.ixd
  let rs := if ixF d ≤ 256 then (List.range n).flatMap (fun g => ixFeats d (first + g) 0 (ixF d))
            else ixFeats d first (256 * n) (ixCols d n)
  Ds.bind (Blk.vreads r m.ctx v rs b) (fun b l => (b, .ok (flipRows (ixD d) (l.map (ixRow d)))))

/-- Round a value for the backward array: fp32 stays, bf16 rounds once and is measured (R219). -/
def bxRound (fp32 : Bool) (x : Nat) : W32 × List (FV × FV) :=
  if fp32 then (BitVec.ofNat 32 x, [])
  else
    let y := FFmt.bf16.cvt .fp32 x
    (BitVec.ofNat 32 (FFmt.fp32.cvt .bf16 y), [(FV.of .fp32 x, FV.of .bf16 y)])

/-- Element (j, i) of P1 or P2 from the gradient of a sample (R219), an fp32 pattern. -/
def bxElem (d : List W64) (g : List W32) (second : Bool) (j i : Nat) : Nat :=
  let (p, q) := if second then (i, j) else (j, i)
  if triSel (ixTri d) p q then (g.getD (triPos (ixTri d) (ixF d) p q) 0).toNat else 0

/-- The rows of block (bj, bi) of P1 or P2 for one sample. -/
def bxBlock (d : List W64) (g : List W32) (second : Bool) (bi bj : Nat) : List (List Nat) :=
  (List.range (ixCols d bj)).map (fun j => (List.range (ixCols d bi)).map (fun i => bxElem d g second (256 * bj + j) (256 * bi + i)))

/-- The gradients of the samples of a group. -/
def Blk.bxGrads (b : Blk) (r : Req) (m : Cmd) (v : View) (first n : Nat) : Blk × Ds (List (List W32)) :=
  let k := triCount (ixTri m.ixd) (ixF m.ixd)
  Ds.bind (Blk.vreads r m.ctx v ((List.range n).map (fun g => (fld (qw m.bxd 2) 0 57 + (first + g) * fld (qw m.bxd 3) 0 48, 4 * k))) b)
    (fun b l => (b, .ok (l.map (words32 k))))

/-- The plane of a group of samples: their blocks stand along the diagonal. -/
def Blk.bxPlane (b : Blk) (r : Req) (m : Cmd) (v : View) (first n bi bj : Nat) (second : Bool) : Blk × Ds (List (List W32) × List (FV × FV)) :=
  Ds.bind (b.bxGrads r m v first n) (fun b gs =>
    let rows := (List.range n).flatMap (fun g =>
      (bxBlock m.ixd (gs.getD g []) second bi bj).map (fun row => (List.replicate (g * ixCols m.ixd bi) 0 ++ row).map (bxRound (bxFp32 m.bxd))))
    (b, .ok (rows.map (fun row => row.map (·.1)), (rows.flatMap id).flatMap (·.2))))

/-- The fp32 value of an element of a feature, dequantised with its scale for integer codes (R219). -/
def bxValue (d : List W64) (sc : List W32) (f : Nat) (x : W32) : Nat :=
  if fmtInt (ixFmt d) then
    (if ixScl d then FFmt.fp32.mul (sc.getD f 0).toNat (FFmt.fp32.ofInt x.toInt) else FFmt.fp32.ofInt x.toInt)
  else x.toNat

/-- The scales of each sample of a group. -/
def Blk.groupScales (r : Req) (m : Cmd) (v : View) : List Nat → Blk → Blk × Ds (List (List W32))
  | [], b => (b, .ok [])
  | s :: l, b => Ds.bind (b.ixScales r m v s) (fun b x => Ds.bind (Blk.groupScales r m v l b) (fun b xs => (b, .ok (x :: xs))))

/-- The activation rows of a backward instruction: row d holds element d of the plane's features. -/
def Blk.bxRows (b : Blk) (r : Req) (m : Cmd) (v : View) (first n bj : Nat) : Blk × Ds (List (List W32) × List (FV × FV)) :=
  let d := m.ixd
  let k := ixCols d bj
  Ds.bind (Blk.vreads r m.ctx v ((List.range n).flatMap (fun g => ixFeats d (first + g) (256 * bj) k)) b) (fun b l =>
    Ds.bind (Blk.groupScales r m v ((List.range n).map (first + ·)) b) (fun b sc =>
      let vals := (List.range (n * k)).map (fun x =>
        (ixRow d (l.getD x [])).map (fun e => bxRound (bxFp32 m.bxd) (bxValue d (sc.getD (x / k) []) (256 * bj + x % k) e)))
      (b, .ok (flipRows (ixD d) (vals.map (fun row => row.map (·.1))), (vals.flatMap id).flatMap (·.2)))))

/-! ### Outputs -/

/-- The result of row i against feature j of a sample, from the results that wait. -/
def xresAt (l : List XRes) (cmd a b h lane : Nat) : W32 :=
  match l.find? (fun x => x.cmd = cmd && x.a = a && x.b = b && x.h = h) with
  | some x => x.v.getD lane 0
  | none => 0

/-- The output bytes of sample s and their conversions (R184, R186). -/
def ixOut (d : List W64) (l : List XRes) (cmd s : Nat) : List Byte × List (FV × FV) :=
  let es := (triPairs (ixTri d) (ixF d)).map (fun p => odtElem (ixOdt d) (ixInt d) (xresAt l cmd s p.1 (p.2 / 256) (p.2 % 256)))
  (es.flatMap (·.1), es.flatMap (·.2))

/-- The output ranges of dX of sample s of the group that begins with sample f (R219). -/
def bxOut (d x : List W64) (l : List XRes) (cmd f s : Nat) : List (Nat × List Byte) :=
  (List.range (ixF x)).map (fun i =>
    (fld (qw d 4) 0 57 + s * fld (qw d 5) 0 48 + i * fld (qw d 6) 0 32,
     (List.range (ixD x)).flatMap (fun k => leBytes 4 (xresAt l cmd f k (i / 256) ((s - f) * ixF x + i % 256)).toNat)))

/-- Translate several writes. -/
def Blk.xlWrites (r : Req) (ctx : Nat) : List (Nat × List Byte) → Blk → Blk × Ds (List WPart)
  | [], b => (b, .ok [])
  | (va, l) :: t, b =>
    match b.xlWrite r ctx va l with
    | (b, .wait) => (b, .wait)
    | (b, .fail k) => (b, .xlt k va)
    | (b, .parts ps) => Ds.bind (Blk.xlWrites r ctx t b) (fun b qs => (b, .ok (ps ++ qs)))

/-- Write parts that a unit of a command has translated: device writes are queued, host writes land. -/
def Blk.writeParts (b : Blk) (id : Nat) (ps : List WPart) : Blk × List Nat :=
  let (b, is, hs) := b.issueParts (some id) ps
  (b.hostParts hs, is)

/-- Move the watermark of samples over those that are written. -/
def advUnit : Nat → Cmd → Cmd
  | 0, m => m
  | n + 1, m => if m.unitDone.contains m.unitW then advUnit n { m with unitW := m.unitW + 1, unitDone := m.unitDone.erase m.unitW } else m

/-- Write the samples of a command whose results are complete (R184, R186, R219, R292); one that cannot translate yet stays. -/
def Blk.unitFlush (b : Blk) (c id : Nat) : Blk :=
  match b.cmd id with
  | none => b
  | some m0 =>
    m0.unitReady.foldl (fun b s =>
      match b.cmd id with
      | none => b
      | some m =>
        if m.ending || !b.issues then b else
        let l := (b.core c).xres
        let back := m.op = 0x12
        let out := ixOut m.ixd l id s
        let n := if back then bxCount m.ixd s else 1
        let ws := if back then (List.range n).flatMap (fun g => bxOut m.bxd m.ixd l id s (s + g))
                  else [(ixO m.ixd + s * ixOs m.ixd, out.1)]
        match Blk.xlWrites (.inter id) m.ctx ws b with
        | (b, .wait) => b
        | (b, .st k) => b.failCmd id k
        | (b, .xlt k va) => b.xltFatal (.inter id) m.ctx k (BitVec.ofNat 64 va)
        | (b, .ok ps) =>
          let b := (b.writeParts id ps).1
          let b := if back then b else b.measure id out.2
          let b := b.updCore c (fun k => { k with xres := k.xres.filter (fun x => !(x.cmd = id && x.a = s)) })
          b.updCmd id (fun m => advUnit (n + m.unitDone.length) { m with
            unitReady := m.unitReady.erase s
            unitDone := m.unitDone ++ (List.range n).map (s + ·) })) b

end Sys2Proof.Machine
end

