-- ==== Sys2Proof/Machine/Array.lean ====
section
/-! DEFINITION. The cube array at work: batches of expansion rows (R117 to R122, R225), plane loads with their joins and multicasts
(R123 to R125, R133 to R136, R424), issue (R137, R138), commits with their checks (R139, R143 to R145), tile locks (R140 to R142),
dummy wavefronts and ramps (R146, R147). -/
namespace Sys2Proof.Machine

/-! ### Plans and batches -/

/-- Tables named by an XP, by number. -/
def xpTables (xp : List W64) : List Nat := ((List.range 16).filterMap (xpTable xp)).eraseDups
/-- The band and first group of a table's squares. -/
def xpPlace (xp : List W64) (num : Nat) : Nat × Nat :=
  let s := ((List.range 16).find? (fun s => xpTable xp s = some num)).getD 0
  (s / 4, s % 4)
/-- The tables of band n. -/
def xpBand (xp : List W64) (n : Nat) : List Nat := ((List.range' (4 * n) 4).filterMap (xpTable xp)).eraseDups

/-- A pass is expanded on the squares of the bound plan (R122). -/
def Core.planned (k : Core) (q : Nat) : Bool :=
  match k.plan with
  | none => false
  | some p =>
    let s := k.sq q
    s.expandLast && s.ownerTask = p.1 && (xpTables p.2).contains s.tab.num &&
      k.planTabs.any (fun t => t.num = s.tab.num && t.ctx = s.tab.ctx)

/-- Chunks of 256 columns of E. -/
def TableCopy.chunks (t : TableCopy) : Nat := (t.d + 255) / 256
/-- Columns of chunk h. -/
def TableCopy.ccols (t : TableCopy) (h : Nat) : Nat := min 256 (t.d - 256 * h)

/-- Instructions that still hold a place of the core's instruction queue (R137). -/
def Core.iqUsed (k : Core) : Nat := (k.iq.filter (fun a => !a.done)).length

/-- Take feeder rows: they are numbered and marked as sent. -/
def takeRows (p : FeedRow → Bool) : Nat → Nat → List FeedRow → List FeedRow × List Nat × Nat
  | _, key, [] => ([], [], key)
  | n, key, f :: t =>
    if n ≠ 0 && !f.sent && p f then
      let r := takeRows p (n - 1) (key + 1) t
      ({ f with sent := true, id := key } :: r.1, key :: r.2.1, r.2.2)
    else
      let r := takeRows p n key t
      (f :: r.1, r.2.1, r.2.2)

/-- The instructions that expand rows of queue q on whole planes, one for each chunk (R118, R225). -/
def expandInstrs (s : SQ) (q : Nat) (ids : List Nat) (key : Nat) : List AInstr :=
  let t := s.tab
  let tr := s.cons.isScat
  (List.range t.chunks).map (fun h =>
    { id := key + h, kind := .expand q, task := s.ownerTask, cmd := s.owner, ctx := s.ctx, fmt := efmtFmt t.efmt,
      src := .exp t h tr, kn := if tr then (t.ccols h, t.r) else (t.r, t.ccols h), info := ids.map (fun i => [i]) })

/-- Form a batch of queue q on whole planes where the issue rule of R119 is met. -/
def Blk.batchQueue (b : Blk) (c q : Nat) : Blk :=
  let k := b.core c
  let s := k.sq q
  let n := (k.feed.filter (fun f => f.q = q && !f.sent)).length
  let room := 256 - (k.feed.filter (fun f => f.sent)).length
  if n = 0 || k.planned q || k.iqUsed + s.tab.chunks > 16 || room = 0 || (s.tab.efmt = 0 && n < 2 && !k.flush) then b
  else
    let r := takeRows (fun f => f.q = q) (min 128 room) k.nextKey k.feed
    let bags := (r.1.filter (fun f => r.2.1.contains f.id && f.sent && f.ord.isNone)).map (·.bag)
    let b := b.updCore c (fun k => { k with
      feed := r.1, nextKey := r.2.2 + s.tab.chunks, iq := k.iq ++ expandInstrs s q r.2.1 r.2.2, feedFrom := b.time.toNat })
    if s.expandLast then bags.foldl (fun b g => b.dropBag c q g) b else b

/-- Rows that wait for a planned table. -/
def Core.waiting (k : Core) (num : Nat) : List FeedRow := k.feed.filter (fun f => !f.sent && k.planned f.q && (k.sq f.q).tab.num = num)

/-- How many band rows of a plan can be presented: full ones, or all that have a segment when the tail is flushed (R122). -/
def Core.bandRows (k : Core) (xp : List W64) (n : Nat) (all : Bool) : Nat :=
  let l := (xpBand xp n).map (fun t => (k.waiting t).length)
  match l with
  | [] => 0
  | x :: t => t.foldl (fun a y => if all then max a y else min a y) x

/-- Take the first n waiting rows of each table of a band; the numbers by table. -/
def takeBand (k : Core) (tabs : List Nat) (n : Nat) (fd : List FeedRow) (key : Nat) : List FeedRow × List (List Nat) × Nat :=
  tabs.foldl (fun acc t =>
    let r := takeRows (fun f => k.planned f.q && (k.sq f.q).tab.num = t) n acc.2.2 acc.1
    (r.1, acc.2.1 ++ [r.2.1], r.2.2)) (fd, [], key)

/-- Form a batch of the bound plan: full band rows two by two, or what waits when the tail is flushed (R122). -/
def Blk.batchPlan (b : Blk) (c : Nat) : Blk :=
  let k := b.core c
  match k.plan with
  | none => b
  | some (t, xp) =>
    let ns := (List.range 4).map (fun n => min 32 (k.bandRows xp n k.flush))
    let total := ns.foldl (· + ·) 0
    if total = 0 || k.iqUsed ≥ 16 || (total < 2 && !k.flush) then b
    else
      let r := (List.range 4).foldl (fun acc n =>
        let x := takeBand k (xpBand xp n) (ns.getD n 0) acc.1 acc.2.2
        (x.1, acc.2.1 ++ (List.range (ns.getD n 0)).map (fun i => x.2.1.filterMap (fun l => l[i]?)), x.2.2)) (k.feed, [], k.nextKey)
      let segs := r.2.1.flatMap id
      let q := ((r.1.find? (fun f => f.sent && segs.contains f.id)).map (·.q)).getD 0
      let a : AInstr := { id := r.2.2, kind := .expand q, task := t, cmd := (k.sq q).owner, ctx := (k.sq q).ctx, fmt := 0,
                          src := .squares xp k.planTabs, kn := (64, 256), info := r.2.1 }
      let drops := (r.1.filter (fun f => f.sent && segs.contains f.id)).map (fun f => (f.q, f.bag))
      let b := b.updCore c (fun k => { k with feed := r.1, nextKey := r.2.2 + 1, iq := k.iq ++ [a], feedFrom := b.time.toNat })
      drops.foldl (fun b d => b.dropBag c d.1 d.2) b

/-- Bag gradients of a pass with DE = 1 whose pooled code vector is known and which no batch has taken (R226). -/
def SQ.dePairs (s : SQ) : List Nat :=
  (s.pbags.filter (fun p => p.2.1 ≠ 0 && s.gvecs.any (fun g => g.1 = p.1) && !s.deDone.contains p.1)).map (·.1)

/-- The pooled code vector of bag g. -/
def SQ.code (s : SQ) (g : Nat) : List W64 :=
  match s.pbags.find? (fun p => p.1 = g) with
  | some p => p.2.2
  | none => []

/-- Every bag of the pass has settled in both its gradient and its code vector, so that the last batch of dE may be smaller. -/
def SQ.deLast (s : SQ) : Bool := s.elems ≤ s.w && s.nb ≤ s.bw && s.ready.isEmpty && s.gbatch.isEmpty

/-- Form a batch of dE: up to 256 bags, one instruction for each chunk (R226). -/
def Blk.batchGrad (b : Blk) (c q : Nat) : Blk :=
  let k := b.core c
  let s := k.sq q
  let l := s.dePairs.take 256
  if !s.de || s.ended || !s.deTiles.all (fun i => (b.tile c i).holds s.ownerTask (8 + q) true) || l.isEmpty || (l.length < 256 && !s.deLast) || k.iqUsed + s.tab.chunks > 16 then b
  else
    b.updCore c (fun k => { k with
      nextKey := k.nextKey + s.tab.chunks
      iq := k.iq ++ (List.range s.tab.chunks).map (fun (h : Nat) =>
        ({ id := k.nextKey + h, kind := .grad q, task := s.ownerTask, cmd := s.owner, ctx := s.ctx, fmt := 3, src := .grad q h l,
           kn := (l.length, s.tab.ccols h), info := (List.range s.tab.r).map (fun i => [i, h]) } : AInstr)) }.updSq q (fun s => { s with
      deDone := s.deDone ++ l }))

/-- Interaction commands that this core runs add their next instructions while the queue has room (R182, R185). -/
def interNext : Nat → Nat → Blk → Blk
  | 0, _, b => b
  | n + 1, c, b =>
    if (b.core c).iqUsed ≥ 16 then b else
    match b.cmds.find? (fun m => (m.op = 0x11 || m.op = 0x12) && m.served.isNone && m.begun && !m.ending && m.ixd ≠ [] &&
        (match m.phase with | .held k _ => k = c | _ => false) &&
        m.unitC < (if m.op = 0x12 then bxUnits m.ixd else ixUnits m.ixd)) with
    | none => b
    | some m =>
      let t := (m.held.getD (0, 0)).2
      let id := (b.core c).nextKey
      let a := if m.op = 0x12 then bxUnit m t m.unitC id else ixUnit m t m.unitC id
      let b := b.updCore c (fun k => { k with nextKey := id + 1, iq := k.iq ++ [a] })
      interNext n c (b.updCmd m.id (fun x => { x with unitC := x.unitC + 1 }))

/-! ### Instructions that have ended -/

/-- The unit number of an instruction's tile locks: 1 destinations, 2 activations, 3 stationary load. -/
def AInstr.unit (a : AInstr) (k : Nat) : Nat := 64 + 4 * a.id + k

/-- A finished MATX hands its destination tiles to the tile queue, where there is room (R162). -/
def Blk.tqPush (b : Blk) (c : Nat) (a : AInstr) : Blk :=
  if !a.tqWait || (b.core c).tq.length ≥ 4 || b.qHeld 3 c 0 then b
  else
    let lo := if adDlo a.ad < 6 then adDlo a.ad else adDhi a.ad
    let hi := if adDlo a.ad < 6 && adDhi a.ad < 6 && adDhi a.ad ≠ adDlo a.ad then some (adDhi a.ad) else none
    let e : TQEntry := { lo := lo, hi := hi, rows := adM a.ad, cols := if hi.isSome then 256 else 128, isInt := adInt a.ad,
                         task := a.task, cmd := a.cmd }
    let b := (adDest a.ad).foldl (fun b i => b.updTile c i (fun t => { t with lock := .queued })) b
    b.updCore c (fun k => { k with tq := k.tq ++ [e], iq := k.iq.map (fun x => if x.id = a.id then { x with tqWait := false } else x) })

/-- Instructions whose rows have committed leave the queue once their writes have passed; expansions with no row left are dropped;
planes that were to be cleared are, once no wavefront names them. -/
def Blk.arraySweep (b : Blk) (c : Nat) : Blk :=
  let b := (b.core c).iq.foldl (fun b a => b.tqPush c a) b
  let k := b.core c
  let gone := k.iq.filter (fun a => a.done && b.passed a.ids)
  let b := gone.foldl (fun b a => b.endTag c a.task a.tag) b
  let b := b.updCore c (fun k => { k with iq := (k.iq.map (fun a =>
      if a.done && gone.any (fun x => x.id = a.id) then { a with tag := none } else a)).filter (fun a =>
        !(a.done && !a.tqWait && gone.any (fun x => x.id = a.id)) &&
        !((match a.kind with | .expand _ => true | _ => false) && !a.issued &&
          !k.feed.any (fun f => f.sent && (a.info.flatMap id).contains f.id))) })
  iter 2 (fun p b => if ((b.core c).plane p).dying && !(b.core c).planeUsed p then b.updPlane c p (fun _ => {}) else b) b

/-! ### Failures -/

/-- A read for an array instruction has failed: its bags fail for poison of E, otherwise its command (R123, R133). -/
def Blk.arrayFail {α : Type} (b : Blk) (c : Nat) (a : AInstr) (x : Ds α) : Blk :=
  match x, a.kind with
  | .st 0x40, .expand _ =>
    let rows := (b.core c).feed.filter (fun f => f.sent && (a.info.flatMap id).contains f.id)
    (rows.foldl (fun b f => b.failBag c f.q f.bag 0x40 0xFFFFFFFFFFFFFFFF) b).arraySweep c
  | .st n, _ => b.failCmd a.cmd n
  | .xlt k va, _ => b.xltFatal (.plane c) a.ctx k (BitVec.ofNat 64 va)
  | _, _ => b

/-! ### Plane loads -/

/-- EMC: this chip takes the E of the table from a multicast (R424). -/
def Blk.emcWaits (b : Blk) (t : TableCopy) (x : Plane) : Bool :=
  t.sharded && bit (qw t.smd 0) 42 && fld (qw t.smd 0) 48 16 ≠ b.node && !x.fallback

/-- The column scales of E, widened exactly. -/
def colScales (l : List Byte) (n : Nat) : List W32 :=
  (List.range n).map (fun j => BitVec.ofNat 32 (FFmt.fp32.cvt .fp16 (leNat ((l.drop (2 * j)).take 2))))

/-- Ranges of a block of E: rows 0 to r - 1, n columns from column a; then the column scales. -/
def eRanges (t : TableCopy) (a n : Nat) : List (Nat × Nat) :=
  (List.range t.r).map (fun k => (t.ebase + k * t.estride + a * t.esize, n * t.esize)) ++
    (if t.efmt = 0 then [(t.ebase + t.r * t.estride + 2 * a, 2 * n)] else [])

/-- Cut bytes into parts of the given lengths. -/
def cutBytes : List Nat → List Byte → List (List Byte)
  | [], _ => []
  | n :: t, l => l.take n :: cutBytes t (l.drop n)

/-- Multicast a block of E that the source chip has loaded (R424), in messages of at most 4,096 bytes; bytes of a confidential page may
leave on ports that encrypt only (R408). -/
def Blk.emcSend (b : Blk) (t : TableCopy) (chunk : Nat) (conf : Bool) (l : List Byte) : Blk × Ds Unit :=
  let grp := fld (qw t.smd 0) 32 10
  if !(t.sharded && bit (qw t.smd 0) 42 && fld (qw t.smd 0) 48 16 = b.node) then (b, .ok ())
  else if conf && b.mcBarred grp then (b, .st 0x32)
  else
    ((List.range ((l.length + 4095) / 4096)).foldl (fun b i =>
      let p := (l.drop (4096 * i)).take 4096
      (b.lxMcast grp 1 ([BitVec.ofNat 64 (t.num + chunk <<< 16), BitVec.ofNat 64 p.length] ++ bytesWords p.length p) conf).1) b, .ok ())

/-- The rows and column scales of a block of E: from a multicast, or from memory. -/
def Blk.eBlock (b : Blk) (c : Nat) (v : View) (x : Plane) (t : TableCopy) (chunk a n : Nat) : Blk × Ds (List (List W32) × List W32) :=
  let rs := eRanges t a n
  let mk := fun (l : List (List Byte)) =>
    ((l.take t.r).map (opRow (efmtFmt t.efmt) true n), if t.efmt = 0 then colScales (l.getD t.r []) n else [])
  if b.emcWaits t x then
    let got := (x.mcb.filter (fun e => e.1 = t.num && e.2.1 = chunk)).flatMap (·.2.2)
    if got.length < (rs.map (·.2)).foldl (· + ·) 0 then (b, .wait)
    else (b, .ok (mk (cutBytes (rs.map (·.2)) got)))
  else
    Ds.bind (Blk.vreads (.plane c) t.ctx v rs b) (fun b l =>
      Ds.bind (b.emcSend t chunk (rs.any (fun r => b.confSpan (.plane c) t.ctx r.1 r.2)) (l.flatMap id)) (fun b _ => (b, .ok (mk l))))

/-- Place rows into a plane from row r0 and column c0 on. -/
def placeRows (w : List (List W32)) (r0 c0 : Nat) (rows : List (List W32)) : List (List W32) :=
  (List.range 256).map (fun k =>
    let old := w.getD k []
    if r0 ≤ k && k < r0 + rows.length then
      let row := rows.getD (k - r0) []
      (List.range 256).map (fun j => if c0 ≤ j && j < c0 + row.length then row.getD (j - c0) 0 else old.getD j 0)
    else old)

/-- The squares of a plan, table by table (R120). -/
def Blk.squaresPlane (c : Nat) (v : View) (x : Plane) (xp : List W64) : List TableCopy → Blk → Blk × Ds (List (List W32) × Tab W32)
  | [], b => (b, .ok ([], []))
  | t :: l, b =>
    Ds.bind (b.eBlock c v x t 128 0 t.d) (fun b e =>
      Ds.bind (Blk.squaresPlane c v x xp l b) (fun b r =>
        let (band, g) := xpPlace xp t.num
        (b, .ok (placeRows r.1 (64 * band) (64 * g) e.1,
          (List.range e.2.length).foldl (fun tab j => Tab.set 0 tab (256 * band + 64 * g + j) (e.2.getD j 0)) r.2))))

/-- The stationary matrix of a MATX (R128, R133, R134): plane rows, whether an element was clamped, and what is measured. -/
def Blk.matxPlane (b : Blk) (c : Nat) (v : View) (id task ctx : Nat) (d : List W64) :
    Blk × Ds (List (List W32) × Bool × List (FV × FV)) :=
  let f := adFmt d
  let sg := adWsgn d
  let k := adK d
  let n := adN d
  let zero := fun (zs : List Int) (w : List (List W32)) => w.map (fun row => (List.range row.length).map (fun j => w32i ((row.getD j 0).toInt - zs.getD j 0)))
  let zps := if adWzp d = 2 then [(adBase d 5, 256)] else []
  Ds.bind (Blk.vreads (.plane c) ctx v zps b) (fun b zb =>
    let zs : List Int := if adWzp d = 2 then (zb.getD 0 []).map (fun x => codeVal (fmtBits f) sg x.toNat)
                         else if adWzp d = 1 then List.replicate 256 (adZp d 50 sg) else []
    let fin := fun (w : List (List W32)) => if fmtInt f && adWzp d ≠ 0 then zero zs w else w
    if adSsrc d then
      let held := (adStb d).all (fun i => (b.tile c i).holds task (64 + 4 * id + 3) false)
      if !held then (b, .wait)
      else
        let el := fun (row col : Nat) =>
          let t := if row < 128 then adTb d 2 else adTb d 3
          if t < 6 then narrow f sg ((b.tile c t).at (128 * (row % 128) + col)) else (0, false, [])
        let rows := (List.range k).map (fun i => (List.range n).map (fun j =>
          if adTrans d then (if i < 128 then el j i else (0, false, [])) else (if j < 128 then el i j else (0, false, []))))
        let flat := rows.flatMap (fun x => x)
        (b, .ok (fin (rows.map (fun r => r.map (·.1))), flat.any (·.2.1), flat.flatMap (·.2.2)))
    else
      let (r, l) := if adTrans d then (n, k) else (k, n)
      Ds.bind (Blk.vreads (.plane c) ctx v ((List.range r).map (fun i => (adBase d 1 + i * adSstride d, fmtBytes f l))) b) (fun b bs =>
        let w := bs.map (opRow f sg l)
        (b, .ok (fin (if adTrans d then flipRows k w else w), false, []))))

/-- The contents of a plane: rows, column scales, whether a tile element was clamped, what is measured. -/
def Blk.planeData (b : Blk) (c : Nat) (v : View) (x : Plane) : Blk × Ds (List (List W32) × Tab W32 × Bool × List (FV × FV)) :=
  match x.src with
  | .none => (b, .wait)
  | .matx id t ctx d => Ds.bind (b.matxPlane c v id t ctx d) (fun b r => (b, .ok (r.1, [], r.2)))
  | .exp t h tr =>
    Ds.bind (b.eBlock c v x t h (256 * h) (t.ccols h)) (fun b e =>
      (b, .ok (if tr then flipRows (t.ccols h) e.1 else e.1,
        if tr then [] else (List.range e.2.length).foldl (fun tab j => Tab.set 0 tab j (e.2.getD j 0)) [], false, [])))
  | .squares xp tabs => Ds.bind (Blk.squaresPlane c v x xp tabs b) (fun b r => (b, .ok (r.1, r.2, false, [])))
  | .inter id f n =>
    match b.cmd id with
    | none => (b, .wait)
    | some m => Ds.bind (b.ixPlane (.plane c) m v f n) (fun b w => (b, .ok (w, [], false, [])))
  | .back id f n bi bj s =>
    match b.cmd id with
    | none => (b, .wait)
    | some m => Ds.bind (b.bxPlane (.plane c) m v f n bi bj s) (fun b w => (b, .ok (w.1, [], false, w.2)))
  | .grad q h bags =>
    let s := b.sq c q
    let rows := bags.map (fun k =>
      let g := ((s.gvecs.find? (fun g => g.1 = k)).map (·.2)).getD []
      (List.range (s.tab.ccols h)).map (fun j => bxRound false (g.getD (256 * h + j) 0).toNat))
    (b, .ok (rows.map (fun r => r.map (·.1)), [], false,
      if scGsrc s.cons.d then (rows.flatMap (fun r => r)).flatMap (·.2) else []))

/-- A plane takes its contents: it is RESIDENT, to be checked before it is used (R135, R143). -/
def Blk.planeTake (b : Blk) (c p : Nat) (w : List (List W32)) (cs : Tab W32) (joined : Bool) : Blk :=
  let b := b.inc (coreReg c 0x458) 1
  let b := if joined then b.inc (coreReg c 0x460) 1 else b
  b.updPlane c p (fun x => { x with st := .resident, w := w, cs := cs, checked := false, mcb := [], joined := false, fallback := false })

/-- The instruction that a load of a core is for: the first that has not issued (R138). -/
def Core.head (k : Core) : Option AInstr := k.iq.find? (fun a => !a.issued)

/-- The planes of other cores that have joined a load (R123). -/
def Blk.joiners (b : Blk) (c : Nat) (key : List Nat) : List (Nat × Nat) :=
  (List.range 8).flatMap (fun c2 => if c2 = c then [] else
    ((List.range 2).filter (fun p => ((b.core c2).plane p).st = .loading && ((b.core c2).plane p).key = key)).map (fun p => (c2, p)))

/-- A load ends: the plane and those that joined it take the matrix, or it fails (R123, R133). -/
def Blk.planeLoad (b : Blk) (c p : Nat) (v : View) : Blk :=
  let x := (b.core c).plane p
  if !b.coreLive c || (b.core c).rst || x.st ≠ .loading then b
  else if x.joined && (b.joiners c x.key).any (fun j => !((b.core j.1).plane j.2).joined) then b
  else
    let others := if x.key.head? = some 0 || x.key.head? = some 2 || x.key.head? = some 3 then b.joiners c x.key else []
    match b.planeData c v x with
    | (b, .wait) => b
    | (b, .ok (w, cs, sat, ms)) =>
      let owner := (b.core c).iq.find? (fun a => a.key = x.key)
      let b := match owner with
        | some a => b.measure a.cmd ms
        | none => b
      let b := match owner with
        | some a => if sat then b.updCmd a.cmd (fun m => m.flag 5) else b
        | none => b
      let b := match x.src with
        | .matx id t _ d => (adStb d).foldl (fun (b : Blk) i => b.updTile c i (fun t2 => t2.endRead t (64 + 4 * id + 3))) b
        | _ => b
      let b := b.planeTake c p w cs false
      others.foldl (fun b j => b.planeTake j.1 j.2 w cs true) b
    | (b, e) =>
      let all := (c, p) :: others
      all.foldl (fun b j =>
        let ws := (b.core j.1).iq.filter (fun a => a.key = x.key && !a.issued)
        let b := b.updPlane j.1 j.2 (fun _ => {})
        match ws with
        | [] => b
        | l => l.foldl (fun b a => b.arrayFail j.1 a e) b) b

/-- PLANE_LOAD_DONE. -/
def execPlaneLoadDone (c : Fin 8) (plane : Fin 2) (rd : View) (s : State) : Out := upd (fun b => b.planeLoad c.val plane.val rd) s

/-- Bytes of a multicast operand reach every pending load of the key that TABLE and CHUNK name; whether there was one (R400, R424). -/
def Blk.emcTake (b : Blk) (num chunk : Nat) (l : List Byte) : Blk × Bool :=
  let pend := fun (x : Plane) => x.st = .loading && (match x.src with
    | .exp t h _ => t.num = num && h = chunk && b.emcWaits t x
    | .squares _ tabs => tabs.any (fun t => t.num = num && b.emcWaits t x) && chunk = 128
    | _ => false)
  let hits := (List.range 8).flatMap (fun c => ((List.range 2).filter (fun p => pend ((b.core c).plane p))).map (fun p => (c, p)))
  (hits.foldl (fun b j => b.updPlane j.1 j.2 (fun x => { x with mcb := x.mcb ++ [(num, chunk, l)] })) b, !hits.isEmpty)

/-- The wait for a multicast E ends: the chip reads its own copy (R424). -/
def Blk.ewait (b : Blk) (c : Nat) : Blk :=
  iter 2 (fun p b =>
    let x := (b.core c).plane p
    let due := fun (t : TableCopy) => b.emcWaits t x && decide (x.loadFrom + fld (qw t.smd 6) 32 32 ≤ b.time.toNat)
    let hit := x.st = .loading && (match x.src with
      | .exp t _ _ => due t
      | .squares _ tabs => tabs.any due
      | _ => false)
    if hit then (b.inc 0x70228 1).updPlane c p (fun x => { x with fallback := true, mcb := [] }) else b) b

/-- EWAIT_TIMEOUT. -/
def execEwaitTimeout (c : Fin 8) (s : State) : Out := upd (fun b => onlyIf (b.coreLive c.val) (fun b => b.ewait c.val) b) s

/-! ### Issue (R137, R138) -/

/-- Ask for the tile locks of a head instruction; true when it holds them (R138, R140). -/
def Blk.arrayLocks (b : Blk) (c : Nat) (a : AInstr) : Blk × Bool :=
  if a.kind ≠ .matx then (b, true) else
  let now := b.time.toNat
  let b := (adDest a.ad).foldl (fun b i => b.updTile c i (fun t => t.request a.task (a.unit 1) true now)) b
  let b := (adAtb a.ad).foldl (fun b i => b.updTile c i (fun t => t.request a.task (a.unit 2) false now)) b
  (b, (adDest a.ad).all (fun i => (b.tile c i).holds a.task (a.unit 1) true) &&
      (adAtb a.ad).all (fun i => (b.tile c i).holds a.task (a.unit 2) false))

/-- Start the load of a key where a plane can be its target (R123, R133, R135). -/
def Blk.startLoad (b : Blk) (c : Nat) (a : AInstr) (key : List Nat) : Blk :=
  let k := b.core c
  if (List.range 2).any (fun p => (k.plane p).st = .loading) then b
  else
    match k.target with
    | none => b
    | some p =>
      let b := if a.kind = .matx then
          (adStb a.ad).foldl (fun b i => b.updTile c i (fun t => t.request a.task (a.unit 3) false b.time.toNat)) b
        else b
      let j := !(b.joiners c key).isEmpty
      b.updPlane c p (fun x => { st := .loading, key := key, src := a.src, joined := j, loadFrom := b.time.toNat, retried := x.retried && x.key = key,
                                 logged := x.logged && x.key = key })

/-- The activations of an instruction (R128, R131, R185, R219, R226): rows of operands, row scales, column scales, whether a tile
element was clamped, what is measured. -/
def Blk.actRows (b : Blk) (c : Nat) (v : View) (a : AInstr) : Blk × Ds (List (List W32) × List W32 × List W32 × Bool × List (FV × FV)) :=
  let r := Req.plane c
  match a.kind with
  | .matx =>
    let d := a.ad
    let f := adFmt d
    let m := adM d
    let zp := fun (row : List W32) => if fmtInt f then row.map (fun x => w32i (x.toInt - adZa d)) else row
    let sc := if adScale d then [(adCols d, 1024), (adRows d, 512)] else []
    Ds.bind (Blk.vreads r a.ctx v sc b) (fun b ss =>
      let cs := words32 256 (ss.getD 0 [])
      let rs := words32 128 (ss.getD 1 [])
      if adAsrc d then
        let rows := (List.range m).map (fun i => (List.range (adK d)).map (fun k =>
          let t := adTb d (if k < 128 then 0 else 1)
          if t < 6 then narrow f (adAsgn d) ((b.tile c t).at (128 * i + k % 128)) else (0, false, [])))
        let flat := rows.flatMap (fun x => x)
        (b, .ok (rows.map (fun row => zp (row.map (fun (e : W32 × Bool × List (FV × FV)) => e.1))), rs, cs, flat.any (·.2.1), flat.flatMap (·.2.2)))
      else
        Ds.bind (Blk.vreads r a.ctx v ((List.range m).map (fun i => (adBase d 3 + i * adAstride d, fmtBytes f (adK d)))) b) (fun b bs =>
          (b, .ok (bs.map (fun l => zp (opRow f (adAsgn d) (adK d) l)), rs, cs, false, []))))
  | .inter =>
    match b.cmd a.cmd with
    | none => (b, .wait)
    | some m =>
      let i0 := a.info.getD 0 []
      let s := i0.getD 0 0
      let h := i0.getD 2 0
      Ds.bind (Blk.vreads r a.ctx v (ixFeats m.ixd s (i0.getD 1 0) a.info.length) b) (fun b bs =>
        Ds.bind (b.ixScales r m v s) (fun b sc => (b, .ok (bs.map (ixRow m.ixd), sc.drop (i0.getD 1 0), sc.drop (256 * h), false, []))))
  | .back =>
    match b.cmd a.cmd, a.src with
    | some m, .back _ f n _ bj _ => Ds.bind (b.bxRows r m v f n bj) (fun b x => (b, .ok (x.1, [], [], false, x.2)))
    | _, _ => (b, .wait)
  | .grad q =>
    match a.src with
    | .grad _ _ bags =>
      let s := b.sq c q
      (b, .ok ((List.range s.tab.r).map (fun k => bags.map (fun (g : Nat) =>
        (bxRound false (((s.code g).getD k 0).toNat)).1)), [], [], false, []))
    | _ => (b, .wait)
  | .expand q =>
    match a.src with
    | .exp t _ true =>
      if t.efmt = 0 then
        Ds.bind (Blk.vreads r t.ctx v [(t.ebase + t.r * t.estride, 2 * t.d)] b) (fun b l => (b, .ok ([], [], colScales (l.getD 0 []) t.d, false, [])))
      else (b, .ok ([], [], [], false, []))
    | _ => let _ := q; (b, .ok ([], [], [], false, []))

/-- Convert the feeder rows of an expansion that are not converted yet (R115, R210, R225). -/
def Blk.convRows (b : Blk) (c : Nat) (a : AInstr) (cs : List W32) : Blk :=
  let ids := a.info.flatMap id
  let rows := (b.core c).feed.filter (fun f => f.sent && !f.conv && ids.contains f.id)
  rows.foldl (fun b f =>
    let s := b.sq c f.q
    let x := f.v.map (fun y => y.setWidth 32)
    let x := if cs = [] then x else List.zipWith (fun y z => BitVec.ofNat 32 (FFmt.fp32.mul y.toNat z.toNat)) x cs
    let r := expConv s.tab.efmt x
    let b := b.updCore c (fun k => { k with feed := k.feed.map (fun g =>
      if g.sent && g.id = f.id then { g with conv := true, x := r.1, sigma := r.2.1, nan := r.2.2.1 } else g) })
    if r.2.2.1 then b
    else (b.measure s.owner r.2.2.2).updCmd s.owner (fun m =>
      (m.statSum s.tab.stats 6 (mseSum r.2.2.2 (0, 0))).stat s.tab.stats 8 1)) b

/-- The memory ranges that row i of a MATX writes, with lengths alone: what has to translate before it commits. -/
def matxRanges (d : List W64) (i : Nat) : List (Nat × List Byte) :=
  let row := adBase d 6 + i * adOstride d
  let n := adN d
  let es := odtSize (adOdt d)
  (if adDlo d = 6 then [(row, List.replicate (min n 128 * es) 0)] else []) ++
  (if adDhi d = 6 && 128 < n then [(row + 128 * es, List.replicate ((n - 128) * es) 0)] else [])

/-- The head instruction issues when every condition of R138 holds; until then its locks are asked for and its plane is loaded. -/
def Blk.arrayIssue (b : Blk) (c : Nat) (v : View) : Blk :=
  let b := b.arraySweep c
  let b := (List.range 20).foldl (fun b q => (b.batchQueue c q).batchGrad c q) b
  let b := b.batchPlan c
  let b := b.updCore c (fun k => { k with flush := false })
  let b := interNext 16 c b
  if b.qHeld 4 c 0 then b else
  match (b.core c).head with
  | none => b
  | some a =>
    match b.arrayLocks c a with
    | (b, locked) =>
      match b.planeKey c a.src with
      | (b, .ok key) =>
        let b := b.updCore c (fun k => { k with iq := k.iq.map (fun x => if x.id = a.id then { x with key := key } else x) })
        match (b.core c).planeOf key with
        | none => b.startLoad c a key
        | some p =>
          if ((b.core c).plane p).st ≠ .resident || !locked ||
             (b.core c).iq.any (fun x => x.issued && !x.done && x.cmd ≠ a.cmd) then b
          else
            match Ds.bind (Blk.xlWrites (.plane c) a.ctx (if a.kind = .matx then (List.range (adM a.ad)).flatMap (matxRanges a.ad) else []) b)
                (fun b _ => b.actRows c v a) with
            | (b, .ok (rows, rs, cs, sat, ms)) =>
              let b := match a.kind with | .expand _ => b.convRows c a cs | _ => b.measure a.cmd ms
              let b := if sat then b.updCmd a.cmd (fun m => m.flag 5) else b
              let b := (adAtb a.ad).foldl (fun b i => b.updTile c i (fun t => t.endRead a.task (a.unit 2))) b
              let up := b.rb (coreReg c 0x400) 1
              b.updCore c (fun k => { k with
                iq := k.iq.map (fun x => if x.id = a.id then { x with key := key, rows := rows, scales := rs, cols := cs, plane := p, issued := true } else x)
                planes := Tab.set {} k.planes p { k.plane p with used := k.nextKey }
                nextKey := k.nextKey + 1
                lastCmd := some a.cmd
                ramp := if k.ramp = .gated ∨ k.ramp = .down then (if up then .up else .full) else k.ramp
                duty := if k.ramp = .gated ∨ k.ramp = .down then (if up then k.duty else 16) else k.duty })
            | (b, x) => b.arrayFail c a x
      | (b, x) => b.arrayFail c a x

/-- ARRAY_INSTRUCTION_ISSUE. -/
def execArrayInstructionIssue (c : Fin 8) (rd : View) (s : State) : Out :=
  upd (fun b => onlyIf (b.unitIssues c.val && b.build.arrays) (fun b => b.arrayIssue c.val rd) b) s

/-! ### Commits (R130, R139, R143 to R145) -/

/-- The accumulators of one activation row against a plane: column j, with the terms that ACC adds in a float format. -/
def accCol (f n : Nat) (x : List W32) (w : List (List W32)) (j : Nat) (old : Option W32) : W32 :=
  if fmtInt f then w32i (dotInt x (planeCol w j))
  else BitVec.ofNat 32 (sumFlt n (products x (planeCol w j) ++ (match old with | some o => [o.toNat] | none => [])))

/-- Row i of a MATX: the value of column j and whether it saturated. -/
def matxElem (tag : Nat) (a : AInstr) (w : List (List W32)) (i j : Nat) (old : Option W32) : W32 × Bool :=
  let d := a.ad
  let f := adFmt d
  let x := a.rows.getD i []
  let n := (tag * 128 + i) * 256 + j
  if adScale d then
    let v := scaled (fmtInt f) (accCol f n x w j none) (a.scales.getD i 0) (a.cols.getD j 0)
    (BitVec.ofNat 32 (match old with | some o => FFmt.fp32.add o.toNat v | none => v), false)
  else if fmtInt f then
    let s := dotInt x (planeCol w j)
    match old with
    | some o => let r := satAdd o.toInt s; (w32i r.1, r.2)
    | none => (w32i s, false)
  else (accCol f n x w j old, false)

/-- The tile buffer of column j of a MATX. -/
def adTile (d : List W64) (j : Nat) : Option Nat :=
  let t := if j < 128 then adDlo d else adDhi d
  if t < 6 then some t else none

/-- Commit row i of a MATX: tile rows are written; the memory ranges and conversions are answered. -/
def Blk.matxRow (b : Blk) (c : Nat) (a : AInstr) (w : List (List W32)) (i : Nat) : Blk × List (Nat × List Byte) × List (FV × FV) :=
  let d := a.ad
  let vals := (List.range 256).map (fun j =>
    matxElem b.free a w i j (if adAcc d then (adTile d j).map (fun t => (b.tile c t).at (128 * i + j % 128)) else none))
  let b := if vals.any (·.2) then b.updCmd a.cmd (fun m => m.flag 5) else b
  let half := fun (b : Blk) (t lo : Nat) =>
    if t < 6 then b.updTile c t (fun x => iter 128 (fun j x => x.put (128 * i + j) (vals.getD (lo + j) (0, false)).1) { x with isInt := adInt d }) else b
  let b := half (half b (adDlo d) 0) (adDhi d) 128
  let es := (List.range (adN d)).map (fun j => odtElem (adOdt d) (adInt d) (vals.getD j (0, false)).1)
  let row := adBase d 6 + i * adOstride d
  let lo := es.take 128
  let hi := es.drop 128
  let ws := (if adDlo d = 6 then [(row, lo.flatMap (·.1))] else []) ++
            (if adDhi d = 6 && !hi.isEmpty then [(row + 128 * odtSize (adOdt d), hi.flatMap (·.1))] else [])
  let ms := (if adDlo d = 6 then lo.flatMap (·.2) else []) ++ (if adDhi d = 6 then hi.flatMap (·.2) else [])
  (b.freed, ws, ms)

/-- Results of an expansion row are complete: it goes to the output path, to its accumulator, or becomes du (R113, R119, R225). -/
def Blk.feedDone (b : Blk) (c : Nat) (f : FeedRow) (y : List W32) : Blk :=
  let s := b.sq c f.q
  let b := b.updCore c (fun k => { k with feed := k.feed.filter (fun g => !(g.sent && g.id = f.id)), xres := k.xres.filter (fun x => !(x.cmd = s.owner && x.a = f.id && x.b = 1048576)) })
  let v := y.map (fun z => z.setWidth 64)
  if s.cons.isScat then
    b.updSq c f.q (fun s => { s with grads := s.grads.map (fun g => if g.1 = f.bag then (g.1, g.2.1, v) else g)
                                     gasked := s.gasked.erase f.bag })
  else
    match f.ord with
    | some e =>
      let w := match s.flight.find? (fun x => x.ord = e) with
        | some x => s.wt x
        | none => s.fmt.ofInt 1
      b.deliver c f.q e f.bag (some (w, v))
    | none => b.outPut c f.q f.bag v [] 0

/-- Commit one segment of an expansion: chunk h of feeder row f. -/
def Blk.expandSeg (b : Blk) (c : Nat) (a : AInstr) (x : Plane) (f : FeedRow) : Blk :=
  let s := b.sq c f.q
  let t := s.tab
  let lane := fun (w : List (List W32)) (band j : Nat) (n : Nat) =>
    if t.efmt = 0 then
      BitVec.ofNat 32 (FFmt.fp32.mul (FFmt.fp32.mul f.sigma.toNat (Tab.get 0 x.cs (256 * band + j)).toNat)
        (FFmt.fp32.ofInt (dotInt f.x (planeCol w j))))
    else BitVec.ofNat 32 (sumFlt n (products f.x (planeCol w j)))
  let tag := fun (j : Nat) => b.free * 65536 + j
  match a.src with
  | .squares xp _ =>
    let (band, g) := xpPlace xp t.num
    let w := (x.w.drop (64 * band)).take t.r
    let y := if f.nan then List.replicate t.d 0x7FC00000 else (List.range t.d).map (fun j => lane w band (64 * g + j) (tag j))
    b.freed.feedDone c f y
  | .exp _ h tr =>
    if tr then
      let old := (b.core c).xres.find? (fun r => r.cmd = s.owner && r.a = f.id && r.b = 1048576)
      let part := (f.x.drop (256 * h)).take 256
      let acc := (List.range t.r).map (fun k =>
        let o := (old.map (fun r => r.v.getD k 0)).getD 0
        if t.efmt = 0 then w32i (o.toInt + dotInt part (planeCol x.w k))
        else BitVec.ofNat 32 (sumFlt (tag k) (products part (planeCol x.w k) ++ (if old.isSome then [o.toNat] else []))))
      if h + 1 < t.chunks then
        let z : XRes := { cmd := s.owner, a := f.id, b := 1048576, h := 0, v := acc }
        b.freed.updCore c (fun k => { k with xres := z :: k.xres.filter (fun r => !(r.cmd = s.owner && r.a = f.id && r.b = 1048576)) })
      else
        let y := if f.nan then List.replicate t.r 0x7FC00000
          else if t.efmt = 0 then acc.map (fun i => BitVec.ofNat 32 (FFmt.fp32.mul f.sigma.toNat (FFmt.fp32.ofInt i.toInt))) else acc
        b.freed.feedDone c f y
    else
      let y := if f.nan then List.replicate (t.ccols h) 0x7FC00000
        else (List.range (t.ccols h)).map (fun j => lane x.w 0 j (tag j))
      let b := b.freed.updCore c (fun k => { k with xres := k.xres ++ [{ cmd := s.owner, a := f.id, b := 1048576, h := h, v := y }] })
      if h + 1 < t.chunks then b
      else b.feedDone c f ((List.range t.chunks).flatMap (fun i =>
        (((b.core c).xres.find? (fun r => r.cmd = s.owner && r.a = f.id && r.b = 1048576 && r.h = i)).map (·.v)).getD []))
  | _ => b

/-- Commit row i of an instruction that is not a MATX. -/
def Blk.otherRow (b : Blk) (c : Nat) (a : AInstr) (x : Plane) (i : Nat) : Blk :=
  let r := a.info.getD i []
  match a.kind with
  | .matx => b
  | .expand _ =>
    r.foldl (fun b n => match (b.core c).feed.find? (fun f => f.sent && f.id = n) with
      | some f => b.expandSeg c a x f
      | none => b) b
  | .inter =>
    match b.cmd a.cmd with
    | none => b
    | some m =>
      let d := m.ixd
      let col0 := r.getD 3 0
      let v := (List.range (ixCols d (r.getD 2 0))).map (fun j =>
        let acc := accCol a.fmt ((b.free * 128 + i) * 256 + j) (a.rows.getD i []) x.w (col0 + j) none
        if ixScl d then BitVec.ofNat 32 (scaled (fmtInt a.fmt) acc (a.scales.getD i 0) (a.cols.getD j 0)) else acc)
      b.freed.updCore c (fun k => { k with xres := k.xres ++ [{ cmd := a.cmd, a := r.getD 0 0, b := r.getD 1 0, h := r.getD 2 0, v := v }] })
  | .back =>
    let key := fun (z : XRes) => z.cmd = a.cmd && z.a = r.getD 0 0 && z.b = r.getD 1 0 && z.h = r.getD 2 0
    let old := ((b.core c).xres.find? key).map (·.v)
    let v := (List.range a.kn.2).map (fun j =>
      accCol a.fmt ((b.free * 256 + i) * 256 + j) (a.rows.getD i []) x.w j (old.map (fun o => o.getD j 0)))
    let z : XRes := { cmd := a.cmd, a := r.getD 0 0, b := r.getD 1 0, h := r.getD 2 0, v := v }
    b.freed.updCore c (fun k => { k with xres := z :: k.xres.filter (fun z => !key z) })
  | .grad q =>
    let h := r.getD 1 0
    let s := b.sq c q
    (List.range (s.tab.ccols h)).foldl (fun b j =>
      let n := r.getD 0 0 * s.tab.d + 256 * h + j
      let y := accCol a.fmt ((b.free * 128 + i) * 256 + j) (a.rows.getD i []) x.w j (some (Tab.get 0 (b.sq c q).dacc n))
      b.updSq c q (fun s => { s with dacc := Tab.set 0 s.dacc n y })) b.freed

/-- What follows the last row of an instruction (R140, R162). -/
def Blk.arrayEnd (b : Blk) (c : Nat) (a : AInstr) : Blk :=
  match a.kind with
  | .matx =>
    let b := if adTq a.ad then b
      else (adDest a.ad).foldl (fun b i => b.updTile c i (fun t => if t.holds a.task (a.unit 1) true then t.release else t)) b
    b.updCore c (fun k => { k with iq := k.iq.map (fun x => if x.id = a.id then { x with done := true, tqWait := adTq a.ad } else x) })
  | .inter =>
    let r := a.info.getD 0 []
    if r.getD 4 0 = 1 then (b.updCmd a.cmd (fun m => { m with unitReady := m.unitReady ++ [r.getD 0 0] })).unitFlush c a.cmd else b
  | .back =>
    let r := a.info.getD 0 []
    if r.getD 3 0 = 1 then (b.updCmd a.cmd (fun m => { m with unitReady := m.unitReady ++ [r.getD 0 0] })).unitFlush c a.cmd else b
  | _ => b

/-- The log of a mismatch (R152). -/
def chkLog (kind : Bool) (a : AInstr) (ix : Nat) : W64 :=
  BitVec.ofNat 64 ((if kind then 4 else 0) + a.task <<< 4 + (if kind then ix <<< 8 else ix <<< 16) + a.fmt <<< 24)

/-- A mismatch that was retried has passed: RECOVERED is logged and CHKOK counted (R145). -/
def Blk.chkRecovered (b : Blk) (c : Nat) (logged : Bool) : Blk :=
  let b := b.inc (coreReg c 0x468) 1
  if logged then b.setFld (coreReg c 0x420) 3 1 1 else b

/-- A mismatch: logged, and with a failure CHKFAIL is set and counted. Answers whether the log describes it. -/
def Blk.chkMiss (b : Blk) (c : Nat) (v : W64) : Blk × Bool :=
  ((b.log (coreReg c 0x420) 0 v), !b.rb (coreReg c 0x420) 0)

/-- A check has failed for good. -/
def Blk.chkFail (b : Blk) (c : Nat) : Blk := (b.inc (coreReg c 0x470) 1).setFld (coreReg c 0x410) 9 1 1

/-- A check wavefront (R143, R145). -/
def Blk.checkWave (b : Blk) (c : Nat) (a : AInstr) (m : Mismatch) : Blk :=
  let p := a.plane
  let x := (b.core c).plane p
  match m with
  | .none =>
    let b := if x.retried then b.chkRecovered c x.logged else b
    (b.updPlane c p (fun x => { x with checked := true, retried := false, logged := false })).updCore c (fun k => { k with lastPlane := some p })
  | .row ix =>
    let r := b.chkMiss c (chkLog true a ix.val)
    let b := r.1
    if b.rb (coreReg c 0x400) 0 && !x.retried then
      b.updCore c (fun k => { k with
        planes := Tab.set {} k.planes p { x with st := .loading, retried := true, logged := r.2, loadFrom := b.time.toNat }
        iq := k.iq.map (fun y => if y.issued && !y.done && y.plane = p && y.next = 0 then { y with issued := false } else y) })
    else
      let b := b.chkFail c
      let ids := (((b.core c).iq.filter (fun y => !y.done && ((y.issued && y.plane = p) || y.key = x.key))).map (·.cmd)).eraseDups
      (ids.foldl (fun b i => b.failCmd i 0x41) b).updPlane c p (fun _ => {})

/-- A data wavefront passes its check: its rows commit (R130, R139). -/
def Blk.dataWave (b : Blk) (c : Nat) (a : AInstr) : Blk :=
  let x := (b.core c).plane a.plane
  let total := if a.kind = .matx then adM a.ad else a.info.length
  let rows := List.range' a.next (min (fmtRate a.fmt) (total - a.next))
  match Blk.xlWrites (.plane c) a.ctx (if a.kind = .matx then rows.flatMap (matxRanges a.ad) else []) b with
  | (b, .wait) => b
  | (b, .st k) => b.failCmd a.cmd k
  | (b, .xlt k va) => (b.xltFatalRec (.plane c) a.ctx k (BitVec.ofNat 64 va)).failCmd a.cmd (xltStatus k)
  | (b, .ok _) =>
    let b := if a.retry then b.chkRecovered c a.logged else b
    let b := b.inc (coreReg c 0x448) 1
    let b := b.inc (coreReg c 0x440) (rows.length * a.kn.1 * a.kn.2)
    let b := b.updCore c (fun k => { k with
      iq := k.iq.map (fun y => if y.id = a.id then { y with next := a.next + rows.length, retry := false, logged := false, done := decide (total ≤ a.next + rows.length) } else y)
      lastPlane := some a.plane
      duty := min 16 (k.duty + 1)
      ramp := if k.ramp = .up ∧ 15 ≤ k.duty then .full else k.ramp })
    let b := if a.kind = .matx then
        let r := rows.foldl (fun (s : Blk × List (Nat × List Byte) × List (FV × FV)) i =>
          let z := s.1.matxRow c a x.w i
          (z.1, s.2.1 ++ z.2.1, s.2.2 ++ z.2.2)) (b, [], [])
        match Blk.xlWrites (.plane c) a.ctx r.2.1 (r.1.measure a.cmd r.2.2) with
        | (b, .ok ps) =>
          let z := b.writeParts a.cmd ps
          z.1.updCore c (fun k => { k with iq := k.iq.map (fun y => if y.id = a.id then { y with ids := y.ids ++ z.2 } else y) })
        | (b, _) => b
      else rows.foldl (fun b i => b.otherRow c a x i) b
    if total ≤ a.next + rows.length then (b.arrayEnd c a).arraySweep c else b

/-- The next wavefront of the array reaches its accumulate stage: the check wavefront of a plane that was castled to or loaded, or
the next data wavefront of the oldest issued instruction. -/
def Blk.waveCommit (b : Blk) (c : Nat) (m : Mismatch) : Blk :=
  match (b.core c).iq.find? (fun a => a.issued && !a.done) with
  | none => b
  | some a =>
    let k := b.core c
    if !(k.plane a.plane).checked || k.lastPlane ≠ some a.plane then b.checkWave c a m
    else
      match m with
      | .none => b.dataWave c a
      | .row ix =>
        let r := b.chkMiss c (chkLog false a (a.next + ix.val % fmtRate a.fmt))
        let b := r.1
        if b.rb (coreReg c 0x400) 0 && !a.retry then
          b.updCore c (fun k => { k with iq := k.iq.map (fun y => if y.id = a.id then { y with retry := true, logged := r.2 } else y) })
        else (b.chkFail c).failCmd a.cmd 0x41

/-- WAVEFRONT_COMMIT. -/
def execWavefrontCommit (c : Fin 8) (m : Mismatch) (s : State) : Out :=
  upd (fun b => onlyIf (b.coreLive c.val && !b.coreRst c.val) (fun b =>
    let b := (b.cmds.map (·.id)).foldl (fun b id => match b.cmd id with
      | some x => if x.unitReady.isEmpty then b else
          (match x.phase with | .held k _ => if k = c.val then b.unitFlush c.val id else b | _ => b)
      | none => b) b
    b.waveCommit c.val m) b) s

/-! ### Dummies, ramps, the feeder's tail, locks -/

/-- Nothing is ready to be issued on the array. -/
def Core.arrayIdle (k : Core) : Bool := !k.iq.any (fun a => a.issued && !a.done)

/-- DUMMY_WAVEFRONT (R146). -/
def execDummyWavefront (c : Fin 8) (s : State) : Out :=
  upd (fun b => onlyIf (b.unitIssues c.val && (b.core c.val).arrayIdle && (b.core c.val).lastPlane.isSome && (b.core c.val).ramp ≠ .gated &&
      b.rf (coreReg c.val 0x400) 8 8 ≠ 0) (fun b => b.inc (coreReg c.val 0x450) 1) b) s

/-- RAMP_DOWN (R146, R434): one step of 16; after the last the array is gated. -/
def execRampDown (c : Fin 8) (s : State) : Out :=
  upd (fun b => onlyIf (b.coreLive c.val && ((b.core c.val).arrayIdle || b.pwr.hold) && (b.core c.val).ramp ≠ .gated) (fun b =>
    b.updCore c.val (fun k => { k with ramp := if k.duty ≤ 1 then .gated else .down, duty := k.duty - 1 })) b) s

/-- FEEDER_TAIL_FLUSH (R119, R122): rows have waited for FEEDTO T-ticks. -/
def execFeederTailFlush (c : Fin 8) (s : State) : Out :=
  upd (fun b => onlyIf (b.unitIssues c.val && (b.core c.val).feed.any (fun f => !f.sent) &&
      decide ((b.core c.val).feedFrom + max 16 (b.rf (coreReg c.val 0x400) 32 16) ≤ b.time.toNat))
    (fun b => b.updCore c.val (fun k => { k with flush := true })) b) s

/-- TILE_LOCK_GRANT (R140): the requests at the head of a tile buffer's list are granted as far as the lock allows; a POOL that
waited for the lock writes its rows. -/
def execTileLockGrant (c : Fin 8) (tb : Fin 6) (s : State) : Out :=
  upd (fun b => onlyIf (b.coreLive c.val && !b.coreRst c.val) (fun b =>
    let b := b.updTile c.val tb.val (fun t => t.grant (t.waits.length + 1))
    (List.range 20).foldl (fun b q =>
      if (b.sq c.val q).cons.tb = some tb.val then ((b.tileOut c.val q).passCheck c.val q).finishPass c.val q else b) b) b) s

/-- The task context that a lock is held for. -/
def Tile.holder (t : Tile) (not : Nat) : Option Nat :=
  match t.lock with
  | .free => none
  | .shared => (t.readers.find? (fun r => r.1 ≠ not)).map (·.1)
  | _ => if t.owner ≠ not then some t.owner else none

/-- STALEMATE (R142): a request has waited longer than STALE for a lock held for another task context; once for each wait. -/
def execStalemate (c : Fin 8) (tb : Fin 6) (s : State) : Out :=
  upd (fun b =>
    let t := b.tile c.val tb.val
    let lim := b.rf (coreReg c.val 0x408) 0 32
    match t.waits.find? (fun r => !r.told && (t.holder r.task).isSome && decide (r.since + lim < b.time.toNat)) with
    | none => b
    | some r =>
      if lim = 0 || !b.coreLive c.val then b else
      let o := (t.holder r.task).getD 0
      let b := (b.setFld (coreReg c.val 0x410) 8 1 1).inc (coreReg c.val 0x478) 1
      let b := b.event 0x41 0 c.val 0 [BitVec.ofNat 64 (tb.val + o <<< 4 + r.task <<< 6)]
      b.updTile c.val tb.val (fun t => { t with waits := t.waits.map (fun x => if x = r then { x with told := true } else x) })) s

end Sys2Proof.Machine
end

