-- ==== Sys2Proof/Machine/ArrayOps.lean ====
section
/-! DEFINITION. MATX (R131, R132, R137) and EXPAND (R120 to R122). -/
namespace Sys2Proof.Machine

/-- MATX: its AD is checked and it enters the instruction queue; it waits while the queue is full. -/
def Blk.matxOp (b : Blk) (c t rd ra : Nat) (imm : W64) (v : View) : Blk :=
  b.longOp c t ra imm v
    (fun b _ d => if !b.build.arrays then (b, .st 0x53) else match adBad d with | some st => (b, .st st) | none => (b, .ok ()))
    (fun b m tag d _ =>
      let k := b.core c
      if k.iqUsed ≥ 16 || b.qHeld 4 c 0 then b
      else
        let a : AInstr := { id := k.nextKey, kind := .matx, task := t, cmd := m.id, tag := some tag, ctx := m.ctx, fmt := adFmt d, ad := d,
                            src := .matx k.nextKey t m.ctx d, kn := (adK d, adN d) }
        (b.updCore c (fun k => { k with nextKey := k.nextKey + 1, iq := k.iq ++ [a] })).longDone c t rd tag)

/-- MATX. -/
def execMatx (x : Ctx) (rd ra : Greg) (imm : W64) (v : View) (s : State) : Out :=
  upd (fun b => b.matxOp x.c.val x.t.val rd.val ra.val imm v) s

/-- The squares that a table holds in a plan. -/
def xpSquares (xp : List W64) (num : Nat) : List Nat := (List.range 16).filter (fun s => xpTable xp s = some num)

/-- A table of a plan obeys R121: its kind, and the place of its squares. -/
def xpTabBad (xp : List W64) (t : TableCopy) : Bool :=
  let l := xpSquares xp t.num
  let f := l.head?.getD 0
  let n := (t.d + 63) / 64
  !t.compact || t.efmt ≠ 0 || t.r > 64 || t.d > 256 || l.length ≠ n || l ≠ List.range' f n || f / 4 ≠ (f + n - 1) / 4

/-- The checks of R121 that need no table. -/
def xpBad (xp : List W64) : Option Nat :=
  if fld (qw xp 0) 0 4 ≠ 1 then some 0x50
  else if anyOf [
      res (qw xp 0) 4 12, res (qw xp 0) 32 32, qw xp 5 ≠ 0, qw xp 6 ≠ 0, qw xp 7 ≠ 0,
      (List.range 16).any (fun s => !bit (qw xp 0) (16 + s) && res (qw xp (1 + s / 4)) (16 * (s % 4)) 16)] then some 0x51
  else none

/-- Read and check the tables of a plan. -/
def Blk.xpTabs (id : Nat) (v : View) (xp : List W64) : List Nat → Blk → Blk × Ds (List TableCopy)
  | [], b => (b, .ok [])
  | n :: l, b =>
    Ds.bind (b.table id v n) (fun b t =>
      if xpTabBad xp t then (b, .st 0x51) else Ds.bind (Blk.xpTabs id v xp l b) (fun b ts => (b, .ok (t :: ts))))

/-- EXPAND (R122): address 0 releases the plan of the task context; a plan of another task context is waited for. -/
def Blk.expandOp (b : Blk) (c t ra : Nat) (imm : W64) (v : View) : Blk :=
  if !b.canLong c t then b else
  match b.taskCmd c t with
  | none => b
  | some m =>
    let va := ((b.task c t).gr ra + imm).toNat
    let other : Bool := match (b.core c).plan with | some p => decide (p.1 ≠ t) | none => false
    if !b.build.arrays then b.failCmd m.id 0x53
    else if va = 0 then
      let b := b.cleanAll c
      (if other then b else b.updCore c (fun k => { k with plan := none, planTabs := [] })).plainDone c t
    else if other then b
    else
      let b := b.cleanAll c
      if va ≥ 2 ^ 57 then b.failCmd m.id 0x32
      else if va % 64 ≠ 0 then b.failCmd m.id 0x51
      else
        match Ds.bind (b.desc (.desc m.id) m.ctx v va) (fun b xp =>
            match xpBad xp with
            | some st => (b, .st st)
            | none => Ds.bind (Blk.xpTabs m.id v xp (xpTables xp) b) (fun b ts => (b, .ok (xp, ts)))) with
        | (b, .ok (xp, ts)) => (b.updCore c (fun k => { k with plan := some (t, xp), planTabs := ts })).plainDone c t
        | (b, x) => b.dsFail m.id (.desc m.id) m.ctx x

/-- EXPAND. -/
def execExpand (x : Ctx) (ra : Greg) (imm : W64) (v : View) (s : State) : Out :=
  upd (fun b => b.expandOp x.c.val x.t.val ra.val imm v) s

end Sys2Proof.Machine
end

