-- ==== Sys2Proof/Machine/ChainDefs.lean ====
section
/-! DEFINITION. The chain's descriptor and its checks (R154 to R158, R201 to R203), element types and lane classes (R156, R165), and what
each stage does to the lanes of a row segment (R165 to R169). -/
namespace Sys2Proof.Machine

/-! ### Element types (R156) and lane classes (R165) -/

/-- Lane classes. -/
inductive LC
  | i32 | f32 | f64
  deriving DecidableEq, Repr

/-- Bits of an element type. -/
def tyBits (t : Nat) : Nat := [32, 32, 64, 16, 16, 8, 8, 16, 4, 4].getD t 32
/-- The lane class of an element type. -/
def tyClass (t : Nat) : LC := if t = 2 then .f64 else if t = 1 ∨ t = 3 ∨ t = 4 then .f32 else .i32
/-- The floating format of a float type. -/
def tyFloat (t : Nat) : FFmt := if t = 2 then .fp64 else if t = 3 then .bf16 else if t = 4 then .fp16 else .fp32
/-- An integer type is signed. -/
def tySigned (t : Nat) : Bool := t ≠ 6 && t ≠ 9
/-- The range of an integer type. -/
def tyRange (t : Nat) : Int × Int :=
  let n := tyBits t
  if tySigned t then (-(2 ^ (n - 1)), 2 ^ (n - 1) - 1) else (0, 2 ^ n - 1)
/-- The floating format of a lane class. -/
def LC.fmt (c : LC) : FFmt := if c = .f64 then .fp64 else .fp32
/-- Bytes of n elements. -/
def tyBytes (t n : Nat) : Nat := (n * tyBits t + 7) / 8

/-- The integer that a lane of class int32 holds. -/
def laneInt (x : W64) : Int := (x.setWidth 32).toInt
/-- An int32 lane. -/
def intLane (i : Int) : W64 := (w32i i).setWidth 64
/-- A lane's exact value. -/
def LC.value (c : LC) (x : W64) : FV :=
  match c with
  | .i32 => fvInt (laneInt x)
  | .f32 => FV.of .fp32 x.toNat
  | .f64 => FV.of .fp64 x.toNat

/-- Element k of packed bytes as a lane of its class (R165). -/
def tyElem (t : Nat) (l : List Byte) (k : Nat) : W64 :=
  if tyBits t = 4 then intLane (codeVal 4 (tySigned t) ((l.getD (k / 2) 0).toNat >>> (4 * (k % 2))))
  else
    let n := tyBits t / 8
    let x := leNat ((l.drop (n * k)).take n)
    match tyClass t with
    | .i32 => intLane (codeVal (8 * n) (tySigned t) x)
    | c => BitVec.ofNat 64 (c.fmt.cvt (tyFloat t) x)

/-! ### The header (R155) -/

/-- NST. -/
def vdNst (d : List W64) : Nat := fld (qw d 0) 4 4
/-- ISRC. -/
def vdIsrc (d : List W64) : Nat := fld (qw d 0) 8 2
/-- ITB. -/
def vdItb (d : List W64) : Nat := fld (qw d 0) 10 3
/-- ODST. -/
def vdOdst (d : List W64) : Nat := fld (qw d 0) 13 2
/-- OTB. -/
def vdOtb (d : List W64) : Nat := fld (qw d 0) 15 3
/-- MSRC. -/
def vdMsrc (d : List W64) : Nat := fld (qw d 0) 18 2
/-- MTB. -/
def vdMtb (d : List W64) : Nat := fld (qw d 0) 20 3
/-- MMODE: ZERO. -/
def vdZero (d : List W64) : Bool := bit (qw d 0) 23
/-- FLG. -/
def vdFlg (d : List W64) : Nat := fld (qw d 0) 24 2
/-- CLRST. -/
def vdClrst (d : List W64) : Bool := bit (qw d 0) 26
/-- MFLAG. -/
def vdMflag (d : List W64) : Nat := fld (qw d 0) 32 16
/-- ROWS. -/
def vdRows (d : List W64) : Nat := fld (qw d 1) 0 32
/-- COLS. -/
def vdCols (d : List W64) : Nat := fld (qw d 1) 32 14 + 1
/-- IFMT. -/
def vdIfmt (d : List W64) : Nat := fld (qw d 1) 48 4
/-- OFMT. -/
def vdOfmt (d : List W64) : Nat := fld (qw d 1) 52 4
/-- VAFMT. -/
def vdVafmt (d : List W64) : Nat := fld (qw d 1) 56 4
/-- VBFMT. -/
def vdVbfmt (d : List W64) : Nat := fld (qw d 1) 60 4
/-- ISTRIDE. -/
def vdIstride (d : List W64) : Nat := fld (qw d 3) 0 32
/-- OSTRIDE. -/
def vdOstride (d : List W64) : Nat := fld (qw d 3) 32 32

/-! ### Stage words (R157) -/

/-- Stage word k. -/
def vdStage (d : List W64) (k : Nat) : W64 := qw d (8 + k)
/-- OP. -/
def stOp (w : W64) : Nat := fld w 0 4
/-- SUB. -/
def stSub (w : W64) : Nat := fld w 4 4
/-- SRC. -/
def stSrc (w : W64) : Nat := fld w 8 3
/-- REV. -/
def stRev (w : W64) : Bool := bit w 11
/-- SREG. -/
def stSreg (w : W64) : Nat := fld w 12 3
/-- AXIS. -/
def stAxis (w : W64) : Nat := fld w 16 2
/-- TGT. -/
def stTgt (w : W64) : Nat := fld w 18 4
/-- IMM. -/
def stImm (w : W64) : Nat := fld w 32 32
/-- A CVT stage that quantises. -/
def stQuant (w : W64) : Bool := stOp w = 11 && stSub w = 1
/-- QM of R201. -/
def stQm (w : W64) : Nat := if stQuant w && 2 ≤ stSrc w && stSrc w ≤ 5 then fld w 48 2 else 0
/-- ADAPT of R201. -/
def stAdapt (w : W64) : Bool := stQm w = 1 && bit w 50
/-- zp of R169. -/
def stZp (w : W64) : Int := if stSrc w = 1 then 0 else codeVal 16 true (stImm w)
/-- The stage names VA. -/
def stVa (w : W64) : Bool := stSrc w = 2 || stSrc w = 3
/-- The stage names VB. -/
def stVb (w : W64) : Bool := stSrc w = 4 || stSrc w = 5 || (stOp w = 1 && stSub w = 1)
/-- The stages of a VD. -/
def vdStages (d : List W64) : List W64 := (List.range (vdNst d)).map (vdStage d)
/-- The RED stage, if there is one. -/
def vdRed (d : List W64) : Option W64 := (vdStages d).find? (fun w => stOp w = 12)
/-- Columns of the output (R172). -/
def outCols (d : List W64) (cols : Nat) : Nat :=
  match vdRed d with
  | some w => if stAxis w = 1 then (if stSub w = 2 then 2 else 1) else cols
  | none => cols

/-- The lane class after a stage, none where the stage does not take the class (R166). -/
def stClass (w : W64) (c : LC) : Option LC :=
  match stOp w with
  | 1 => if c = .i32 then some .f32 else none
  | 5 => if c = .i32 then some c else none
  | 6 => if c = .i32 then some c else none
  | 7 => if stSub w = 7 then (if c = .i32 then none else some c) else if c = .i32 then some c else none
  | 8 => some (if 8 ≤ stSub w then .i32 else c)
  | 11 => some (tyClass (stTgt w))
  | _ => some c

/-- The lane class that reaches stage k; none where a stage is not allowed. -/
def vdClass (d : List W64) (c : LC) (k : Nat) : Option LC :=
  ((vdStages d).take k).foldl (fun a w => a.bind (stClass w)) (some c)

/-- Every stage takes the lane class that reaches it. -/
def vdClassOk (d : List W64) (c : LC) : Bool := (vdClass d c (vdNst d)).isSome

/-- A stage word breaks R157, R166, R167 or R201. -/
def stBad (d : List W64) (last : Bool) (w : W64) : Bool :=
  let op := stOp w
  let sub := stSub w
  let src := stSrc w
  let vec := fun (x : Nat) => x = 2 || x = 4
  anyOf [
    bit w 15, res w 22 10, op = 0, op > 12, src = 7,
    op ≠ 12 && (stSreg w ≠ 0 || stAxis w ≠ 0), op ≠ 11 && stTgt w ≠ 0, stAxis w = 3, stTgt w > 9,
    sub > (match op with | 1 => 1 | 5 => 3 | 6 => 3 | 7 => 7 | 8 => 13 | 9 => 1 | 10 => 3 | 11 => 1 | 12 => 5 | _ => 0),
    op = 8 && (sub = 6 || sub = 7),
    op = 1 && (src < 1 || 3 < src || (sub = 1 && src = 1)),
    (op = 2 || op = 3 || op = 4 || op = 5 || op = 6 || op = 8 || op = 9) && src = 0,
    op = 7 && (if sub < 2 then decide (src = 0) else decide (src ≠ 0)),
    op = 10 && (if sub = 0 then !vec src else decide (src > 1)),
    op = 11 && (if sub = 0 then decide (src ≠ 0) else decide (src = 0)), op = 12 && src ≠ 0,
    -- IMM where nothing reads it
    src ≠ 1 && src ≠ 6 && !(op = 10 && (sub = 1 || sub = 3)) && !(op = 7 && sub = 7) && !stQuant w && stImm w ≠ 0,
    src = 6 && (if stQuant w then decide (fld w 48 16 ≠ 0) else decide (stImm w > 7)),
    stQuant w && 2 ≤ src && src ≤ 5 && (fld w 48 2 = 3 || res w 51 13 || (bit w 50 && fld w 48 2 ≠ 1)),
    op = 12 && (!last || (sub = 2 && stSreg w > 6) || (stAxis w ≠ 0 && stSreg w ≠ 0)),
    op = 12 && stAxis w ≠ 0 && vdOdst d = 2,
    op = 10 && sub = 0 && (if src = 2 then decide (vdVafmt d ≠ 0) else decide (vdVbfmt d ≠ 0)),
    stQm w = 2 && (stZp w ≠ 0 || !(stTgt w = 5 || stTgt w = 7 || stTgt w = 8)),
    stAdapt w && tyClass (stTgt w) ≠ .i32,
    stQm w ≠ 0 && (if stVa w then decide (vdVafmt d ≠ 1) else decide (vdVbfmt d ≠ 1))]

/-- The checks of R158 that need no shape. -/
def vdBad (arrays : Bool) (d : List W64) : Option Nat :=
  let st := vdStages d
  let va := st.any stVa
  let vb := st.any stVb
  if fld (qw d 0) 0 4 ≠ 1 then some 0x50
  else if anyOf [
      vdNst d = 0, vdNst d > 10, vdIsrc d = 3, vdOdst d = 3, vdMsrc d = 3, vdFlg d = 0, res (qw d 0) 27 5, res (qw d 0) 48 16,
      res (qw d 1) 46 2, vdIfmt d > 9, vdOfmt d > 9, vdVafmt d > 9, vdVbfmt d > 9, va && vdVafmt d ≥ 8, vb && vdVbfmt d ≥ 8,
      !va && vdVafmt d ≠ 0, !vb && vdVbfmt d ≠ 0,
      (if vdIsrc d = 1 then decide (vdItb d > 5) else decide (vdItb d ≠ 0)),
      (if vdOdst d = 1 then vdOtb d > 5 || vdOfmt d > 1 else decide (vdOtb d ≠ 0)),
      (if vdMsrc d = 2 then decide (vdMtb d > 5) else decide (vdMtb d ≠ 0))] || anyOf [
      vdMsrc d ≠ 1 && vdMflag d ≠ 0, vdMsrc d = 1 && vdMflag d < 256,
      vdIsrc d = 0 && (adBase d 2 = 0 || vdIstride d = 0), vdIsrc d ≠ 0 && (adBase d 2 ≠ 0 || vdIstride d ≠ 0),
      vdOdst d = 0 && (adBase d 4 = 0 || vdOstride d = 0), vdOdst d ≠ 0 && (adBase d 4 ≠ 0 || vdOstride d ≠ 0),
      va == decide (adBase d 5 = 0), vb == decide (adBase d 6 = 0), 2 ≤ vdFlg d && adBase d 7 = 0, vdFlg d < 2 && adBase d 7 ≠ 0,
      res (qw d 2) 57 7, res (qw d 4) 57 7, res (qw d 5) 57 7, res (qw d 6) 57 7, res (qw d 7) 57 7,
      (List.range' 18 6).any (fun i => qw d i ≠ 0), (List.range 10).any (fun k => vdNst d ≤ k && vdStage d k ≠ 0)] || anyOf [
      vdIsrc d = 2 && (vdRows d ≠ 0 || vdCols d ≠ 1 || vdIfmt d ≠ 0), vdIsrc d ≠ 2 && vdRows d = 0,
      adBase d 2 % 16 ≠ 0, adBase d 4 % 16 ≠ 0, adBase d 5 % 64 ≠ 0, adBase d 6 % 64 ≠ 0, adBase d 7 % 16 ≠ 0,
      vdIstride d % 16 ≠ 0, vdOstride d % 16 ≠ 0,
      (List.range (vdNst d)).any (fun k => stBad d (k + 1 = vdNst d) (vdStage d k)),
      if vdIsrc d = 2 then !vdClassOk d .i32 && !vdClassOk d .f32 else !vdClassOk d (tyClass (vdIfmt d))] then some 0x51
  else if vdIsrc d = 2 && !arrays then some 0x53
  else none

/-- The checks of R158 that look at the tensor's shape: known when the CHAIN is accepted, or when it takes its entry. -/
def vdShapeBad (d : List W64) (rows cols ityp : Nat) : Bool :=
  let oc := outCols d cols
  anyOf [
    vdIsrc d = 0 && vdIstride d < tyBytes ityp cols, vdOdst d = 0 && vdOstride d < tyBytes (vdOfmt d) oc,
    cols % 2 = 1 && vdIsrc d = 0 && tyBits ityp = 4, oc % 2 = 1 && vdOdst d = 0 && tyBits (vdOfmt d) = 4,
    (vdIsrc d = 1 || vdOdst d = 1 || vdMsrc d = 2) && (rows > 128 || cols > 128),
    vdIsrc d = 1 && ityp > 1,
    vdMsrc d = 1 && vdMflag d + cols > 65536,
    !vdClassOk d (tyClass ityp)]

/-- The groups that a stage's operand has: columns, rows, or one. -/
def stGroups (w : W64) (rows cols : Nat) : Nat := if stSrc w = 2 ∨ stSrc w = 4 then cols else rows

/-- The checks of R203 over a QSD header. -/
def qsdBad (w : W64) (h : List W64) (rows cols : Nat) : Option Nat :=
  let n := fld (qw h 0) 32 32
  if fld (qw h 0) 0 4 ≠ 1 then some 0x50
  else if anyOf [
      res (qw h 0) 4 28, res (qw h 1) 34 30, res (qw h 4) 48 16, res (qw h 5) 32 32, qw h 6 ≠ 0, qw h 7 ≠ 0,
      n ≠ 1 && n ≠ stGroups w rows cols,
      (stQm w = 2 || stAdapt w) && (stSrc w = 3 || stSrc w = 5) && n > 16384] then some 0x51
  else none

/-! ### What the stages do (R166 to R169) -/

/-- The lanes of one row segment. -/
structure Lanes where
  c : LC
  v : List W64
  p : List Bool
  fl : List AFlags
  deriving DecidableEq, Repr

/-- The result of a float operation with its flags: an overflow of finite operands, an invalid operation. -/
def fltFlags (f : FFmt) (a b : FV) (y : Nat) : AFlags :=
  { ovf := fvFin a && fvFin b && (match FV.of f y with | .inf _ => true | _ => false)
    inv := a ≠ .nan && b ≠ .nan && f.isNan y }

/-- ADD, SUB and MUL of one lane. -/
def arith (op : Nat) (c : LC) (x y : W64) : W64 × AFlags :=
  match c with
  | .i32 =>
    let r := if op = 2 then laneInt x + laneInt y else if op = 3 then laneInt x - laneInt y else laneInt x * laneInt y
    (intLane r, { ovf := laneInt (intLane r) ≠ r })
  | _ =>
    let f := c.fmt
    let y' := if op = 3 then f.neg y.toNat else y.toNat
    let r := if op = 4 then f.mul x.toNat y.toNat else f.add x.toNat y'
    (BitVec.ofNat 64 r, fltFlags f (c.value x) (c.value y) r)

/-- SHF and LOG of one lane. -/
def bitOp (op sub : Nat) (x y : W64) : W64 :=
  let a : W32 := x.setWidth 32
  let b : W32 := y.setWidth 32
  let n := b.toNat % 32
  let r : W32 := if op = 5 then
      (match sub with | 0 => a <<< n | 1 => a >>> n | 2 => a.sshiftRight n | _ => a.rotateLeft n)
    else (match sub with | 0 => a &&& b | 1 => a ||| b | 2 => a ^^^ b | _ => a &&& ~~~b)
  r.setWidth 64

/-- SAT of one lane. -/
def satOp (sub : Nat) (c : LC) (imm : Nat) (x y : W64) : W64 × AFlags :=
  match sub with
  | 7 =>
    let f := c.fmt
    let lim := f.cvt .fp32 (FFmt.fp32.abs imm)
    let v := c.value x
    if v = .nan then (x, {})
    else if (FV.of f lim).lt v then (BitVec.ofNat 64 lim, { sat := true })
    else if v.lt (FV.of f (f.neg lim)) then (BitVec.ofNat 64 (f.neg lim), { sat := true })
    else (x, {})
  | 0 => let r := satAdd (laneInt x) (laneInt y); (intLane r.1, { sat := r.2 })
  | 1 => let r := satAdd (laneInt x) (-(laneInt y)); (intLane r.1, { sat := r.2 })
  | k =>
    let t := [5, 6, 7, 8, 9].getD (k - 2) 5
    let r := tyRange t
    let y := clampInt r.1 r.2 (laneInt x)
    (intLane y, { sat := y ≠ laneInt x })

/-- CMP of one lane. -/
def cmpOp (sub : Nat) (c : LC) (x y : W64) : Bool :=
  let (lt, eq, un) := match c with
    | .i32 => (decide (laneInt x < laneInt y), decide (laneInt x = laneInt y), false)
    | _ =>
      let a := c.value x
      let b := c.value y
      let un := a = .nan || b = .nan
      (a.lt b && !un, !a.lt b && !b.lt a && !un, un)
  match sub % 8 with
  | 0 => eq
  | 1 => !eq
  | 2 => lt
  | 3 => lt || eq
  | 4 => !lt && !eq && !un
  | _ => !lt && !un

/-- Convert a lane to an element type: the lane it leaves, the element's bits, and the flags (R169). -/
def cvtOp (c : LC) (t : Nat) (x : W64) : W64 × Nat × AFlags :=
  if tyClass t = .i32 then
    let r := tyRange t
    let v := c.value x
    if v = .nan then (0, 0, { inv := true })
    else
      let i := if c = .i32 then laneInt x else v.toInt
      let big := match v with | .inf _ => true | _ => false
      let y := match v with
        | .inf n => if n then r.1 else r.2
        | _ => clampInt r.1 r.2 i
      (intLane y, (y % 2 ^ tyBits t).toNat, { sat := big || y ≠ i })
  else
    let f := tyFloat t
    let y := if c = .i32 then f.ofInt (laneInt x) else f.cvt c.fmt x.toNat
    let ov := fvFin (c.value x) && (match FV.of f y with | .inf _ => true | _ => false)
    (BitVec.ofNat 64 ((tyClass t).fmt.cvt f y), y, { ovf := ov })

/-- The lane of class c is narrowed by type t, so that the conversion is measured (R210). -/
def narrows (c : LC) (t : Nat) : Bool :=
  match c with
  | .i32 => t ≠ 0 && t ≠ 2
  | .f32 => t ≠ 1 && t ≠ 2
  | .f64 => t ≠ 2

/-- Quantise a lane: the lane, the flags, and the value that the code stands for (R169, R210). -/
def quantOp (c : LC) (t : Nat) (zp : Int) (x : W64) (sc : FV) : W64 × AFlags × FV :=
  let v := c.value x
  let bad := v = .nan || sc = .nan || (match v, sc with
    | .inf _, .inf _ => true
    | .fin _ 0 _, .fin _ 0 _ => true
    | _, _ => false)
  let d := fun (k : Int) => match sc with
    | .fin s m e => if k = 0 then FV.fin false 0 0 else FV.fin (s != decide (k < 0)) (m * k.natAbs) e
    | .inf s => if k = 0 then .nan else .inf (s != decide (k < 0))
    | .nan => .nan
  if tyClass t = .i32 then
    let r := tyRange t
    if bad then (0, { inv := true }, d (0 - zp))
    else
      let inf := match v, sc with
        | .inf s, .fin u _ _ => some (s != u)
        | .fin s _ _, .fin u 0 _ => some (s != u)
        | _, _ => none
      match inf with
      | some n => let y := if n then r.1 else r.2; (intLane y, { sat := true }, d (y - zp))
      | none =>
        let q := (match sc with | .inf _ => 0 | _ => v.quotInt sc) + zp
        let y := clampInt r.1 r.2 q
        (intLane y, { sat := y ≠ q }, d (y - zp))
  else
    let f := tyFloat t
    let q := f.divV v sc x.toNat 0
    let y := if zp = 0 then q else f.add q (f.ofInt zp)
    let z := if zp = 0 then q else f.sub y (f.ofInt zp)
    let w := match sc, FV.of f z with
      | .fin s m e, .fin u n g => FV.fin (s != u) (m * n) (e + g)
      | _, _ => .nan
    (BitVec.ofNat 64 ((tyClass t).fmt.cvt f y),
     { ovf := fvFin v && fvFin sc && (match FV.of f y with | .inf _ => true | _ => false), inv := bad && v ≠ .nan && sc ≠ .nan }, w)

/-- PERM of a segment (R167): the source of lane v, none where it is out of range. -/
def permSrc (sub : Nat) (imm : Nat) (idx : List W64) (vl v : Nat) : Option Nat :=
  let i := codeVal 32 true imm
  match sub with
  | 0 => let s := laneInt (idx.getD v 0); if s < 0 ∨ s ≥ vl then none else some s.toNat
  | 1 => some ((((v : Int) + i) % (vl : Int)).toNat)
  | 2 => some (vl - 1 - v)
  | _ => if i < 0 ∨ i ≥ vl then none else some i.toNat

/-- Apply a stage other than DEQ, CVT and RED to a segment: `y` is the operand of each lane, `idx` that of PERM. -/
def stApply (w : W64) (y : List W64) (idx : List W64) (l : Lanes) : Lanes :=
  let n := l.v.length
  let rev := stRev w
  let two := fun (i : Nat) => if rev then (y.getD i 0, l.v.getD i 0) else (l.v.getD i 0, y.getD i 0)
  let put := fun (f : Nat → W64 × AFlags) =>
    let r := (List.range n).map f
    { l with v := r.map (·.1), fl := List.zipWith AFlags.or l.fl (r.map (·.2)) }
  match stOp w with
  | 5 => put (fun i => (bitOp 5 (stSub w) (two i).1 (two i).2, {}))
  | 6 => put (fun i => (bitOp 6 (stSub w) (two i).1 (two i).2, {}))
  | 7 => put (fun i => if stSub w < 2 then satOp (stSub w) l.c 0 (two i).1 (two i).2 else satOp (stSub w) l.c (stImm w) (l.v.getD i 0) 0)
  | 8 =>
    let p := (List.range n).map (fun i => cmpOp (stSub w) l.c (two i).1 (two i).2)
    if 8 ≤ stSub w then { l with c := .i32, p := p, v := p.map (fun x => if x then 1 else 0) } else { l with p := p }
  | 9 => put (fun i => (if l.p.getD i true = (stSub w = 0) then l.v.getD i 0 else y.getD i 0, {}))
  | 10 => put (fun i => match permSrc (stSub w) (stImm w) idx n i with
      | some s => (l.v.getD s 0, {})
      | none => (0, { oor := true }))
  | op => put (fun i => arith op l.c (two i).1 (two i).2)

end Sys2Proof.Machine
end

