-- ==== Sys2Proof/Machine/Chain.lean ====
section
/-! DEFINITION. The vector chain: acceptance (R154, R158, R164, R203), starting and its chunks (R159 to R172, R204, R205), the scales of a
first pass (R205), reductions and summaries (R172 to R174), adapted scales and reports (R212, R213), and the end (R175). -/
namespace Sys2Proof.Machine

/-! ### Acceptance -/

/-- The number of a chain operation's tile locks. -/
def ChainOp.unit (o : ChainOp) : Nat := 64 + 4 * o.id

/-- Tile buffers that an operation reads, but for one that it also writes: input and mask. -/
def vdReads (d : List W64) : List Nat :=
  (((if vdIsrc d = 1 then [vdItb d] else []) ++ (if vdMsrc d = 2 then [vdMtb d] else [])).filter
    (fun i => !(vdOdst d = 1 && vdOtb d = i))).eraseDups

/-- Ask for the tile locks of an operation, in request order (R111, R163). -/
def Blk.chainLocks (b : Blk) (c : Nat) (o : ChainOp) : Blk :=
  let now := b.time.toNat
  let b := (vdReads o.vd).foldl (fun b i => b.updTile c i (fun t => t.request o.task o.unit false now)) b
  if vdOdst o.vd = 1 then b.updTile c (vdOtb o.vd) (fun t => t.request o.task o.unit true now) else b

/-- Read and check the QSD headers that the stages from k on name (R203). -/
def Blk.qsdHeads (id ctx : Nat) (v : View) (d : List W64) (rows cols : Nat) : List Nat → Blk → Blk × Ds (List QsdUse)
  | [], b => (b, .ok [])
  | k :: l, b =>
    let w := vdStage d k
    if stQm w = 0 then Blk.qsdHeads id ctx v d rows cols l b
    else
      let va := adBase d (if stVa w then 5 else 6)
      Ds.bind (b.words (.desc id) ctx v va 8) (fun b h =>
        match qsdBad w h rows cols with
        | some st => (b, .st st)
        | none => Ds.bind (Blk.qsdHeads id ctx v d rows cols l b) (fun b us => (b, .ok ({ stage := k, va := va, hdr := h } :: us))))

/-- The VD and the QSD headers of an accepted CHAIN. -/
def Blk.chainCheck (b : Blk) (m : Cmd) (v : View) (va : Nat) : Blk × Ds (List W64 × List QsdUse) :=
  let r := Req.desc m.id
  Ds.bind (b.desc r m.ctx v va) (fun b d0 => Ds.bind (b.desc r m.ctx v (va + 64)) (fun b d1 => Ds.bind (b.desc r m.ctx v (va + 128)) (fun b d2 =>
    let d := d0 ++ d1 ++ d2
    match vdBad b.build.arrays d with
    | some st => (b, .st st)
    | none =>
      if vdIsrc d ≠ 2 && vdShapeBad d (vdRows d) (vdCols d) (vdIfmt d) then (b, .st 0x51)
      else if vdIsrc d = 2 then (b, .ok (d, []))
      else Ds.bind (Blk.qsdHeads m.id m.ctx v d (vdRows d) (vdCols d) (List.range (vdNst d)) b) (fun b us => (b, .ok (d, us))))))

/-- Summary registers that an operation will write (R174). -/
def vdSums (d : List W64) : List Nat :=
  match vdRed d with
  | some w => if stAxis w = 0 then (if stSub w = 2 then [stSreg w, stSreg w + 1] else [stSreg w]) else []
  | none => []

/-- CHAIN: a task context has at most one that waits (R164). -/
def Blk.chainOp (b : Blk) (c t rd ra : Nat) (imm : W64) (v : View) : Blk :=
  if !b.canLong c t || (b.core c).ch.any (fun o => o.task = t && !o.running) then b else
  match b.taskCmd c t, (b.task c t).freeTag with
  | some m, some tag =>
    let b := b.cleanAll c
    let va := ((b.task c t).gr ra + imm).toNat
    if va ≥ 2 ^ 57 then b.failCmd m.id 0x32
    else if va % 64 ≠ 0 then b.failCmd m.id 0x51
    else
      match b.chainCheck m v va with
      | (b, .ok (d, us)) =>
        let o : ChainOp := { id := (b.core c).nextKey, task := t, cmd := m.id, tag := tag, ctx := m.ctx, vd := d, qs := us }
        let b := b.updCore c (fun k => { k with nextKey := k.nextKey + 1, ch := k.ch ++ [o] })
        let b := b.updTask c t (fun x => { x with sPend := x.sPend ++ vdSums d })
        (b.chainLocks c o).longDone c t rd tag
      | (b, x) => b.dsFail m.id (.desc m.id) m.ctx x
  | _, _ => b

/-- CHAIN. -/
def execChain (x : Ctx) (rd ra : Greg) (imm : W64) (v : View) (s : State) : Out :=
  upd (fun b => b.chainOp x.c.val x.t.val rd.val ra.val imm v) s

/-! ### The parts of a chunk -/

/-- Change the running operation of core c. -/
def Blk.updChain (b : Blk) (c id : Nat) (f : ChainOp → ChainOp) : Blk :=
  b.updCore c (fun k => { k with ch := k.ch.map (fun o => if o.id = id then f o else o) })

/-- Chunks of a tensor (R159). -/
def chunkCount (l rows cols : Nat) : Nat :=
  if cols ≤ l then (rows + l / cols - 1) / (l / cols) else rows * ((cols + l - 1) / l)

/-- The segments of chunk k: row, first column, columns. -/
def chunkSegs (l rows cols k : Nat) : List (Nat × Nat × Nat) :=
  if cols ≤ l then
    let n := l / cols
    (List.range' (k * n) (min n (rows - k * n))).map (fun i => (i, 0, cols))
  else
    let n := (cols + l - 1) / l
    let c0 := k % n * l
    [(k / n, c0, min l (cols - c0))]

/-- n elements of a packed row in memory, from column c0. -/
def Blk.rowElems (b : Blk) (r : Req) (ctx : Nat) (v : View) (ty va c0 n : Nat) : Blk × Ds (List W64) :=
  Ds.bind (Blk.vreads r ctx v [(va + c0 * tyBits ty / 8, tyBytes ty n)] b) (fun b l => (b, .ok ((List.range n).map (tyElem ty (l.getD 0 [])))))

/-- The input lanes of a segment. -/
def Blk.segIn (b : Blk) (c : Nat) (o : ChainOp) (v : View) (i c0 n : Nat) : Blk × Ds (List W64) :=
  let d := o.vd
  match vdIsrc d with
  | 0 => b.rowElems (.chain c o.task) o.ctx v o.ityp (adBase d 2 + i * vdIstride d) c0 n
  | 1 => (b, .ok ((List.range n).map (fun j => ((b.tile c (vdItb d)).at (128 * i + c0 + j)).setWidth 64)))
  | _ =>
    match o.entry with
    | none => (b, .wait)
    | some e => (b, .ok ((List.range n).map (fun j =>
        let x := c0 + j
        let t := if x < 128 then e.lo else e.hi.getD e.lo
        ((b.tile c t).at (128 * i + x % 128)).setWidth 64)))

/-- Elements of operand vector A (else B) of a segment: those of its columns for a row vector, its row's for a column vector. -/
def Blk.segVec (b : Blk) (c : Nat) (o : ChainOp) (v : View) (isA row : Bool) (i c0 n : Nat) : Blk × Ds (List W64 × Nat) :=
  let ty := if isA then vdVafmt o.vd else vdVbfmt o.vd
  let va := adBase o.vd (if isA then 5 else 6)
  if row then Ds.bind (b.rowElems (.chain c o.task) o.ctx v ty va c0 n) (fun b l => (b, .ok (l, ty)))
  else Ds.bind (b.rowElems (.chain c o.task) o.ctx v ty va i 1) (fun b l => (b, .ok (List.replicate n (l.getD 0 0), ty)))

/-- An element of an operand vector, or a summary register, as a lane of a class: none where the spec gives no value (log entry 41). -/
def operandLane (c : LC) (ty : Nat) (x : W64) : Option W64 :=
  match c, tyClass ty with
  | .i32, .i32 => some x
  | .f32, .f32 => some x
  | .f64, .f64 => some x
  | .f64, .f32 => some (BitVec.ofNat 64 (FFmt.fp64.cvt .fp32 x.toNat))
  | _, _ => none

/-- A summary register as an operand of a lane class: none where its value does not fit the class. -/
def sumLane (c : LC) (x : W64) : Option W64 :=
  match c with
  | .f64 => some x
  | .f32 =>
    let y := FFmt.fp32.cvt .fp64 x.toNat
    if FFmt.fp64.cvt .fp32 y = x.toNat then some (BitVec.ofNat 64 y) else none
  | .i32 => if intLane x.toInt = x &&& 0xFFFFFFFF ∧ (x.setWidth 32).toInt = x.toInt then some (intLane x.toInt) else none

/-- Fill the operands that the spec leaves open with free values. -/
def Blk.fillFree (b : Blk) (l : List (Option W64)) : Blk × List W64 :=
  l.foldl (fun (s : Blk × List W64) x => match x with
    | some y => (s.1, s.2 ++ [y])
    | none => (s.1.freed, s.2 ++ [s.1.freeW])) (b, [])

/-- The second operand of a stage for the lanes of a segment, and the exact values of a scale. -/
def Blk.stOperand (b : Blk) (c : Nat) (o : ChainOp) (v : View) (k : Nat) (cl : LC) (i c0 n : Nat) : Blk × Ds (List W64 × List FV) :=
  let w := vdStage o.vd k
  let fv := fun (ty : Nat) (x : W64) => (tyClass ty).value x
  match stSrc w with
  | 0 => (b, .ok ([], []))
  | 1 =>
    let y : W64 := match cl with
      | .f64 => BitVec.ofNat 64 (FFmt.fp64.cvt .fp32 (stImm w))
      | _ => BitVec.ofNat 64 (stImm w)
    (b, .ok (List.replicate n y, List.replicate n (FV.of .fp32 (stImm w))))
  | 6 =>
    let x := o.sregs.getD (stImm w % 8) 0
    let r := b.fillFree (List.replicate n (sumLane cl x))
    (r.1, .ok (r.2, List.replicate n (FV.of .fp64 x.toNat)))
  | src =>
    if stQm w ≠ 0 then
      match o.qs.find? (fun u => u.stage = k) with
      | none => (b, .wait)
      | some u =>
        let g := fun (j : Nat) => if fld (qw u.hdr 0) 32 32 = 1 then 0 else if src = 2 ∨ src = 4 then c0 + j else i
        match u.scales with
        | some l => (b, .ok ([], (List.range n).map (fun j => FV.of .fp32 (l.getD (g j) 0).toNat)))
        | none =>
          let one := fld (qw u.hdr 0) 32 32 = 1 || src = 3 || src = 5
          Ds.bind (b.rowElems (.chain c o.task) o.ctx v 1 (u.va + 64) (if one then g 0 else c0) (if one then 1 else n)) (fun b l =>
            (b, .ok ([], (List.range n).map (fun j => FV.of .fp32 (l.getD (if one then 0 else j) 0).toNat))))
    else
      Ds.bind (b.segVec c o v (src = 2 || src = 3) (src = 2 || src = 4) i c0 n) (fun b r =>
        let z := b.fillFree (r.1.map (operandLane cl r.2))
        (z.1, .ok (z.2, r.1.map (fv r.2))))

/-- What a segment has brought: its lanes, its measured conversions by stage (the stage number 100 is the store), and the values that
reached a stage that quantises with a QSD. -/
structure Seg where
  l : Lanes
  ms : List (Nat × Nat × FV × FV) := []
  xs : List (Nat × Nat × W64) := []
  deriving Repr

/-- A lane's value as an fp64 pattern, exactly. -/
def lane64 (c : LC) (x : W64) : W64 :=
  match c with
  | .i32 => BitVec.ofNat 64 (FFmt.fp64.ofInt (laneInt x))
  | .f32 => BitVec.ofNat 64 (FFmt.fp64.cvt .fp32 x.toNat)
  | .f64 => x

/-- One stage on a segment. -/
def Blk.segStage (b : Blk) (c : Nat) (o : ChainOp) (v : View) (i c0 n k : Nat) (s : Seg) : Blk × Ds Seg :=
  let w := vdStage o.vd k
  let l := s.l
  Ds.bind (b.stOperand c o v k l.c i c0 n) (fun b y =>
    match stOp w with
    | 12 => (b, .ok s)
    | 1 =>
      let go := fun (b : Blk) (ofs : List FV) =>
        let r := (List.range n).map (fun j => BitVec.ofNat 64 (FFmt.fp32.mulAddV (y.2.getD j .nan) (l.c.value (l.v.getD j 0)) (ofs.getD j (.fin false 0 0)) 0 0))
        (b, Ds.ok { s with l := { l with c := .f32, v := r } })
      if stSub w = 1 then Ds.bind (b.segVec c o v false (stSrc w = 2) i c0 n) (fun b z => go b (z.1.map ((tyClass z.2).value)))
      else go b []
    | 11 =>
      let t := stTgt w
      if stSub w = 0 then
        let r := l.v.map (cvtOp l.c t)
        let ms := if narrows l.c t then (List.range n).map (fun j => (k, j, l.c.value (l.v.getD j 0), (tyClass t).value (r.getD j (0, 0, {})).1)) else []
        (b, .ok { s with
          l := { l with c := tyClass t, v := r.map (·.1), fl := List.zipWith AFlags.or l.fl (r.map (·.2.2)) }
          ms := s.ms ++ ms })
      else
        let found := stQm w = 2
        let r := (List.range n).map (fun j =>
          let sc := y.2.getD j .nan
          let none0 := found && (match sc with | .fin _ 0 _ => true | _ => false)
          if none0 then ((0 : W64), ({} : AFlags), FV.nan, true) else
            let q := quantOp l.c t (stZp w) (l.v.getD j 0) sc
            (q.1, q.2.1, q.2.2, false))
        let ms := ((List.range n).filter (fun j => !(r.getD j (0, {}, .nan, true)).2.2.2)).map (fun j =>
          (k, j, l.c.value (l.v.getD j 0), (r.getD j (0, {}, .nan, true)).2.2.1))
        (b, .ok { s with
          l := { l with c := tyClass t, v := r.map (·.1), fl := List.zipWith AFlags.or l.fl (r.map (·.2.1)) }
          ms := s.ms ++ ms
          xs := s.xs ++ (if stQm w ≠ 0 then (List.range n).map (fun j => (k, j, lane64 l.c (l.v.getD j 0))) else []) })
    | _ => (b, .ok { s with l := stApply w y.1 y.1 l }))

/-- The stages from k on, up to the one before `stop`. -/
def Blk.segStages (c : Nat) (o : ChainOp) (v : View) (i c0 n : Nat) : List Nat → Seg → Blk → Blk × Ds Seg
  | [], s, b => (b, .ok s)
  | k :: l, s, b => Ds.bind (b.segStage c o v i c0 n k s) (fun b s => Blk.segStages c o v i c0 n l s b)

/-- The elements of a segment that the mask selects (R168). -/
def Blk.segMask (b : Blk) (c : Nat) (o : ChainOp) (i c0 n : Nat) : List Bool :=
  match vdMsrc o.vd with
  | 0 => List.replicate n true
  | 1 => (List.range n).map (fun j => o.mask.getD (c0 + j) false)
  | _ => (List.range n).map (fun j => (b.tile c (vdMtb o.vd)).at (128 * i + c0 + j) ≠ 0)

/-- Run a segment through the stages before `stop`. -/
def Blk.segRun (b : Blk) (c : Nat) (o : ChainOp) (v : View) (i c0 n stop : Nat) : Blk × Ds Seg :=
  Ds.bind (b.segIn c o v i c0 n) (fun b x =>
    Blk.segStages c o v i c0 n (List.range stop)
      { l := { c := tyClass o.ityp, v := x, p := List.replicate n true, fl := List.replicate n {} } } b)

/-! ### Storing -/

/-- The memory writes of a row of elements of type t at an address, for the selected columns (MERGE) or all (ZERO); 4-bit elements
that share a byte with an unselected one need its old byte, which `old` gives. -/
def storeRuns (t va c0 : Nat) (bits : List Nat) (sel : List Bool) (zero : Bool) (old : Nat → Byte) : List (Nat × List Byte) :=
  let n := bits.length
  let val := fun (j : Nat) => if sel.getD j false then bits.getD j 0 else 0
  let on := fun (j : Nat) => zero || sel.getD j false
  if tyBits t = 4 then
    ((List.range (n / 2)).filter (fun k => on (2 * k) || on (2 * k + 1))).map (fun k =>
      let o := (old k).toNat
      let lo := if on (2 * k) then val (2 * k) % 16 else o % 16
      let hi := if on (2 * k + 1) then val (2 * k + 1) % 16 else o / 16
      (va + c0 / 2 + k, [BitVec.ofNat 8 (lo + 16 * hi)]))
  else
    let s := tyBits t / 8
    if (List.range n).all on then [(va + c0 * s, (List.range n).flatMap (fun j => leBytes s (val j)))]
    else ((List.range n).filter on).map (fun j => (va + (c0 + j) * s, leBytes s (val j)))

/-- Old bytes for storeRuns: read only where a 4-bit MERGE store needs them. -/
def Blk.oldBytes (b : Blk) (c : Nat) (o : ChainOp) (v : View) (va c0 n : Nat) (sel : List Bool) : Blk × Ds (List Byte) :=
  if tyBits (vdOfmt o.vd) = 4 && !vdZero o.vd && !sel.all id then
    Ds.bind (Blk.vreads (.chain c o.task) o.ctx v [(va + c0 / 2, n / 2)] b) (fun b l => (b, .ok (l.getD 0 [])))
  else (b, .ok [])

/-- Convert the lanes to OFMT (R165): element bits, flags, what is measured. -/
def storeCvt (c : LC) (t : Nat) (v : List W64) : List Nat × List AFlags × List (Nat × Nat × FV × FV) :=
  let r := v.map (cvtOp c t)
  (r.map (·.2.1), r.map (·.2.2),
   if narrows c t then (List.range v.length).map (fun j => (100, j, c.value (v.getD j 0), (tyClass t).value (r.getD j (0, 0, {})).1)) else [])

/-- What a chunk does once its lanes are known: the writes, the tile elements, the flags, the terms, the measurements. -/
structure Chunk where
  writes : List (Nat × List Byte) := []
  tile : List (Nat × W32) := []
  fl : AFlags := {}
  terms : List (Nat × W64) := []
  ms : List (Nat × Nat × FV × FV) := []
  xs : List (Nat × Nat × W64) := []
  elems : Nat := 0
  deriving Repr

/-- The output of RED is a tensor of its own. -/
def vdAxis (d : List W64) : Nat := match vdRed d with | some w => stAxis w | none => 0

/-- One segment in the pass that stores (R165 to R172). -/
def Blk.segStore (b : Blk) (c : Nat) (o : ChainOp) (v : View) (i c0 n : Nat) (z : Chunk) : Blk × Ds Chunk :=
  let d := o.vd
  Ds.bind (b.segRun c o v i c0 n (vdNst d)) (fun b s =>
    let sel := b.segMask c o i c0 n
    let stores := vdOdst d ≠ 2 && vdAxis d = 0
    let st := if stores then storeCvt s.l.c (vdOfmt d) s.l.v else ([], [], [])
    let fl := (List.range n).map (fun j => if sel.getD j false then AFlags.or (s.l.fl.getD j {}) (st.2.1.getD j {}) else {})
    let va := adBase d 4 + i * vdOstride d
    Ds.bind (if stores && vdOdst d = 0 then b.oldBytes c o v va c0 n sel else (b, .ok [])) (fun b old =>
      let ws := if stores && vdOdst d = 0 then storeRuns (vdOfmt d) va c0 st.1 sel (vdZero d) (fun k => old.getD k 0) else []
      let fp := if 2 ≤ vdFlg d then [(adBase d 7 + i * upTo 16 o.cols + c0, fl.map (fun f => BitVec.ofNat 8 f.byte))] else []
      let tl := if stores && vdOdst d = 1 then ((List.range n).filter (fun j => vdZero d || sel.getD j false)).map (fun j =>
          (128 * i + c0 + j, if sel.getD j false then BitVec.ofNat 32 (st.1.getD j 0) else (0 : W32))) else []
      let terms := match vdRed d with
        | some w => ((List.range n).filter (fun j => sel.getD j false)).map (fun j =>
            (if stAxis w = 1 then i else if stAxis w = 2 then c0 + j else 0, s.l.v.getD j 0))
        | none => []
      let keep := fun (e : Nat × Nat × FV × FV) => sel.getD e.2.1 false
      (b, .ok { z with
        writes := z.writes ++ ws ++ fp
        tile := z.tile ++ tl
        fl := fl.foldl AFlags.or z.fl
        terms := z.terms ++ terms
        ms := z.ms ++ (s.ms ++ st.2.2).filter keep
        xs := z.xs ++ (s.xs.filter (fun e => sel.getD e.2.1 false)).map (fun e =>
          let w := vdStage d e.1
          let one := (o.qs.any (fun u => u.stage = e.1 && fld (qw u.hdr 0) 32 32 = 1))
          (e.1, if one then 0 else if stSrc w = 2 ∨ stSrc w = 4 then c0 + e.2.1 else i, e.2.2))
        elems := z.elems + n })))

/-- The segments of a chunk, one after the other. -/
def Blk.segsStore (c : Nat) (o : ChainOp) (v : View) : List (Nat × Nat × Nat) → Chunk → Blk → Blk × Ds Chunk
  | [], z, b => (b, .ok z)
  | s :: l, z, b => Ds.bind (b.segStore c o v s.1 s.2.1 s.2.2 z) (fun b z => Blk.segsStore c o v l z b)

/-- The stage whose scales a first pass is to find next (R205). -/
def ChainOp.need (o : ChainOp) : Option QsdUse := o.qs.find? (fun u => stQm (vdStage o.vd u.stage) = 2 && u.scales.isNone)

/-- A chunk of a first pass: the values that reach the stage, by group. -/
def Blk.segsFirst (c : Nat) (o : ChainOp) (v : View) (u : QsdUse) : List (Nat × Nat × Nat) → List (Nat × W64) → Blk → Blk × Ds (List (Nat × W64))
  | [], z, b => (b, .ok z)
  | (i, c0, n) :: l, z, b =>
    Ds.bind (b.segRun c o v i c0 n u.stage) (fun b s =>
      let sel := b.segMask c o i c0 n
      let w := vdStage o.vd u.stage
      let g := fun (j : Nat) => if fld (qw u.hdr 0) 32 32 = 1 then 0 else if stSrc w = 2 ∨ stSrc w = 4 then c0 + j else i
      Blk.segsFirst c o v u l (z ++ ((List.range n).filter (fun j => sel.getD j false)).map (fun j => (g j, lane64 s.l.c (s.l.v.getD j 0)))) b)

/-- Raise the flags of a chunk under FLG (R170, R171). -/
def Blk.chainFlags (b : Blk) (c : Nat) (o : ChainOp) (v : Nat) : Blk :=
  if vdFlg o.vd % 2 = 0 then b
  else
    let b := b.sticky c o.task v
    let b := if v.testBit 2 then b.updCmd o.cmd (fun m => m.flag 5) else b
    if v.testBit 3 then b.updCmd o.cmd (fun m => m.flag 4) else b

/-- A read, write or operand of an operation has failed: its command ends (R175, R292). -/
def Blk.chainFail {α : Type} (b : Blk) (c : Nat) (o : ChainOp) (x : Ds α) : Blk :=
  match x with
  | .st n => b.failCmd o.cmd n
  | .xlt k va => b.xltFatal (.chain c o.task) o.ctx k (BitVec.ofNat 64 va)
  | _ => b

/-- Release what the operation read: input and mask locks, and its tile-queue entry (R163). -/
def Blk.chainReadDone (b : Blk) (c : Nat) (o : ChainOp) : Blk :=
  let b := (vdReads o.vd).foldl (fun b i => b.updTile c i (fun t => t.endRead o.task o.unit)) b
  match o.entry with
  | none => b
  | some e => (e.lo :: e.hi.toList).foldl (fun b i => b.updTile c i (fun t => if t.lock = .queued then t.release else t)) b

/-- Add the conversions of a chunk to a QSD's sums. -/
def QsdUse.add (u : QsdUse) (z : Chunk) : QsdUse :=
  let l := (z.ms.filter (fun e => e.1 = u.stage)).map (fun e => (e.2.2.1, e.2.2.2))
  let s := mseSum l (u.err, u.sig)
  let xs := (z.xs.filter (fun e => e.1 = u.stage)).map (fun e => (e.2.1, e.2.2))
  { u with err := s.1, sig := s.2, cnt := u.cnt + l.length, xs := u.xs ++ xs }

/-- The next chunk of the running operation; the flag answers whether it was done. -/
def Blk.chainChunk (b : Blk) (c : Nat) (v : View) : Blk × Bool :=
  match (b.core c).ch.find? (fun o => o.running) with
  | none => (b, false)
  | some o =>
    if o.chunks ≤ o.w then (b, false) else
    let segs := chunkSegs b.build.lanes o.rows o.cols o.w
    if o.pass1 then
      match o.need with
      | none => (b, false)
      | some u =>
        match Blk.segsFirst c o v u segs [] b with
        | (b, .ok l) =>
          (b.updChain c o.id (fun o => { o with w := o.w + 1, qs := o.qs.map (fun x => if x.stage = u.stage then { x with xs := x.xs ++ l } else x) }), true)
        | (b, x) => (b.chainFail c o x, false)
    else
      match Blk.segsStore c o v segs {} b with
      | (b, .ok z) =>
        match Blk.xlWrites (.chain c o.task) o.ctx z.writes b with
        | (b, .ok ps) =>
          let r := b.writeParts o.cmd ps
          let b := r.1
          let b := if z.tile.isEmpty then b
            else b.updTile c (vdOtb o.vd) (fun t => z.tile.foldl (fun t e => t.put e.1 e.2) { t with isInt := vdOfmt o.vd = 0 })
          let b := b.chainFlags c o z.fl.byte
          let b := b.measure o.cmd (z.ms.map (fun e => (e.2.2.1, e.2.2.2)))
          let b := b.inc (coreReg c 0x650) z.elems
          let b := if vdOdst o.vd ≠ 2 && vdAxis o.vd = 0 then b.inc (coreReg c 0x648) 1 else b
          let b := b.updChain c o.id (fun o => { o with w := o.w + 1, terms := o.terms ++ z.terms, ids := o.ids ++ r.2, qs := o.qs.map (fun u => u.add z) })
          (if o.w + 1 = o.chunks then b.chainReadDone c o else b, true)
        | (b, x) => (b.chainFail c o x, false)
      | (b, x) => (b.chainFail c o x, false)

/-- Chunks in order, n at most. -/
def Blk.chainRun : Nat → Nat → View → Blk → Blk
  | 0, _, _, b => b
  | n + 1, c, v, b =>
    match b.chainChunk c v with
    | (b, true) => Blk.chainRun n c v b
    | (b, false) => b

/-! ### Starting (R164) -/

/-- The entry that an operation with ISRC = 10b would take: the oldest of its task context (R162). -/
def Core.entryFor (k : Core) (o : ChainOp) : Option TQEntry := if vdIsrc o.vd = 2 then k.tq.find? (fun e => e.task = o.task) else none

/-- An operation's input entry and locks are available. -/
def Core.chainReady (k : Core) (o : ChainOp) : Bool :=
  let e := k.entryFor o
  let own := match e with | some e => e.lo :: e.hi.toList | none => []
  !o.running && (vdIsrc o.vd ≠ 2 || e.isSome) &&
  (vdReads o.vd).all (fun i => own.contains i || (k.tile i).holds o.task o.unit false) &&
  (vdOdst o.vd ≠ 1 || own.contains (vdOtb o.vd) || (k.tile (vdOtb o.vd)).holds o.task o.unit true)

/-- Read the current slots of the QSDs whose scales may be adapted: their operand buffers (R164, R204, R212). -/
def Blk.slotReads (c : Nat) (o : ChainOp) (v : View) : List QsdUse → Blk → Blk × Ds (List QsdUse)
  | [], b => (b, .ok [])
  | u :: l, b =>
    let n := fld (qw u.hdr 0) 32 32
    Ds.bind (if stAdapt (vdStage o.vd u.stage) then
        Ds.bind (Blk.vreads (.chain c o.task) o.ctx v [(u.va + 64, 4 * n)] b) (fun b x => (b, Ds.ok { u with scales := some (words32 n (x.getD 0 [])) }))
      else (b, .ok u)) (fun b u => Ds.bind (Blk.slotReads c o v l b) (fun b us => (b, .ok (u :: us))))

/-- Start the next ready operation in round-robin order of task context. -/
def Blk.chainPick (b : Blk) (c : Nat) (v : View) : Blk :=
  let k := b.core c
  if k.ch.any (fun o => o.running) || b.qHeld 3 c 0 then b else
  match ((List.range 4).map (fun i => (k.chRR + 1 + i) % 4)).findSome? (fun t => k.ch.find? (fun o => o.task = t && k.chainReady o)) with
  | none => b
  | some o =>
    let e := k.entryFor o
    let d := o.vd
    let (rows, cols, ty) := match e with
      | some e => (e.rows, e.cols, if e.isInt then 0 else 1)
      | none => (vdRows d, vdCols d, vdIfmt d)
    let chk := if e.isSome then
        (if vdShapeBad d rows cols ty then (b, Ds.st 0x51)
         else Blk.qsdHeads o.cmd o.ctx v d rows cols (List.range (vdNst d)) b)
      else (b, Ds.ok o.qs)
    match Ds.bind chk (fun b us => Blk.slotReads c o v us b) with
    | (b, .ok us) =>
      let own := match e with | some e => e.lo :: e.hi.toList | none => []
      let b := if vdOdst d = 1 && own.contains (vdOtb d) then
          b.updTile c (vdOtb d) (fun t => { t with lock := .exclusive, owner := o.task, unit := o.unit, waits := t.waits.filter (fun r => r.unit ≠ o.unit) })
        else b
      let b := own.foldl (fun b i => b.updTile c i (fun t => { t with waits := t.waits.filter (fun r => r.unit ≠ o.unit) })) b
      let b := if vdClrst d then b.setFld (coreReg c (0x600 + 8 * o.task)) 0 5 0 else b
      let mask := if vdMsrc d = 1 then (List.range cols).map (fun j => b.flag c o.task (vdMflag d + j)) else []
      let o2 : ChainOp := { o with
        running := true, entry := e, rows := rows, cols := cols, ityp := ty, mask := mask, qs := us
        sregs := (List.range 8).map (fun i => Tab.get 0 (b.task c o.task).s i)
        chunks := chunkCount b.build.lanes rows cols }
      b.updCore c (fun k => { k with
        chRR := o.task
        tq := match e with | some e => k.tq.erase e | none => k.tq
        ch := k.ch.map (fun x => if x.id = o.id then { o2 with pass1 := o2.need.isSome } else x) })
    | (b, x) => b.chainFail c o x

/-- CHAIN_START: an operation starts, or the one that runs goes on; its chunks are done as far as their reads have returned. -/
def execChainStart (c : Fin 8) (rd : View) (s : State) : Out :=
  upd (fun b => onlyIf (b.unitIssues c.val) (fun b =>
    let b := (b.arraySweep c.val).chainPick c.val rd
    let n := (((b.core c.val).ch.find? (fun o => o.running)).map (fun o => o.chunks - o.w)).getD 0
    b.chainRun n c.val rd) b) s

/-! ### The end of a first pass (R205) -/

/-- The scale of a group from its values. -/
def firstScale (t : Nat) (l : List W64) : W32 :=
  let f := FFmt.fp64
  if l.any (fun x => !f.isFin x.toNat) then 0x7FC00000
  else
    let m := l.foldl (fun n x => max n (f.abs x.toNat)) 0
    if m = 0 then 0
    else BitVec.ofNat 32 (FFmt.fp32.divV (FV.of f m) (fvInt (tyRange t).2) m 0)

/-- The values of group g. -/
def QsdUse.group (u : QsdUse) (g : Nat) : List W64 := (u.xs.filter (fun e => e.1 = g)).map (·.2)

/-- The bytes of fp32 scales. -/
def scaleBytes (l : List W32) : List Byte := l.flatMap (fun x => leBytes 4 x.toNat)

/-- CHAIN_PASS1_END: the scales are found and written into the current slot; the next pass begins. -/
def Blk.pass1End (b : Blk) (c : Nat) : Blk :=
  match (b.core c).ch.find? (fun o => o.running && o.pass1 && o.chunks ≤ o.w) with
  | none => b
  | some o =>
    match o.need with
    | none => b
    | some u =>
      let n := fld (qw u.hdr 0) 32 32
      let sc := (List.range n).map (fun g => firstScale (stTgt (vdStage o.vd u.stage)) (u.group g))
      match Blk.xlWrites (.chain c o.task) o.ctx [(u.va + 64, scaleBytes sc)] b with
      | (b, .ok ps) =>
        let r := b.writeParts o.cmd ps
        r.1.updChain c o.id (fun (o : ChainOp) =>
          let q : List QsdUse := o.qs.map (fun (x : QsdUse) => if x.stage = u.stage then { x with scales := some sc, xs := [] } else x)
          let o : ChainOp := { o with w := 0, ids := o.ids ++ r.2, qs := q }
          { o with pass1 := o.need.isSome })
      | (b, x) => b.chainFail c o x

/-- CHAIN_PASS1_END. -/
def execChainPass1End (c : Fin 8) (rd : View) (s : State) : Out :=
  upd (fun b => onlyIf (b.unitIssues c.val) (fun b =>
    let b := b.pass1End c.val
    let n := (((b.core c.val).ch.find? (fun o => o.running)).map (fun o => o.chunks - o.w)).getD 0
    b.chainRun n c.val rd) b) s

/-! ### Reductions (R172, R173) -/

/-- A result of a reduction: an exact integer, or a pattern of a float class. -/
inductive RedVal
  | int (i : Int)
  | flt (c : LC) (x : W64)
  deriving DecidableEq, Repr

/-- Order of R172: −0 below +0. -/
def redLess (c : LC) (x y : W64) : Bool :=
  match c with
  | .i32 => decide (laneInt x < laneInt y)
  | c =>
    let a := c.value x
    let b := c.value y
    a.lt b || (c.fmt.isZero x.toNat && c.fmt.isZero y.toNat && x ≠ y && x ≠ 0)

/-- The results of a reduction over a list of lanes: one, or mean and variance; with the saturation flag. `n` numbers the sums; a
mean or variance of integer lanes, for which the spec states no value, is the free value `free`. -/
def reduce (sub : Nat) (c : LC) (n : Nat) (free : W64) (l : List W64) : List RedVal × Bool :=
  let f := c.fmt
  let sat := fun (i : Int) => let y := clampInt (-(2 ^ 63)) (2 ^ 63 - 1) i; ([RedVal.int y], decide (y ≠ i))
  match sub with
  | 0 =>
    if c = .i32 then sat ((l.map laneInt).foldl (· + ·) 0)
    else ([.flt c (if l.isEmpty then 0 else BitVec.ofNat 64 (sumIn f n (l.map (·.toNat))))], false)
  | 1 =>
    if c = .i32 then sat ((l.map (fun x => laneInt x * laneInt x)).foldl (· + ·) 0)
    else ([.flt c (if l.isEmpty then 0 else BitVec.ofNat 64 (sumIn f n (l.map (fun x => f.mul x.toNat x.toNat))))], false)
  | 2 =>
    if l.isEmpty then ([.flt (if c = .i32 then .f64 else c) 0, .flt (if c = .i32 then .f64 else c) 0], false)
    else if c = .i32 then ([.flt .f64 free, .flt .f64 (free + 1)], false)
    else
      let a := (sumOrder n (l.map (·.toNat))).foldl (fun (a : Accu) x => a.add f 4 0 [BitVec.ofNat 64 x]) (Accu.zero 1)
      let r := a.finish f 4
      ([.flt c (r.1.getD 0 0), .flt c (r.2.getD 0 0)], false)
  | 5 => ([.int l.length], false)
  | k =>
    let max := k = 4
    if l.isEmpty then
      ([if c = .i32 then .int (if max then -(2 ^ 31) else 2 ^ 31 - 1) else .flt c (BitVec.ofNat 64 (f.infBits max))], false)
    else
      match (if c = .i32 then none else l.find? (fun x => f.isNan x.toNat)) with
      | some x => ([.flt c (BitVec.ofNat 64 (f.nanBits x.toNat 0))], false)
      | none =>
        let y := l.foldl (fun a x => if (if max then redLess c a x else redLess c x a) then x else a) (l.getD 0 0)
        ([if c = .i32 then .int (laneInt y) else .flt c y], false)

/-- The element of type t that a result is stored as, with its flags (R165, R172). -/
def RedVal.store (t : Nat) (r : RedVal) : Nat × AFlags :=
  match r with
  | .flt c x => ((cvtOp c t x).2.1, (cvtOp c t x).2.2)
  | .int i =>
    if tyClass t = .i32 then
      let g := tyRange t
      let y := clampInt g.1 g.2 i
      ((y % 2 ^ tyBits t).toNat, { sat := y ≠ i })
    else
      let f := tyFloat t
      let y := f.ofInt i
      (y, { ovf := match FV.of f y with | .inf _ => true | _ => false })

/-- The 64-bit pattern of a result in a summary register (R174). -/
def RedVal.sum (r : RedVal) : W64 :=
  match r with
  | .int i => BitVec.ofInt 64 i
  | .flt .f64 x => x
  | .flt _ x => BitVec.ofNat 64 (FFmt.fp64.cvt .fp32 x.toNat)

/-- Zero, negative and NaN of a result (R174). -/
def RedVal.bits (r : RedVal) : Bool × Bool × Bool :=
  match r with
  | .int i => (i = 0, i < 0, false)
  | .flt c x => (c.fmt.isZero x.toNat, (c.value x).lt (.fin false 0 0), c.fmt.isNan x.toNat)

/-- The output of a reduction by row or by column: its rows of elements. -/
def redRows (axis : Nat) (l : List (List RedVal)) : List (List RedVal) :=
  if axis = 1 then l
  else (List.range ((l.getD 0 []).length)).map (fun k => l.filterMap (fun r => r[k]?))

/-- The results of the operation's reduction by group, in order; the lane class that reaches it; and whether a sum saturated. -/
def Blk.redResults (b : Blk) (o : ChainOp) (w : W64) : List (List RedVal) × Bool × Bool :=
  let n := if stAxis w = 1 then o.rows else if stAxis w = 2 then o.cols else 1
  let c := (vdClass o.vd (tyClass o.ityp) (vdNst o.vd)).getD .i32
  let gs := (List.range n).map (fun g => (o.terms.filter (fun e => e.1 = g)).map (·.2))
  let rs := (List.range n).map (fun g => reduce (stSub w) c (b.free * 65536 + g) (Config.freeWord (b.free + g)) (gs.getD g []))
  (rs.map (·.1), gs.any (·.isEmpty), rs.any (·.2))

/-- The output tensor of a reduction with AXIS = 01b or 10b is stored; summaries are written when the operation ends. -/
def Blk.redStore (b : Blk) (c : Nat) (o : ChainOp) : Blk × Bool :=
  match vdRed o.vd with
  | none => (b.updChain c o.id (fun o => { o with closed := true }), true)
  | some w =>
    let d := o.vd
    let r := b.redResults o w
    let n := r.1.length
    let rows := redRows (stAxis w) r.1
    let st := rows.map (fun l => l.map (RedVal.store (vdOfmt d)))
    let fl := (st.flatMap (fun x => x)).foldl (fun (a : AFlags) e => a.or e.2) {}
    let ws := if stAxis w ≠ 0 && vdOdst d = 0 then (List.range st.length).flatMap (fun i =>
        let row := st.getD i []
        storeRuns (vdOfmt d) (adBase d 4 + i * vdOstride d) 0 (row.map (·.1)) (List.replicate row.length true) true (fun _ => 0)) else []
    match Blk.xlWrites (.chain c o.task) o.ctx ws b with
    | (b, .ok ps) =>
      let z := b.writeParts o.cmd ps
      let b := iter n (fun _ b => b.freed) z.1
      let b := if stAxis w ≠ 0 && vdOdst d = 1 then
          b.updTile c (vdOtb d) (fun t => (List.range st.length).foldl (fun t i =>
            let row := st.getD i []
            (List.range row.length).foldl (fun t j => t.put (128 * i + j) (BitVec.ofNat 32 (row.getD j (0, {})).1)) t) { t with isInt := vdOfmt d = 0 })
        else b
      let fl := if stAxis w = 0 then ({} : AFlags) else fl
      let b := b.chainFlags c o ((AFlags.or fl { sat := r.2.2 }).byte + (if r.2.1 then 16 else 0))
      let b := if stAxis w ≠ 0 then b
        else
          let vs := r.1.getD 0 []
          (List.range vs.length).foldl (fun b k =>
            let y := vs.getD k (.int 0)
            let q := stSreg w + k
            b.updTask c o.task (fun x => ({ x with s := Tab.set 0 x.s q y.sum } : Task).setSum q y.bits.1 y.bits.2.1 y.bits.2.2 r.2.1)) b
      (b.updChain c o.id (fun o => { o with closed := true, empty := r.2.1, ids := o.ids ++ z.2 }), true)
    | (b, x) => (b.chainFail c o x, false)

/-! ### Adapted scales and the report (R212, R213) -/

/-- A quotient rounded toward +∞ in fp32. -/
def divUp (a b : FV) : W32 :=
  let f := FFmt.fp32
  let y := f.divV a b 0 0
  -- the next fp32 above where rounding to nearest fell short of the quotient
  match a, b, FV.of f y with
  | .fin s m e, .fin t n g, .fin u k h =>
    let num := signed s m
    let den := signed t n
    let q := signed u k
    -- y < a / b exactly when k * 2^h * n * 2^g < m * 2^e, for positive quotients
    let lo := min e (g + h)
    if decide ((alignTo (q.natAbs * den.natAbs) (g + h) lo) < alignTo num.natAbs e lo) then BitVec.ofNat 32 (y + 1) else BitVec.ofNat 32 y
  | _, _, _ => BitVec.ofNat 32 y

/-- The adapted scale of a group (R212). -/
def adaptScale (t : Nat) (zp : Int) (l : List W64) (old : W32) : W32 :=
  let f := FFmt.fp64
  let vs := l.map (fun x => FV.of f x.toNat)
  if vs.any (· = .nan) then old
  else
    let big := vs.foldl (fun (a : Option FV) x => match a with | none => some x | some y => if y.lt x then some x else a) none
    let small := vs.foldl (fun (a : Option FV) x => match a with | none => some x | some y => if x.lt y then some x else a) none
    let r := tyRange t
    let pos := fun (x : W32) => (FV.fin false 0 0).lt (FV.of .fp32 x.toNat)
    let neg := fun (x : FV) => match x with | .fin s m e => FV.fin (!s) m e | .inf s => .inf (!s) | .nan => .nan
    let q1 := match big with | some x => if r.2 > zp then [divUp x (fvInt (r.2 - zp))] else [] | none => []
    let q2 := match small with | some x => if zp > r.1 then [divUp (neg x) (fvInt (zp - r.1))] else [] | none => []
    ((q1 ++ q2).filter pos).foldl (fun (a : Option W32) x => match a with
      | none => some x
      | some y => if (FV.of .fp32 y.toNat).lt (FV.of .fp32 x.toNat) then some x else a) none |>.getD old

/-- The ratio of two fp64 sums exceeds an fp32 threshold (R213): a threshold of 0 turns the test off. -/
def exceeds (err sig : W64) (thresh : Nat) : Bool :=
  let f := FFmt.fp64
  !FFmt.fp32.isZero thresh &&
    (let r := if f.isZero err.toNat && f.isZero sig.toNat then FV.fin false 0 0
              else if f.isZero sig.toNat then FV.inf false
              else FV.of f (f.div err.toNat sig.toNat)
     r = .nan || (FV.of .fp32 thresh).lt r)

/-- The words Q1 to Q5 that an operation writes into a QSD, and its adapted scales. -/
def qsdReport (o : ChainOp) (u : QsdUse) : List (Nat × List Byte) × Bool :=
  let w := vdStage o.vd u.stage
  let n := fld (qw u.hdr 0) 32 32
  let high := exceeds u.err u.sig (fld (qw u.hdr 1) 0 32)
  let ad := high && stAdapt w
  let q1 := fld (qw u.hdr 1) 0 32 + (if high then 2 ^ 32 else 0) + (if ad then 2 ^ 33 else 0)
  let uses := (fld (qw u.hdr 5) 0 32 + 1) % 2 ^ 32
  ([(u.va + 8, wordBytes [BitVec.ofNat 64 q1, u.err, u.sig, BitVec.ofNat 64 (u.cnt % 2 ^ 48), BitVec.ofNat 64 uses])] ++
    (if ad then [(u.va + 64 + upTo 64 (4 * n), scaleBytes ((List.range n).map (fun g =>
      adaptScale (stTgt w) (stZp w) (u.group g) ((u.scales.getD []).getD g 0))))] else []), high)

/-- Write the reports of an operation's QSDs; they pass and are acknowledged. -/
def Blk.qsdWrites (c : Nat) (o : ChainOp) : List QsdUse → Blk → Blk × Ds Unit
  | [], b => (b, .ok ())
  | u :: l, b =>
    let r := qsdReport o u
    Ds.bind (Blk.xlWrites (.chain c o.task) o.ctx r.1 b) (fun b ps =>
      let b := b.doParts (some o.cmd) ps
      let b := if r.2 then b.updCmd o.cmd (fun m => m.flag 6) else b
      Blk.qsdWrites c o l b)

/-- CHAIN_END: the last output write has been acknowledged; summaries and reports are written, the output lock is released, the tag
ends (R175). A reduction's own output is stored first. -/
def Blk.chainEnd (b : Blk) (c : Nat) : Blk :=
  match (b.core c).ch.find? (fun o => o.running && !o.pass1 && o.chunks ≤ o.w && o.park.isNone) with
  | none => b
  | some o0 =>
    match (if o0.closed then (b, true) else b.redStore c o0) with
    | (b, false) => b
    | (b, true) =>
      match (b.core c).ch.find? (fun o => o.id = o0.id) with
      | none => b
      | some o =>
        if !b.passed o.ids then b else
        match Blk.qsdWrites c o o.qs b with
        | (b, .ok ()) =>
          let b := if vdOdst o.vd = 1 then b.updTile c (vdOtb o.vd) (fun t => if t.holds o.task o.unit true then t.release else t) else b
          let b := b.inc (coreReg c 0x640) 1
          let b := (b.endTag c o.task (some o.tag)).updTask c o.task (fun x => { x with sPend := x.sPend.filter (fun k => !(vdSums o.vd).contains k) })
          b.updCore c (fun k => { k with ch := k.ch.filter (fun x => x.id ≠ o.id) })
        | (b, x) => b.chainFail c o x

/-- CHAIN_END. -/
def execChainEnd (c : Fin 8) (s : State) : Out :=
  upd (fun b => onlyIf (b.coreLive c.val && !b.coreRst c.val) (fun b => b.chainEnd c.val) b) s

end Sys2Proof.Machine
end

