-- ==== Sys2Proof/Machine/Scat.lean ====
section
/-! DEFINITION. SCAT and the update coalescer (R221 to R231, R242): the terms of an element, where its chunks are merged, the batches of
remote contributions, the dE area, and the end of the pass. -/
namespace Sys2Proof.Machine

/-! ### The coalescer and its overflow log (R228, R229) -/

/-- Sets of the coalescer. -/
def Blk.coSets (b : Blk) : Nat := 512 * max 1 b.build.coal

/-- Log entries. -/
def Blk.logSize (b : Blk) : Nat := 2 ^ clamp 10 26 (b.rf 0x60000 1 5)

/-- Base of the overflow log. -/
def Blk.logBase (b : Blk) : Nat := 4096 * b.rf 0x60008 12 30

/-- What a slice does with one chunk. -/
inductive CoRes
  | ok
  | full
  | poison
  deriving DecidableEq, Repr

/-- The entry has this key. -/
def CoEntry.is (e : CoEntry) (table row chunk tally : Nat) : Bool :=
  e.table = table && e.row = row && e.chunk = chunk && e.tally = tally

/-- Log slots that a key probes: up to 32 consecutive tags. -/
def Blk.probes (b : Blk) (table row chunk tally : Nat) : List Nat :=
  (List.range 32).map (fun i => (Config.logSet table row chunk tally + i) % b.logSize)

/-- A read of a log slot's tag or entry is poisoned (R469). -/
def Blk.logBad (b : Blk) (i : Nat) : Bool :=
  b.devBad (b.logBase + 16 * i) 16 || b.devBad (b.logBase + 16 * b.logSize + 512 * i) 512

/-- One chunk reaches its slice: it is merged, created, logged, or finds no room (R228, R229). -/
def Blk.coAdd (b : Blk) (f : FFmt) (table row chunk tally : Nat) (lanes : List W64) : Blk × CoRes :=
  match b.co.find? (fun e => e.is table row chunk tally) with
  | some e =>
    if (match e.log with | some i => b.logBad i | none => false) then (b, .poison)
    else
      let n : CoEntry := { e with lanes := zipLanes f.add e.lanes lanes, cnt := (e.cnt + 1) % 2 ^ 32 }
      let b := { b with co := b.co.map (fun (x : CoEntry) => if x.is table row chunk tally then n else x) }
      (b.inc (if e.log.isSome then 0x60110 else 0x60100) 1, .ok)
  | none =>
    let n : CoEntry := { table := table, row := row, chunk := chunk, tally := tally, lanes := lanes, cnt := 1 }
    let set := fun (t r h : Nat) => Config.coSet t r h % b.coSets
    let used := b.co.filter (fun e => e.log.isNone && set e.table e.row e.chunk = set table row chunk)
    if used.length < 16 then (({ b with co := b.co ++ [n] } : Blk).inc 0x60108 1, .ok)
    else if !b.rb 0x60000 0 then (b, .full)
    else
      let ps := b.probes table row chunk tally
      match ps.find? (fun i => !b.co.any (fun e => e.log = some i)) with
      | none => (b, if ps.any b.logBad then .poison else .full)
      | some i =>
        if (ps.takeWhile (· ≠ i)).any b.logBad || b.logBad i then (b, .poison)
        else (({ b with co := b.co ++ [{ n with log := some i }] } : Blk).inc 0x60110 1, .ok)

/-- Cut lanes into chunks of n. -/
def chunkLanes (n : Nat) : Nat → List W64 → List (List W64)
  | 0, _ => []
  | k + 1, l => if l.isEmpty then [] else l.take n :: chunkLanes n k (l.drop n)

/-- Lanes of an entry. -/
def TableCopy.coLanes (t : TableCopy) : Nat := if t.fp64 then 64 else 128

/-- Merge the chunks of a contribution: all of them, or none where one finds no room. -/
def Blk.coMerge (tab : TableCopy) (tally : Nat) : List (Nat × Nat × List W64) → Blk → Blk × CoRes
  | [], b => (b, .ok)
  | (row, h, l) :: t, b =>
    match b.coAdd tab.acc tab.num row h tally l with
    | (b, .ok) => Blk.coMerge tab tally t b
    | x => x

/-- The chunks of a term for the rows of an element. -/
def TableCopy.coChunks (t : TableCopy) (rows : List Nat) (lanes : List W64) : List (Nat × Nat × List W64) :=
  let cs := chunkLanes t.coLanes (lanes.length + 1) lanes
  rows.flatMap (fun r => (List.range cs.length).map (fun h => (r, h, cs.getD h [])))

/-- A fence applies the entries of a tally: new contributions to it wait (R233). -/
def Blk.applying (b : Blk) (tally : Nat) : Bool :=
  b.fences.any (fun f => (f.phase = .apply || f.phase = .done) && fld (qw f.fd 0) 8 8 = tally)

/-! ### Terms (R224) -/

/-- The term of an element of weight w in a bag of count n. -/
def scTerm (f : FFmt) (mode : Nat) (wen : Bool) (n : Nat) (w : W64) (g : List W64) : List W64 :=
  match mode with
  | 1 => g.map (fun x => BitVec.ofNat 64 (divInt f x.toNat n))
  | 2 => g.map (fun x => BitVec.ofNat 64 (f.mul w.toNat x.toNat))
  | 3 => if wen then g.map (fun x => BitVec.ofNat 64 (f.mul w.toNat x.toNat)) else g
  | _ => g

/-- Lanes of a gradient's bytes. -/
def accLanes (f : FFmt) (n : Nat) (l : List Byte) : List W64 :=
  (List.range n).map (fun i => BitVec.ofNat 64 (leNat ((l.drop (f.size * i)).take f.size)))

/-- Insert an element in ordinal order. -/
def insElem (x : Elem) : List Elem → List Elem
  | [] => [x]
  | y :: t => if x.ord < y.ord then x :: y :: t else y :: insElem x t

/-- What trying an element answers: something happened, it waits, or no later one may go either. -/
inductive ScMove
  | moved
  | skip
  | stop
  deriving DecidableEq, Repr

/-- Contributions of an element (R223). -/
def Elem.contribs (x : Elem) : Nat :=
  match x.kind with
  | .pair _ _ => 2
  | _ => 1

/-- The element leaves `ready`. -/
def Blk.unready (b : Blk) (c q : Nat) (x : Elem) : Blk :=
  b.updSq c q (fun s => { s with ready := s.ready.filter (fun y => y.ord ≠ x.ord) })

/-- The element sends nothing: its contributions are null (R224). -/
def Blk.scatNull (b : Blk) (c q : Nat) (x : Elem) (k : Nat) : Blk :=
  ((b.unready c q x).scNull c q x.contribs).deliver c q x.ord k none

/-- The gradient of a bag, or the vector of an element, has been read. -/
def Blk.scatHave (b : Blk) (c q key : Nat) (g : List W64) : Blk :=
  let s := b.sq c q
  if s.tab.compact then
    (b.updSq c q (fun s => { s with
      grads := s.grads ++ [(key, 0, [])], gasked := key :: s.gasked
      gvecs := if s.de then s.gvecs ++ [(key, g)] else s.gvecs })).updCore c (fun y => { y with
        feed := y.feed ++ [{ q := q, bag := key, v := g }]
        feedFrom := if y.feed.all (·.sent) then b.time.toNat else y.feedFrom })
  else b.updSq c q (fun s => { s with grads := s.grads ++ [(key, 0, g)] })

/-- A poisoned gradient fails its bag; a poisoned vector its element (R224). -/
def Blk.scatPoison (b : Blk) (c q : Nat) (x : Elem) (k : Nat) : Blk :=
  let s := b.sq c q
  if s.elemMode then
    let pl := match b.cmd s.owner with | some m => (m.ring, m.pos) | none => (0, 0)
    ((b.meet s.owner 0x40).event 0x20 pl.1 c s.ownerTask
      [BitVec.ofNat 64 (s.tab.num + (pl.2 % 65536) <<< 16), 0xFFFFFFFFFFFFFFFF, BitVec.ofNat 64 x.ord]).scatNull c q x k
  else b.failBag c q k 0x40 0xFFFFFFFFFFFFFFFF

/-- Read the gradient that an element needs (R221). A tile buffer of integers holds no gradient: its lanes are free values. -/
def Blk.scatAsk (b : Blk) (c q : Nat) (rd : View) (x : Elem) (k key : Nat) : Blk × ScMove :=
  let s := b.sq c q
  match s.gtb with
  | some i =>
    let t := b.tile c i
    if !t.holds s.ownerTask (8 + q) false then (b, .skip)
    else if t.isInt then
      ((b.scatHave c q key ((List.range s.tab.d).map (fun j => (Config.undefined b.free j).setWidth 32 |>.setWidth 64))).freed, .moved)
    else (b.scatHave c q key ((List.range s.tab.d).map (fun j => (t.at (128 * key + j)).setWidth 64)), .moved)
  | none =>
    let va := scGbase s.cons.d + key * scGstride s.cons.d
    match b.vread (.grad c q key) s.ctx rd va (s.tab.d * s.fmt.size) with
    | (b, .wait) => (b, .skip)
    | (b, .fail n) => (b.xltFatal (.grad c q key) s.ctx n (BitVec.ofNat 64 va), .stop)
    | (b, .poison) => (b.scatPoison c q x k, .moved)
    | (b, .bytes l) =>
      let conf := b.confSpan (.grad c q key) s.ctx va (s.tab.d * s.fmt.size)
      ((b.updSq c q (fun s => { s with cgrad := if conf then key :: s.cgrad else s.cgrad })).scatHave c q key (accLanes s.fmt s.tab.d l), .moved)

/-! ### Remote contributions (R230, R398) -/

/-- Lanes of a gradient on its way to an owner. -/
def SQ.glanes (s : SQ) : Nat := s.tab.n

/-- The gradient held under a key, with its count. -/
def SQ.grad (s : SQ) (key : Nat) : List W64 :=
  match s.grads.find? (fun g => g.1 = key) with
  | some g => g.2.2
  | none => []

/-- Body of an RGRAD: for each bag its count and gradient, then the lengths, indices and weights. -/
def SQ.gradBody (s : SQ) (bags : List (Nat × List (Nat × Nat × Nat × W64))) : List Byte :=
  bags.flatMap (fun g =>
    leBytes 8 (if s.elemMode then 1 else Tab.get 0 s.terms g.1) ++
      pad8 ((s.grad g.1).flatMap (fun x => leBytes s.fmt.size x.toNat))) ++ s.idxArrays bags

/-- Send the bag gradients that wait for a node; bytes from a confidential page make the RGRAD confidential (R408). -/
def Blk.sendGrads (b : Blk) (c q node : Nat) : Blk :=
  let s := b.sq c q
  match s.gbatch.find? (fun x => x.node = node) with
  | none => b
  | some x =>
    let bags := batchBags x.elems
    let es := bags.flatMap (·.2)
    let body := s.gradBody bags
    let b := b.updSq c q (fun s => { s with
      gbatch := s.gbatch.filter (fun y => y.node ≠ node)
      sent := Tab.upd 0 s.sent node (· + es.length) })
    match b.lxRequest (some s.owner) (.rgrad c q node es.length (es.map (fun e => (e.1, e.2.1)))) node 4
        (s.poolHi x.rwin s.mode (es.map (·.2.2.1)) + s.tally <<< 19)
        (BitVec.ofNat 64 (bags.length + es.length <<< 8) :: bytesWords body.length body)
        (es.any (fun e => s.cord.contains e.1) || bags.any (fun g => s.cgrad.contains g.1)) with
    | (b, .sent) => b
    | (b, .noRoute) => b.failCmd s.owner 0x60
    | (b, .notPermitted) => b.failCmd s.owner 0x32

/-- An element joins the batch of its owner; one that is full, or could not take the element's bag, is sent first. -/
def Blk.gradAdd (b : Blk) (c q node rwin : Nat) (e : Nat × Nat × Nat × W64) : Blk :=
  let s := b.sq c q
  let room := fun (x : Batch) =>
    let bs := batchBags x.elems
    decide (x.elems.length < 256) &&
    (bs.any (fun g => g.1 = e.2.1) || decide (bs.length < 64 ∧ (bs.length + 1) * (16 + s.glanes * s.fmt.size) ≤ 61000))
  let b := match s.gbatch.find? (fun x => x.node = node) with
    | some x => if room x then b else b.sendGrads c q node
    | none => b
  b.updSq c q (fun s => { s with gbatch := match s.gbatch.find? (fun x => x.node = node) with
    | some x => s.gbatch.map (fun y => if y.node = node then { x with elems := x.elems ++ [e] } else y)
    | none => s.gbatch ++ [{ node := node, rwin := rwin, first := b.time.toNat, elems := [e] }] })

/-! ### Elements -/

/-- A contribution has been merged, or its RGRAD acknowledged: with DE = 1 the element's code row is fetched next (R226), else it
is delivered. -/
def Blk.scatSettled (b : Blk) (c q : Nat) (x : Elem) (k : Nat) : Blk :=
  let s := b.sq c q
  if s.de && !s.hasFailed k then b.updSq c q (fun s => { s with flight := s.flight.filter (fun y => y.ord ≠ x.ord), buf := insElem x s.buf })
  else b.deliver c q x.ord k none

/-- The rows of this chip that an element's term goes to. -/
def EKind.ownRows (k : EKind) : List Nat :=
  match k with
  | .row i => [i]
  | .pair i j => [i, j]
  | _ => []

/-- Merge the contributions of an element whose row this chip owns. -/
def Blk.scatLocal (b : Blk) (c q : Nat) (x : Elem) (k n : Nat) (g : List W64) : Blk × ScMove :=
  let s := b.sq c q
  if b.applying s.tally then (b, .stop)
  else
    let t := scTerm s.fmt s.mode (sdWen s.sd) n x.wt g
    match Blk.coMerge s.tab s.tally (s.tab.coChunks x.kind.ownRows t) b with
    | (_, .full) => ({ b with stalled := if b.stalled.contains (c, q) then b.stalled else (c, q) :: b.stalled }, .stop)
    | (_, .poison) => (b.blockFatal 0x11, .stop)
    | (b, .ok) =>
      let b := if s.srv then b.tallyAdd s.tally x.contribs 0 else b
      let b := { b with stalled := b.stalled.filter (fun e => e ≠ (c, q)) }
      let b := (b.unready c q x).updSq c q (fun s => { s with counted := s.counted + x.contribs
                                                              grads := if s.elemMode && !s.srv then s.grads.filter (fun e => e.1 ≠ x.ord) else s.grads })
      (b.scatSettled c q x k, .moved)

/-- Try one resolved element of a SCAT (R223, R224, R230). -/
def Blk.scatElem (b : Blk) (c q : Nat) (rd : View) (x : Elem) : Blk × ScMove :=
  let s := b.sq c q
  match s.bagOf x.ord with
  | none => (b, .stop)
  | some k =>
    if s.hasFailed k then (b.scatNull c q x k, .moved)
    else if s.w + 8192 ≤ x.ord || s.bw + 8192 ≤ k then (b, .stop)
    else
      let single := s.elemMode && !s.srv
      let key := if single then x.ord else k
      match s.grads.find? (fun e => e.1 = key) with
      | none => b.scatAsk c q rd x k key
      | some (_, n0, g) =>
        if g.isEmpty then (b, .skip)
        else
          let all := s.srv || single || decide (s.stop k ≤ s.nextRes)
          let n := if s.srv then n0 else Tab.get 0 s.terms k
          match x.kind with
          | .remote node rwin own =>
            if !all then (b, .skip)
            else
              let b := (b.unready c q x).updSq c q (fun s => { s with flight := s.flight ++ [x] })
              (b.gradAdd c q node rwin (x.ord, key, own, x.wt), .moved)
          | _ => if s.mode = 1 && !all then (b, .skip) else b.scatLocal c q x k n g

/-- Try the resolved elements in order until one moves. -/
def Blk.scatTry (c q : Nat) (rd : View) : List Elem → Blk → Blk × Bool
  | [], b => (b, false)
  | x :: l, b =>
    match b.scatElem c q rd x with
    | (b, .moved) => (b, true)
    | (b, .skip) => Blk.scatTry c q rd l b
    | (b, .stop) => (b, false)

/-! ### The end of the pass (R226, R227, R231) -/

/-- Add the collected dE to its area with fp32 adds at the memory port; the flag answers whether it is done. -/
def Blk.deAdd (b : Blk) (c q : Nat) : Blk × Bool :=
  let s := b.sq c q
  let t := s.tab
  let base := fld (qw t.opb 4) 0 57
  match Blk.xlWrites (.grad c q 0) s.ctx ((List.range t.r).map (fun k => (base + k * upTo 64 (4 * t.d), List.replicate (4 * t.d) 0))) b with
  | (b, .wait) => (b, false)
  | (b, .st n) => (b.failCmd s.owner n, false)
  | (b, .xlt k va) => (b.xltFatal (.grad c q 0) s.ctx k (BitVec.ofNat 64 va), false)
  | (b, .ok ps) =>
    if ps.any (fun p => !p.t.dev || 3 ≤ tierOf p.pa) then (b.failCmd s.owner 0x32, false)
    else
      ((ps.foldl (fun (a : Blk × Nat) p =>
        let old := words32 (p.bytes.length / 4) (a.1.devRead p.t.cr p.pa p.bytes.length)
        let new := (List.range old.length).map (fun i =>
          FFmt.fp32.add (old.getD i 0).toNat (Tab.get 0 s.dacc (a.2 + i)).toNat)
        (a.1.passWrite p.t.cr p.pa (new.flatMap (leBytes 4)), a.2 + old.length)) (b, 0)).1, true)

/-- Every batch of dE has been accumulated. -/
def Blk.deDrained (b : Blk) (c q : Nat) : Bool :=
  (b.sq c q).dePairs.isEmpty && !(b.core c).iq.any (fun a => a.kind = .grad q && !a.done) && (b.sq c q).flight.isEmpty

/-- Nodes of a shard map, entry by entry; n entries at most. -/
def Blk.shardNodes (c q : Nat) (t : TableCopy) (rd : View) : Nat → Blk → Blk × Ds (List Nat)
  | 0, b => (b, .ok [])
  | n + 1, b =>
    Ds.bind (b.shardEntry c q t rd n) (fun b d => Ds.bind (Blk.shardNodes c q t rd n b) (fun b l => (b, .ok (l ++ [entNode d n]))))

/-- Signal the owners of a sharded table (R231). -/
def Blk.signalOwners (b : Blk) (c q : Nat) (nodes : List Nat) : Blk :=
  let s := b.sq c q
  (nodes.eraseDups.filter (· ≠ b.node)).foldl (fun b n =>
    match b.lxRequest (some s.owner) (.rsig s.owner) n 5 (scAnchor s.cons.d) [BitVec.ofNat 64 (2 ^ 32 + Tab.get 0 s.sent n)] false with
    | (b, .sent) => b
    | (b, .noRoute) => b.failCmd s.owner 0x60
    | (b, .notPermitted) => b.failCmd s.owner 0x32) b

/-- A pass with a SCAT ends once everything it sent is merged, null or acknowledged and its dE is added. -/
def Blk.scatEnd (b : Blk) (c q : Nat) (rd : View) : Blk :=
  let s := b.sq c q
  if s.st ≠ .active || s.ended || !s.cons.isScat || s.w < s.elems || s.bw < s.nb || !s.ready.isEmpty || !s.gbatch.isEmpty ||
     !s.batches.isEmpty || (s.de && !b.deDrained c q) then b
  else
    match (if scRsig s.cons.d && s.tab.sharded && !s.srv then Blk.shardNodes c q s.tab rd s.tab.nshard b else (b, .ok [])) with
    | (b, .wait) => b
    | (b, .st n) => b.failCmd s.owner n
    | (b, .xlt k va) => b.xltFatal (.idx c q (va / 64)) s.ctx k (BitVec.ofNat 64 va)
    | (b, .ok nodes) =>
      match (if s.de then b.deAdd c q else (b, true)) with
      | (b, false) => b
      | (b, true) =>
        let b := b.signalOwners c q nodes
        let b := if s.srv then b.updCmd s.owner (fun m => { m with applied := s.counted + s.nulls }) else b
        if (b.sq c q).ended then b else (b.scEnd c q).leavePass c q false

/-- Key under which an element's gradient is held. -/
def SQ.gradKey (s : SQ) (x : Elem) : Nat := if s.elemMode && !s.srv then x.ord else (s.bagOf x.ord).getD 0

/-- The element's gradient has been read and its contribution can go. -/
def SQ.scatCan (s : SQ) (x : Elem) : Bool :=
  let k := (s.bagOf x.ord).getD 0
  let all := s.srv || s.elemMode || decide (s.stop k ≤ s.nextRes)
  !(s.grad (s.gradKey x)).isEmpty && (if x.kind.isRemote then all else s.mode ≠ 1 || all)

/-- A SCAT pass is parking: what had been read or asked for before the fault goes on to its end (R289). -/
def Blk.scatParking (b : Blk) (c q : Nat) (rd : View) : Blk :=
  let s := b.sq c q
  let before := s.ready.takeWhile (fun x => !b.inFault (.grad c q (s.gradKey x)))
  let l := s.ready.filter (fun x => s.scatCan x || before.contains x)
  match Blk.scatTry c q rd l b with
  | (b, true) => b
  | (b, false) =>
    match (b.sq c q).gbatch with
    | x :: _ => b.sendGrads c q x.node
    | [] => b

/-- CONTRIBUTION_MERGE (R228): the next contribution of a SCAT pass that can go reaches its slice, or what it needs is read; where none
can, a waiting batch of remote contributions is sent, or the pass ends. -/
def Blk.contribution (b : Blk) (c q : Nat) (parity : Bool) (rd : View) : Blk :=
  let s := b.sq c q
  if !b.live || !b.coreOk c || !s.cons.isScat then b
  else if parity && b.co.any (fun e => e.log.isNone) then b.blockFatal 0x10
  else if s.ended || !b.unitIssues c then b
  else if s.st = .parked && !s.belayed then b.scatParking c q rd
  else if s.st ≠ .active then b
  else
    let b := b.pass c q rd
    match Blk.scatTry c q rd (b.sq c q).ready b with
    | (b, true) => b.scatEnd c q rd
    | (b, false) =>
      match (b.sq c q).gbatch with
      | x :: _ => b.sendGrads c q x.node
      | [] => b.scatEnd c q rd

/-- CONTRIBUTION_MERGE. -/
def execContributionMerge (c : Fin 8) (q : Fin 20) (parity : Bool) (rd : View) (s : State) : Out :=
  upd (fun b => b.contribution c.val q.val parity rd) s

/-! ### The SCAT operation -/

/-- The checks of an SCD against a stream (R222); with DE = 1 the optimiser parameter block is read for its dE area. -/
def Blk.scFits (b : Blk) (m : Cmd) (v : View) (d sd : List W64) (t : TableCopy) : Blk × Ds (List W64) :=
  match scdBad b d sd t with
  | some st => (b, .st st)
  | none => if scDe d then b.desc (.desc m.id) m.ctx v t.optptr else (b, .ok [])

/-- The checks of a SCAT against the stream of its queue (R222). -/
def Blk.scCheck (b : Blk) (m : Cmd) (c : Nat) (v : View) (d : List W64) : Blk × Ds (List W64) :=
  let s := b.sq c (pdQueue d)
  if fld (qw d 0) 0 4 ≠ 1 then (b, .st 0x50)
  else if s.st = .free then (b, .st 0x53)
  else b.scFits m v d s.sd s.tab

/-- SCAT (R221). -/
def Blk.scatOp (b : Blk) (c t rd ra : Nat) (imm : W64) (v : View) : Blk :=
  b.longOp c t ra imm v (fun b m d => b.scCheck m c v d)
    (fun b m tag d opb =>
      match b.bindCons c (pdQueue d) (.scat d m.id t (some tag)) with
      | (b, true) => (b.updSq c (pdQueue d) (fun s => { s with tab := { s.tab with opb := opb } })).longDone c t rd tag
      | (b, false) => b)

/-- SCAT. -/
def execScat (x : Ctx) (rd ra : Greg) (imm : W64) (v : View) (s : State) : Out :=
  upd (fun b => b.scatOp x.c.val x.t.val rd.val ra.val imm v) s

end Sys2Proof.Machine
end

