-- ==== Sys2Proof/Machine/Optim.lean ====
section
/-! DEFINITION. The optimiser parameter block (R238), the update of a row (R239), and the encoding of rows and of E with their rounding
(R206 to R208, R240). Values are bit patterns of the update's format. -/
namespace Sys2Proof.Machine

/-! ### The optimiser parameter block (R238) -/

/-- OPT. -/
def opOpt (d : List W64) : Nat := fld (qw d 0) 4 3
/-- WD. -/
def opWd (d : List W64) : Nat := fld (qw d 0) 7 2
/-- CLIP. -/
def opClip (d : List W64) : Bool := bit (qw d 0) 9
/-- SR. -/
def opSr (d : List W64) : Bool := bit (qw d 0) 10
/-- An address of words Q4 to Q6: DEBASE, ESBASE, EMBASE. -/
def opAddr (d : List W64) (i : Nat) : Nat := fld (qw d i) 0 57

/-- The state planes of the TX match OPT. -/
def planesOk (d : List W64) (t : TableCopy) : Bool :=
  match opOpt d with
  | 0 => t.sfmt 0 = 0
  | 5 => t.sfmt 0 = 0 && opWd d = 0 && !opClip d
  | 2 => t.sfmt 0 ≠ 0 && t.sfmt 1 = 0 && t.srow 0
  | 4 => t.sfmt 0 ≠ 0 && t.sfmt 1 ≠ 0 && !t.srow 0 && !t.srow 1
  | _ => t.sfmt 0 ≠ 0 && t.sfmt 1 = 0 && !t.srow 0

/-- The checks of R238. -/
def opbBad (d : List W64) (t : TableCopy) : Option Nat :=
  if fld (qw d 0) 0 4 ≠ 1 then some 0x50
  else if anyOf [
      opOpt d ≥ 6, opWd d = 3, res (qw d 0) 11 53, res (qw d 3) 32 32, res (qw d 4) 57 7, res (qw d 5) 57 7, res (qw d 6) 57 7,
      qw d 7 ≠ 0, !planesOk d t,
      t.compact && opAddr d 4 = 0,
      !t.compact && (opAddr d 4 ≠ 0 || opAddr d 5 ≠ 0 || opAddr d 6 ≠ 0),
      t.compact && (opOpt d = 0 || opOpt d = 5) && opAddr d 5 ≠ 0] then some 0x51
  else none

/-! ### The update (R239) -/

/-- 1 - B^n of an exact real value, rounded once. -/
def oneMinusPow (f : FFmt) (b n : Nat) : Nat :=
  match FV.of .fp32 b with
  | .nan => f.nanBits b n
  | .inf s => if n = 0 then 0 else f.infBits (!(s && n % 2 = 1))
  | .fin s m e =>
    let x : Int := signed (s && n % 2 = 1) ((m ^ n : Nat) : Int)
    if 0 ≤ e then f.ofDyadic (1 - x * (2 : Int) ^ (e.toNat * n)) 0 false
    else f.ofDyadic ((2 : Int) ^ ((-e).toNat * n) - x) (e * n) false

/-- What an update leaves: values and the two states. -/
structure Upd where
  w : List Nat
  s0 : List Nat
  s1 : List Nat
  deriving DecidableEq, Repr

/-- One row's update: format, parameter block, learning rate, gradient multiplier, step, number of the sums, coalesced lanes, values and
states. -/
def optUpdate (f : FFmt) (d : List W64) (lr gs step n : Nat) (gg w s0 s1 : List Nat) : Upd :=
  let p := fun (i lo : Nat) => f.cvt .fp32 (fld (qw d i) lo 32)
  let one := f.ofInt 1
  let b1 := p 1 0
  let b2 := p 1 32
  let eps := p 2 0
  let lam := p 2 32
  let lr := f.cvt .fp32 lr
  let g := gg.map (fun x => f.mul (f.cvt .fp32 gs) x)
  let sq := fun (l : List Nat) => l.map (fun x => f.mul x x)
  let g := if opClip d then
      let nrm := f.sqrt (sumIn f (2 * n) (sq g))
      if f.lt (p 3 0) nrm then (let r := f.div (p 3 0) nrm; g.map (fun x => f.mul x r)) else g
    else g
  let g := if opWd d = 1 then List.zipWith (fun x y => f.add x (f.mul lam y)) g w else g
  let fin := fun (step : List Nat) (s0 s1 : List Nat) =>
    let w2 := List.zipWith (fun x y => f.sub x (f.mul lr y)) w step
    let w3 := if opWd d = 2 then List.zipWith (fun x y => f.sub x (f.mul (f.mul lr lam) y)) w2 w else w2
    ({ w := w3, s0 := s0, s1 := s1 } : Upd)
  match opOpt d with
  | 0 => fin g s0 s1
  | 1 =>
    let v := List.zipWith (fun x y => f.add (f.mul b1 x) y) s0 g
    fin v v s1
  | 2 =>
    let v := f.add (s0.getD 0 0) (f.div (sumIn f (2 * n + 1) (sq g)) (f.ofInt w.length))
    fin (g.map (fun x => f.div x (f.add (f.sqrt v) eps))) [v] s1
  | 3 =>
    let v := List.zipWith f.add s0 (sq g)
    fin (List.zipWith (fun x y => f.div x (f.add (f.sqrt y) eps)) g v) v s1
  | 4 =>
    let v := List.zipWith (fun x y => f.add (f.mul b1 x) (f.mul (f.sub one b1) y)) s0 g
    let u := List.zipWith (fun x y => f.add (f.mul b2 x) (f.mul (f.mul (f.sub one b2) y) y)) s1 g
    let c1 := oneMinusPow f (fld (qw d 1) 0 32) step
    let c2 := oneMinusPow f (fld (qw d 1) 32 32) step
    fin (List.zipWith (fun x y => f.div (f.div x c1) (f.add (f.sqrt (f.div y c2)) eps)) v u) v u
  | _ => { w := List.zipWith f.add w g, s0 := s0, s1 := s1 }

/-! ### Directed and stochastic rounding (R206, R208) -/

end Sys2Proof.Machine

namespace Sys2Proof

/-- The next pattern above or below. -/
def FFmt.step (f : FFmt) (up : Bool) (x : Nat) : Nat :=
  let s := 2 ^ (f.eb + f.mb)
  if f.abs x = 0 then (if up then 1 else s + 1)
  else if decide (x < s) == up then x + 1 else x - 1

/-- A value rounded toward +inf (up) or -inf. -/
def FFmt.toward (f : FFmt) (up : Bool) (v : FV) : Nat :=
  let r := f.cvtV v 0
  if up && (FV.of f r).lt v then f.step true r
  else if !up && v.lt (FV.of f r) then f.step false r
  else r

/-- Floor of a finite value. -/
def FV.floor (v : FV) : Int :=
  match v with
  | .fin s m e => if 0 ≤ e then signed s (m <<< e.toNat : Nat) else (signed s (m : Nat)) / (2 : Int) ^ (-e).toNat
  | _ => 0

end Sys2Proof

namespace Sys2Proof.Machine

/-- The distance of v above lo, as a fraction of hi - lo, in 16 bits. -/
def frac16 (v lo hi : FV) : Nat :=
  match v, lo, hi with
  | .fin s m e, .fin t n g, .fin u k h =>
    let z := min e (min g h)
    let a := signed s (alignTo m e z)
    let b := signed t (alignTo n g z)
    let c := signed u (alignTo k h z)
    if c ≤ b then 0 else ((a - b) * 65536 / (c - b)).toNat
  | _, _, _ => 0

/-- A finite value rounded to an integer, stochastically with the draw k where `sr` is set (R208); others go to a limit. -/
def rndInt (sr : Bool) (k : Nat) (lim : Int) (v : FV) : Int :=
  match v with
  | .nan => 0
  | .inf s => if s then -lim else lim
  | .fin _ _ _ =>
    if sr then
      let lo := v.floor
      let f := frac16 v (fvInt lo) (fvInt (lo + 1))
      if k < f then lo + 1 else lo
    else v.toInt

/-- A value rounded to a floating format, stochastically where `sr` is set and it lies between two finite neighbours (R208). -/
def rndFlt (f : FFmt) (sr : Bool) (k : Nat) (v : FV) (x : Nat) : Nat :=
  let lo := f.toward false v
  let hi := f.toward true v
  if sr && fvFin v && f.isFin lo && f.isFin hi && lo ≠ hi && !(FV.of f lo = v) then
    (if k < frac16 v (FV.of f lo) (FV.of f hi) then hi else lo)
  else f.cvtV v x

/-- Draw j of the rounding of a row. -/
def drawOf (key j : Nat) : Nat := (Config.srDraw (key * 65536 + j)).toNat

/-! ### Row write-back (R206, R207) -/

/-- The largest finite value of binary16. -/
def f16max : FV := .fin false 65504 0

/-- The least and the greatest of patterns of fp32. -/
def fpMin (l : List Nat) : Nat := l.foldl (fun a x => if FFmt.fp32.lt x a then x else a) (l.headD 0)
/-- The same for the greatest. -/
def fpMax (l : List Nat) : Nat := l.foldl (fun a x => if FFmt.fp32.lt a x then x else a) (l.headD 0)

/-- Pack codes of 4 bits, the lower index in the lower half. -/
def packNib : List Nat → List Byte
  | a :: b :: t => BitVec.ofNat 8 (a + 16 * b) :: packNib t
  | [a] => [BitVec.ofNat 8 a]
  | [] => []

/-- A row written back: bytes, scale entry, the conversions, and whether the NaN rule was applied. -/
structure RowEnc where
  row : List Byte
  sc : List Byte
  ms : List (FV × FV)
  nan : Bool
  deriving DecidableEq, Repr

/-- Codes and scale entry of a quantised row (R206). -/
def encInt (t : TableCopy) (sr : Bool) (key : Nat) (x : List Nat) : List Byte × List Byte :=
  let h := FFmt.fp16
  let f := FFmt.fp32
  let small := t.fmt = 1 || t.fmt = 9
  let q : Nat := if small then 15 else 255
  let of_ := h.toward false (FV.of f (fpMin x))
  let of_ := if (FV.of h of_).lt (.fin true 65504 0) then h.cvtV (.fin true 65504 0) 0
             else if FV.lt f16max (FV.of h of_) then h.cvtV f16max 0 else of_
  let ofw := f.cvt h of_
  let span := f.sub (fpMax x) ofw
  let sc := if f.isZero span then 0 else
    let r := h.toward true (FV.of f (f.divV (.of f span) (.fin false q 0) span q))
    if FV.lt f16max (FV.of h r) then h.cvtV f16max 0 else r
  let codes := (List.range x.length).map (fun j =>
    if h.isZero sc then 0
    else (clampInt 0 q (rndInt sr (drawOf key j) q (FV.of f (f.div (f.sub (x.getD j 0) ofw) (f.cvt h sc))))).toNat)
  (if small then packNib codes else codes.map (BitVec.ofNat 8), leBytes 2 sc ++ leBytes 2 of_)

/-- Elements and scale entry of an FP8 row (R207). -/
def encFp8 (t : TableCopy) (sr : Bool) (key : Nat) (x : List Nat) : List Byte × List Byte :=
  let h := FFmt.fp16
  let f := FFmt.fp32
  let g : FFmt := if t.fmt = 2 then .e4m3 else .e5m2
  let top : Nat := if t.fmt = 2 then 448 else 57344
  let m := (x.map f.abs).foldl max 0
  let r := h.toward true (FV.of f (f.divV (.of f m) (.fin false top 0) m top))
  let sc := if m = 0 then 0 else if FV.lt f16max (FV.of h r) then h.cvtV f16max 0 else r
  let el := (List.range x.length).map (fun j =>
    if h.isZero sc then 0 else
    let v := FV.of f (f.div (x.getD j 0) (f.cvt h sc))
    let lim := fun (s : Bool) => g.cvtV (.fin s top 0) 0
    match v with
    | .inf s => lim s
    | .nan => 0
    | .fin s _ _ =>
      let y := rndFlt g sr (drawOf key j) v 0
      if g.isFin y then y else lim s)
  (el.map (BitVec.ofNat 8), leBytes 2 sc ++ [0, 0])

/-- Encode a row's updated values (R206, R207): fp32 patterns, or fp64 for FP64 tables. -/
def TableCopy.encode (t : TableCopy) (sr : Bool) (key : Nat) (x : List Nat) : RowEnc :=
  let f := FFmt.fp32
  let same := fun (g : FFmt) => x.map (fun a => (FV.of g a, FV.of g a))
  if t.fmt = 7 then { row := x.flatMap (leBytes 8), sc := [], ms := same .fp64, nan := false }
  else if t.fmt = 6 then { row := x.flatMap (leBytes 4), sc := [], ms := same f, nan := false }
  else if t.fmt = 4 || t.fmt = 5 then
    let g : FFmt := if t.fmt = 4 then .bf16 else .fp16
    let y := (List.range x.length).map (fun j => rndFlt g sr (drawOf key j) (FV.of f (x.getD j 0)) (x.getD j 0))
    { row := y.flatMap (leBytes 2), sc := [], ms := List.zipWith (fun a b => (FV.of f a, FV.of g b)) x y, nan := false }
  else if x.any (fun a => !f.isFin a) then
    { row := List.replicate t.rowBytes 0, sc := leBytes 2 0x7E00 ++ leBytes 2 0x7E00, ms := [], nan := true }
  else
    let e := if t.fmt = 2 || t.fmt = 3 then encFp8 t sr key x else encInt t sr key x
    { row := e.1, sc := e.2, nan := false
      ms := List.zipWith (fun a (b : W64) => (FV.of f a, FV.of f b.toNat)) x (t.dequant e.1 e.2) }

/-! ### E (R240) -/

/-- The values of row k of E from its bytes and the column scales. -/
def eValues (t : TableCopy) (row : List Byte) (cs : List W32) : List Nat :=
  (List.range t.d).map (fun j =>
    let x := opElem (efmtFmt t.efmt) true row j
    if t.efmt = 0 then FFmt.fp32.mul (cs.getD j 0).toNat (FFmt.fp32.ofInt x.toInt) else x.toNat)

/-- Scale of a column of E. -/
def eScale (col : List Nat) : Nat :=
  let f := FFmt.fp32
  let m := (col.map f.abs).foldl max 0
  FFmt.fp16.toward true (FV.of f (f.divV (.of f m) (.fin false 127 0) m 127))

/-- The bytes of E's rows and of its column scales from the updated values, row by row. A column with a NaN or an infinity, for which
the spec states no codes, takes free values (log entry 42). -/
def eEncode (t : TableCopy) (sr : Bool) (key free : Nat) (w : List (List Nat)) : List (List Byte) × List Byte :=
  let f := FFmt.fp32
  if t.efmt = 0 then
    let cols := (List.range t.d).map (fun j => w.map (fun r => r.getD j 0))
    let bad := cols.map (fun c => c.any (fun x => !f.isFin x))
    let sc := (List.range t.d).map (fun j => if bad.getD j false then (Config.undefined free j).toNat % 65536 else eScale (cols.getD j []))
    let code := fun (k j x : Nat) =>
      let s := sc.getD j 0
      if bad.getD j false then (Config.undefined free (65536 + 65536 * k + j)).setWidth 8
      else if FFmt.fp16.isZero s then (0 : Byte)
      else BitVec.ofInt 8 (clampInt (-127) 127 (rndInt sr (drawOf key (4096 * k + j)) 127 (FV.of f (f.div x (f.cvt .fp16 s)))))
    ((List.range w.length).map (fun k => (List.range t.d).map (fun j => code k j ((w.getD k []).getD j 0))), sc.flatMap (leBytes 2))
  else
    let g : FFmt := if t.efmt = 1 then .bf16 else .fp16
    (w.map (fun r => r.flatMap (fun x => leBytes 2 (g.cvt .fp32 x))), [])

end Sys2Proof.Machine
end

