-- ==== Sys2Proof/Machine/Fence.lean ====
section
/-! DEFINITION. Update fences (R232 to R241, R421): the fence descriptor, the phases, the application of rows, the update of E, and the
report. -/
namespace Sys2Proof.Machine

/-! ### The fence descriptor (R232) -/

/-- FORCE. -/
def fdForce (d : List W64) : Bool := bit (qw d 0) 4
/-- DROPHELD. -/
def fdDrop (d : List W64) : Bool := bit (qw d 0) 5
/-- TALLY. -/
def fdTally (d : List W64) : Nat := fld (qw d 0) 8 8
/-- Table-list entries. -/
def fdNt (d : List W64) : Nat := fld (qw d 0) 16 12 + 1
/-- NSEND. -/
def fdNsend (d : List W64) : Nat := fld (qw d 0) 32 16
/-- ANCHOR. -/
def fdAnchor (d : List W64) : Nat := fld (qw d 0) 48 15
/-- EXPLOC. -/
def fdExploc (d : List W64) : Nat := fld (qw d 1) 0 48
/-- TLIST. -/
def fdTlist (d : List W64) : Nat := fld (qw d 2) 0 57
/-- RBASE. -/
def fdRbase (d : List W64) : Nat := fld (qw d 3) 0 57

/-- The checks of the FD. -/
def fdBad (d : List W64) : Option Nat :=
  if fld (qw d 0) 0 4 ≠ 1 then some 0x50
  else if anyOf [
      res (qw d 0) 6 2, res (qw d 0) 28 4, bit (qw d 0) 63, res (qw d 1) 48 16, res (qw d 2) 57 7, res (qw d 3) 57 7,
      qw d 4 ≠ 0, qw d 5 ≠ 0, qw d 6 ≠ 0, qw d 7 ≠ 0, fdNsend d = 0 && fdAnchor d ≠ 0,
      fdTlist d % 16 ≠ 0, fdRbase d % 64 ≠ 0] then some 0x51
  else none

/-- The table of a list entry. -/
def leTable (e : List W64) : Nat := fld (qw e 0) 0 16
/-- LR of a list entry. -/
def leLr (e : List W64) : Nat := fld (qw e 0) 32 32
/-- STEP of a list entry. -/
def leStep (e : List W64) : Nat := fld (qw e 1) 0 32
/-- GSCALE of a list entry. -/
def leGscale (e : List W64) : Nat := fld (qw e 1) 32 32

/-- Check the listed tables and hold their copies with their parameter blocks. -/
def Blk.fenceTabs (id : Nat) (v : View) : List (List W64) → List Nat → Blk → Blk × Ds (List TableCopy)
  | [], _, b => (b, .ok [])
  | e :: l, seen, b =>
    if res (qw e 0) 16 16 || seen.contains (leTable e) then (b, .st 0x51)
    else
      Ds.bind (b.table id v (leTable e)) (fun b t =>
        if !t.train then (b, .st 0x51)
        else
          Ds.bind (b.desc (.desc id) t.ctx v t.optptr) (fun b o =>
            match opbBad o t with
            | some st => (b, .st st)
            | none => Ds.bind (Blk.fenceTabs id v l (leTable e :: seen) b) (fun b ts => (b, .ok ({ t with opb := o } :: ts)))))

/-- Everything a fence checks when it starts (R232). -/
def Blk.fenceCheck (b : Blk) (m : Cmd) (v : View) (d : List W64) : Blk × Ds (List (List W64) × List TableCopy) :=
  match fdBad d with
  | some st => (b, .st st)
  | none =>
    Ds.bind (b.words (.desc m.id) m.ctx v (fdTlist d) (2 * fdNt d)) (fun b ws =>
      let es := (List.range (fdNt d)).map (fun i => [qw ws (2 * i), qw ws (2 * i + 1)])
      Ds.bind (Blk.fenceTabs m.id v es [] b) (fun b ts => (b, .ok (es, ts))))

/-- A fence begins in WAIT; with remote senders it waits on its anchor (R233, R377). -/
def Blk.fenceNew (b : Blk) (m : Cmd) (c t : Nat) (tag : Option Nat) (d : List W64) (x : List (List W64) × List TableCopy) : Blk :=
  let f : Fence := { id := b.nextFence, cmd := m.id, c := c, task := t, tag := tag, ctx := m.ctx, fd := d, list := x.1, tabs := x.2 }
  let b := { b with fences := b.fences ++ [f], nextFence := b.nextFence + 1 }
  if fdForce d || fdNsend d = 0 then b
  else b.waitAnchor { anchor := fdAnchor d, target := fdNsend d * 2 ^ 32, who := .fence f.id }

/-- FENCE. -/
def execFence (x : Ctx) (rd ra : Greg) (imm : W64) (v : View) (s : State) : Out :=
  upd (fun b => b.longOp x.c.val x.t.val ra.val imm v (fun b m d => b.fenceCheck m v d)
    (fun b m tag d y => (b.fenceNew m x.c.val x.t.val (some tag) d y).longDone x.c.val x.t.val rd.val tag)) s

/-! ### WAIT, SEAL and the start of APPLY (R233) -/

/-- The fence numbered i. -/
def Blk.fence (b : Blk) (i : Nat) : Option Fence := b.fences.find? (fun f => f.id = i)

/-- Change a fence. -/
def Blk.setFence (b : Blk) (f : Fence) : Blk := { b with fences := b.fences.map (fun (x : Fence) => if x.id = f.id then f else x) }

/-- An earlier fence on the same tally has not completed. -/
def Blk.tallyBusy (b : Blk) (f : Fence) : Bool :=
  (b.fences.takeWhile (fun x => x.id ≠ f.id)).any (fun x => fdTally x.fd = fdTally f.fd)

/-- Received count of a tally. -/
def Blk.tally (b : Blk) (t : Nat) : Nat := (b.reg (0x61000 + 8 * t)).toNat

/-- FENCE_SEAL. -/
def Blk.fenceSeal (b : Blk) (i : Nat) : Blk :=
  match b.fence i with
  | none => b
  | some f =>
    let d := f.fd
    let rem := b.anchor (fdAnchor d) % 2 ^ 32
    if !b.live || f.phase ≠ .wait || f.park.isSome || b.tallyBusy f then b
    else if fdForce d then b.setFence { f with phase := .seal, rem := 0, expect := fdExploc d }
    else if fdNsend d = 0 then
      if fdExploc d ≤ b.tally (fdTally d) then b.setFence { f with phase := .seal, rem := 0, expect := fdExploc d } else b
    else if f.entry && decide (fdExploc d + rem ≤ b.tally (fdTally d)) then
      b.setFence { f with phase := .seal, rem := rem, expect := fdExploc d + rem }
    else b

/-- FENCE_SEAL. -/
def execFenceSeal (fid : Nat) (s : State) : Out := upd (fun b => b.fenceSeal fid) s

/-- Contributions of a row under a tally: the count of its first chunk. -/
def Blk.rowCount (b : Blk) (r : FenceRow) (tally : Nat) : Nat :=
  ((b.co.find? (fun e => e.is r.table r.row 0 tally)).map (·.cnt)).getD 0

/-- Rows of a tally with entries, each once. -/
def Blk.tallyRows (b : Blk) (tally : Nat) : List FenceRow :=
  ((b.co.filter (fun e => e.tally = tally)).map (fun e => ({ table := e.table, row := e.row } : FenceRow))).eraseDups

/-- FENCE_APPLY_START: RECV is recorded; with DROPHELD = 1 the held entries are freed (R234). Null and forwarded contributions count as
applied. -/
def Blk.fenceApplyStart (b : Blk) (i : Nat) : Blk :=
  match b.fence i with
  | none => b
  | some f =>
    if !b.live || f.phase ≠ .seal || b.fences.any (fun x => x.phase = .apply) then b
    else
      let t := fdTally f.fd
      let dead := fun (e : CoEntry) => e.tally = t && e.held && fdDrop f.fd
      let gone := ((b.co.filter dead).map (fun e => ({ table := e.table, row := e.row } : FenceRow))).eraseDups
      let n := (gone.map (fun r => b.rowCount r t)).foldl (· + ·) 0
      let nul := Tab.get 0 b.nulls t
      let b := { b with co := (b.co.filter (fun e => !dead e)).map (fun (e : CoEntry) => if e.tally = t then { e with held := false } else e) }
      b.setFence { f with phase := .apply, recv := b.tally t, nulls := nul, applied := nul, discarded := n, todo := b.tallyRows t }

/-- FENCE_APPLY_START. -/
def execFenceApplyStart (fid : Nat) (s : State) : Out := upd (fun b => b.fenceApplyStart fid) s

/-! ### Reads of the apply unit (R236) -/

/-- One piece of a read of the apply unit: the row cache is looked up for a table with CACHE = 1 and never filled. -/
def Blk.applyPiece (b : Blk) (t : TableCopy) (rd : View) (p : Piece) : Blk × Rd :=
  if p.dev && tierOf p.pa < 3 then
    match (if t.cache && b.rcOn then b.rcLook p.cr p.pa p.len p.home false false .none else (b, .bypass)) with
    | (b, .hit l) => (b, .bytes l)
    | (b, _) =>
      if b.devBad p.pa p.len || rd.get (p.va / 64) = some .poison then (b, .poison)
      else if rd.get (p.va / 64) = some .error then (b, .fail 7)
      else (b, .bytes (b.devRead p.cr p.pa p.len))
  else
    let rs := (sectorsOf p.va p.len).map rd.get
    if rs.any (·.isNone) then (b, .wait)
    else if rs.any (· = some .error) then (b, .fail 7)
    else if rs.any (· = some .poison) then (b, .poison)
    else
      let l := rs.flatMap (fun r => match r with | some (.data d) => Sect.bytes d | _ => [])
      (b, .bytes ((l.drop (p.va % 64)).take p.len))

/-- The pieces of a read, one after the other. -/
def Blk.applyPieces (t : TableCopy) (rd : View) : List Piece → Blk → Blk × Ds (List Byte)
  | [], b => (b, .ok [])
  | p :: l, b =>
    match b.applyPiece t rd p with
    | (b, .wait) => (b, .wait)
    | (b, .fail k) => (b, .xlt k p.va)
    | (b, .poison) =>
      (match Blk.applyPieces t rd l b with
       | (b, .ok _) => (b, .st 0x40)
       | x => x)
    | (b, .bytes x) => Ds.bind (Blk.applyPieces t rd l b) (fun b y => (b, .ok (x ++ y)))

/-- Read a range of virtual memory for the apply unit. -/
def Blk.applyRead (b : Blk) (fid : Nat) (t : TableCopy) (rd : View) (va n : Nat) : Blk × Ds (List Byte) :=
  Ds.bind (b.rangePieces (.entry fid) t.ctx 3 va n 0) (fun b l => Blk.applyPieces t rd l b)

/-- Where a row and its scale entry are read and written (R251, R256). -/
inductive RowAt
  | home
  | camp (e : Camp)
  | hold
  deriving DecidableEq, Repr

/-- The place of a row whose home pieces are given. -/
def Blk.rowAt (b : Blk) (t : TableCopy) (l : List Piece) : RowAt :=
  match l with
  | [] => .home
  | p :: _ =>
    if t.tiered && b.diren && p.dev && p.cr = 0 && (tierOf p.pa = 1 || tierOf p.pa = 2) then
      if b.mig.recov then .hold
      else
        match b.camp p.pa with
        | none => .home
        | some e => if e.st = .draining then .hold else .camp e
    else .home

/-- Pieces of a camp's row and scale entry. -/
def Blk.campPieces (b : Blk) (t : TableCopy) (e : Camp) (va sva : Nat) : List Piece × List Piece :=
  let a := b.slotAddr e.slot
  (cutPieces true 0 128 40 va a t.rowBytes 0, if t.scaled then cutPieces true 0 128 2 sva (a + t.scaleOff) 4 0 else [])

/-- What the apply unit has read of a row: its place, its encoded bytes, its scale entry, and its state planes. -/
structure RowRead where
  place : RowAt
  row : List Byte
  sc : List Byte
  s0 : List Byte
  s1 : List Byte
  deriving DecidableEq, Repr

/-- Address of a row. -/
def TableCopy.rowVa (t : TableCopy) (i : Nat) : Nat := t.dbase + t.stride * i
/-- Address of a scale entry. -/
def TableCopy.scVa (t : TableCopy) (i : Nat) : Nat := t.sbase + 4 * i
/-- The format of the elements of state plane k. -/
def TableCopy.sFmt (t : TableCopy) (k : Nat) : FFmt := if t.sfmt k = 1 then .bf16 else .fp32
/-- Elements of state plane k for a row. -/
def TableCopy.sNum (t : TableCopy) (k : Nat) : Nat := if t.sfmt k = 0 then 0 else if t.srow k then 1 else t.n
/-- Address of the state of row i in plane k (R37). -/
def TableCopy.sVa (t : TableCopy) (k i : Nat) : Nat :=
  let es := (t.sFmt k).size
  t.sbasek k + i * (if t.srow k then es else upTo 16 (t.d * es))

/-- Read a row with its scale entry and its state (R236). -/
def Blk.rowRead (b : Blk) (fid : Nat) (t : TableCopy) (rd : View) (i : Nat) : Blk × Ds RowRead :=
  Ds.bind (b.rangePieces (.entry fid) t.ctx 3 (t.rowVa i) t.rowBytes 0) (fun b hp =>
    Ds.bind (if t.scaled then b.rangePieces (.entry fid) t.ctx 3 (t.scVa i) 4 0 else (b, .ok [])) (fun b sp =>
      let place := b.rowAt t hp
      if place = .hold then (b, .wait)
      else
        let ps : List Piece × List Piece := match place with
          | .camp e => if e.st = CState.filling then (hp, sp) else b.campPieces t e (t.rowVa i) (t.scVa i)
          | _ => (hp, sp)
        Ds.bind (Blk.applyPieces t rd ps.1 b) (fun b row =>
          Ds.bind (Blk.applyPieces t rd ps.2 b) (fun b sc =>
            Ds.bind (if t.sNum 0 = 0 then (b, .ok []) else b.applyRead fid t rd (t.sVa 0 i) (t.sNum 0 * (t.sFmt 0).size)) (fun b s0 =>
              Ds.bind (if t.sNum 1 = 0 then (b, .ok []) else b.applyRead fid t rd (t.sVa 1 i) (t.sNum 1 * (t.sFmt 1).size)) (fun b s1 =>
                (b, .ok { place := place, row := row, sc := sc, s0 := s0, s1 := s1 })))))))

/-! ### The application of a row (R234, R239, R241, R421) -/

/-- Elements of a state plane, widened to the update's format. -/
def stateIn (f g : FFmt) (n : Nat) (l : List Byte) : List Nat :=
  (List.range n).map (fun i => f.cvt .fp32 (FFmt.fp32.cvt g (leNat ((l.drop (g.size * i)).take g.size))))

/-- Elements of a state plane, rounded to its format. -/
def stateOut (f g : FFmt) (l : List Nat) : List Byte := l.flatMap (fun x => leBytes g.size (g.cvt f x))

/-- The coalesced lanes of a row. -/
def Blk.rowLanes (b : Blk) (t : TableCopy) (row tally : Nat) : List Nat :=
  let h := (t.n + t.coLanes - 1) / t.coLanes
  (List.range h).flatMap (fun k =>
    match b.co.find? (fun e => e.is t.num row k tally) with
    | some e => e.lanes.map (·.toNat)
    | none => [])

/-- A shard: its START, its number, and the START of the next one, or ROWS (R413). -/
structure Shard where
  start : Nat
  num : Nat
  next : Nat
  deriving DecidableEq, Repr

/-- The own shard of a table: the entry that names this chip's node, sought in the sectors n - 1 to 0 of the entry array, whose entries
are checked as they are read (R413, R415). `nx` is the START of the entry after sector n - 1, `seen` the own entries found. -/
def Blk.ownShard (r : Req) (t : TableCopy) (rd : View) : Nat → Option Nat → List Nat → Option Shard → Blk → Blk × Ds (Option Shard)
  | 0, _, _, o, b => (b, .ok o)
  | n + 1, nx, seen, o, b =>
    Ds.bind (b.words r t.ctx rd (t.entries + 64 * n) 8) (fun b ws =>
      let d := sectOf (wordBytes ws)
      let last := min (4 * n + 3) (t.nshard - 1)
      let late := match nx with | some x => t.skind = 1 && decide (x < entStart d last) | none => false
      if entBad t b.node (4 * n) d seen || late then (b, .st 0x51)
      else
        let mine := (List.range' (4 * n) (last + 1 - 4 * n)).filter (fun k => entNode d k = b.node)
        let o := match mine with
          | [] => o
          | k :: _ => some { start := entStart d k, num := k, next := if k = last then nx.getD t.rows else entStart d (k + 1) }
        Blk.ownShard r t rd n (some (entStart d (4 * n))) (mine ++ seen) o b)

/-- The own shard of a sharded table. -/
def Blk.findOwn (b : Blk) (r : Req) (t : TableCopy) (rd : View) : Blk × Ds (Option Shard) :=
  Blk.ownShard r t rd ((t.nshard + 3) / 4) none [] none b

/-- Rows of a shard of a table: under MODULO those g with g mod NSHARD = k, under RANGE those from START to the next START (R413). -/
def Shard.size (t : TableCopy) (o : Shard) : Nat :=
  if t.skind = 2 then (t.rows + t.nshard - 1 - o.num) / t.nshard else o.next - o.start

/-- The global row of an owner-side index (R421). -/
def TableCopy.globalRow (t : TableCopy) (own : Option Shard) (i : Nat) : Option Nat :=
  own.map (fun o => if t.skind = 2 then i * t.nshard + o.num else o.start + i)

/-- A replica record: row, scale entry and stamp (R420). -/
def TableCopy.record (t : TableCopy) (row sc : List Byte) (step : Nat) : List Byte :=
  let a := row ++ List.replicate (t.scaleOff - row.length) 0 ++ sc
  a ++ List.replicate (t.stampOff - a.length) 0 ++ leBytes 4 step

/-- A translation that stands for a camp slot. -/
def campTlb (ctx : Nat) : Tlb :=
  { ctx := ctx, gran := 0, big := false, pa := 0, dev := true, memtype := 0, cr := 0, w := true, d := true }

/-- The updated row of a listed table: its encoding and its states. -/
def Blk.rowUpdate (b : Blk) (f : Fence) (t : TableCopy) (e : List W64) (row : Nat) (r : RowRead) : RowEnc × List Byte × List Byte :=
  let a := t.acc
  let w := (t.dequant r.row r.sc).map (·.toNat)
  let g := b.rowLanes t row (fdTally f.fd)
  let u := optUpdate a t.opb (leLr e) (leGscale e) (leStep e) b.free g w (stateIn a (t.sFmt 0) (t.sNum 0) r.s0) (stateIn a (t.sFmt 1) (t.sNum 1) r.s1)
  (t.encode (opSr t.opb) b.free u.w, if t.sNum 0 = 0 then [] else stateOut a (t.sFmt 0) u.s0, if t.sNum 1 = 0 then [] else stateOut a (t.sFmt 1) u.s1)

/-- Virtual-memory writes of a row's states, and of the row where it is written at home. -/
def rowWrites (t : TableCopy) (row : Nat) (camp : Bool) (x : RowEnc × List Byte × List Byte) (rep : Option (Nat × List Byte)) :
    List (Nat × List Byte) :=
  (if camp then [] else [(t.rowVa row, x.1.row)] ++ (if t.scaled then [(t.scVa row, x.1.sc)] else [])) ++
    (if x.2.1.isEmpty then [] else [(t.sVa 0 row, x.2.1)]) ++ (if x.2.2.isEmpty then [] else [(t.sVa 1 row, x.2.2)]) ++
    (match rep with | some (g, l) => [(t.rbase + g * t.rstride, l)] | none => [])

/-- Add to the write-back sums of a table. -/
def addWb (num n : Nat) (es : W64 × W64) (l : List (Nat × Nat × W64 × W64)) : List (Nat × Nat × W64 × W64) :=
  let o := (l.find? (fun x => x.1 = num)).getD (num, 0, 0, 0)
  let add := fun (a c : W64) => BitVec.ofNat 64 (FFmt.fp64.add a.toNat c.toNat)
  (num, o.2.1 + n, add o.2.2.1 es.1, add o.2.2.2 es.2) :: l.filter (fun x => x.1 ≠ num)

/-- The entries of a row under a fence's tally. -/
def Blk.rowEntries (b : Blk) (f : Fence) (r : FenceRow) : List CoEntry :=
  b.co.filter (fun e => e.table = r.table && e.row = r.row && e.tally = fdTally f.fd)

/-- Entries of a row are held (R234). -/
def Blk.holdRow (b : Blk) (f : Fence) (r : FenceRow) (poison : Bool) : Blk :=
  let n := (b.rowEntries f r).length
  let k := b.rowCount r (fdTally f.fd)
  let b := { b with co := b.co.map (fun (e : CoEntry) =>
    if e.table = r.table && e.row = r.row && e.tally = fdTally f.fd then { e with held := true } else e) }
  (b.inc 0x60128 n).setFence { f with todo := f.todo.filter (· ≠ r), held := f.held + k, heldPoison := f.heldPoison || poison }

/-- What a failed read or write of a row does (R234, R292): poison and refusals hold it, a resumable fault waits. -/
def Blk.rowFail {α : Type} (b : Blk) (f : Fence) (r : FenceRow) (x : Ds α) : Blk :=
  match x with
  | .st 0x40 =>
    let pl := b.reqPlace (.entry f.id)
    (b.event 0x21 pl.1 pl.2.1 pl.2.2 [BitVec.ofNat 64 r.table, BitVec.ofNat 64 r.row]).holdRow f r true
  | .st _ => b.holdRow f r false
  | .xlt k va => (b.xltFatalRec (.entry f.id) f.ctx k (BitVec.ofNat 64 va)).holdRow f r false
  | _ => b

/-- Multicast a replica record (R421); where it is confidential and a port of the group may not carry it, the fence's command fails with
PERMISSION (R408). -/
def Blk.repSend (b : Blk) (f : Fence) (t : TableCopy) (row g step : Nat) (l : List Byte) : Blk × List Nat :=
  let off := g * t.rstride
  let grp := fld (qw t.smd 4) 32 10
  let conf := b.confSpan (.entry f.id) f.ctx (t.rowVa row) t.rowBytes || (t.scaled && b.confAt (.entry f.id) f.ctx (t.scVa row))
  let b := if conf && b.mcBarred grp then b.meet f.cmd 0x32 else b
  match b.lxMcast grp 0
      ([BitVec.ofNat 64 (fld (qw t.smd 4) 16 12 + step <<< 32), BitVec.ofNat 64 (off % 2 ^ 32 + l.length <<< 32)] ++ bytesWords l.length l) conf with
  | (b, some id) => (b, [id])
  | (b, none) => (b, [])

/-- Apply a row whose reads have returned. -/
def Blk.rowApply (b : Blk) (f : Fence) (t : TableCopy) (e : List W64) (r : FenceRow) (x : RowRead) (own : Option Nat) : Blk :=
  let y := b.rowUpdate f t e r.row x
  let rep := own.bind (fun g => if g < t.reprows then some (g, t.record y.1.row y.1.sc (leStep e)) else none)
  let live := match x.place with | .camp c => decide (c.st ≠ CState.filling) | _ => false
  match Blk.xlWrites (.entry f.id) f.ctx (rowWrites t r.row live y rep) b with
  | (b, .ok ps) =>
    let cs : List WPart := match x.place with
      | .camp c => if live then
          [{ t := campTlb f.ctx, pa := b.slotAddr c.slot, bytes := y.1.row }] ++
          (if t.scaled then [{ t := campTlb f.ctx, pa := b.slotAddr c.slot + t.scaleOff, bytes := y.1.sc }] else []) else []
      | _ => []
    let home := match x.place with | .camp c => some c.home | _ => none
    let z := b.writeParts f.cmd (cs ++ ps)
    let b := z.1
    let b := match x.place with
      | .camp c =>
        let b := b.campCount c.home 0 1
        if live then b else (match b.camp c.home with | some c => b.setCamp { c with recopy := true } | none => b)
      | _ => b
    let m := match rep with | some (g, l) => b.repSend f t r.row g (leStep e) l | none => (b, [])
    let b := (m.1.measure f.cmd y.1.ms).freed
    let n := (b.rowEntries f r).length
    let k := b.rowCount r (fdTally f.fd)
    let b := { b with co := b.co.map (fun (e : CoEntry) =>
      if e.table = r.table && e.row = r.row && e.tally = fdTally f.fd then { e with applied := true } else e) }
    (b.inc 0x60120 n).setFence { f with
      todo := f.todo.filter (· ≠ r), fin := f.fin ++ [r], applied := f.applied + k, rows := f.rows + 1, chunks := f.chunks + n
      writes := f.writes ++ [{ table := r.table, row := r.row, ids := z.2, camp := home }]
      mcs := f.mcs ++ m.2
      wb := addWb t.num 1 (mseSum y.1.ms (0, 0)) f.wb
      nan := f.nan || y.1.nan }
  | (b, x) => b.rowFail f r x

/-- ENTRY_APPLY: the next row of the tally that is not held up by a draining camp is applied or held. -/
def Blk.entryApply (b : Blk) (i : Nat) (rd : View) : Blk :=
  match b.fence i with
  | none => b
  | some f =>
    if !b.live || f.phase ≠ .apply || f.park.isSome then b
    else
      f.todo.foldl (fun (a : Blk × Bool) r =>
        if a.2 then a else
        let b := a.1
        match f.tabs.find? (fun t => t.num = r.table), f.list.find? (fun e => leTable e = r.table) with
        | some t, some e =>
          (match Ds.bind (b.rowRead i t rd r.row) (fun b x =>
              Ds.bind (if t.reprows = 0 then (b, .ok none) else b.findOwn (.entry i) t rd) (fun b own => (b, .ok (x, own)))) with
           | (b, .ok (x, own)) => (b.rowApply f t e r x (t.globalRow own r.row), true)
           | (b, .wait) => (b, false)
           | (b, y) => (b.rowFail f r y, true))
        | _, _ => (b.holdRow f r false, true)) (b, false) |>.1

/-- ENTRY_APPLY. -/
def execEntryApply (fid : Nat) (rd : View) (s : State) : Out := upd (fun b => b.entryApply fid rd) s

/-- FENCE_ROW_WRITE_ACK (R255, R256): the writes of a row are acknowledged and lower UPDATES. -/
def Blk.rowAck (b : Blk) (i table row : Nat) : Blk :=
  match b.fence i with
  | none => b
  | some f =>
    match f.writes.find? (fun w => w.table = table && w.row = row) with
    | none => b
    | some w =>
      if !b.live || !b.passed w.ids then b
      else
        let b := b.setFence { f with writes := f.writes.erase w }
        match w.camp with
        | some h => b.campCount h 0 (-1)
        | none => b

/-- FENCE_ROW_WRITE_ACK. -/
def execFenceRowWriteAck (fid table row : Nat) (s : State) : Out := upd (fun b => b.rowAck fid table row) s

/-! ### E and the report (R235, R240) -/

/-- Stride of the dE area, of the states and of the master copy of E. -/
def TableCopy.deStride (t : TableCopy) : Nat := upTo 64 (4 * t.d)

/-- fp32 rows of a table's dE, state or master area. -/
def Blk.eArea (b : Blk) (fid : Nat) (t : TableCopy) (rd : View) (base : Nat) : Blk × Ds (List (List Nat)) :=
  Ds.bind (Blk.vreads (.entry fid) t.ctx rd ((List.range t.r).map (fun k => (base + k * t.deStride, 4 * t.d))) b)
    (fun b l => (b, .ok (l.map (fun x => (words32 t.d x).map (·.toNat)))))

/-- Base of plane k of E's state. -/
def TableCopy.esBase (t : TableCopy) (k : Nat) : Nat := opAddr t.opb 5 + k * t.r * t.deStride

/-- The states of E that OPT uses, by plane and row. -/
def Blk.eStates (b : Blk) (fid : Nat) (t : TableCopy) (rd : View) : Blk × Ds (List (List Nat) × List (List Nat)) :=
  let o := opOpt t.opb
  if o = 0 || o = 5 then (b, .ok ([], []))
  else if o = 2 then
    Ds.bind (Blk.vreads (.entry fid) t.ctx rd [(t.esBase 0, 4 * t.r)] b) (fun b l =>
      (b, .ok ((words32 t.r (l.getD 0 [])).map (fun x => [x.toNat]), [])))
  else
    Ds.bind (b.eArea fid t rd (t.esBase 0)) (fun b s0 =>
      if o = 4 then Ds.bind (b.eArea fid t rd (t.esBase 1)) (fun b s1 => (b, .ok (s0, s1))) else (b, .ok (s0, [])))

/-- The stored E: its values by row. -/
def Blk.eRead (b : Blk) (fid : Nat) (t : TableCopy) (rd : View) : Blk × Ds (List (List Nat)) :=
  if opAddr t.opb 6 ≠ 0 then b.eArea fid t rd (opAddr t.opb 6)
  else
    Ds.bind (Blk.vreads (.entry fid) t.ctx rd (eRanges t 0 t.d) b) (fun b l =>
      let cs := if t.efmt = 0 then colScales (l.getD t.r []) t.d else []
      (b, .ok ((l.take t.r).map (fun x => eValues t x cs))))

/-- The writes that update E of a table (R240): the master copy, the states, E itself, and zeros to the dE area. -/
def Blk.eWrites (b : Blk) (fid : Nat) (t : TableCopy) (e : List W64) (rd : View) (key : Nat) : Blk × Ds (List (Nat × List Byte)) :=
  Ds.bind (b.eArea fid t rd (opAddr t.opb 4)) (fun b g =>
    Ds.bind (b.eStates fid t rd) (fun b st =>
      Ds.bind (b.eRead fid t rd) (fun b w =>
        let us := (List.range t.r).map (fun k =>
          optUpdate .fp32 t.opb (leLr e) (leGscale e) (leStep e) (key * 1024 + k) (g.getD k []) (w.getD k []) (st.1.getD k []) (st.2.getD k []))
        let enc := eEncode t (opSr t.opb) key b.free (us.map (·.w))
        let area := fun (base : Nat) (rows : List (List Nat)) =>
          (List.range rows.length).map (fun k => (base + k * t.deStride, (rows.getD k []).flatMap (leBytes 4)))
        let o := opOpt t.opb
        let states :=
          if o = 0 || o = 5 then []
          else if o = 2 then [(t.esBase 0, us.flatMap (fun u => leBytes 4 (u.s0.getD 0 0)))]
          else area (t.esBase 0) (us.map (·.s0)) ++ (if o = 4 then area (t.esBase 1) (us.map (·.s1)) else [])
        (b, .ok (
          (if opAddr t.opb 6 ≠ 0 then area (opAddr t.opb 6) (us.map (·.w)) else []) ++ states ++
          (List.range t.r).map (fun k => (t.ebase + k * t.estride, enc.1.getD k [])) ++
          (if t.efmt = 0 then [(t.ebase + t.r * t.estride, enc.2)] else []) ++
          area (opAddr t.opb 4) (List.replicate t.r (List.replicate t.d 0)))))))

/-- Translated writes of the E updates of the listed compact tables; a table whose reads or writes fail is left out, and its status
and failure are answered. -/
def Blk.eAll (f : Fence) (rd : View) : List TableCopy → Blk → Blk × Option (List WPart × List (Nat × Option (Nat × Nat)))
  | [], b => (b, some ([], []))
  | t :: l, b =>
    let e := (f.list.find? (fun e => leTable e = t.num)).getD []
    if !t.compact then Blk.eAll f rd l b
    else
      match Ds.bind (b.eWrites f.id t e rd (b.free + t.num)) (fun b ws => Blk.xlWrites (.entry f.id) f.ctx ws b) with
      | (b, .wait) => (b, none)
      | (b, .ok ps) => (match Blk.eAll f rd l b with | (b, some r) => (b, some (ps ++ r.1, r.2)) | x => x)
      | (b, .st n) => (match Blk.eAll f rd l b with | (b, some r) => (b, some (r.1, (n, none) :: r.2)) | x => x)
      | (b, .xlt k va) => (match Blk.eAll f rd l b with | (b, some r) => (b, some (r.1, (xltStatus k, some (k, va)) :: r.2)) | x => x)

/-- The report block. -/
def Fence.report (f : Fence) : List Byte :=
  wordBytes ([f.expect, f.recv, f.applied, f.nulls, f.held, f.discarded, f.rows, f.chunks].map (BitVec.ofNat 64))

/-- FENCE_APPLY_END: E is updated, its resident copies are discarded, the report is written, and the applied entries are freed. -/
def Blk.fenceApplyEnd (b : Blk) (i : Nat) (rd : View) : Blk :=
  match b.fence i with
  | none => b
  | some f =>
    if !b.live || f.phase ≠ .apply || f.park.isSome || !f.todo.isEmpty then b
    else
      match b.xlWrite (.report i) f.ctx (fdRbase f.fd) f.report with
      | (b, .wait) => b
      | (b, rw) =>
        match Blk.eAll f rd f.tabs b with
        | (b, none) => b
        | (b, some (ps, bad)) =>
          let b := bad.foldl (fun b x => match x.2 with | some (k, va) => b.xltFatalRec (.entry i) f.ctx k (BitVec.ofNat 64 va) | none => b) b
          let z := b.freed.writeParts f.cmd ps
          let b := if f.tabs.any (·.compact) then iter 8 (fun c b => b.clearPlanes c) z.1 else z.1
          let r := match rw with
            | .parts qs => (let y := b.writeParts f.cmd qs; (y.1, y.2, none))
            | .fail k => (b.xltFatalRec (.report i) f.ctx k (BitVec.ofNat 64 (fdRbase f.fd)), [], some (xltStatus k))
            | .wait => (b, [], none)
          let b := { r.1 with co := r.1.co.filter (fun e => !(e.tally = fdTally f.fd && e.applied)) }
          b.setFence { f with phase := .done, ids := z.2 ++ r.2.1, repFail := r.2.2.or ((bad.map (·.1)).head?) }

/-- FENCE_APPLY_END. -/
def execFenceApplyEnd (fid : Nat) (rd : View) (s : State) : Out := upd (fun b => b.fenceApplyEnd fid rd) s

/-! ### DONE (R216, R217, R233, R235) -/

/-- The ratio of an error sum to a signal sum exceeds a threshold (R213, R216). -/
def overThresh (th : Nat) (es sg : W64) : Bool :=
  let f := FFmt.fp64
  if FFmt.fp32.isZero th then false
  else if f.isZero sg.toNat then !f.isZero es.toNat
  else
    let r := f.div es.toNat sg.toNat
    f.isNan r || f.lt (f.cvt .fp32 th) r

/-- Word k of a statistics block with an amount added: a counter, or an fp64 sum. -/
def statAdd (sum : Bool) (old : Nat) (v : W64) : List Byte :=
  leBytes 8 (if sum then FFmt.fp64.add old v.toNat else (old + v.toNat) % 2 ^ 64)

/-- Add amounts to words of a statistics block at the memory port (R216): address, word and whether it is a sum, amount. -/
def Blk.statAdds (r : Req) (ctx : Nat) : List (Nat × Bool × W64) → Blk → Blk × Ds (List (WPart × Bool × W64))
  | [], b => (b, .ok [])
  | (va, sum, v) :: l, b =>
    match b.xlWrite r ctx va (List.replicate 8 0) with
    | (b, .wait) => (b, .wait)
    | (b, .fail k) => (b, .xlt k va)
    | (b, .parts ps) =>
      Ds.bind (Blk.statAdds r ctx l b) (fun b qs => (b, .ok ((match ps with | p :: _ => [(p, sum, v)] | [] => []) ++ qs)))

/-- Carry the adds out. -/
def Blk.doAdds (b : Blk) (l : List (WPart × Bool × W64)) : Blk :=
  l.foldl (fun b x =>
    if x.1.t.dev && tierOf x.1.pa < 3 then
      b.passWrite x.1.t.cr x.1.pa (statAdd x.2.1 (leNat (b.devRead x.1.t.cr x.1.pa 8)) x.2.2)
    else b) b

/-- The totals of a fence for one table: address, sum flag, amount. -/
def Fence.totals (f : Fence) (t : TableCopy) : List (Nat × Bool × W64) :=
  match f.wb.find? (fun x => x.1 = t.num) with
  | none => []
  | some (_, n, es, sg) =>
    if t.stats = 0 then [] else
    [(t.stats + 24, false, BitVec.ofNat 64 n), (t.stats + 32, true, es), (t.stats + 40, true, sg)] ++
      (if overThresh t.thresh.toNat es sg then [(t.stats + 72, false, 1)] else [])

/-- A table's threshold is exceeded. -/
def Fence.high (f : Fence) : Bool :=
  f.nan || f.tabs.any (fun t => t.stats ≠ 0 && (match f.wb.find? (fun x => x.1 = t.num) with
    | some (_, _, es, sg) => overThresh t.thresh.toNat es sg
    | none => false))

/-- What a completed fence does to its tally, its anchor and its command. -/
def Blk.fenceClose (b : Blk) (f : Fence) : Blk :=
  let t := fdTally f.fd
  let b := b.setReg (0x61000 + 8 * t) (BitVec.ofNat 64 f.held)
  let b := { b with nulls := Tab.set 0 b.nulls t 0, fences := b.fences.filter (fun x => x.id ≠ f.id) }
  let b := b.dropWaiters (fun w => w = .fence f.id)
  let b := if fdForce f.fd || fdNsend f.fd = 0 then b
    else b.signal (fdAnchor f.fd) false (2 ^ 48 - (fdNsend f.fd * 2 ^ 32 + f.rem) % 2 ^ 48)
  let b := b.updCmd f.cmd (fun m => { m with applied := m.applied + f.applied })
  let b := if f.high then b.updCmd f.cmd (fun m => m.flag 6) else b
  let b := match f.repFail with
    | some st => b.meet f.cmd st
    | none => if f.recv = f.applied + f.discarded then b else b.meet f.cmd (if f.heldPoison then 0x40 else 0x51)
  let b := b.endTag f.c f.task f.tag
  if f.abortLate && (match b.cmd f.cmd with | some m => m.op ≠ 0x14 | none => false) then b.endCmd f.cmd .abort else b

/-- FENCE_DONE: its writes are acknowledged and its multicasts have ended; its totals are added, tally and anchor are reduced, and it
completes. -/
def Blk.fenceDone (b : Blk) (i : Nat) : Blk :=
  match b.fence i with
  | none => b
  | some f =>
    if !b.live || f.phase ≠ .done || f.park.isSome || !f.writes.isEmpty || !b.passed f.ids || f.mcs.any (fun m => Tab.get 0 b.lx.mcast m ≠ 0) then b
    else
      match Blk.statAdds (.report i) f.ctx (f.tabs.flatMap f.totals) b with
      | (b, .ok l) => (b.doAdds l).fenceClose f
      | (b, .wait) => b
      | (b, .st n) => b.fenceClose { f with repFail := some n }
      | (b, .xlt k va) => (b.xltFatalRec (.report i) f.ctx k (BitVec.ofNat 64 va)).fenceClose { f with repFail := some (xltStatus k) }

/-- FENCE_DONE. -/
def execFenceDone (fid : Nat) (s : State) : Out := upd (fun b => b.fenceDone fid) s

end Sys2Proof.Machine
end

