-- ==== Sys2Proof/Machine/Copy.lean ====
section
/-! DEFINITION. Copies and advice with their descriptors (R266 to R268), the sequencer operations MIGR and ASIG (R334, R337), and the
moment at which an ASIG takes effect (R190). -/
namespace Sys2Proof.Machine

/-! ### The copy descriptor and the advice descriptor (R266) -/

/-- SRC. -/
def cpSrc (d : List W64) : Nat := fld (qw d 1) 0 57
/-- DST. -/
def cpDst (d : List W64) : Nat := fld (qw d 2) 0 57
/-- LEN. -/
def cpLen (d : List W64) : Nat := fld (qw d 3) 0 41

/-- The checks of a CPD. -/
def cpBad (d : List W64) : Option Nat :=
  if fld (qw d 0) 0 4 ≠ 1 then some 0x50
  else if anyOf [
      res (qw d 0) 4 60, res (qw d 1) 57 7, res (qw d 2) 57 7, res (qw d 3) 41 23,
      qw d 4 ≠ 0, qw d 5 ≠ 0, qw d 6 ≠ 0, qw d 7 ≠ 0,
      cpSrc d % 64 ≠ 0, cpDst d % 64 ≠ 0, cpLen d % 64 ≠ 0, cpLen d < 64, cpLen d > 2 ^ 40] then some 0x51
  else none

/-- ACT. -/
def avAct (d : List W64) : Nat := fld (qw d 0) 4 2
/-- TABLE. -/
def avTable (d : List W64) : Nat := fld (qw d 0) 16 16
/-- FIRST. -/
def avFirst (d : List W64) : Nat := fld (qw d 1) 0 41
/-- COUNT. -/
def avCount (d : List W64) : Nat := fld (qw d 2) 0 41

/-- The checks of an AVD that need no table. -/
def avBad (d : List W64) : Option Nat :=
  if fld (qw d 0) 0 4 ≠ 1 then some 0x50
  else if anyOf [
      avAct d = 3, res (qw d 0) 6 10, res (qw d 0) 32 32, res (qw d 1) 41 23, res (qw d 2) 41 23, qw d 3 ≠ 0,
      qw d 4 ≠ 0, qw d 5 ≠ 0, qw d 6 ≠ 0, qw d 7 ≠ 0, avCount d = 0, avFirst d + avCount d > 2 ^ 40] then some 0x51
  else none

/-! ### Copies (R267) -/

/-- A copy begins. -/
def Blk.copyNew (b : Blk) (m : Cmd) (c t : Nat) (tag : Option Nat) (d : List W64) : Blk :=
  { b with
    copies := b.copies ++ [{ id := b.nextCopy, cmd := m.id, ctx := m.ctx, c := c, task := t, tag := tag, src := cpSrc d, dst := cpDst d,
                             len := cpLen d }]
    nextCopy := b.nextCopy + 1 }

/-- Number of 4 KiB blocks, aligned to the source address. -/
def Copying.blocks (x : Copying) : Nat := (x.src + x.len - 1) / 4096 - x.src / 4096 + 1
/-- First source address of block k. -/
def Copying.lo (x : Copying) (k : Nat) : Nat := max x.src (4096 * (x.src / 4096 + k))
/-- Source address after block k. -/
def Copying.hi (x : Copying) (k : Nat) : Nat := min (x.src + x.len) (4096 * (x.src / 4096 + k + 1))

/-- A part of a copy is refused: both sides are host memory, or one lies in window space. -/
def copyRefused (s : Tlb) (spa : Nat) (ps : List WPart) : Bool :=
  (s.dev && tierOf spa = 3) || ps.any (fun p => if p.t.dev then decide (tierOf p.pa = 3) else !s.dev)

/-- COPY_BLOCK_LANDED: block k has been read and its writes are acknowledged; with the last block the copy ends. -/
def Blk.copyLanded (b : Blk) (id k : Nat) (rd : View) : Blk :=
  match b.copies.find? (fun x => x.id = id) with
  | none => b
  | some x =>
    if !b.coreLive x.c || x.park.isSome || x.blocks ≤ k || x.done.contains k then b
    else
      let lo := x.lo k
      let n := x.hi k - lo
      let r := Req.copy id
      match b.xl r x.ctx lo false with
      | (b, .wait) => b
      | (b, .bad e) => b.xltFatal r x.ctx e (BitVec.ofNat 64 lo)
      | (b, .ok t pa) =>
        match b.xlWrite r x.ctx (x.dst + (lo - x.src)) (List.replicate n 0) with
        | (b, .wait) => b
        | (b, .fail e) => if t.dev && tierOf pa = 3 then b.failCmd x.cmd 0x32 else b.xltFatal r x.ctx e (BitVec.ofNat 64 (x.dst + (lo - x.src)))
        | (b, .parts ps) =>
          if copyRefused t pa ps then b.failCmd x.cmd 0x32
          else
            match b.vread r x.ctx rd lo n with
            | (b, .wait) => b
            | (b, .poison) => b.failCmd x.cmd 0x40
            | (b, .fail e) => b.xltFatal r x.ctx e (BitVec.ofNat 64 lo)
            | (b, .bytes l) =>
              let qs := (ps.foldl (fun (a : List WPart × List Byte) p =>
                (a.1 ++ [{ p with bytes := a.2.take p.bytes.length }], a.2.drop p.bytes.length)) ([], l)).1
              let b := b.doParts (some x.cmd) qs
              let b := b.updCmd x.cmd (fun m => { m with rows := m.rows + n / 64 })
              let y := { x with done := k :: x.done }
              if y.done.length = x.blocks then
                { b with copies := b.copies.filter (fun z => z.id ≠ id) }.endTag x.c x.task x.tag
              else { b with copies := b.copies.map (fun z => if z.id = id then y else z) }

/-- COPY_BLOCK_LANDED. -/
def execCopyBlockLanded (id blk : Nat) (rd : View) (s : State) : Out := upd (fun b => b.copyLanded id blk rd) s

/-! ### Advice (R268) -/

/-- The demand of an entry, and whether it changed it: the entry is demoted or discarded. -/
def Blk.advise1 (b : Blk) (act home : Nat) (cand : Cand) : Blk × Bool :=
  match act, b.camp home with
  | 0, none => let b := b.promote cand; (b, (b.camp home).isSome)
  | 1, some e => if e.st = .live && !e.stuck then (b.demote home, true) else (b, false)
  | 2, some e => if e.st = .draining then (b, false) else ((b.setCamp { e with discard := true }).campStep home, true)
  | _, _ => (b, false)

/-- A row of the range that has no home in the bulk or far tier cannot have a camp; a promotion skips it. -/
def Blk.adviseSkip (b : Blk) (act : Nat) : Blk := if act = 0 then b.migCnt 4 else b

/-- The next row of advice; none while its address does not translate. -/
def Blk.adviseRow (b : Blk) (a : Adv) : Blk × Ds Adv :=
  let t := a.tab
  let r := Req.copy a.id
  let one := fun (b : Blk) (va : Nat) =>
    match b.xl r a.ctx va false with
    | (b, .wait) => ((b, .wait) : Blk × Ds (Tlb × Nat))
    | (b, .bad k) => (b, .xlt k va)
    | (b, .ok tl pa) => (b, .ok (tl, pa))
  Ds.bind (one b (t.rowVa a.next)) (fun b p =>
    Ds.bind (if t.scaled then one b (t.scVa a.next) else (b, .ok p)) (fun b q =>
      let a := { a with next := a.next + 1, left := a.left - 1 }
      if !p.1.dev || p.1.cr ≠ 0 || (tierOf p.2 ≠ 1 && tierOf p.2 ≠ 2) || !b.paRange p.2 t.rowBytes then (b.adviseSkip a.act, .ok a)
      else
        let y := b.advise1 a.act p.2 { home := p.2, sect := if t.scaled then q.2 else 0, rowBytes := t.rowBytes,
                                       bytes := if t.scaled then t.scaleOff + 4 else t.rowBytes }
        (y.1, .ok { a with changed := a.changed + (if y.2 then 1 else 0)
                           homes := if y.1.campStable p.2 then a.homes else p.2 :: a.homes })))

/-- Advice goes on row by row, n rows at most. -/
def Blk.adviseGo : Nat → Nat → Blk → Blk
  | 0, _, b => b
  | n + 1, i, b =>
    match b.advs.find? (fun a => a.id = i) with
    | none => b
    | some a =>
      if a.left = 0 || a.park.isSome then b else
      match b.adviseRow a with
      | (b, .ok a) => Blk.adviseGo n i (Blk.advSweep { b with advs := b.advs.map (fun (x : Adv) => if x.id = i then a else x) })
      | (b, .wait) => b
      | (b, .st k) => b.failCmd a.cmd k
      | (b, .xlt k va) => b.xltFatal (.copy i) a.ctx k (BitVec.ofNat 64 va)

/-- Advice numbered i goes on as far as its addresses translate. -/
def Blk.adviseRun (b : Blk) (i : Nat) : Blk :=
  match b.advs.find? (fun a => a.id = i) with
  | none => b
  | some a => b.adviseGo a.left i

/-- The checks of an AVD with its table (R36, R268). -/
def Blk.avCheck (b : Blk) (m : Cmd) (v : View) (d : List W64) : Blk × Ds TableCopy :=
  match avBad d with
  | some st => (b, .st st)
  | none => Ds.bind (b.table m.id v (avTable d)) (fun b t => if !b.diren || !t.tiered then (b, .st 0x51) else (b, .ok t))

/-- Advice begins; rows from ROWS on do not exist and are skipped. -/
def Blk.adviseNew (b : Blk) (m : Cmd) (c t : Nat) (tag : Option Nat) (d : List W64) (tab : TableCopy) : Blk :=
  let n := min (avCount d) (tab.rows - avFirst d)
  let i := b.nextCopy
  let a : Adv := { id := i, cmd := m.id, ctx := m.ctx, c := c, task := t, tag := tag, act := avAct d, tab := tab, next := avFirst d, left := n }
  ({ b with advs := b.advs ++ [a], nextCopy := i + 1 }.adviseRun i).advSweep

/-! ### MIGR -/

/-- MIGR: a copy, or advice, of the program (R266, R334). -/
def Blk.migrOp (b : Blk) (c t rd ra : Nat) (imm : W64) (advice : Bool) (v : View) : Blk :=
  b.longOp c t ra imm v
    (fun b m d =>
      if advice then Ds.bind (b.avCheck m v d) (fun b t => (b, .ok (some t)))
      else match cpBad d with | some st => (b, .st st) | none => (b, .ok none))
    (fun b m tag d x =>
      let b := b.longDone c t rd tag
      match x with
      | some tab => b.adviseNew m c t (some tag) d tab
      | none => b.copyNew m c t (some tag) d)

/-- MIGR. -/
def execMigr (x : Ctx) (rd ra : Greg) (imm : W64) (advice : Bool) (v : View) (s : State) : Out :=
  upd (fun b => b.migrOp x.c.val x.t.val rd.val ra.val imm advice v) s

/-! ### ASIG (R190, R337) -/

/-- Output writes of a command that have been issued and are not acknowledged. -/
def Blk.openOuts (b : Blk) (c id : Nat) : List (Nat × Nat) :=
  (b.core c).qs.flatMap (fun e => if e.2.owner = id then (e.2.out.filter (·.issued)).map (fun o => (e.1, o.bag)) else [])

/-- Write requests of a command that await their acknowledgement. -/
def Blk.openWrites (b : Blk) (id : Nat) : List Nat :=
  (b.lx.reqs.filter (fun r => r.kind = .write (some id))).map (·.tag)

/-- ASIG: the signal is taken with the writes issued before it; OP 10b and 11b are reserved, and with RMT = 0 RC must name g0. -/
def Blk.asigOp (b : Blk) (c t rd ra rb rc anc op : Nat) (rmt : Bool) (imm : W64) : Blk :=
  if !b.canLong c t then b
  else if 2 ≤ op || (!rmt && rc ≠ 0) then b.trap c t 1024
  else
    match b.taskCmd c t, (b.task c t).freeTag with
    | some m, some tag =>
      let b := b.cleanAll c
      let x := b.task c t
      let a : ASig := { tag := tag, anchor := (fld (x.gr rb) 0 15 + anc) % 32768, isSet := op = 1, value := fld (x.gr ra + imm) 0 48,
                        node := if rmt then some (fld (x.gr rc) 0 16) else none, after := b.nextWr,
                        outs := b.openOuts c m.id, links := b.openWrites m.id }
      (b.updTask c t (fun x => { x with asigs := x.asigs ++ [a] })).longDone c t rd tag
    | _, _ => b

/-- ASIG. -/
def execAsig (x : Ctx) (rd ra rb rc : Greg) (anc : BitVec 15) (op : BitVec 2) (rmt : Bool) (imm : W64) (s : State) : Out :=
  upd (fun b => b.asigOp x.c.val x.t.val rd.val ra.val rb.val rc.val anc.toNat op.toNat rmt imm) s

/-- The writes issued before a signal are acknowledged. -/
def Blk.asigFree (b : Blk) (c id : Nat) (a : ASig) : Bool :=
  !b.wq.any (fun w => w.cmd = some id && decide (w.id < a.after)) &&
  !a.outs.any (fun o => (b.openOuts c id).contains o) &&
  !b.lx.reqs.any (fun r => a.links.contains r.tag)

/-- ASIG_EFFECT: the signal takes effect at the anchor, or leaves for its node; a parity error of the anchor is block-fatal (R472). -/
def Blk.asigEffect (b : Blk) (c t tag : Nat) (parity : Bool) : Blk :=
  match (b.task c t).asigs.find? (fun a => a.tag = tag), b.taskCmd c t with
  | some a, some m =>
    if !b.coreLive c || a.sent || m.ending || !b.asigFree c m.id a then b
    else
      match a.node with
      | some n =>
        if n = b.node then
          if parity then b.blockFatal 0x12
          else ((b.updTask c t (fun x => { x with asigs := x.asigs.erase a })).signal a.anchor a.isSet a.value).endTag c t (some tag)
        else
          match b.lxRequest (some m.id) (.asig c t tag) n 5 (a.anchor + (if a.isSet then 2 ^ 15 else 0)) [BitVec.ofNat 64 a.value] false with
          | (b, .sent) => b.updTask c t (fun x => { x with asigs := x.asigs.map (fun y => if y.tag = tag then { y with sent := true } else y) })
          | (b, .noRoute) => b.failCmd m.id 0x60
          | (b, .notPermitted) => b.failCmd m.id 0x32
      | none =>
        if parity then b.blockFatal 0x12
        else ((b.updTask c t (fun x => { x with asigs := x.asigs.erase a })).signal a.anchor a.isSet a.value).endTag c t (some tag)
  | _, _ => b

/-- ASIG_EFFECT. -/
def execAsigEffect (x : Ctx) (tag : Fin 16) (parity : Bool) (s : State) : Out :=
  upd (fun b => b.asigEffect x.c.val x.t.val tag.val parity) s

end Sys2Proof.Machine
end

