-- ==== Sys2Proof/Machine/Walk.lean ====
section
/-! DEFINITION. The end of a page walk (R277, R279, R283, R286), belay records of parked work (R289, R290, R292), and the dispatcher
commands XLT_INVAL, RESUME and DC_INVAL (R280, R281, R285, R352). -/
namespace Sys2Proof.Machine

/-! ### WALK_COMPLETE -/

/-- What waited on a walk goes on where no event of its own would make it. -/
def Blk.walkRetry (b : Blk) (r : Req) : Blk :=
  match r with
  | .row c i => b.slotXlate c i
  | .inter id =>
    (match (b.cmd id).bind Cmd.held with
     | some (c, _) => b.unitFlush c id
     | none => b)
  | .copy i => b.adviseRun i
  | _ => b

/-- A failure that is not resumable: the requesters that rules of their own handle learn it at their next access, the command of any
other ends (R286, R292, R349, R502). -/
def Blk.walkBad (b : Blk) (r : Req) (ctx kind va : Nat) (wr : Bool) : Blk :=
  let later := { b with xbad := b.xbad ++ [(r, va / 2 ^ 30, wr, kind)] }
  match r with
  | .ring _ => later
  | .compl _ => later
  | .cword _ => later
  | .entry _ => later
  | .report _ => later
  | .add _ => later
  | _ => b.xltFatal r ctx kind (BitVec.ofNat 64 va)

/-- The descriptors that a walk used are all writable. -/
def allWritable (ds : List DescRead) : Bool := ds.all (fun d => bit d.w 2)

/-- The output write of a pass that has ended: it is not made where it faults (R291). -/
def Blk.endedOut (b : Blk) (r : Req) : Option (Nat × Nat × Nat) :=
  match r with
  | .bagOut c q k => if (b.sq c q).ended then some (c, q, k) else none
  | _ => none

/-- One access that waited on a walk. -/
def Blk.walkReq (b : Blk) (w : Walk) (ds : List DescRead) (x : Req × Nat × Bool) : Blk :=
  match b.walk w.user x.2.2 5 ds with
  | .short => b
  | .ok lvl d =>
    let t := leafTlb w.ctx w.gran lvl d (allWritable (ds.take (6 - lvl)))
    (match x.1.core with | some c => b.fillL1 c t | none => b).walkRetry x.1
  | .fail kind lvl d =>
    match b.endedOut x.1 with
    | some (c, q, k) => (b.dropOut c q k).finishPass c q
    | none =>
    if resumable kind && b.rb 0x11000 0 then
      b.takeFault { req := x.1, ctx := w.ctx, va := x.2.1, wr := x.2.2, kind := kind, level := lvl, desc := d } false
    else b.walkBad x.1 w.ctx kind x.2.1 x.2.2

/-- Pointer descriptors of a successful walk enter the walk cache, and its translation the L2 TLB (R278, R279). -/
def Blk.walkFill (b : Blk) (w : Walk) (ds : List DescRead) : Blk :=
  match (if b.walk w.user false 5 ds = .short then WalkRes.short else
      match b.walk w.user false 5 ds with
      | .ok l d => .ok l d
      | _ => b.walk w.user true 5 ds) with
  | .ok lvl d =>
    let b := if lvl < 5 then b.fillWc w.ctx 5 (w.gran / 2 ^ 18) (ds.headD (.word 0)).w else b
    let b := if lvl < 4 then b.fillWc w.ctx 4 (w.gran / 2 ^ 9) (ds.getD 1 (.word 0)).w else b
    b.fillL2 (leafTlb w.ctx w.gran lvl d (allWritable (ds.take (6 - lvl))))
  | _ => b

/-- Lowest level that a walk has reached in the directions that wait on it. -/
def Blk.walkLevel (b : Blk) (w : Walk) (ds : List DescRead) : Nat :=
  (w.reqs.map (fun x => (b.walk w.user x.2.2 5 ds).lvl)).foldl min 5

/-- A walk leaves its walker, and the first that waits for one starts (R279). -/
def Blk.walkLeave (b : Blk) (w : Walk) (again : Bool) : Blk :=
  let rest := b.walks.filter (fun x => !(x.ctx = w.ctx && x.gran = w.gran))
  let l := rest ++ (if again && !w.reqs.isEmpty then [{ w with discard := false }] else [])
  let fresh := fun (x : Walk) => { x with user := b.rb (0x40000 + 8 * x.ctx) 1 }
  if l.length ≥ 16 || (again && !w.reqs.isEmpty) then
    let i := min 15 (l.length - 1)
    { b.inc 0x40320 1 with walks := l.take i ++ ((l.drop i).take 1).map fresh ++ l.drop (i + 1) }
  else { b with walks := l }

/-- WALK_COMPLETE: `descs` are the descriptors that the walk read, after those that the walk cache holds. -/
def Blk.walkComplete (b : Blk) (ctx gran : Nat) (descs : List DescRead) (parity : Bool) : Blk :=
  if !b.live then b
  else if parity then b.blockFatal 0x14
  else
    match (b.walks.take 16).find? (fun w => w.ctx = ctx && w.gran = gran) with
    | none => b
    | some w =>
      let cached := b.cachedDescs ctx gran
      let ds := cached ++ descs
      if w.reqs.any (fun x => b.walk w.user x.2.2 5 ds = .short) then b
      else
        let b := b.inc 0x40328 (6 - b.walkLevel w ds - cached.length)
        if w.discard then b.walkLeave w true
        else w.reqs.foldl (fun b x => b.walkReq w ds x) ((b.walkLeave w false).walkFill w ds)

/-- WALK_COMPLETE. -/
def execWalkComplete (ctx : Fin 64) (gran : BitVec 27) (descs : List DescRead) (parity : Bool) (s : State) : Out :=
  upd (fun b => b.walkComplete ctx.val gran.toNat descs parity) s

/-! ### Parked passes (R289 to R291) -/

/-- A parked pass has settled: no read of it is outstanding and every write of it is acknowledged (R289). -/
def Blk.passSettled (b : Blk) (c q : Nat) : Bool :=
  let k := b.core c
  let s := k.sq q
  s.st = .parked && !s.belayed && k.trk.all (fun t => t.q ≠ q || t.faulted || t.got) && !k.feed.any (fun f => f.q = q) &&
  !k.iq.any (fun a => (a.kind = .expand q || a.kind = .grad q) && a.issued) && s.batches.isEmpty && s.gbatch.isEmpty &&
  !(s.cons.isScat && s.ready.any (fun x => s.scatCan x)) &&
  !b.lx.reqs.any (fun r => match r.kind with | .rgrad c' q' _ _ _ => c' = c && q' = q | _ => false) &&
  s.out.all (fun o => !o.issued && b.inFault (.bagOut c q o.bag))

/-- A settled pass goes on: its reads leave their fault records, and its undelivered elements will be issued again in order (R289,
R291). -/
def Blk.resumePass (b : Blk) (c q : Nat) : Blk :=
  let b := b.leaveWaits (fun r => b.reqQueue r = some (c, q))
  let gone := (b.core c).waits.filter (fun t => t.q = q)
  let s := b.sq c q
  let b := b.updCore c (fun k => { k with waits := k.waits.filter (fun t => t.q ≠ q) })
  let b := if gone.any (fun t => t.kind = .deflt) then
      b.updCmd s.owner (fun m => { m with dflts := m.dflts.filter (fun e => !(e.1 = s.tab.num && e.2 = none)) })
    else b
  b.updSq c q (fun s =>
    let keep := s.flight.filter (fun x => s.cons.isScat && x.kind.isRemote)
    let back := s.flight.filter (fun x => !(s.cons.isScat && x.kind.isRemote))
    { s with
      st := .active, park := none, belayed := false, resumed := false
      flight := keep
      redo := back.foldl (fun l x => insElem x l) s.redo
      parts := [], pbad := [] })

/-- The slots of the faulted reads of a pass that has settled are free; the reads wait in their fault records (R289, R379). -/
def Blk.settleSlots (b : Blk) (c q : Nat) : Blk :=
  let gone := (b.core c).trk.filter (fun t => t.q = q && t.faulted)
  (gone.foldl (fun b t => b.endSlot c t) b).updCore c (fun k => { k with
    trk := k.trk.filter (fun t => !(t.q = q && t.got)), waits := k.waits ++ gone })

/-- The belay record of a settled pass is written; an end or a RESUME that came before takes effect. -/
def Blk.passBelayed (b : Blk) (c q : Nat) : Blk :=
  if !b.passSettled c q then b
  else
    let b := (((b.settleSlots c q).passBelay c q false).updSq c q (fun s => { s with belayed := true })).finishPass c q
    let s := b.sq c q
    if s.st = .parked && s.resumed && !s.ended then b.resumePass c q else b

/-- What is parked in a task context beside its passes: the kind, the fault record, W and NEXT, and the units done above W (R292). -/
def Blk.parkedOps (b : Blk) (c t : Nat) (m : Cmd) : List (Nat × (Nat × Nat) × Nat × Nat × List Nat) :=
  (match (b.task c t).parked with | some sg => [(4, sg, (b.task c t).pc.toNat, 0, [])] | none => []) ++
  ((b.core c).ch.filterMap (fun o => if o.cmd = m.id then o.park.map (fun sg => (1, sg, o.w, o.chunks, [])) else none)) ++
  (b.copies.filterMap (fun x =>
    if x.cmd = m.id then x.park.map (fun sg =>
      let w := ((List.range (x.done.length + 1)).find? (fun i => !x.done.contains i)).getD 0
      (2, sg, w, x.blocks, (x.done.filter (fun i => i > w)).map (fun i => i - w)))
    else none)) ++
  (if m.op = 0x11 || m.op = 0x12 then (match m.park with | some sg => [(3, sg, m.unitW, m.unitN, [])] | none => []) else []) ++
  (b.fences.filterMap (fun f => if f.cmd = m.id && f.phase = .apply then f.park.map (fun sg => (5, sg, 0, 0, [])) else none))

/-- The belay record of what is parked in a task context, once for each fault record. -/
def Blk.opBelayed (b : Blk) (slot c t : Nat) : Blk :=
  match b.taskCmd c t with
  | none => b
  | some m =>
    match (b.parkedOps c t m).find? (fun x => !b.belayed.contains (slot, x.2.1.1, x.2.1.2)) with
    | none => b
    | some (kind, sg, w, nx, us) =>
      let b := { b with belayed := (slot, sg.1, sg.2) :: b.belayed.filter (fun x => x.1 ≠ slot) }
      b.belayWrite slot m.id { kind := kind, final := false, core := c, queue := 0, task := t, ring := m.ring, w := w, bw := 0,
                               fslot := sg.1, fgen := sg.2, pass := 0, next := nx, ubits := us, bbits := [] }

/-- BELAY_RECORD_WRITE. -/
def Blk.belayEvent (b : Blk) (slot : Nat) : Blk :=
  if !b.live then b
  else if slot < 128 then b.passBelayed (slot / 16) (slot % 16)
  else
    let c := (slot - 128) / 4
    let t := (slot - 128) % 4
    if (b.sq c (16 + t)).st = .parked && !(b.sq c (16 + t)).belayed then b.passBelayed c (16 + t) else b.opBelayed slot c t

/-- BELAY_RECORD_WRITE. -/
def execBelayRecordWrite (slot : Fin 160) (s : State) : Out := upd (fun b => b.belayEvent slot.val) s

/-! ### Dispatcher commands: the part they share (R351, R501) -/

/-- Word i of the first extension slot. -/
def Cmd.par (m : Cmd) (i : Nat) : W64 := qw m.ext i

/-- The deadline of a command has been reached. -/
def Blk.dlHit (b : Blk) (m : Cmd) : Bool := m.deadline ≠ 0 && decide (m.deadline ≤ b.time.toNat)

/-- Start a dispatcher command that has passed step 4: its deadline, VER of its slot, the checks of its slot, and its action (R351). -/
def Blk.disp (b : Blk) (id op : Nat) (bad : Cmd → Bool) (act : Blk → Cmd → Blk) : Blk :=
  match b.cmd id with
  | none => b
  | some m =>
    if !b.live || !m.isDisp || m.op ≠ op || m.phase ≠ .disp || m.begun || m.ending then b
    else
      let b := b.updCmd id (fun m => { m with begun := true })
      if b.dlHit m then b.endCmd id .deadline
      else if fld (m.par 0) 0 4 ≠ 1 then b.failCmd id 0x50
      else if bad m then b.failCmd id 0x51
      else act b m

/-- The work of a command is done; its completion follows. -/
def Blk.cmdReady (b : Blk) (id : Nat) : Blk := b.updCmd id (fun m => { m with ready := true })

/-! ### XLT_INVAL (R280, R281) -/

/-- SCOPE of an invalidation. -/
def Cmd.scope (m : Cmd) : Nat := fld (m.par 0) 4 2
/-- CTX of an invalidation. -/
def Cmd.ictx (m : Cmd) : Nat := fld (m.par 0) 8 6

/-- The checks of R280. -/
def xiBad (m : Cmd) : Bool :=
  anyOf [
    res (m.par 0) 6 2, res (m.par 0) 14 50, res (m.par 1) 57 7, res (m.par 2) 28 36, m.scope = 3,
    m.scope = 2 && m.ictx ≠ 0, m.par 3 ≠ 0, m.par 4 ≠ 0, m.par 5 ≠ 0, m.par 6 ≠ 0, m.par 7 ≠ 0,
    fld (m.par 1) 0 57 % 2 ^ 30 ≠ 0,
    if m.scope = 0 then fld (m.par 2) 0 28 = 0 || fld (m.par 2) 0 28 > 2 ^ 27 else m.par 1 ≠ 0 || m.par 2 ≠ 0]

/-- A context is in scope. -/
def Cmd.inCtx (m : Cmd) (ctx : Nat) : Bool := m.scope = 2 || m.ictx = ctx

/-- A page of n granules from g on of a context overlaps the scope. -/
def Cmd.inScope (m : Cmd) (ctx g n : Nat) : Bool :=
  let lo := fld (m.par 1) 0 57 / 2 ^ 30
  m.inCtx ctx && (m.scope ≠ 0 || (decide (g < lo + fld (m.par 2) 0 28) && decide (lo < g + n)))

/-- A translation overlaps the scope. -/
def Tlb.hit (t : Tlb) (m : Cmd) : Bool := m.inScope t.ctx t.gran (if t.big then 512 else 1)

/-- Uses in flight of removed translations: device writes (0), reads of tracker slots (1 + core), output writes (100 + 32 core + queue),
write requests to other chips (400). -/
def Blk.xiUses (b : Blk) (gone : List Tlb) (m : Cmd) : List (Nat × Nat) :=
  let inPa := fun (pa : Nat) => gone.any (fun t => t.dev && decide (t.pa ≤ pa ∧ pa < t.pa + (if t.big then 2 ^ 39 else 2 ^ 30)))
  let inVa := fun (ctx va : Nat) => gone.any (fun t => t.covers ctx va)
  (b.wq.filter (fun w => inPa w.pa)).map (fun w => (0, w.id)) ++
  b.cores.flatMap (fun e => (e.2.trk.filter (fun t => t.pieces.any (fun p => inVa (e.2.sq t.q).ctx p.va))).map (fun t => (1 + e.1, t.id))) ++
  b.cores.flatMap (fun e => e.2.qs.flatMap (fun q =>
    (q.2.out.filter (fun o => o.issued && inVa q.2.ctx o.va)).map (fun o => (100 + 32 * e.1 + q.1, o.bag)))) ++
  (b.lx.reqs.filter (fun r => match r.kind with
    | .write (some id) => ((b.cmd id).map (fun c => m.inCtx c.ctx)).getD false
    | _ => false)).map (fun r => (400, r.tag))

/-- A use has not ended. -/
def Blk.useOpen (b : Blk) (u : Nat × Nat) : Bool :=
  if u.1 = 0 then b.wq.any (fun w => w.id = u.2)
  else if u.1 ≤ 8 then (b.core (u.1 - 1)).trk.any (fun t => t.id = u.2)
  else if u.1 = 400 then b.lx.reqs.any (fun r => r.tag = u.2)
  else (b.sq ((u.1 - 100) / 32) ((u.1 - 100) % 32)).out.any (fun o => o.bag = u.2)

/-- XLT_INVAL is accepted: the entries in scope are removed, running walks will be discarded, uses in flight are waited for. -/
def Blk.xltInval (b : Blk) (m : Cmd) : Blk :=
  let gone := (b.l2 ++ b.l1.flatMap (·.2)).filter (fun t => t.hit m)
  let keep := fun (l : List Tlb) => l.filter (fun t => !t.hit m)
  { b with
    l2 := keep b.l2
    l1 := (b.l1.map (fun e => (e.1, keep e.2))).filter (fun e => e.2 ≠ [])
    wcache := b.wcache.filter (fun e => !m.inCtx e.1)
    walks := (b.walks.take 16).map (fun (w : Walk) => if m.inCtx w.ctx then { w with discard := true } else w) ++ b.walks.drop 16
    invals := b.invals ++ [{ cmd := m.id, uses := b.xiUses gone m }] }

/-- XLT_INVAL. -/
def execXltInval (id : Nat) (s : State) : Out := upd (fun b => b.disp id 0x20 xiBad Blk.xltInval) s

/-- XLT_INVAL_COMPLETE: every use in flight of a removed translation has ended (R281). -/
def Blk.xltInvalDone (b : Blk) (id : Nat) : Blk :=
  match b.invals.find? (fun x => x.cmd = id) with
  | none => b
  | some x =>
    if !b.live || x.uses.any b.useOpen then b
    else ({ b.inc 0x40348 1 with invals := b.invals.filter (fun y => y.cmd ≠ id) } : Blk).cmdReady id

/-- XLT_INVAL_COMPLETE. -/
def execXltInvalComplete (id : Nat) (s : State) : Out := upd (fun b => b.xltInvalDone id) s

/-! ### RESUME (R285, R289, R291) -/

/-- The checks of RESUME's slot. -/
def rsBad (m : Cmd) : Bool := anyOf [res (m.par 0) 4 4, res (m.par 0) 24 40, (List.range 7).any (fun i => m.par (i + 1) ≠ 0)]

/-- A waiter of a resumed record that is not a pass walks again. -/
def Blk.resumeReq (b : Blk) (sg : Nat × Nat) (ctx : Nat) (x : Req × Nat × Bool) : Blk :=
  match b.reqQueue x.1 with
  | some _ => b
  | none => (b.unparkReq x.1 sg).addWalk x.1 ctx x.2.1 x.2.2

/-- Passes that a record parked go on: at once where they have settled, else once their belay record is written. -/
def Blk.resumePasses (b : Blk) (sg : Nat × Nat) : Blk :=
  iter 8 (fun c b => iter 20 (fun q b =>
    let s := b.sq c q
    if s.st = .parked && s.park = some sg && !s.ended then
      (if s.belayed then b.resumePass c q else b.updSq c q (fun s => { s with resumed := true }))
    else b) b) b

/-- RESUME: the waiters of a record whose generation matches walk again and its slot is freed; another generation does nothing. -/
def Blk.resume (b : Blk) (m : Cmd) : Blk :=
  let i := fld (m.par 0) 8 8
  let g := fld (m.par 0) 16 8
  let s := Tab.get {} b.ft i
  if !s.valid || s.gen ≠ g then b.cmdReady m.id
  else
    let b := { b with ft := Tab.set {} b.ft i { gen := s.gen } }
    let b := s.waiters.foldl (fun b x => b.resumeReq (i, g) s.ctx x) b
    ((b.resumePasses (i, g)).ftRetry).cmdReady m.id

/-- RESUME. -/
def execResume (id : Nat) (s : State) : Out := upd (fun b => b.disp id 0x21 rsBad Blk.resume) s

/-! ### DC_INVAL (R352) -/

/-- The checks of DC_INVAL's slot. -/
def diBad (m : Cmd) : Bool :=
  anyOf [
    res (m.par 0) 6 2, res (m.par 0) 14 50, res (m.par 1) 57 7, res (m.par 2) 41 23, m.scope = 3, fld (m.par 1) 0 57 % 64 ≠ 0,
    (List.range 5).any (fun i => m.par (i + 3) ≠ 0), m.scope ≠ 0 && (m.par 1 ≠ 0 || m.par 2 ≠ 0)]

/-- A cached descriptor, by context and block number, is in scope. -/
def Cmd.dcHit (m : Cmd) (ctx n : Nat) : Bool :=
  let lo := fld (m.par 1) 0 57
  m.inCtx ctx && (m.scope ≠ 0 || (decide (64 * n < lo + fld (m.par 2) 0 41) && decide (lo < 64 * n + 64)))

/-- DC_INVAL: cached descriptors in scope and every resident expansion matrix are discarded. -/
def Blk.dcInval (b : Blk) (m : Cmd) : Blk :=
  (iter 8 (fun c (b : Blk) => b.clearPlanes c) { b with dcache := b.dcache.filter (fun e => !m.dcHit e.1 e.2.1) }).cmdReady m.id

/-- DC_INVAL. -/
def execDcInval (id : Nat) (s : State) : Out := upd (fun b => b.disp id 0x22 diBad Blk.dcInval) s

end Sys2Proof.Machine
end

