-- ==== Sys2Proof/Machine/Rings.lean ====
section
/-! DEFINITION. Command rings and completion rings (R338 to R345, R349, R350, R356, R502), the registers of the fault ring and the
event ring (R358), and interrupts (R360). -/
namespace Sys2Proof.Machine

/-- Positions of a ring are counted modulo this (R339). -/
def ringMod : Nat := 2 ^ 17
/-- Register of ring n at offset o of its block: 0 BASE, 8 CBASE, 16 DIR, 24 HEAD, 32 CHEAD. -/
def ringReg (n o : Nat) : Nat := 0x10000 + 0x40 * n + o
/-- Entries of a ring. -/
def Ring.size (x : Ring) : Nat := 2 ^ x.log2
/-- The expected phase of position p (R339). -/
def phaseAt (log2 p : Nat) : Bool := !p.testBit log2
/-- The ring is in use. -/
def Blk.ringEn (b : Blk) (n : Nat) : Bool := b.rb (ringReg n 0) 0
/-- The translation context is enabled (R274). -/
def Blk.ctxEn (b : Blk) (n : Nat) : Bool := b.rb (0x40000 + 8 * n) 0
/-- HEAD. -/
def Blk.ringHead (b : Blk) (n : Nat) : Nat := b.rf (ringReg n 24) 0 17
/-- CTAIL. -/
def Blk.ctail (b : Blk) (n : Nat) : Nat := b.rf (ringReg n 24) 32 17
/-- How far position q lies ahead of position p. -/
def ahead (p q : Nat) : Nat := (q + ringMod - p % ringMod) % ringMod

/-- HALT shows a halt of either side (R349, R502). -/
def Blk.ringHalt (b : Blk) (n : Nat) : Blk :=
  b.setFld (ringReg n 24) 17 1 (if (b.ring n).stop || (b.ring n).held then 1 else 0)

/-- A command that has been read from the ring has not completed, or its record or word is not written. -/
def Blk.ringBusy (b : Blk) (n : Nat) : Bool :=
  b.cmds.any (fun m => m.ring = n && m.served.isNone) || !(b.ring n).recs.isEmpty || !(b.ring n).words.isEmpty

/-! ### CK_RING_BASE (R340) -/

/-- A new enable of ring n: the fields are taken and every position starts at 0; marks stay. -/
def Blk.ringTakeUp (b : Blk) (n : Nat) : Blk :=
  let b := b.updRing n (fun x => {
    base := BitVec.ofNat 64 (4096 * b.rf (ringReg n 0) 12 45)
    log2 := clamp 6 16 (b.rf (ringReg n 0) 1 5)
    cbase := BitVec.ofNat 64 (4096 * b.rf (ringReg n 8) 12 45)
    dbase := BitVec.ofNat 64 (4096 * b.rf (ringReg n 16) 19 45)
    dcount := min 65536 (b.rf (ringReg n 16) 0 17)
    marks := x.marks })
  b.setReg (ringReg n 24) 0

/-- A write of CK_RING_BASE[n]. -/
def Blk.ringBaseWrite (b : Blk) (n : Nat) (h : Half) (v : W64) : Blk :=
  let o := ringReg n 0
  if !b.regOpen o then b
  else if b.ringEn n then
    if covers h 0 && !bit (halfVal h v) 0 then (b.setFld o 0 1 0).updRing n (fun x => { x with part := [], tries := 0, again := none })
    else b
  else
    let b := (b.fieldWrite o h v).setFld o 0 1 0
    if wrOne h v 0 && !b.ringBusy n then (b.setFld o 0 1 1).ringTakeUp n else b

/-- RING_ENABLE. -/
def execRingEnable (n : Fin 64) (h : Half) (v : W64) (s : State) : Out := upd (fun b => b.ringBaseWrite n.val h v) s
/-- RING_DISABLE. -/
def execRingDisable (n : Fin 64) (h : Half) (v : W64) (s : State) : Out := upd (fun b => b.ringBaseWrite n.val h v) s

/-- CHEAD_WRITE (R342, R343). -/
def execCheadWrite (n : Fin 64) (h : Half) (v : W64) (s : State) : Out :=
  upd (fun b => onlyIf (b.regOpen (ringReg n.val 32)) (fun b => b.fieldWrite (ringReg n.val 32) h v) b) s

/-! ### Doorbells (R349, R432) -/

/-- What brings the block out of Doze: at once from Doze, after the entry while Doze is being entered (R429, R432, R441). -/
def Blk.wakeUp (b : Blk) : Blk :=
  match b.pwr.st with
  | .doze => { b with pwr := { b.pwr with st := .resume } }
  | .dozeIn => { b with pwr := { b.pwr with dbWake := true } }
  | _ => b

/-- The tail of a doorbell is behind the previous one, or too far ahead of HEAD. -/
def Blk.dbBad (b : Blk) (n t : Nat) : Bool :=
  let x := b.ring n
  let d := ahead (b.ringHead n) t
  decide (d < ahead (b.ringHead n) x.tail) || decide (d > x.size)

/-- An accepted doorbell: the tail is recorded, the reads restart at HEAD, and held completion writes are tried again (R349, R502). -/
def Blk.dbTake (b : Blk) (n t : Nat) : Blk :=
  (b.updRing n (fun x => { x with tail := t, stop := false, refused := false, tries := 0, again := none, part := [] })).ringHalt n

/-- DOORBELL. -/
def Blk.doorbell (b : Blk) (n : Nat) (h : Half) (v : W64) : Blk :=
  if b.resetting || b.pwr.halt || !covers h 0 then b
  else
    let b := if b.rb 0x2000 8 then b.wakeUp else b
    let t := fld (halfVal h v) 0 17
    if !b.ringEn n then b
    else if !b.ctxEn n || b.dbBad n t then b.event 0x11 n 0 0 [wholeVal h v]
    else b.dbTake n t

/-- DOORBELL. -/
def execDoorbell (n : Fin 64) (h : Half) (v : W64) (s : State) : Out := upd (fun b => b.doorbell n.val h v) s

/-! ### Reading ring entries (R343, R345, R349, R353) -/

/-- The dispatcher reads ring n (R273, R343, R431, R458, R472). -/
def Blk.ringReads (b : Blk) (n : Nat) : Bool :=
  let x := b.ring n
  b.issues && !b.sec.scrub && b.ringEn n && b.ctxEn n && !x.stop && !x.held && x.again.isNone && b.ringHead n ≠ x.tail &&
  decide (ahead (b.rf (ringReg n 32) 0 17) x.copied < x.size)

/-- The read side of ring n halts. -/
def Blk.ringStop (b : Blk) (n : Nat) : Blk :=
  (b.updRing n (fun x => { x with stop := true, part := [], tries := 0, again := none })).ringHalt n

/-- Q2 of the events of a ring: status, side, position. -/
def ringQ2 (st side pos : Nat) : W64 := BitVec.ofNat 64 (st + side <<< 8 + pos <<< 24)

/-- Status of RING_ERROR for a translation failure. -/
def ringStatus (kind : Nat) : Nat := if kind = 6 then 0x40 else 0x32

/-- A command has been read whole: it is copied, HEAD passes its entries, and marks that HEAD passes are taken or discarded. -/
def Blk.ringCopy (b : Blk) (n : Nat) (l : List Sect) : Blk :=
  let x := b.ring n
  let pos := b.ringHead n
  let m : Cmd := {
    id := b.nextCmd, ring := n, pos := pos, cdVa := x.base.toNat + 64 * (pos % x.size)
    cd := (l.take 1).flatMap Sect.words, ext := (l.drop 1).flatMap Sect.words
    cbase := x.cbase, clog := x.log2, dbase := x.dbase, dcount := x.dcount }
  let b := { b with cmds := b.cmds ++ [m], nextCmd := b.nextCmd + 1, sec := { b.sec with zero := false } }
  let b := b.updRing n (fun x => { x with
    copied := (x.copied + 1) % ringMod, part := [], tries := 0
    marks := x.marks.filter (fun p => decide (l.length ≤ ahead pos p)) })
  let b := b.setFld (ringReg n 24) 0 17 ((pos + l.length) % ringMod)
  if x.marks.contains pos then b.endCmd m.id .abort else b

/-- A ring entry has been read. -/
def Blk.ringTake (b : Blk) (n : Nat) (w : Sect) : Blk :=
  let x := b.ring n
  let pos := b.ringHead n
  match x.part with
  | [] =>
    if bit w 4 ≠ phaseAt x.log2 pos then
      if x.tries < b.rf 0x20800 0 8 then b.updRing n (fun x => { x with tries := x.tries + 1, again := some b.time.toNat })
      else (b.ringStop n).event 0x10 n 0 0 [ringQ2 0x52 0 pos]
    else if ahead pos x.tail < 1 + fld w 5 2 then b
    else if fld w 5 2 = 0 then b.ringCopy n [w]
    else b.updRing n (fun x => { x with part := [w] })
  | c :: l =>
    if l.length + 1 = fld c 5 2 then b.ringCopy n (c :: l ++ [w])
    else b.updRing n (fun x => { x with part := c :: l ++ [w] })

/-- The read of the next entry of ring n returns. -/
def Blk.ringRead (b : Blk) (n : Nat) (r : Resp) : Blk :=
  let x := b.ring n
  let pos := (b.ringHead n + x.part.length) % ringMod
  let va := x.base.toNat + 64 * (pos % x.size)
  let bad := fun (b : Blk) (st : Nat) => (b.ringStop n).event 0x12 n 0 0 [ringQ2 st 0 pos, BitVec.ofNat 64 va]
  if !b.ringReads n then b
  else
    match b.words (.ring n) n { blocks := [(va / 64, r)] } va 8 with
    | (b, .ok w) => b.ringTake n (sectOf (wordBytes w))
    | (b, .wait) => b
    | (b, .st st) => bad b st
    | (b, .xlt k _) => bad b (ringStatus k)

/-- RING_ENTRY_READ. -/
def execRingEntryRead (n : Fin 64) (r : Resp) (s : State) : Out := upd (fun b => b.ringRead n.val r) s

/-- DOORBELL_RETRY: 64 T-ticks after a stale entry returned, its read is issued again. -/
def execDoorbellRetry (n : Fin 64) (s : State) : Out :=
  upd (fun b =>
    match (b.ring n.val).again with
    | some t => if b.issues && decide (t + 64 ≤ b.time.toNat) then b.updRing n.val (fun x => { x with again := none }) else b
    | none => b) s

/-! ### Completion records and words (R339, R343, R356, R502) -/

/-- Held writes have succeeded: copying resumes. -/
def Blk.ringFreed (b : Blk) (n : Nat) : Blk :=
  let x := b.ring n
  if x.held && x.recs.isEmpty && x.words.isEmpty then (b.updRing n (fun x => { x with held := false })).ringHalt n else b

/-- A completion write fails: the ring halts and its later writes are held. -/
def Blk.complBad (b : Blk) (n st pos va : Nat) : Blk :=
  ((b.updRing n (fun x => { x with refused := true, held := true })).ringHalt n).event 0x12 n 0 0
    [ringQ2 st 1 pos, BitVec.ofNat 64 va]

/-- Completion writes of ring n can be made: none is made after a block-fatal error, in the hold, while a failed one is held, or while the
context is disabled (R273, R435, R472, R502). -/
def Blk.complOpen (b : Blk) (n : Nat) : Bool := b.issues && !(b.ring n).refused && b.ctxEn n

/-- Where the record at CTAIL lies. -/
def Rec.va (r : Rec) (pos : Nat) : Nat := r.cbase.toNat + 32 * (pos % 2 ^ r.clog)

/-- COMPLETION_RECORD_ACK: the oldest record that waits is written at CTAIL; its completion word follows, or its interrupt. -/
def Blk.recAck (b : Blk) (n : Nat) : Blk :=
  match (b.ring n).recs with
  | [] => b
  | r :: rest =>
    let pos := b.ctail n
    let q0 := qw r.w 0 ||| (if phaseAt r.clog pos then 16 else 0)
    if !b.complOpen n then b
    else
      match b.xlWrite (.compl n) n (r.va pos) (wordBytes (q0 :: r.w.drop 1)) with
      | (b, .wait) => b
      | (b, .fail k) => b.complBad n (ringStatus k) pos (r.va pos)
      | (b, .parts ps) =>
        let b := (b.doParts none ps).setFld (ringReg n 24) 32 17 ((pos + 1) % ringMod)
        let b := b.updRing n (fun x => { x with
          recs := rest, words := if r.caddr = 0 then x.words else x.words ++ [{ r with place := pos, q0 := q0 }] })
        (if r.caddr = 0 && r.irq then b.trigger n else b).ringFreed n

/-- COMPLETION_RECORD_ACK. -/
def execCompletionRecordAck (n : Fin 64) (s : State) : Out := upd (fun b => b.recAck n.val) s

/-- COMPLETION_WORD_ACK: the oldest completion word that waits is written; the interrupt follows. -/
def Blk.wordAck (b : Blk) (n : Nat) : Blk :=
  match (b.ring n).words with
  | [] => b
  | r :: rest =>
    if !b.complOpen n then b
    else
      match b.xlWrite (.cword n) n r.caddr.toNat (wordBytes [r.q0]) with
      | (b, .wait) => b
      | (b, .fail k) => b.complBad n (ringStatus k) r.place r.caddr.toNat
      | (b, .parts ps) =>
        let b := (b.doParts none ps).updRing n (fun x => { x with words := rest })
        (if r.irq then b.trigger n else b).ringFreed n

/-- COMPLETION_WORD_ACK. -/
def execCompletionWordAck (n : Fin 64) (s : State) : Out := upd (fun b => b.wordAck n.val) s

/-- COMPLETION_WRITE_REFUSED: the host port refuses the oldest completion write, a word before a later record. -/
def Blk.complRefused (b : Blk) (n : Nat) (poison : Bool) : Blk :=
  let st := if poison then 0x40 else 0x32
  if !b.complOpen n then b
  else
    match (b.ring n).words, (b.ring n).recs with
    | r :: _, _ => b.complBad n st r.place r.caddr.toNat
    | [], r :: _ => b.complBad n st (b.ctail n) (r.va (b.ctail n))
    | [], [] => b

/-- COMPLETION_WRITE_REFUSED. -/
def execCompletionWriteRefused (n : Fin 64) (poison : Bool) (s : State) : Out := upd (fun b => b.complRefused n.val poison) s

/-! ### Fault ring, event ring, interrupts -/

/-- A write of CK_FRING_BASE or CK_ERING_BASE: locked while EN = 1; at an enable the fields are taken and TAIL restarts at 0. -/
def Blk.recRingWrite (b : Blk) (o : Nat) (h : Half) (v : W64) (take : Blk → Blk) : Blk :=
  if !b.regOpen o then b
  else if b.rb o 0 then (if covers h 0 && !bit (halfVal h v) 0 then b.setFld o 0 1 0 else b)
  else
    let b := b.fieldWrite o h v
    if b.rb o 0 then take b else b

/-- A write of CK_FRING_BASE: at an enable the fault records that wait are written; a fault that waited for a slot asks again, which
with EN = 0 handles it as one that is not resumable (R358). -/
def Blk.fringWrite (b : Blk) (h : Half) (v : W64) : Blk :=
  (b.recRingWrite 0x11000 h v (fun b =>
    ({ b.setFld 0x11008 32 17 0 with fringLog := clamp 6 12 (b.rf 0x11000 1 4), fringBase := 4096 * b.rf 0x11000 12 40 } : Blk).drainFaults)).ftRetry

/-- A write of CK_ERING_BASE. -/
def Blk.eringWrite (b : Blk) (h : Half) (v : W64) : Blk :=
  b.recRingWrite 0x11010 h v (fun b =>
    { b.setFld 0x11018 24 24 0 with eringLog := clamp 12 24 (b.rf 0x11010 1 5), eringBase := 4096 * b.rf 0x11010 12 40 })

/-- FAULT_RING_ENABLE. -/
def execFaultRingEnable (h : Half) (v : W64) (s : State) : Out := upd (fun b => b.fringWrite h v) s

/-- EVENT_RING_ENABLE. -/
def execEventRingEnable (h : Half) (v : W64) (s : State) : Out := upd (fun b => b.eringWrite h v) s

/-- A write of either word of CK_MSI[v]; a held message is sent where MASK = 0 and EN = 1 then hold. -/
def Blk.msiWrite (b : Blk) (v : Nat) (word1 : Bool) (h : Half) (x : W64) : Blk :=
  let o := if word1 then msi1 v else msi0 v
  if b.regOpen o then (b.fieldWrite o h x).msiRelease v else b

/-- MSI_WRITE. -/
def execMsiWrite (v : Fin 66) (word1 : Bool) (h : Half) (x : W64) (s : State) : Out := upd (fun b => b.msiWrite v.val word1 h x) s

end Sys2Proof.Machine
end

