-- ==== Sys2Proof/Machine/Ports.lean ====
section
/-! DEFINITION. The inlet window (R361, R362) and the adapter port (R269 to R272), with what low power and the brown-out hold do to
their writes (R432, R434), and the passage of writes at the row cache and the device ports (R80). -/
namespace Sys2Proof.Machine

/-- Device bytes that a port write may not reach: they do not exist, or its confidential region has no key (R249, R450). -/
def Blk.portRefused (b : Blk) (cr pa n : Nat) : Bool := !b.paRange pa n || (cr ≠ 0 && !b.active cr)

/-- An inlet write is dropped whole (R362). -/
def Blk.inletDrop (b : Blk) (pa n : Nat) : Blk := b.event 0x51 0 0 0 [BitVec.ofNat 64 n, BitVec.ofNat 64 pa]

/-- Device address of an offset of the inlet window. -/
def Blk.inletPa (b : Blk) (off : Nat) : Nat := 4096 * b.rf 0x1100 12 34 + off

/-- The host port takes an inlet write. -/
def Blk.inletTake (b : Blk) (off : Nat) (bytes : List Byte) : Blk :=
  let pa := b.inletPa off
  let cr := b.rf 0x1100 0 4
  if b.portRefused cr pa bytes.length then b.inletDrop pa bytes.length
  else
    let r := b.queueWrite cr pa bytes none
    { r.1 with inletQ := r.1.inletQ ++ [(r.2, bytes.length)] }

/-- Writes at the inlet and adapter ports are held under their flow control (R432, R434, R472). -/
def Blk.portHeld (b : Blk) : Bool := b.pwr.hold || b.pwr.halt || b.pwr.st ≠ .run

/-- INLET_WRITE. -/
def Blk.inletWrite (b : Blk) (off : Nat) (bytes : List Byte) : Blk :=
  if b.resetting || bytes.isEmpty then b
  else if b.pwr.st = .nap then b.inletDrop (b.inletPa off) bytes.length
  else if b.portHeld then
    let b := b.wakeUp
    { b with pwr := { b.pwr with inletHeld := b.pwr.inletHeld ++ [(off, bytes)] } }
  else b.inletTake off bytes

/-- INLET_WRITE. -/
def execInletWrite (off : Nat) (bytes : List Byte) (s : State) : Out := upd (fun b => b.inletWrite off bytes) s

/-- INLET_WRITE_ACK: the oldest inlet write in flight is acknowledged at the device port, or is refused there and dropped. -/
def Blk.inletAck (b : Blk) (refused : Bool) : Blk :=
  match b.inletQ with
  | [] => b
  | (id, n) :: rest =>
    if !b.live then b
    else if refused then
      match b.wq.find? (fun w => w.id = id) with
      | some w => ({ b with wq := b.wq.filter (fun x => x.id ≠ id), inletQ := rest } : Blk).inletDrop w.pa n
      | none => b
    else if b.passed [id] then { b.inc 0x1108 n with inletQ := rest }
    else b

/-- INLET_WRITE_ACK. -/
def execInletWriteAck (refused : Bool) (s : State) : Out := upd (fun b => b.inletAck refused) s

/-! ### The adapter port -/

/-- The lowest-numbered enabled region that names the adapter and wholly contains the write: its number (R269, R271). -/
def Blk.apRegion (b : Blk) (adapter pa n : Nat) : Option Nat :=
  (b.regs.find? (fun e =>
    let w1 := b.reg (e.1 + 8)
    let base := 4096 * fld e.2 12 34
    decide (0x31000 ≤ e.1) && decide (e.1 < 0x32000) && e.1 % 16 = 0 && bit e.2 0 && fld w1 48 16 = adapter &&
    decide (base ≤ pa) && decide (pa + n ≤ base + 4096 * fld w1 0 34))).map (fun e => (e.1 - 0x31000) / 16)

/-- An adapter write is dropped whole: counted, logged, recorded (R270, R272). -/
def Blk.adDrop (b : Blk) (adapter pa n : Nat) : Blk :=
  ((b.inc 0x30508 1).log 0x30500 0 (BitVec.ofNat 64 (adapter <<< 16 + (pa >>> 14) <<< 32))).event 0x50 0 0 0
    [BitVec.ofNat 64 (adapter + n <<< 16), BitVec.ofNat 64 pa]

/-- The adapter port takes a write. -/
def Blk.adTake (b : Blk) (adapter pa : Nat) (bytes : List Byte) : Blk :=
  match b.apRegion adapter pa bytes.length with
  | none => b.adDrop adapter pa bytes.length
  | some k =>
    let cr := b.rf (0x31008 + 16 * k) 36 4
    if b.portRefused cr pa bytes.length then b.adDrop adapter pa bytes.length
    else (b.queueWrite cr pa bytes none).1

/-- ADAPTER_WRITE. -/
def Blk.adapterWrite (b : Blk) (adapter : BitVec 16) (pa : BitVec 46) (bytes : List Byte) : Blk :=
  if b.resetting || bytes.isEmpty then b
  else if b.pwr.st = .nap then b.adDrop adapter.toNat pa.toNat bytes.length
  else if b.portHeld then
    let b := b.wakeUp
    { b with pwr := { b.pwr with adHeld := b.pwr.adHeld ++ [(adapter, pa, bytes)] } }
  else b.adTake adapter.toNat pa.toNat bytes

/-- ADAPTER_WRITE. -/
def execAdapterWrite (adapter : BitVec 16) (pa : BitVec 46) (bytes : List Byte) (s : State) : Out :=
  upd (fun b => b.adapterWrite adapter pa bytes) s

/-- Held port writes go on, once the block runs and is not held. -/
def Blk.portsGo (b : Blk) : Blk :=
  if b.portHeld then b
  else
    let i := b.pwr.inletHeld
    let a := b.pwr.adHeld
    let b := { b with pwr := { b.pwr with inletHeld := [], adHeld := [] } }
    a.foldl (fun b x => b.adTake x.1.toNat x.2.1.toNat x.2.2) (i.foldl (fun b x => b.inletTake x.1 x.2) b)

/-- Held port writes that find the block in Nap are dropped. -/
def Blk.portsDrop (b : Blk) : Blk :=
  let i := b.pwr.inletHeld
  let a := b.pwr.adHeld
  let b := { b with pwr := { b.pwr with inletHeld := [], adHeld := [] } }
  a.foldl (fun b x => b.adDrop x.1.toNat x.2.1.toNat x.2.2.length) (i.foldl (fun b x => b.inletDrop (b.inletPa x.1) x.2.length) b)

/-! ### CACHE_WRITE_PASS -/

/-- The oldest write on its way to a device port passes its row-cache slices and its port; what array instructions wait for may
end with it. -/
def Blk.writePass (b : Blk) : Blk :=
  match b.wq with
  | w :: t =>
    if b.live then iter 8 (fun c b => b.arraySweep c) (({ b with wq := t } : Blk).passWrite w.cr w.pa w.bytes) else b
  | [] => b

/-- CACHE_WRITE_PASS. -/
def execCacheWritePass (s : State) : Out := upd Blk.writePass s

end Sys2Proof.Machine
end

