-- ==== Sys2Proof/Machine/Start.lean ====
section
/-! DEFINITION. Starting a command (R344, R346, R347, R351, R500, R501): the checks of its CD, what it waits for, the choice of its core
and the short path (R66, R67). -/
namespace Sys2Proof.Machine

/-- INLETW. -/
def Cmd.inletw (m : Cmd) : Nat := (qw m.cd 4).toNat
/-- CADDR. -/
def Cmd.caddr (m : Cmd) : W64 := BitVec.ofNat 64 (fld (qw m.cd 2) 0 57)
/-- FLUSH. -/
def Cmd.flush (m : Cmd) : Bool := bit (qw m.cd 0) 17

/-- The opcode is assigned (R346). -/
def opAssigned (op : Nat) : Bool := op = 1 || op = 2 || (0x10 ≤ op && op ≤ 0x16) || (0x20 ≤ op && op ≤ 0x25)

/-- PTR and NEXT disagree with the opcode (R346, R347). -/
def Cmd.ptrBad (m : Cmd) : Bool :=
  let op := m.op
  if op = 1 then m.ptr ≠ 0 || m.next ≠ 0
  else if op = 2 then m.ptr = 0
  else if 0x10 ≤ op && op ≤ 0x16 then m.ptr = 0 && m.next = 0
  else if 0x20 ≤ op && op ≤ 0x25 then m.ptr ≠ 0 || m.next = 0
  else false

/-- An address field of an inline parameter slot is misaligned (R500): a descriptor address of a block in the first extension slot, BASE of
XLT_INVAL or of DC_INVAL. -/
def Cmd.slotMis (m : Cmd) : Bool :=
  let a := fun (i n : Nat) => fld (m.par i) 0 57 % n ≠ 0
  let op := m.op
  if 0x10 ≤ op && op ≤ 0x16 && m.ptr = 0 then
    if op = 0x10 then (List.range 6).any (fun i => a (i + 1) 64)
    else if op = 0x13 then a 1 64 || a 2 64
    else a 1 64
  else if op = 0x20 then a 1 (2 ^ 30)
  else if op = 0x22 then a 1 64
  else false

/-- Step 2 of R351. -/
def Cmd.cdBad (m : Cmd) : Bool :=
  let w := qw m.cd
  anyOf [
    bit (w 0) 7, res (w 0) 20 12, res (w 0) 40 24, res (w 2) 57 7, res (w 3) 57 7, w 5 ≠ 0, w 6 ≠ 0, w 7 ≠ 0,
    m.anycore && m.coreHint ≠ 0, m.ptr % 64 ≠ 0, fld (w 2) 0 57 % 8 ≠ 0, m.ptrBad, m.slotMis]

/-- Every core that the build has is fatal. -/
def Blk.allFatal (b : Blk) : Bool := (List.range b.build.cores).all (fun c => (b.core c).fatal)

/-- Steps 1 to 3 of R351: the status of the first that fails. -/
def Blk.startBad (b : Blk) (m : Cmd) : Option Nat :=
  if fld (qw m.cd 0) 0 4 ≠ 1 then some 0x50
  else if m.cdBad then some 0x51
  else if !opAssigned m.op || (!m.anycore && decide (b.build.cores ≤ m.coreHint)) then some 0x53
  else if m.isDisp then none
  else if (if m.anycore then b.allFatal else (b.core m.coreHint).fatal) then some 0x42
  else none

/-! ### The short path (R66) -/

/-- The parameter block of a command: at PTR, or its first extension slot (R347). -/
def Blk.parBlock (b : Blk) (m : Cmd) (rd : View) : Blk × Ds (List W64) :=
  if m.ptr ≠ 0 then b.words (.desc m.id) m.ctx rd m.ptr 8 else (b, .ok (m.ext.take 8))

/-- Address field i of a parameter block. -/
def pbAddr (pb : List W64) (i : Nat) : Nat := fld (qw pb i) 0 57
/-- NP. -/
def lpNp (pb : List W64) : Nat := fld (qw pb 0) 4 2
/-- INL. -/
def lpInl (pb : List W64) : Bool := bit (qw pb 0) 6
/-- BINL. -/
def lpBinl (pb : List W64) : Bool := bit (qw pb 0) 7

/-- An SD and its table meet the conditions of the short path. -/
def shortOk (sd : List W64) (t : TableCopy) (inl : Bool) : Bool :=
  sdElems sd ≤ 64 && t.stride ≤ 32 && (inl || (sdDims sd = 1 && sdStride sd 0 = (sdIw sd : Int) && sdElems sd * sdIw sd ≤ 512))

/-- A lookup-and-pool command qualifies for the short path; what cannot be read or checked does not. -/
def Blk.shortPath (b : Blk) (m : Cmd) (rd : View) : Blk × Ds Bool :=
  let no := fun (x : Blk × Ds Bool) =>
    match x with
    | (b, .wait) => (b, Ds.wait)
    | (b, .ok v) => (b, .ok v)
    | (b, _) => (b, .ok false)
  if m.op ≠ 0x10 then (b, .ok false)
  else
    no (Ds.bind (b.parBlock m rd) (fun b pb =>
      if lpNp pb ≠ 1 || pbAddr pb 1 % 64 ≠ 0 then (b, .ok false)
      else
        Ds.bind (b.desc (.desc m.id) m.ctx rd (pbAddr pb 1)) (fun b sd =>
          if sdElems sd > 64 then (b, .ok false)
          else Ds.bind (b.sdCheck m rd sd (lpInl pb)) (fun b t => (b, .ok (shortOk sd t (lpInl pb)))))))

/-! ### Placement (R18, R19, R344) -/

/-- The command is in steps 1 to 4 of R351: copied, or waiting in a work queue for a task context. -/
def Cmd.inStep4 (m : Cmd) : Bool :=
  match m.phase with
  | .copied => true
  | .queued _ => true
  | _ => false

/-- Earlier commands of the ring have passed step 4 (R351). -/
def Blk.ringTurn (b : Blk) (m : Cmd) : Bool :=
  !b.cmds.any (fun x => x.ring = m.ring && x.served.isNone && x.inStep4 && decide (x.id < m.id))

/-- BARRIER and INLETW allow the command to start. -/
def Blk.startWaits (b : Blk) (m : Cmd) : Bool :=
  (m.barrier && (b.cmds.any (fun x => x.ring = m.ring && x.served.isNone && decide (x.id < m.id)) ||
    !(b.ring m.ring).recs.isEmpty || !(b.ring m.ring).words.isEmpty)) ||
  decide ((b.reg 0x1108).toNat < m.inletw)

/-- A command that reached its deadline is counted at its core, or at the core its hint names (R199). -/
def Blk.dlCount (b : Blk) (m : Cmd) : Blk :=
  match m.phase with
  | .held c _ => b.inc (coreReg c 0x740) 1
  | .queued c => b.inc (coreReg c 0x740) 1
  | _ => if m.isDisp || m.anycore then b else b.inc (coreReg m.coreHint 0x740) 1

/-- The core with the fewest commands in its work queue. -/
def Blk.leastCore (b : Blk) (l : List Nat) : Option Nat :=
  l.foldl (fun best c =>
    match best with
    | none => some c
    | some x => if (b.core c).workq.length < (b.core x).workq.length then some c else some x) none

/-- The core that the command would be placed on now. -/
def Blk.chooseCore (b : Blk) (m : Cmd) : Option Nat :=
  let l := if m.anycore then (List.range b.build.cores).filter (fun c => !(b.core c).fatal && !(b.core c).rst)
           else if (b.core m.coreHint).rst then [] else [m.coreHint]
  (b.leastCore l).filter (fun c => (b.core c).workq.length < b.spillCap && !b.qHeld 6 c c)

/-- A work queue with a short-path command at its head, behind those already there (R67). -/
def Blk.queueShort (b : Blk) (id : Nat) (l : List Nat) : List Nat :=
  let p := fun (x : Nat) => ((b.cmd x).map (·.short)).getD false
  l.takeWhile p ++ id :: l.dropWhile p

/-- Place the command in the work queue of core c. -/
def Blk.enqueue (b : Blk) (id c : Nat) (short : Bool) : Blk :=
  let b := b.updCore c (fun k => { k with workq := if short then b.queueShort id k.workq else k.workq ++ [id] })
  (b.updCmd id (fun x => { x with phase := .queued c, short := short })).place 4 c

/-- COMMAND_START: the checks of a copied command, its waits, its place (R351). A read for the short path's conditions that is
parked on a resumable fault holds back no later command: the command takes its place and the read is repeated at its start. -/
def Blk.commandStart (b : Blk) (id : Nat) (rd : View) : Blk :=
  match b.cmd id with
  | none => b
  | some m =>
    if !b.issues || m.phase ≠ .copied then b
    else
      match b.startBad m with
      | some st => b.failCmd id st
      | none =>
        if b.dlHit m then (b.dlCount m).endCmd id .deadline
        else if !b.ringTurn m || b.startWaits m then b
        else if m.isDisp then b.updCmd id (fun x => { x with phase := .disp })
        else
          match b.chooseCore m with
          | none => b
          | some c =>
            match b.shortPath m rd with
            | (b, .ok short) => b.enqueue id c short
            | (b, _) => if b.inFault (.desc id) then b.enqueue id c false else b

/-- COMMAND_START. -/
def execCommandStart (id : Nat) (rd : View) (s : State) : Out := upd (fun b => b.commandStart id rd) s

end Sys2Proof.Machine
end

