-- ==== Sys2Proof/Machine/HostCmds.lean ====
section
/-! DEFINITION. The commands that a lookup core carries out (R346 to R348): NOP, RUN and the built-in routines; and the dispatcher
commands ABORT, ANCHOR and ANCHOR_WAIT (R353, R354, R501). -/
namespace Sys2Proof.Machine

/-- The built-in routine of a command whose task context runs, that has not begun and is not parked; the deadline first (R191, R197). -/
def Blk.routine (b : Blk) (id op : Nat) (f : Blk → Cmd → Nat → Nat → Blk) : Blk :=
  match b.cmd id with
  | none => b
  | some m =>
    match m.held with
    | none => b
    | some (c, t) =>
      if m.op ≠ op || m.served.isSome || m.ending || m.park.isSome || !b.unitIssues c || b.dbgHalted c || (b.task c t).st ≠ .running then b
      else if !m.begun && b.dlHit m && b.dlChecked c then (b.dlCount m).endCmd id .deadline
      else f b m c t

/-- The routine begins. -/
def Blk.begin (b : Blk) (id : Nat) (f : Cmd → Cmd) : Blk := b.updCmd id (fun m => { f m with begun := true })

/-- Go on with what was read and checked, or fail the command. -/
def Blk.orFail {α : Type} (m : Cmd) (x : Blk × Ds α) (k : Blk → α → Blk) : Blk :=
  match x with
  | (b, .ok a) => k b a
  | (b, r) => b.dsFail m.id (.desc m.id) m.ctx r

/-- Read a command's parameter block, with its version and its own checks (R347). -/
def Blk.block (b : Blk) (m : Cmd) (rd : View) (bad : List W64 → Bool) : Blk × Ds (List W64) :=
  Ds.bind (b.parBlock m rd) (fun b pb =>
    if fld (qw pb 0) 0 4 ≠ 1 then (b, .st 0x50) else if bad pb then (b, .st 0x51) else (b, .ok pb))

/-- Q0 and the words from Q2 on of a single-descriptor block are reserved; the address is aligned. -/
def pbBad1 (pb : List W64) : Bool :=
  anyOf [res (qw pb 0) 4 60, res (qw pb 1) 57 7, (List.range 6).any (fun i => qw pb (i + 2) ≠ 0), pbAddr pb 1 % 64 ≠ 0]

/-- The descriptor of a single-descriptor block. -/
def Blk.oneDesc (b : Blk) (m : Cmd) (rd : View) : Blk × Ds (List W64) :=
  Ds.bind (b.block m rd pbBad1) (fun b pb => b.desc (.desc m.id) m.ctx rd (pbAddr pb 1))

/-- The checks of a descriptor alone. -/
def dsOf {α : Type} (b : Blk) (st : Option Nat) (a : α) : Blk × Ds α :=
  match st with
  | some n => (b, .st n)
  | none => (b, .ok a)

/-- NOP. -/
def execNopCommand (id : Nat) (s : State) : Out :=
  upd (fun b => b.routine id 0x01 (fun b m _ _ => if m.begun then b else b.begin id (fun m => m))) s

/-- RUN: the task context runs the program from PC on (R297). -/
def execRun (id : Nat) (s : State) : Out :=
  upd (fun b => b.routine id 0x02 (fun b m c t =>
    if m.begun then b else (b.begin id (fun m => m)).updTask c t (fun x => { x with prog := true }))) s

/-! ### INTERACT and BACK_INTERACT (R182, R218) -/

/-- INTERACT: the routine begins with the checked IXD. -/
def Blk.interact (b : Blk) (m : Cmd) (rd : View) : Blk :=
  if m.begun then b else
  Blk.orFail m (Ds.bind (b.oneDesc m rd) (fun b d =>
      match ixBad d with
      | some st => (b, .st st)
      | none => if b.build.arrays then (b, .ok d) else (b, .st 0x53)))
    (fun b d => b.begin m.id (fun m => { m with ixd := d, unitN := ixN d }))

/-- INTERACT. -/
def execInteract (id : Nat) (rd : View) (s : State) : Out := upd (fun b => b.routine id 0x11 (fun b m _ _ => b.interact m rd)) s

/-- BACK_INTERACT: the BXD and the IXD that it names. -/
def Blk.backInteract (b : Blk) (m : Cmd) (rd : View) : Blk :=
  if m.begun then b else
  Blk.orFail m (Ds.bind (b.oneDesc m rd) (fun b d =>
      match bxBad d with
      | some st => (b, .st st)
      | none =>
        Ds.bind (b.desc (.desc m.id) m.ctx rd (bxIxd d)) (fun b x =>
          match ixBad x with
          | some st => (b, .st st)
          | none =>
            if bxSmall d x then (b, .st 0x51)
            else if b.build.arrays then (b, .ok (d, x)) else (b, .st 0x53))))
    (fun b p => b.begin m.id (fun m => { m with bxd := p.1, ixd := p.2, unitN := ixN p.2 }))

/-- BACK_INTERACT. -/
def execBackInteract (id : Nat) (rd : View) (s : State) : Out :=
  upd (fun b => b.routine id 0x12 (fun b m _ _ => b.backInteract m rd)) s

/-! ### LOOKUP_POOL and SCATTER (R221, R222, R348) -/

/-- The payload of a command: its extension slots, from the first on. -/
def Cmd.payload (m : Cmd) : List Byte := wordBytes m.ext

/-- Bytes of pair 0's inline indices. -/
def lpIdx (sd : List W64) : Nat := sdElems sd * sdIw sd
/-- Bytes of pair 0's inline boundaries. -/
def lpBnd (pd : List W64) : Nat := (pdNb pd + (if pdLens pd then 0 else 1)) * pdBw pd

/-- The checks of a LOOKUP_POOL block alone. -/
def lpBad (m : Cmd) (pb : List W64) : Bool :=
  anyOf [
    res (qw pb 0) 8 56, lpNp pb = 0, lpBinl pb && !lpInl pb, lpInl pb && m.ptr = 0, qw pb 7 ≠ 0,
    (List.range 6).any (fun i => res (qw pb (i + 1)) 57 7 || pbAddr pb (i + 1) % 64 ≠ 0),
    (List.range 6).any (fun i => decide (2 * lpNp pb ≤ i) && qw pb (i + 1) ≠ 0)]

/-- The inline entries that pair 0 calls for do not fit the payload, or BBASE is not 0 with inline boundaries. -/
def lpOver (m : Cmd) (pb sd pd : List W64) : Bool :=
  lpInl pb && (decide (m.payload.length < lpIdx sd) ||
    (lpBinl pb && (pdBbase pd ≠ 0 || decide (m.payload.length < upTo 8 (lpIdx sd) + lpBnd pd))))

/-- The descriptors of a pair both have version 1 and name one queue. -/
def pairBad (sd d : List W64) : Option Nat :=
  if fld (qw sd 0) 0 4 ≠ 1 || fld (qw d 0) 0 4 ≠ 1 then some 0x50
  else if sdQueue sd ≠ pdQueue d then some 0x51
  else none

/-- Read and check pair i of a LOOKUP_POOL. -/
def Blk.lpPair (b : Blk) (m : Cmd) (rd : View) (pb : List W64) (i : Nat) : Blk × Ds (List W64 × List W64 × List W64) :=
  Ds.bind (b.desc (.desc m.id) m.ctx rd (pbAddr pb (2 * i + 1))) (fun b sd =>
    Ds.bind (b.desc (.desc m.id) m.ctx rd (pbAddr pb (2 * i + 2))) (fun b pd =>
      match pairBad sd pd with
      | some st => (b, .st st)
      | none =>
        Ds.bind (b.sdCheck m rd sd (i = 0 && lpInl pb)) (fun b t =>
          match b.pdFits pd sd t with
          | some st => (b, .st st)
          | none => if i = 0 && lpOver m pb sd pd then (b, .st 0x51) else (b, .ok (sd, pd, [])))))

/-- The pairs of a LOOKUP_POOL from pair i on, n of them. -/
def Blk.lpPairs (m : Cmd) (rd : View) (pb : List W64) : Nat → Nat → Blk → Blk × Ds (List (List W64 × List W64 × List W64))
  | 0, _, b => (b, .ok [])
  | n + 1, i, b =>
    Ds.bind (b.lpPair m rd pb i) (fun b p => Ds.bind (Blk.lpPairs m rd pb n (i + 1) b) (fun b l => (b, .ok (p :: l))))

/-- The pair of a SCATTER. -/
def Blk.scPair (b : Blk) (m : Cmd) (rd : View) (pb : List W64) : Blk × Ds (List W64 × List W64 × List W64) :=
  Ds.bind (b.desc (.desc m.id) m.ctx rd (pbAddr pb 1)) (fun b sd =>
    Ds.bind (b.desc (.desc m.id) m.ctx rd (pbAddr pb 2)) (fun b d =>
      match pairBad sd d with
      | some st => (b, .st st)
      | none =>
        Ds.bind (b.sdCheck m rd sd false) (fun b t =>
          Ds.bind (b.scFits m rd d sd t) (fun b opb => (b, .ok (sd, d, opb))))))

/-- The checks of a SCATTER block. -/
def sbBad (pb : List W64) : Bool :=
  anyOf [res (qw pb 0) 4 60, (List.range 2).any (fun i => res (qw pb (i + 1)) 57 7 || pbAddr pb (i + 1) % 64 ≠ 0),
         (List.range 5).any (fun i => qw pb (i + 3) ≠ 0)]

/-- Bind the stream of a pair to queue q: a pair of the short path is not persistent, since it has no queue to stay bound (R67). -/
def Blk.pairBind (b : Blk) (m : Cmd) (c t q : Nat) (sd opb : List W64) (inl : Option (List Byte) × Option (List Byte)) : Blk :=
  let tab := (m.tabs.find? (fun x => x.num = sdTable sd)).getD {}
  let sd := if 16 ≤ q then sd.set 0 (putFld (qw sd 0) 8 1 0) else sd
  let b := b.bindSd c q m t none sd { tab with opb := opb }
  (b.updSq c q (fun s => { s with inl := inl.1, binl := inl.2, short := decide (16 ≤ q) })).consStart c q

/-- Start pairs in order, n at most: the stream of a pair binds once its queue is FREE or ARMED_IDLE, its consumer follows; `unitC` tells
that the stream of the next pair is bound. -/
def Blk.pairsGo : Nat → Nat → Nat → Nat → Blk → Blk
  | 0, _, _, _, b => b
  | n + 1, id, c, t, b =>
    match b.cmd id with
    | none => b
    | some m =>
      match m.pairs[m.unitW]? with
      | none => b
      | some (sd, d, opb) =>
        if m.ending then b else
        let q := if m.short then 16 + t else sdQueue sd
        let s := b.sq c q
        if m.unitC = 0 && s.st ≠ .free && s.st ≠ .armedIdle then b
        else
          let first := decide (m.unitW = 0)
          let inl := (if first && m.op = 0x10 && lpInl m.par0 then some (m.payload.take (lpIdx sd)) else none,
                      if first && m.op = 0x10 && lpBinl m.par0 then some ((m.payload.drop (upTo 8 (lpIdx sd))).take (lpBnd d)) else none)
          let b := if m.unitC = 0 then (b.pairBind m c t q sd opb inl).updCmd id (fun x => { x with unitC := 1 }) else b
          if (b.sq c q).st = .free then b.failCmd id 0x53
          else
            match b.bindCons c q (if m.op = 0x13 then .scat d id t none else .pool d id t none) with
            | (b, true) => (b.updCmd id (fun x => { x with unitW := x.unitW + 1, unitC := 0 })).pairsGo n id c t
            | (b, false) => b

/-- LOOKUP_POOL: the routine reads and checks everything, then its pairs start. -/
def Blk.lookupPool (b : Blk) (m : Cmd) (c t : Nat) (rd : View) : Blk :=
  if m.begun then b.pairsGo 3 m.id c t
  else
    Blk.orFail m (Ds.bind (b.block m rd (lpBad m)) (fun b pb =>
        Ds.bind (Blk.lpPairs m rd pb (lpNp pb) 0 b) (fun b l => (b, .ok (pb, l)))))
      (fun b p =>
        let b := b.begin m.id (fun m => { m with par0 := p.1, pairs := p.2, unitN := p.2.length })
        (b.updTask c t (fun x => { x with waitFrom := some b.time.toNat })).pairsGo 3 m.id c t)

/-- LOOKUP_POOL. -/
def execLookupPool (id : Nat) (rd : View) (s : State) : Out := upd (fun b => b.routine id 0x10 (fun b m c t => b.lookupPool m c t rd)) s

/-- SCATTER: a GATHER and a SCAT. -/
def Blk.scatter (b : Blk) (m : Cmd) (c t : Nat) (rd : View) : Blk :=
  if m.begun then b.pairsGo 1 m.id c t
  else
    Blk.orFail m (Ds.bind (b.block m rd sbBad) (fun b pb => b.scPair m rd pb))
      (fun b p => (b.begin m.id (fun m => { m with pairs := [p], unitN := 1 })).pairsGo 1 m.id c t)

/-- SCATTER. -/
def execScatter (id : Nat) (rd : View) (s : State) : Out := upd (fun b => b.routine id 0x13 (fun b m c t => b.scatter m c t rd)) s

/-! ### FENCE, COPY, ADVISE (R232, R266) -/

/-- FENCE, as a host command. -/
def Blk.fenceCmd (b : Blk) (m : Cmd) (c t : Nat) (rd : View) : Blk :=
  if m.begun then b else
  Blk.orFail m (Ds.bind (b.oneDesc m rd) (fun b d => Ds.bind (b.fenceCheck m rd d) (fun b x => (b, .ok (d, x)))))
    (fun b p => (b.begin m.id (fun m => m)).fenceNew m c t none p.1 p.2)

/-- FENCE_COMMAND. -/
def execFenceCommand (id : Nat) (rd : View) (s : State) : Out := upd (fun b => b.routine id 0x14 (fun b m c t => b.fenceCmd m c t rd)) s

/-- COPY, as a host command. -/
def Blk.copyCmd (b : Blk) (m : Cmd) (c t : Nat) (rd : View) : Blk :=
  if m.begun then b else
  Blk.orFail m (Ds.bind (b.oneDesc m rd) (fun b d => dsOf b (cpBad d) d))
    (fun b d => (b.begin m.id (fun m => m)).copyNew m c t none d)

/-- COPY. -/
def execCopy (id : Nat) (rd : View) (s : State) : Out := upd (fun b => b.routine id 0x15 (fun b m c t => b.copyCmd m c t rd)) s

/-- ADVISE, as a host command. -/
def Blk.adviseCmd (b : Blk) (m : Cmd) (c t : Nat) (rd : View) : Blk :=
  if m.begun then b else
  Blk.orFail m (Ds.bind (b.oneDesc m rd) (fun b d => Ds.bind (b.avCheck m rd d) (fun b tab => (b, .ok (d, tab)))))
    (fun b p => (b.begin m.id (fun m => m)).adviseNew m c t none p.1 p.2)

/-- ADVISE. -/
def execAdvise (id : Nat) (rd : View) (s : State) : Out := upd (fun b => b.routine id 0x16 (fun b m c t => b.adviseCmd m c t rd)) s

/-! ### ABORT (R353) -/

/-- RING and POSITION of an ABORT. -/
def Cmd.target (m : Cmd) : Nat × Nat := (fld (m.par 0) 16 6, fld (m.par 0) 32 17)

/-- The checks of ABORT's slot. -/
def abBad (m : Cmd) : Bool :=
  anyOf [res (m.par 0) 4 12, res (m.par 0) 22 10, res (m.par 0) 49 15, (List.range 7).any (fun i => m.par (i + 1) ≠ 0)]

/-- ABORT of a copied command that has not completed; with fences past WAIT it takes effect when they complete (R233). -/
def Blk.abortCmd (b : Blk) (x : Cmd) : Blk :=
  if x.ending then b
  else if b.fences.any (fun f => f.cmd = x.id && f.phase ≠ .wait) then
    { b with fences := b.fences.map (fun (f : Fence) => if f.cmd = x.id && f.phase ≠ .wait then { f with abortLate := true } else f) }
  else b.endCmd x.id .abort

/-- ABORT is accepted: its target ahead of HEAD is marked, or waits for a free mark (`unitN` = 1); a copied one is ended. -/
def Blk.abortGo (b : Blk) (m : Cmd) : Blk :=
  let (n, pos) := m.target
  let x := b.ring n
  let d := ahead (b.ringHead n) pos
  let b := b.updCmd m.id (fun m => { m with abortOf := some (n, pos), unitN := 0 })
  if d < 2 ^ 16 then
    if d > x.size then b.failCmd m.id 0x51
    else if x.marks.contains pos then b
    else if x.marks.length < 16 then b.updRing n (fun x => { x with marks := x.marks ++ [pos] })
    else b.updCmd m.id (fun m => { m with abortOf := none, unitN := 1 })
  else
    match b.cmds.find? (fun y => y.ring = n && y.pos = pos && y.served.isNone) with
    | some y => b.abortCmd y
    | none => b

/-- ABORT. -/
def execAbort (id : Nat) (s : State) : Out :=
  upd (fun b =>
    match b.cmd id with
    | none => b
    | some m =>
      if m.begun then onlyIf (b.live && m.op = 0x23 && m.phase = .disp && !m.ending && m.unitN = 1) (fun b => b.abortGo m) b
      else b.disp id 0x23 abBad Blk.abortGo) s

/-- The target of an ABORT has completed, or its mark has been discarded. -/
def Blk.abortDone (b : Blk) (m : Cmd) : Bool :=
  match m.abortOf with
  | none => false
  | some (n, pos) =>
    let x := b.ring n
    !x.marks.contains pos && !b.cmds.any (fun y => y.ring = n && y.pos = pos && y.served.isNone && y.id ≠ m.id) &&
    !(x.recs ++ x.words).any (fun r => r.pos = pos)

/-! ### ANCHOR and ANCHOR_WAIT (R354, R376) -/

/-- OP of ANCHOR. -/
def Cmd.anOp (m : Cmd) : Nat := fld (m.par 0) 4 2
/-- ANCHOR. -/
def Cmd.anNum (m : Cmd) : Nat := fld (m.par 0) 16 15
/-- VALUE. -/
def Cmd.anVal (m : Cmd) : Nat := fld (m.par 1) 0 48

/-- The checks that ANCHOR and ANCHOR_WAIT share. -/
def anBad (m : Cmd) : Bool :=
  anyOf [res (m.par 0) 6 10, res (m.par 0) 31 33, res (m.par 1) 48 16, (List.range 6).any (fun i => m.par (i + 2) ≠ 0)]

/-- ANCHOR. -/
def execAnchor (id : Nat) (s : State) : Out :=
  upd (fun b => b.disp id 0x24 (fun m => anBad m || decide (2 ≤ m.anOp))
    (fun b m => (b.signal m.anNum (m.anOp = 1) m.anVal).cmdReady id)) s

/-- ANCHOR_WAIT. -/
def execAnchorWait (id : Nat) (s : State) : Out :=
  upd (fun b => b.disp id 0x25 (fun m => anBad m || m.anOp ≠ 0)
    (fun b m => b.waitAnchor { anchor := m.anNum, target := m.anVal, who := .cmd id })) s

end Sys2Proof.Machine
end

