-- ==== Sys2Proof/Machine/Finish.lean ====
section
/-! DEFINITION. Deadlines (R191 to R194, R197) and the completion of commands with their records (R214, R216, R306, R355, R356,
R471, R475). -/
namespace Sys2Proof.Machine

/-! ### Deadlines -/

/-- Bags of a pass that have not closed. -/
def SQ.unclosed (s : SQ) : List Nat :=
  (List.range s.nb).filter (fun k => decide (s.bw ≤ k) && !s.settled.contains k && !s.out.any (fun o => o.bag = k) && !s.hasFailed k)

/-- Core and queue of the passes with a POOL that a command owns. -/
def Blk.poolPasses (b : Blk) (m : Cmd) : List (Nat × Nat) :=
  match m.held with
  | none => []
  | some (c, _) => ((List.range 20).filter (fun q =>
      let s := b.sq c q
      (s.st = .active || s.st = .parked) && !s.ended && s.cons.isPool && s.owner = m.id)).map (fun q => (c, q))

/-- Interaction samples that are not written. -/
def Cmd.samples (m : Cmd) : Nat :=
  if (m.op = 0x11 || m.op = 0x12) && m.begun then m.unitN - m.unitW - m.unitDone.length else 0

/-- A stored default record read at the deadline. A fault or poison gives no row; the wait on a fault record is given up. -/
def Blk.dlRead (b : Blk) (id : Nat) (t : TableCopy) (rd : View) : Blk × Option (Option (List W64)) :=
  let r := Req.desc id
  let drop := fun (b : Blk) => (b.updCmd id (fun m => { m with park := none })).leaveWaits (fun x => x = r)
  match Blk.vreads r t.ctx rd ((t.defptr, t.rowBytes) :: (if t.scaled then [(t.defptr + t.stride, 4)] else [])) b with
  | (b, .ok l) => (b, some (some (t.dequant (l.getD 0 []) (l.getD 1 []))))
  | (b, .wait) => if ((b.cmd id).map (fun m => m.park.isSome)).getD false then (drop b, some none) else (b, none)
  | (b, .st _) => (b, some none)
  | (b, .xlt k va) => (b.xltFatalRec r t.ctx k (BitVec.ofNat 64 va), some none)

/-- The default row of a pass at its command's deadline (R193). -/
def Blk.dlDefault (b : Blk) (id c q : Nat) (rd : View) : Blk × Option (Option (List W64)) :=
  let s := b.sq c q
  if s.tab.compact || !s.tab.defmode then (b, some (some (List.replicate s.tab.d 0)))
  else
    match b.heldDflt s with
    | some r => (b, some r)
    | none =>
      match b.dlRead id s.tab rd with
      | (b, some v) =>
        (b.updCmd id (fun m => { m with dflts := (s.tab.num, some v) :: m.dflts.filter (fun e => e.1 ≠ s.tab.num) }), some v)
      | x => x

/-- The default rows of the given passes; none while one waits. -/
def Blk.dlDefaults (id : Nat) (rd : View) : List (Nat × Nat) → Blk → Blk × Option (List (Option (List W64)))
  | [], b => (b, some [])
  | p :: l, b =>
    match b.dlDefault id p.1 p.2 rd with
    | (b, none) => (b, none)
    | (b, some v) =>
      match Blk.dlDefaults id rd l b with
      | (b, some vs) => (b, some (v :: vs))
      | (b, none) => (b, none)

/-- Bag k is written as a bag of one element, the default row v with weight 1; of a compact table as +0 (R193). -/
def Blk.substBag (b : Blk) (c q : Nat) (v : List W64) (k : Nat) : Blk :=
  let s := b.sq c q
  let f := s.fmt
  let z := List.replicate s.tab.d (0 : W64)
  let r := ((Accu.zero s.tab.d).add f s.mode (f.ofInt 1) v).finish f s.mode
  if ((b.cmd s.owner).map (·.ending)).getD true then b
  else
    ((b.dropBag c q k).updCmd s.owner (fun m => ({ m with defsub := m.defsub + 1 }.flag 1).stat s.tab.stats 2 1)).outPut c q k
      (if s.tab.compact then z else r.1) (if s.mode = 4 then z else []) 1

/-- The unclosed bags of a pass at the deadline: substituted where a row is given, counted either way. -/
def Blk.dlPass (b : Blk) (id : Nat) (p : Nat × Nat) (v : Option (List W64)) : Blk :=
  let l := (b.sq p.1 p.2).unclosed
  let b := b.updCmd id (fun m => { m with dlmiss := m.dlmiss + l.length })
  match v with
  | some x => (l.foldl (fun b k => b.substBag p.1 p.2 x k) b).inc (coreReg p.1 0x748) l.length
  | none => b.inc (coreReg p.1 0x750) l.length

/-- The deadline of a command is acted on now: dispatcher commands and commands that no core holds always, those of a core outside GX mode;
a fence past WAIT is not affected (R197, R233). -/
def Blk.dlNow (b : Blk) (m : Cmd) : Bool :=
  !m.ending && !m.ready && m.served.isNone && b.dlHit m &&
  (match m.phase with
   | .held c _ => b.dlChecked c && !(m.op = 0x14 && b.fences.any (fun f => f.cmd = m.id && f.phase ≠ .wait))
   | .queued c => b.dlChecked c
   | .ended => false
   | _ => true)

/-- DEADLINE_REACHED. -/
def Blk.deadlineReached (b : Blk) (id : Nat) (rd : View) : Blk :=
  match b.cmd id with
  | none => b
  | some m =>
    if !b.live || !b.dlNow m then b
    else
      let ps := b.poolPasses m
      match (if m.dsub then Blk.dlDefaults id rd (ps.filter (fun p => !(b.sq p.1 p.2).unclosed.isEmpty)) b else (b, some [])) with
      | (b, none) => b
      | (b, some _) =>
        let b := ps.foldl (fun b p =>
          b.dlPass id p (if m.dsub then (match b.dlDefault id p.1 p.2 { blocks := [] } with | (_, some v) => v | _ => none) else none)) b
        let b := match m.held with
          | some (c, _) => b.inc (coreReg c 0x750) m.samples
          | none => b
        ((b.updCmd id (fun m => { m with dlmiss := m.dlmiss + m.samples })).dlCount m).endCmd id .deadline

/-- DEADLINE_REACHED. -/
def execDeadlineReached (id : Nat) (rd : View) (s : State) : Out := upd (fun b => b.deadlineReached id rd) s

/-! ### When a command has completed -/

/-- A pass of the command is under way on its core. -/
def Blk.hasPass (b : Blk) (m : Cmd) (p : SQ → Bool) : Bool :=
  match m.held with
  | none => false
  | some (c, _) => (b.core c).qs.any (fun e => (e.2.st = .active || e.2.st = .parked) && p e.2)

/-- A pass that the completion of a program waits for (R306): its own consumer, or its own GATHER. -/
def SQ.waitedBy (s : SQ) (id : Nat) : Bool :=
  match s.cons with
  | .none => s.cmd = id && s.tag.isSome
  | _ => s.owner = id

/-- The program of a RUN has halted and everything of it has ended (R306). -/
def Blk.runDone (b : Blk) (m : Cmd) : Bool :=
  match m.held with
  | none => false
  | some (c, t) =>
    (b.task c t).halted && (b.task c t).tags.isEmpty && !b.hasPass m (fun s => s.waitedBy m.id) &&
    !(b.core c).tq.any (fun e => e.cmd = m.id) &&
    !(b.core c).tiles.any (fun e => (e.2.lock = .exclusive && e.2.owner = t) || e.2.readers.any (fun r => r.1 = t))

/-- The work of a command that has not been ended early is done. -/
def Blk.workDone (b : Blk) (m : Cmd) : Bool :=
  match m.phase with
  | .held _ _ =>
    if m.op = 0x01 then m.begun
    else if m.op = 0x02 then b.runDone m
    else if m.op = 0x10 || m.op = 0x13 then m.begun && m.unitW = m.unitN && !b.hasPass m (fun s => s.owner = m.id)
    else if m.op = 0x11 || m.op = 0x12 then m.begun && m.unitW = m.unitN
    else m.begun && !b.copies.any (fun x => x.cmd = m.id) && !b.advs.any (fun x => x.cmd = m.id) && !b.fences.any (fun f => f.cmd = m.id)
  | .disp =>
    if m.op = 0x23 then m.begun && b.abortDone m
    else m.ready && !(m.op = 0x22 && (List.range 8).any (fun c => (b.core c).planes.any (fun p => p.2.dying)))
  | _ => false

/-- What an ended command still waits for is over: its passes have left and its fences past WAIT have completed (R192). -/
def Blk.endDone (b : Blk) (m : Cmd) : Bool := !b.hasPass m (fun s => s.owner = m.id) && !b.fences.any (fun f => f.cmd = m.id)

/-- Every write and signal of the command has been acknowledged (R356). -/
def Blk.writesDone (b : Blk) (id : Nat) : Bool :=
  !b.wq.any (fun w => w.cmd = some id) &&
  !b.lx.reqs.any (fun r => r.kind = .write (some id) || r.kind = .rsig id)

/-- The command has completed but for its adds and its record. -/
def Blk.cmdDone (b : Blk) (m : Cmd) : Bool := (if m.ending then b.endDone m else b.workDone m) && b.writesDone m.id

/-! ### Atomic adds and the record -/

/-- The adds of a command to the statistics blocks of its tables: word address, sum flag, amount. -/
def Cmd.adds (m : Cmd) : List (Nat × Bool × W64) :=
  m.stats.flatMap (fun s =>
    ((List.range 10).filter (fun k => s.cnt.getD k 0 ≠ 0)).map (fun k => (s.addr + 8 * k, false, BitVec.ofNat 64 (s.cnt.getD k 0))) ++
    ((List.range 10).filter (fun k => s.sums.getD k 0 ≠ 0)).map (fun k => (s.addr + 8 * k, true, s.sums.getD k 0)))

/-- The adds of a completing command (R216), once; the flag answers whether it may go on. An add of an ended command that meets a
resumable fault is not made. -/
def Blk.addTotals (b : Blk) (m : Cmd) : Blk × Bool :=
  let r := Req.add m.id
  let done := fun (b : Blk) => b.updCmd m.id (fun m => { m with added := true })
  if m.added then (b, true)
  else
    match Blk.statAdds r m.ctx m.adds b with
    | (b, .ok l) => (done (b.doAdds l), true)
    | (b, .wait) =>
      if m.ending && ((b.cmd m.id).map (fun m => m.park.isSome)).getD false then
        (done ((b.updCmd m.id (fun m => { m with park := none })).leaveWaits (fun x => x = r)), true)
      else (b, false)
    | (b, .st n) => (done (b.meet m.id n), true)
    | (b, .xlt k va) => (done ((b.xltFatalRec r m.ctx k (BitVec.ofNat 64 va)).meet m.id (xltStatus k)), true)

/-- The status of a completion record (R471). -/
def Cmd.status (m : Cmd) : Nat :=
  if m.parked then 0x30
  else if m.aborted then 0x70
  else
    match m.fail with
    | some st => st
    | none => if m.dl then 0x20 else 0

/-- A count that saturates at all ones of n bits. -/
def satN (n v : Nat) : Nat := min (2 ^ n - 1) v

/-- An fp64 sum rounded once to fp32 (R214). -/
def fp32Of (x : W64) : Nat := FFmt.fp32.cvt .fp64 x.toNat

/-- The four words of a completion record, without PHASE (R355). -/
def Cmd.record (m : Cmd) : List W64 :=
  let bl := m.belay.getD (0, 0)
  [BitVec.ofNat 64 (1 + (if m.belay.isSome then 32 else 0) + m.status <<< 8 + (m.info % 512) <<< 16 + (m.pos % 2 ^ m.clog) <<< 32 + bl.1 <<< 48),
   BitVec.ofNat 64 (fp32Of m.err + (fp32Of m.sig) <<< 32),
   BitVec.ofNat 64 (satN 32 m.rows + (bl.2 % 2 ^ 32) <<< 32),
   BitVec.ofNat 64 (satN 16 m.invidx + (satN 16 m.defsub) <<< 16 + (satN 16 m.dlmiss) <<< 32 + (satN 16 m.applied) <<< 48)]

/-- CONTAINED and INTERNAL (R475). -/
def Blk.countStatus (b : Blk) (st : Nat) : Blk :=
  let b := if 0x31 ≤ st && st ≤ 0x7F && st ≠ 0x70 then b.inc 0x1448 1 else b
  if st = 0x7F then b.inc 0x1450 1 else b

/-- The task context of a completed command is FREE: its plan is released, its waiting courier half is written, and the work queue moves
on (R122, R308, R372). -/
def Blk.release (b : Blk) (m : Cmd) : Blk :=
  match m.held with
  | none => b
  | some (c, t) =>
    let b := match (b.core c).couHalf with
      | some (_, id, _) => if id = m.id then b.courierHalf c else b
      | none => b
    let b := b.updCore c (fun k => { k with
      plan := match k.plan with
        | some p => if p.1 = t then none else some p
        | none => none }.updTask t (fun _ => {}))
    (b.gxFollow c).place 4 c

/-- A completed command leaves the block; its record waits for its ring. -/
def Blk.retireCmd (b : Blk) (m : Cmd) : Blk :=
  let b := (b.countStatus m.status).release m
  let b := { b with cmds := b.cmds.filter (fun x => x.id ≠ m.id) }
  b.updRing m.ring (fun x => { x with recs := x.recs ++ [
    { w := m.record, caddr := m.caddr, irq := m.irq, cbase := m.cbase, clog := m.clog, pos := m.pos }] })

/-- Dirty lines of the core of a program are written back (R306). -/
def Blk.progClean (b : Blk) (m : Cmd) : Blk :=
  match m.held with
  | some (c, _) => if m.op = 0x02 && !(b.core c).fatal then b.cleanAll c else b
  | none => b

/-- COMMAND_COMPLETE. -/
def Blk.commandComplete (b : Blk) (id : Nat) : Blk :=
  match b.cmd id with
  | none => b
  | some m =>
    if !b.live || m.served.isSome || !b.cmdDone m || (m.park.isSome && !m.ending) then b
    else
      match (b.progClean m).addTotals m with
      | (b, false) => b
      | (b, true) =>
        match b.cmd id with
        | none => b
        | some m => b.retireCmd m

/-- COMMAND_COMPLETE. -/
def execCommandComplete (id : Nat) (s : State) : Out := upd (fun b => b.commandComplete id) s

end Sys2Proof.Machine
end

