-- ==== Sys2Proof/Machine/Queues.lean ====
section
/-! DEFINITION. Queue resets (R364, R365, R371), the courier FIFOs (R366, R367, R370, R372 to R374), the timebase (R6) and the clock
gating of idle islands (R16). -/
namespace Sys2Proof.Machine

/-! ### Couriers -/

/-- A courier register of core c at offset o of its block. -/
def couReg (c o : Nat) : Nat := 0xA0000 + 0x40 * c + o

/-- A 64-bit read of CK_COUR_OUT: the oldest entry is popped and answered, CK_COUR_OTAG tells of it (R367, R374). -/
def Blk.couPop (b : Blk) (c : Nat) : Blk × W64 :=
  if b.resetting || b.pwr.st = .nap || !b.coreOk c then (b, 0)
  else
    match (if b.qHeld 9 c c then [] else (b.core c).couOut) with
    | [] => (b.setReg (couReg c 8) 0, 0)
    | (v, n) :: l =>
      ((b.updCore c (fun k => { k with couOut := l })).setReg (couReg c 8) (BitVec.ofNat 64 (1 + n <<< 4)), v)

/-- COURIER_POP. -/
def execCourierPop (c : Fin 8) (s : State) : Out := upd (fun b => (b.couPop c.val).1) s

/-- Free words of the inbound FIFO; none while a queue reset shows it full. -/
def Blk.couFree (b : Blk) (c : Nat) : Nat := if b.qHeld 10 c c then 0 else 4096 - (b.core c).couIn.length

/-- A write that needs more inbound room than is free sets IOVR. -/
def Blk.couOver (b : Blk) (c : Nat) : Blk := b.setFld (couReg c 16) 48 1 1
/-- A framing error. -/
def Blk.couFerr (b : Blk) (c : Nat) : Blk := b.setFld (couReg c 16) 50 1 1

/-- Words enter the inbound FIFO, all or none (R373); an open message counts them. -/
def Blk.couEnter (b : Blk) (c : Nat) (ws : List W32) : Blk :=
  if b.couFree c < ws.length then b.couOver c
  else b.updCore c (fun k => { k with couIn := k.couIn ++ ws.map some, couOpen := k.couOpen.map (· + ws.length) })

/-- A write of CK_COUR_IN. -/
def Blk.couIn (b : Blk) (c : Nat) (h : Half) (v : W64) : Blk :=
  if !b.regOpen (couReg c 24) then b
  else
    match h with
    | .full => b.couEnter c [v.extractLsb' 0 32, v.extractLsb' 32 32]
    | .low => b.couEnter c [v.extractLsb' 0 32]
    | .high => b

/-- COURIER_IN_WRITE. -/
def execCourierInWrite (c : Fin 8) (h : Half) (v : W64) (s : State) : Out := upd (fun b => b.couIn c.val h v) s

/-- OPEN: a slot at the tail is reserved; it needs one free word. -/
def Blk.couOpenMsg (b : Blk) (c : Nat) : Blk :=
  if !b.regOpen (couReg c 32) then b
  else if (b.core c).couOpen.isSome then b.couFerr c
  else if b.couFree c = 0 then b.couOver c
  else b.updCore c (fun k => { k with couIn := k.couIn ++ [none], couOpen := some 0 })

/-- OPEN. -/
def execOpenMsg (c : Fin 8) (s : State) : Out := upd (fun b => b.couOpenMsg c.val) s

/-- CLOSE: the reserved slot takes the number of words entered since OPEN. -/
def Blk.couCloseMsg (b : Blk) (c : Nat) : Blk :=
  if !b.regOpen (couReg c 32) then b
  else
    match (b.core c).couOpen with
    | none => b.couFerr c
    | some n => b.updCore c (fun k => { k with
        couIn := k.couIn.map (fun x => match x with | none => some (BitVec.ofNat 32 n) | some v => some v), couOpen := none })

/-- CLOSE. -/
def execCloseMsg (c : Fin 8) (s : State) : Out := upd (fun b => b.couCloseMsg c.val) s

/-- COURIER_FLUSH (R370, R372): a low half has waited FLUSHTO T-ticks, limits below 16 acting as 16. -/
def execCourierFlush (c : Fin 8) (s : State) : Out :=
  upd (fun b =>
    match (b.core c.val).couHalf with
    | some (_, _, since) =>
      if b.live && !b.qHeld 9 c.val c.val && decide (since + max 16 (b.rf (couReg c.val 40) 0 16) ≤ b.time.toNat) then b.courierHalf c.val else b
    | none => b) s

/-! ### Queue resets (R365) -/

/-- Classes whose queue belongs to a core that the event names. -/
def qPerCore (cls : Nat) : Bool := 2 ≤ cls && cls ≤ 5
/-- Classes whose INDEX is a core. -/
def qIndexCore (cls : Nat) : Bool := cls = 6 || cls = 9 || cls = 10

/-- The queue exists in this build. -/
def Blk.qExists (b : Blk) (cls index core : Nat) : Bool :=
  decide (1 ≤ cls ∧ cls ≤ 10) && (!qPerCore cls || b.coreOk core) && (!qIndexCore cls || b.coreOk index) &&
  (cls ≠ 2 || decide (index < 16)) && (!(cls = 3 || cls = 4 || cls = 5 || cls = 7 || cls = 8) || index = 0) &&
  (cls ≠ 5 || !b.build.overlap) && (cls ≠ 4 || b.build.arrays)

/-- The core that a queue reset is logged with, 0 for a queue of no core. -/
def qCore (cls index core : Nat) : Nat := if qPerCore cls then core else if qIndexCore cls then index else 0

/-- QUEUE_RESET: for 8 cycles the queue shows full to its producer and empty to its consumer. -/
def Blk.queueReset (b : Blk) (cls index core kind : Nat) : Blk :=
  let c := qCore cls index core
  if !b.live || !b.qExists cls index core || kind = 3 || b.qHeld cls c index then b
  else { b with qrst := b.qrst ++ [{ cls := cls, index := index, core := c, kind := kind }] }

/-- QUEUE_RESET. -/
def execQueueReset (cls : BitVec 8) (index : BitVec 16) (c : Fin 8) (kind : BitVec 2) (s : State) : Out :=
  upd (fun b => b.queueReset cls.toNat index.toNat c.val kind.toNat) s

/-- Commands end with QUEUE_RESET. -/
def Blk.failAll (b : Blk) (l : List Nat) : Blk := l.foldl (fun b id => b.failCmd id 0x43) b

/-- A stream queue is emptied: the command that owns its elements fails, SD and shadow are discarded (R57). -/
def Blk.resetStream (b : Blk) (c q : Nat) : Blk :=
  let s := b.sq c q
  if s.st = .free then b
  else
    let b := b.updSq c q (fun s => { s with shadow := none })
    let b := if s.st = .armedIdle then b else b.failAll [s.owner]
    let b := if (b.sq c q).st = .active || (b.sq c q).st = .parked then
        (let b := if (b.sq c q).ended then b else b.endPass c q
         if (b.sq c q).st = .active || (b.sq c q).st = .parked then b.leavePass c q true else b)
      else b
    b.updSq c q (fun s => { passFlag := s.passFlag, pass := s.pass })

/-- Tiles that lie in the tile queue are freed as for a failed command (R140). -/
def Blk.resetTq (b : Blk) (c : Nat) : Blk :=
  let l := (b.core c).tq
  let b := b.failAll (l.map (·.cmd))
  let b := iter 6 (fun i b => (b.updTile c i (fun t =>
    match t.lock with
    | .queued => { t with lock := .free, e := [], undef := some b.free }
    | _ => t)).freed) b
  b.updCore c (fun k => { k with tq := [] })

/-- The array's instruction queue and feeder are emptied. -/
def Blk.resetArrayQ (b : Blk) (c : Nat) : Blk :=
  let k := b.core c
  (b.failAll (k.iq.map (·.cmd) ++ k.feed.map (fun f => (k.sq f.q).owner))).updCore c (fun k => { k with iq := [], feed := [] })

/-- Commands of the rows that a fetch-ahead queue holds. -/
def Blk.resetAhead (b : Blk) (c : Nat) : Blk :=
  b.failAll (((b.core c).qs.filter (fun e => !e.2.parts.isEmpty)).map (fun e => e.2.owner))

/-- A waiter of a lost fault record walks again. -/
def Blk.rewalk (b : Blk) (i : Nat) : Blk :=
  let s := Tab.get {} b.ft i
  if !s.valid then b
  else
    let b := { b with ft := Tab.set {} b.ft i { gen := s.gen } }
    let b := s.waiters.foldl (fun b x => b.resumeReq (i, s.gen) s.ctx x) b
    b.resumePasses (i, s.gen)

/-- The fault record path is emptied: the slots of the lost records are freed, and their waiters walk again. -/
def Blk.resetFaults (b : Blk) : Blk :=
  let l := b.faultPath
  (l.foldl (fun (b : Blk) r => b.rewalk (fld (qw r.words 0) 18 8)) { b with faultPath := [] }).ftRetry

/-- The items of a queue are discarded, with what R365 says for its class. -/
def Blk.qDiscard (b : Blk) (r : QReset) : Blk :=
  if r.cls = 2 then b.resetStream r.core r.index
  else if r.cls = 3 then b.resetTq r.core
  else if r.cls = 4 then b.resetArrayQ r.core
  else if r.cls = 5 then b.resetAhead r.core
  else if r.cls = 6 then (b.failAll (b.core r.core).workq).updCore r.core (fun k => { k with workq := [] })
  else if r.cls = 7 then b.resetFaults
  else if r.cls = 8 then ({ b with evPath := [] } : Blk).lost b.evPath.length
  else if r.cls = 9 then (b.updCore r.core (fun k => { k with couOut := [] })).setFld (couReg r.core 16) 16 1 0
  else if r.cls = 10 then (b.updCore r.core (fun k => { k with couIn := [], couOpen := none })).setFld (couReg r.core 16) 48 1 0
  else b

/-- QUEUE_RESET_DONE: the queue is empty and in use again, the commands that owned items have failed, and the reset is logged (R371). -/
def Blk.queueResetDone (b : Blk) (cls index core : Nat) : Blk :=
  let c := qCore cls index core
  match b.qrst.find? (fun r => r.cls = cls && r.core = c && r.index = index) with
  | none => b
  | some r =>
    if !b.live then b
    else
      let b := ({ b with qrst := b.qrst.erase r } : Blk).qDiscard r
      let b := (b.log 0x1208 0 (BitVec.ofNat 64 (r.kind <<< 2 + cls <<< 8 + index <<< 16 + c <<< 32))).inc 0x1210 1
      b.event 0x42 0 c 0 [BitVec.ofNat 64 (cls + index <<< 8)]

/-- QUEUE_RESET_DONE. -/
def execQueueResetDone (cls : BitVec 8) (index : BitVec 16) (c : Fin 8) (s : State) : Out :=
  upd (fun b => b.queueResetDone cls.toNat index.toNat c.val) s

/-! ### Timebase and idle islands -/

/-- TIMEBASE_TICK (R6): it runs in every state but Off, and starts at 0 when a power-on reset ends. -/
def execTimebaseTick (s : State) : Out :=
  updAll (fun b => if b.pwr.st = .off || b.pwr.rst = .por then b else { b with time := b.time + 1 }) s

/-- Island n has nothing to do: 0 H, 1 M, 3 L, 4 + c the C-island and 12 + c the A-island of core c. The K-island (2) is never gated, an
array follows its ramp (R146). -/
def Blk.islandIdle (b : Blk) (n : Nat) : Bool :=
  if n = 0 then b.cmds.isEmpty && b.evPath.isEmpty && b.faultPath.isEmpty
  else if n = 1 then b.wq.isEmpty && b.rc.fills.isEmpty && b.walks.isEmpty && b.fences.isEmpty && !b.rc.inv && !b.sec.scrub
  else if n = 2 then false
  else if n = 3 then b.lx.reqs.isEmpty && !b.lx.mgmtBusy
  else if n < 12 then b.coreOk (n - 4) && (b.core (n - 4)).workq.isEmpty && (List.range 4).all (fun t => (b.task (n - 4) t).st = .free)
  else b.coreOk (n - 12) && b.build.arrays && (b.core (n - 12)).iq.isEmpty && (b.core (n - 12)).ramp = .gated

/-- ISLAND_GATE: an island that has been idle gates its clock. -/
def execIslandGate (isl : Fin 20) (s : State) : Out :=
  upd (fun b => onlyIf (b.live && b.islandIdle isl.val && !b.pwr.gated.contains isl.val)
    (fun b => { b with pwr := { b.pwr with gated := isl.val :: b.pwr.gated } }) b) s

/-- ISLAND_WAKE: work has arrived, and the island's clock runs. -/
def execIslandWake (isl : Fin 20) (s : State) : Out :=
  upd (fun b => onlyIf (!b.resetting) (fun b => { b with pwr := { b.pwr with gated := b.pwr.gated.erase isl.val } }) b) s

end Sys2Proof.Machine
end

