-- ==== Sys2Proof/Machine/Links.lean ====
section
/-! DEFINITION. The ports of the link complex (R381, R387 to R393, R403, R405, R407, R409 to R411): training, flits in both
directions, acknowledgement and replay, requests that fail, the tables, and the management bus. -/
namespace Sys2Proof.Machine

/-! ### Requests that fail (R407) -/

/-- A tracker slot whose read has ended without data is freed. -/
def Blk.dropSlot (b : Blk) (c i : Nat) : Blk :=
  match (b.core c).slot i with
  | some t => (b.endSlot c t).finishPass c t.q
  | none => b

/-- The tracker slots of the ordinals of an RPOOL are freed. -/
def Blk.freeRemote (b : Blk) (c q : Nat) (late : Bool) (ords : List Nat) : Blk :=
  b.updCore c (fun k => { k with trk := k.trk.filter (fun t => !(t.kind = .remote && t.q = q && ords.contains t.ord && t.late = late)) })

/-- A request has failed: its command ends with a status (R286), and what waited for the response is freed. -/
def Blk.lxFail (b : Blk) (r : LReq) (st : Nat) : Blk :=
  let b := match r.cmd with
    | some id => b.failCmd id st
    | none => b
  match r.kind with
  | .read c i _ => b.dropSlot c i
  | .rpool c q bags => (b.freeRemote c q true (bags.flatMap (·.2))).finishPass c q
  | .asig c t tag =>
    if (b.task c t).cmd = r.cmd then b.updTask c t (fun x => { x with asigs := x.asigs.filter (fun a => !(a.tag = tag && a.sent)) }) else b
  | _ => b

/-- No response will come for a request: RTIMEOUT counts and its command ends with LINK_DOWN. -/
def Blk.lxLost (b : Blk) (tag : Nat) : Blk :=
  match b.lx.reqs.find? (fun r => r.tag = tag) with
  | none => b
  | some r => (({ b with lx := { b.lx with reqs := b.lx.reqs.erase r } } : Blk).inc 0x70100 1).lxFail r 0x60

/-- REQUEST_TIMEOUT: no response within RTO T-ticks. -/
def Blk.requestTimeout (b : Blk) (tag : Nat) : Blk :=
  match b.lx.reqs.find? (fun r => r.tag = tag) with
  | none => b
  | some r => if b.live && decide (r.sentAt + b.rf 0x70010 0 32 ≤ b.time.toNat) then b.lxLost tag else b

/-- REQUEST_TIMEOUT. -/
def execRequestTimeout (tag : Nat) (s : State) : Out := upd (fun b => b.requestTimeout tag) s

/-! ### States of a port (R390) -/

/-- The link logic of port p runs. -/
def Blk.portOn (b : Blk) (p : Nat) : Bool := b.live && decide (p < b.build.litha) && !(b.port p).rst

/-- EN and LASER of port p. -/
def Blk.portEn (b : Blk) (p : Nat) : Bool := b.rb (pctrl p) 0 && b.rb (pctrl p) 1

/-- LX_LASER_EN of port p (R381): EN and LASER, no link or block reset, no Nap, no block-fatal halt, and no wait for a write of EN after
a negotiation that found no version (R390). -/
def Blk.laserEn (b : Blk) (p : Nat) : Bool :=
  decide (p < b.build.litha) && b.portEn p && !(b.port p).rst && !b.resetting && !b.pwr.halt && !(b.port p).hold && decide (b.pwr.st ≠ .nap)

/-- A port's part of a multicast has ended (R400). -/
def Blk.mcEnd (b : Blk) (id : Nat) : Blk := { b with lx := { b.lx with mcast := Tab.upd 0 b.lx.mcast id (· - 1) } }

/-- A port enters DOWN: its unacknowledged traffic fails, and a multicast that it had not finished is counted (R390, R407). -/
def Blk.portDown (b : Blk) (p : Nat) : Blk :=
  let x := b.port p
  let tags := (x.replayBuf.filterMap (·.req) ++ x.tx.filterMap (·.req)).eraseDups
  let mcs := x.replayBuf.filterMap (·.last) ++ x.tx.filterMap (·.mc)
  let b := b.updPort p Port.fall
  let b := mcs.foldl (fun b id => (b.inc 0x70118 1).mcEnd id) b
  tags.foldl (fun b t => b.lxLost t) b

/-- Training starts: a port in TRAIN. -/
def Blk.portTrain (b : Blk) (p : Nat) : Blk := b.updPort p (fun x => { x with st := .train, since := b.time.toNat, confSent := none })

/-- The last failure of a port. -/
def Blk.portErr (b : Blk) (p e : Nat) : Blk := b.updPort p (fun x => { x with err := e })

/-- Training starts again in a port that is DOWN and enabled. -/
def Blk.portAgain (b : Blk) (p : Nat) : Blk := if b.portEn p then b.portTrain p else b

/-- A training attempt fails and restarts after 1 ms. -/
def Blk.trainFail (b : Blk) (p e : Nat) : Blk :=
  ((b.inc (pcnt p 10) 1).portErr p e).updPort p (fun x => { x with since := b.time.toNat + 250000 })

/-- An ACTIVE port enters RETRAIN: no DATA flits, no credits but those of VL2, the replay buffer stays. -/
def Blk.portRetrain (b : Blk) (p : Nat) : Blk :=
  (b.inc (pcnt p 6) 1).updPort p (fun x => { x with
    st := .retrain, since := b.time.toNat, locked := false, resend := [], fecWin := []
    credit := [0, 0, 0, 0, x.credit.getD 4 0] })

/-- OE_RESET_RELEASE: 100 µs after LX_OERST_N has risen, an enabled port starts training (R381). -/
def Blk.oeRelease (b : Blk) (p : Nat) : Blk :=
  let x := b.port p
  if b.portOn p && b.portEn p && x.st = .down && !x.hold && !x.oerst && decide (x.oeSince + 25000 ≤ b.time.toNat) then b.portTrain p else b

/-- OE_RESET_RELEASE. -/
def execOeResetRelease (p : Fin 8) (s : State) : Out := upd (fun b => b.oeRelease p.val) s

/-- A write of CK_LX_PCTRL[p] (R390, R411): EN or LASER at 0 takes the port DOWN; EN releases the optical engine; RETRAIN retrains an
ACTIVE port. Only version 1 can be advertised. -/
def Blk.pctrlWrite (b : Blk) (p : Nat) (h : Half) (v : W64) : Blk :=
  if !b.regOpen (pctrl p) then b
  else
    let b := (b.fieldWrite (pctrl p) h v).setFld (pctrl p) 5 2 0
    let b := if covers h 0 then b.updPort p (fun x => { x with hold := false }) else b
    let b := if b.portEn p then b else if (b.port p).st ≠ .down then b.portDown p else b
    let b := b.updPort p (fun x =>
      if !b.rb (pctrl p) 0 then { x with oerst := true }
      else if x.oerst then { x with oerst := false, oeSince := b.time.toNat }
      else x)
    let b := b.oeRelease p
    if wrOne h v 2 && b.portOn p && (b.port p).st = .active then b.portRetrain p else b

/-- LINK_ENABLE. -/
def execLinkEnable (p : Fin 8) (h : Half) (v : W64) (s : State) : Out := upd (fun b => b.pctrlWrite p.val h v) s
/-- RETRAIN. -/
def execRetrain (p : Fin 8) (h : Half) (v : W64) (s : State) : Out := upd (fun b => b.pctrlWrite p.val h v) s

/-- LANE_LOCK: lanes and FEC have locked: a training port negotiates, a retraining one can exchange RESYNC. -/
def Blk.laneLock (b : Blk) (p : Nat) : Blk :=
  let x := b.port p
  if !b.portOn p || x.lol then b
  else
    match x.st with
    | .train =>
      if x.since ≤ b.time.toNat then b.updPort p (fun x => { x with st := .negotiate, since := b.time.toNat, confSent := none }) else b
    | .retrain => b.updPort p (fun x => { x with locked := true })
    | _ => b

/-- LANE_LOCK. -/
def execLaneLock (p : Fin 8) (s : State) : Out := upd (fun b => b.laneLock p.val) s

/-- TRAIN_TIMEOUT: 10 ms without lock. -/
def execTrainTimeout (p : Fin 8) (s : State) : Out :=
  upd (fun b =>
    let x := b.port p.val
    if b.portOn p.val && x.st = .train && decide (x.since + 2500000 ≤ b.time.toNat) then b.trainFail p.val 1 else b) s

/-- NEGOTIATE_TIMEOUT: 1 ms without CONFIRM. -/
def execNegotiateTimeout (p : Fin 8) (s : State) : Out :=
  upd (fun b =>
    let x := b.port p.val
    if b.portOn p.val && x.st = .negotiate && decide (x.since + 250000 ≤ b.time.toNat) then b.portTrain p.val else b) s

/-- RETRAIN_TIMEOUT: 2 ms in RETRAIN. -/
def execRetrainTimeout (p : Fin 8) (s : State) : Out :=
  upd (fun b =>
    let x := b.port p.val
    if b.portOn p.val && x.st = .retrain && decide (x.since + 500000 ≤ b.time.toNat) then
      ((b.portDown p.val).portErr p.val 4).portAgain p.val
    else b) s

/-- LOSS_OF_LIGHT: LX_LOL_N has been 0 for 1 µs. -/
def Blk.lossOfLight (b : Blk) (p : Nat) : Blk :=
  if !b.portOn p then b
  else
    let b := b.updPort p (fun x => { x with lol := true })
    match (b.port p).st with
    | .train => b.trainFail p 6
    | .active => b.portRetrain p
    | _ => b

/-- LOSS_OF_LIGHT. -/
def execLossOfLight (p : Fin 8) (s : State) : Out := upd (fun b => b.lossOfLight p.val) s

/-- LOSS_OF_LIGHT_CLEARED. -/
def execLossOfLightCleared (p : Fin 8) (s : State) : Out :=
  upd (fun b => onlyIf (b.portOn p.val) (fun b => b.updPort p.val (fun x => { x with lol := false })) b) s

/-- LOSS_OF_FEC_LOCK. -/
def execLossOfFecLock (p : Fin 8) (s : State) : Out :=
  upd (fun b => onlyIf (b.portOn p.val && (b.port p.val).st = .active) (fun b => b.portRetrain p.val) b) s

/-- Negotiation fails for want of a version: no retry until EN is written. -/
def Blk.noVersion (b : Blk) (p : Nat) : Blk := ((b.portDown p).portErr p 2).updPort p (fun x => { x with hold := true })

/-- An ADVERT (R391, R392): the C1 implements version 1 only; the partner's identity and free buffers are taken. -/
def Blk.advert (b : Blk) (p vmask : Nat) (enc : Bool) (node port : Nat) (free : List Nat) : Blk :=
  if !b.portOn p || (b.port p).st ≠ .negotiate then b
  else if node = 0xFFFF then ((b.portDown p).portErr p 3).portAgain p
  else if vmask % 2 = 0 then b.noVersion p
  else b.updPort p (fun x => { x with confSent := some 1, pnode := node, pport := port, penc := enc, pfree := free })

/-- ADVERT. -/
def execAdvert (p : Fin 8) (vmask : BitVec 3) (enc : Bool) (node : BitVec 16) (port : BitVec 3) (free : List (BitVec 16)) (s : State) : Out :=
  upd (fun b => b.advert p.val vmask.toNat enc node.toNat port.toNat (free.map (·.toNat))) s

/-- A CONFIRM: of the version sent, the port is ACTIVE with the partner's credits; of another, negotiation fails. -/
def Blk.confirm (b : Blk) (p vsel : Nat) : Blk :=
  let x := b.port p
  if !b.portOn p || x.st ≠ .negotiate then b
  else if vsel ≠ 1 then b.noVersion p
  else
    match x.confSent with
    | none => b
    | some v =>
      (b.updPort p (fun x => { x with
        st := .active, since := b.time.toNat, ver := v, credit := (List.range 5).map (fun i => x.pfree.getD i 0)
        txSeq := 0, rxSeq := 0, nak := false, sinceAck := 0, progress := b.time.toNat })).pumpAll p

/-- CONFIRM. -/
def execConfirm (p : Fin 8) (vsel : BitVec 3) (s : State) : Out := upd (fun b => b.confirm p.val vsel.toNat) s

/-- Flits up to a sequence number have been acknowledged (R389): they leave the replay buffer, and multicasts whose last flit is among
them end on this port. -/
def Blk.ackTo (b : Blk) (p seq : Nat) : Blk :=
  let x := b.port p
  match x.replayBuf.findIdx? (fun f => f.seq = seq) with
  | none => b
  | some i =>
    let gone := x.replayBuf.take (i + 1)
    let b := b.updPort p (fun x => { x with
      replayBuf := x.replayBuf.drop (i + 1), resend := x.resend.filter (fun q => !gone.any (fun f => f.seq = q)), progress := b.time.toNat })
    (gone.filterMap (·.last)).foldl (fun b id => b.mcEnd id) b

/-- A RESYNC (R390): of the same partner, credits are taken, flits up to LASTSEQ are acknowledged and the rest sent again; of another, the
port goes DOWN. -/
def Blk.resync (b : Blk) (p node port : Nat) (free : List Nat) (lastSeq : Nat) : Blk :=
  let x := b.port p
  if !b.portOn p || x.st ≠ .retrain || !x.locked then b
  else if node ≠ x.pnode || port ≠ x.pport then ((b.portDown p).portErr p 3).portAgain p
  else
    let b := b.ackTo p lastSeq
    (b.updPort p (fun x => { x with
      st := .active, since := b.time.toNat, nak := false, progress := b.time.toNat
      credit := (List.range 5).map (fun i => if i = 4 then x.credit.getD 4 0 else free.getD i 0)
      replayBuf := x.replayBuf.map (fun f => { f with sends := 1 }), resend := x.replayBuf.map (·.seq) })).pumpAll p

/-- RESYNC. -/
def execResync (p : Fin 8) (node : BitVec 16) (port : BitVec 3) (free : List (BitVec 16)) (lastSeq : BitVec 16) (s : State) : Out :=
  upd (fun b => b.resync p.val node.toNat port.toNat (free.map (·.toNat)) lastSeq.toNat) s

/-! ### Acknowledgement and replay (R389) -/

/-- Send every unacknowledged flit again; one that has been sent again 8 times without being acknowledged retrains the port. -/
def Blk.replay (b : Blk) (p : Nat) : Blk :=
  let x := b.port p
  if x.replayBuf.isEmpty then b
  else if x.replayBuf.any (fun f => decide (9 ≤ f.sends)) then (b.portErr p 5).portRetrain p
  else ((b.inc (pcnt p 5) 1).updPort p (fun x => { x with resend := x.replayBuf.map (·.seq), progress := b.time.toNat })).pumpAll p

/-- REPLAY_TIMEOUT: REPLAYTO T-ticks without progress of ACKSEQ while a flit is unacknowledged. -/
def execReplayTimeout (p : Fin 8) (s : State) : Out :=
  upd (fun b =>
    let x := b.port p.val
    onlyIf (b.portOn p.val && x.st = .active && decide (x.progress + b.rf 0x70010 32 16 ≤ b.time.toNat)) (fun b => b.replay p.val) b) s

/-- An acknowledgement leaves, with the credits that are owed. -/
def Port.sendAck (x : Port) : Port := { x with sinceAck := 0, owed := [] }

/-- ACK_TIMER. -/
def execAckTimer (p : Fin 8) (s : State) : Out :=
  upd (fun b => onlyIf (b.portOn p.val && (b.port p.val).st = .active) (fun b => b.updPort p.val Port.sendAck) b) s

/-- Pool i is owed n more credits. -/
def Port.owe (x : Port) (i n : Nat) : Port :=
  { x with owed := (List.range 5).map (fun k => x.owed.getD k 0 + if k = i then n else 0) }

/-- A DATA flit is discarded: NAK leaves, and the flit's credit is returned at once (R387, R389). -/
def Port.discard (x : Port) (pool : Option Nat) : Port :=
  match pool with
  | some i => { x.owe i 1 with nak := true }.sendAck
  | none => { x with nak := true }.sendAck

/-! ### Messages in the receive buffers (R386, R388, R393) -/

/-- TYPE. -/
def LMsg.ty (m : LMsg) : Nat := fld (qw m.words 0) 0 8
/-- CONF. -/
def LMsg.conf (m : LMsg) : Bool := bit (qw m.words 0) 8
/-- HOPS. -/
def LMsg.hops (m : LMsg) : Nat := fld (qw m.words 0) 9 6
/-- LEN. -/
def LMsg.len (m : LMsg) : Nat := fld (qw m.words 0) 16 16
/-- SRC. -/
def LMsg.src (m : LMsg) : Nat := fld (qw m.words 0) 32 16
/-- DST. -/
def LMsg.dst (m : LMsg) : Nat := fld (qw m.words 0) 48 16
/-- TAG. -/
def LMsg.tag (m : LMsg) : Nat := fld (qw m.words 1) 0 32
/-- Field of the type-specific half of Q1. -/
def LMsg.hi (m : LMsg) (lo n : Nat) : Nat := fld (qw m.words 1) (32 + lo) n
/-- The words after the header. -/
def LMsg.body (m : LMsg) : List W64 := m.words.drop 2

/-- A message type may travel in a pool (R394). -/
def LMsg.fits (m : LMsg) (pool : Nat) : Bool :=
  if pool = 4 then m.ty = 0xF0 && (m.hi 0 8 = 1 || m.hi 0 8 = 2)
  else if pool % 2 = 0 then decide (1 ≤ m.ty ∧ m.ty ≤ 6)
  else decide (0x81 ≤ m.ty ∧ m.ty ≤ 0x85)

/-- Consume n message bytes of a pool, oldest flits first; how many flits that empties. -/
def eatFlits (pool : Nat) : Nat → List (Nat × Nat) → List (Nat × Nat) × Nat
  | _, [] => ([], 0)
  | n, f :: t =>
    if f.1 ≠ pool then let r := eatFlits pool n t; (f :: r.1, r.2)
    else if f.2 ≤ n then let r := eatFlits pool (n - f.2) t; (r.1, r.2 + 1)
    else ((f.1, f.2 - n) :: t, 0)

/-- The oldest message of a pool. -/
def Port.head (x : Port) (pool : Nat) : Option LMsg := (x.rx.find? (fun e => e.1 = pool)).map (·.2)

/-- The oldest message of a pool is consumed, and the flits it empties owe their credits (R387). -/
def Port.consume (x : Port) (pool : Nat) : Port :=
  match x.rx.find? (fun e => e.1 = pool) with
  | none => x
  | some e =>
    let r := eatFlits pool (8 * e.2.words.length) x.rxFlits
    ({ x with rx := x.rx.erase e, rxFlits := r.1 } : Port).owe pool r.2

/-- Messages at the head of a pool that no row takes leave: those of a reserved type (R394), and those whose served command has ended
(R388, R396); n at most. -/
def Blk.sweepPort : Nat → Nat → Blk → Blk
  | 0, _, b => b
  | n + 1, p, b =>
    let x := b.port p
    let bad := fun (i : Nat) => match x.head i with | some m => !m.fits i | none => false
    let tooBig := fun (i : Nat) => match x.head i with
      | some m => (match m.serving with | some id => (b.cmd id).isNone | none => false)
      | none => false
    match (List.range 5).find? (fun i => bad i || tooBig i) with
    | none => b
    | some i =>
      let b := if bad i then b.inc (pcnt p 9) 1 else b
      (b.updPort p (fun x => x.consume i)).sweepPort n p

/-- Consume the head of a pool of port p. -/
def Blk.consume (b : Blk) (p pool : Nat) : Blk :=
  let b := b.updPort p (fun x => x.consume pool)
  b.sweepPort ((b.port p).rx.length) p

/-- Cut the payload of a flit into messages: the message in arrival, the payload; whole messages with how many payload bytes belong to
messages, and how many messages were malformed. -/
def cutMsgs (enc : Bool) : Nat → List Byte × Bool → List Byte → List LMsg → Nat → List LMsg × (List Byte × Bool) × Nat × Nat
  | 0, cur, _, out, used => (out, cur, used, 0)
  | n + 1, cur, l, out, used =>
    if l.isEmpty || (cur.1.isEmpty && l.headD 0 = 0) then (out, cur, used, 0)
    else
      let e := (cur.1.isEmpty || cur.2) && enc
      let all := cur.1 ++ l
      let len := leNat ((all.drop 2).take 2)
      if all.length < 4 then (out, (all, e), used + l.length, 0)
      else if len < 16 || len % 8 ≠ 0 then (out, ([], false), used, 1)
      else if all.length < len then (out, (all, e), used + l.length, 0)
      else
        let m : LMsg := { words := bytesWords (len / 8) (all.take len), enc := e }
        cutMsgs enc n ([], false) (all.drop len) (out ++ [m]) (used + (len - cur.1.length))

/-- The payload of an accepted flit joins the byte stream of its pool (R386). -/
def Blk.takePayload (b : Blk) (p pool : Nat) (enc : Bool) (l : List Byte) : Blk :=
  let x := b.port p
  let cur := ((x.rxBytes.find? (fun e => e.1 = pool)).map (·.2)).getD ([], false)
  let r := cutMsgs enc 32 cur l [] 0
  let rest := x.rxBytes.filter (fun e => e.1 ≠ pool)
  let b := b.updPort p (fun x =>
    let x := { x with
      rxBytes := if r.2.1.1.isEmpty then rest else (pool, r.2.1) :: rest
      rx := x.rx ++ r.1.map (fun m => (pool, m)) }
    if r.2.2.1 = 0 then x.owe pool 1 else { x with rxFlits := x.rxFlits ++ [(pool, r.2.2.1)] })
  let b := if r.2.2.2 = 0 then b else b.inc (pcnt p 9) r.2.2.2
  b.sweepPort ((b.port p).rx.length) p

/-! ### FLIT_RECEIVE (R383 to R389, R409) -/

/-- One bit of CRC-32. -/
def crcBit (c : W32) : W32 := if c.getLsbD 0 then (c >>> 1) ^^^ 0xEDB88320 else c >>> 1
/-- CRC-32 of the IEEE 802.3 frame check. -/
def crc32 (l : List Byte) : W32 :=
  ~~~(l.foldl (fun c x => iter 8 (fun _ c => crcBit c) (c ^^^ x.setWidth 32)) (0xFFFFFFFF : W32))

/-- Bytes [lo, lo + n) of a flit. -/
def Flit.bytes (f : BitVec 2048) (lo n : Nat) : List Byte := leBytes n (f.toNat >>> (8 * lo))

/-- The pool that the header of a DATA flit names; none where VL is reserved. -/
def flitPool (h : W64) : Option Nat :=
  match fld h 2 2 with
  | 0 => some (fld h 4 1)
  | 1 => some (2 + fld h 4 1)
  | 2 => some 4
  | _ => none

/-- Acknowledgement, NAK and credits of a header (R385). -/
def Blk.flitFields (b : Blk) (p : Nat) (h : W64) : Blk :=
  let b := if bit h 40 then b.ackTo p (fld h 24 16) else b
  let pool := if fld h 42 2 = 0 then some (fld h 44 1) else if fld h 42 2 = 1 then some (2 + fld h 44 1) else if fld h 42 2 = 2 then some 4 else none
  let b := match pool with
    | some i => b.updPort p (fun x => { x with credit := (List.range 5).map (fun k => x.credit.getD k 0 + if k = i then fld h 45 12 else 0) })
    | none => b
  if bit h 41 then b.replay p else b.pumpAll p

/-- The additional data of an encrypted flit: the header with its acknowledgement and credit fields at zero. -/
def flitAad (h : W64) : List Byte := leBytes 8 (putFld h 24 33 0).toNat

/-- The 12 bytes of an IV (R409). -/
def flitIv (node port count : Nat) : List Byte := beBytes 12 (count % 2 ^ 64 + (port % 8) <<< 64 + (node % 65536) <<< 80)

/-- The payload bytes of a DATA flit: of an encrypted one decrypted, none where its slot has no key or its tag fails. -/
def Port.openFlit (x : Port) (h : W64) (f : BitVec 2048) : Option (List Byte) :=
  if !bit h 5 then some (Flit.bytes f 8 242)
  else
    match x.key (bit h 6) with
    | none => none
    | some k =>
      let r := gcm true k.key (flitIv x.pnode x.pport k.rx) (flitAad h) (Flit.bytes f 8 226)
      if r.2 = Flit.bytes f 234 16 then some r.1 else none

/-- A DATA flit is accepted: its payload joins its pool, and an acknowledgement leaves after every 32. -/
def Blk.acceptFlit (b : Blk) (p pool : Nat) (h : W64) (l : List Byte) : Blk :=
  let step := fun (k : Option LinkKey) (s : Bool) => if bit h 5 && bit h 6 = s then k.map (fun y => { y with rx := y.rx + 1 }) else k
  let b := (b.inc (pcnt p 1) 1).updPort p (fun x =>
    let x := { x with rxSeq := (x.rxSeq + 1) % 65536, nak := false, sinceAck := x.sinceAck + 1, k0 := step x.k0 false, k1 := step x.k1 true }
    if 32 ≤ x.sinceAck then x.sendAck else x)
  b.takePayload p pool (bit h 5) l

/-- A flit that lies in no bad codeword and has a good CRC, in ACTIVE. -/
def Blk.activeFlit (b : Blk) (p : Nat) (h : W64) (f : BitVec 2048) : Blk :=
  match fld h 0 2, flitPool h with
  | 0, _ => b.flitFields p h
  | 1, none => b.updPort p (fun x => x.discard none)
  | 1, some pool =>
    if fld h 8 16 ≠ (b.port p).rxSeq then (b.updPort p (fun x => x.discard (some pool))).flitFields p h
    else
      match (b.port p).openFlit h f with
      | none => (b.inc (pcnt p 7) 1).updPort p (fun x => x.discard (some pool))
      | some l => (b.acceptFlit p pool h l).flitFields p h
  | _, _ => b

/-- A CTRL flit outside ACTIVE (R391). -/
def Blk.ctrlFlit (b : Blk) (p : Nat) (f : BitVec 2048) : Blk :=
  let l := Flit.bytes f 8 24
  let n := fun (i k : Nat) => leNat ((l.drop i).take k)
  let free := (List.range 5).map (fun i => n (8 + 2 * i) 2)
  match n 0 1 with
  | 1 => b.advert p (n 1 1 % 8) ((n 1 1).testBit 3) (n 2 2) (n 4 1 % 8) free
  | 2 => b.confirm p (n 1 1 % 8)
  | 3 => b.resync p (n 2 2) (n 4 1 % 8) free (n 18 2)
  | _ => b

/-- FLIT_RECEIVE. -/
def Blk.flitIn (b : Blk) (p : Nat) (f : Flit) : Blk :=
  let st := (b.port p).st
  if !b.portOn p || st = .down || st = .train then b
  else
    let h : W64 := f.bits.extractLsb' 0 64
    let bad := fun (b : Blk) => if st = .active && fld h 0 2 = 1 then b.updPort p (fun x => x.discard (flitPool h)) else b
    let b := b.inc (pcnt p 2) f.corrected
    if f.badFec then
      let now := b.time.toNat
      let b := bad ((b.inc (pcnt p 3) 1).updPort p (fun x => { x with fecWin := now :: x.fecWin.filter (fun t => decide (now < t + 250000)) }))
      if st = .active && 64 < (b.port p).fecWin.length then b.portRetrain p else b
    else if crc32 (Flit.bytes f.bits 0 252) ≠ f.bits.extractLsb' 2016 32 then bad (b.inc (pcnt p 4) 1)
    else if st = .active then b.activeFlit p h f.bits
    else if fld h 0 2 = 2 then b.ctrlFlit p f.bits
    else b

/-- FLIT_RECEIVE. -/
def execFlitReceive (p : Fin 8) (f : Flit) (s : State) : Out := upd (fun b => b.flitIn p.val f) s

/-! ### Escape (R405) -/

/-- The node that a message goes to, from its first bytes. -/
def TxMsg.dst (m : TxMsg) : Nat := leNat ((m.bytes.drop 6).take 2)

/-- ESCAPE_TIMEOUT: the VL0 message at the head of its pool has waited for credit and moves to the same class of VL1 on the escape
port. A multicast has no escape port: it follows its group (R406). -/
def Blk.escape (b : Blk) (p pool : Nat) : Blk :=
  let x := b.port p
  match x.tx.find? (fun m => m.pool = pool) with
  | none => b
  | some m =>
    let e := Tab.get 0 b.lx.rt m.dst
    let q := fld e 8 3
    if !b.portOn p || x.st ≠ .active || x.credit.getD pool 0 ≠ 0 || m.part || m.mc.isSome || m.bytes.headD 0 = 6 || !bit e 11 || (m.conf && !b.portEnc q) then b
    else
      let b := (b.inc (pcnt p 8) 1).updPort p (fun x => { x with tx := x.tx.erase m })
      (b.updPort q (fun x => { x with tx := x.tx ++ [{ m with pool := pool + 2 }] })).pumpAll q

/-- ESCAPE_TIMEOUT. -/
def execEscapeTimeout (p : Fin 8) (resp : Bool) (s : State) : Out := upd (fun b => b.escape p.val (if resp then 1 else 0)) s

/-! ### Transit (R404) -/

/-- The output port and pool of a message in transit; none where there is no route. -/
def Blk.hop (b : Blk) (m : LMsg) (pool : Nat) : Option (Nat × Nat) :=
  let r := b.routes m.dst
  if 2 ≤ pool then r.2.map (fun q => (q, pool))
  else
    match r.1 with
    | [] => r.2.map (fun q => (q, pool + 2))
    | l => some (l.getD (Config.routePort m.src l m.dst % l.length) 0, pool)

/-- TRANSIT_FORWARD: a message for another node is copied to its output port, or dropped. -/
def Blk.transit (b : Blk) (p : Nat) : Blk :=
  if !b.portOn p then b
  else
    let b := b.sweepPort ((b.port p).rx.length) p
    let away := fun (i : Nat) => match (b.port p).head i with | some m => m.ty ≠ 6 && m.dst ≠ b.node | none => false
    match (List.range 4).find? away with
    | none => b
    | some i =>
      match (b.port p).head i with
      | none => b
      | some m =>
        match (if m.hops = 0 then none else b.hop m i) with
        | none => (b.inc (pcnt p 9) 1).consume p i
        | some (q, j) =>
          if m.conf && !b.portEnc q then (b.inc (pcnt p 9) 1).consume p i
          else (b.consume p i).lxPush q j (m.words.set 0 (putFld (qw m.words 0) 9 6 (m.hops - 1))) m.conf none none

/-- TRANSIT_FORWARD. -/
def execTransitForward (p : Fin 8) (s : State) : Out := upd (fun b => b.transit p.val) s

/-! ### The tables and the management bus (R403, R410) -/

/-- Entries of table t of CK_LX_TADDR. -/
def lxEntries (t : Nat) : Nat := if t = 0 then 0xF00 else if t = 1 then 4096 else if t = 2 then 65536 else if t = 3 then 1024 else 0

/-- The addressed entry: its two words. -/
def Blk.lxEntry (b : Blk) : W64 × W64 :=
  let t := b.rf 0x70020 16 3
  let i := b.rf 0x70020 0 16
  if lxEntries t ≤ i then (0, 0)
  else
    match t with
    | 0 => (Tab.get 0 b.lx.wrt i, 0)
    | 1 => b.rwt i
    | 2 => (Tab.get 0 b.lx.rt i, 0)
    | _ => (Tab.get 0 b.lx.mc i, 0)

/-- A write of CK_LX_TADDR loads the entry into TDATA0 and TDATA1. -/
def Blk.taddrWrite (b : Blk) (h : Half) (v : W64) : Blk :=
  if !b.regOpen 0x70020 then b
  else
    let b := b.fieldWrite 0x70020 h v
    let e := b.lxEntry
    (b.setReg 0x70028 e.1).setReg 0x70030 e.2

/-- CK_LX_TADDR_WRITE. -/
def execCkLxTaddrWrite (h : Half) (v : W64) (s : State) : Out := upd (fun b => b.taddrWrite h v) s

/-- A write of CK_LX_TDATA1 commits both words to the addressed entry; reserved bits are not kept. -/
def Blk.tdata1Write (b : Blk) (h : Half) (v : W64) : Blk :=
  if !b.regOpen 0x70030 then b
  else
    let b := b.fieldWrite 0x70030 h v
    let t := b.rf 0x70020 16 3
    let i := b.rf 0x70020 0 16
    let x := b.reg 0x70028
    let y := b.reg 0x70030
    if lxEntries t ≤ i then b
    else
      { b with lx :=
          match t with
          | 0 => { b.lx with wrt := Tab.set 0 b.lx.wrt i (x &&& 0x00000FFFFFFF0001) }
          | 1 => { b.lx with rwt0 := Tab.set 0 b.lx.rwt0 i (x &&& 0x00003FFFFFFFFF1F)
                             rwt1 := Tab.set 0 b.lx.rwt1 i (y &&& 0xFFFF003F001FFFFF) }
          | 2 => { b.lx with rt := Tab.set 0 b.lx.rt i (x &&& 0xFFF) }
          | _ => { b.lx with mc := Tab.set 0 b.lx.mc i (x &&& 0x3FF) } }

/-- CK_LX_TDATA1_WRITE. -/
def execCkLxTdata1Write (h : Half) (v : W64) (s : State) : Out := upd (fun b => b.tdata1Write h v) s

/-- A write of CK_LX_MGMT: GO starts a transaction unless one runs (R382). -/
def Blk.mgmtWrite (b : Blk) (h : Half) (v : W64) : Blk :=
  if !b.regOpen 0x70040 then b
  else
    let b := b.fieldWrite 0x70040 h v
    if wrOne h v 24 then { b with lx := { b.lx with mgmtBusy := true } } else b

/-- GO. -/
def execGoWrite (h : Half) (v : W64) (s : State) : Out := upd (fun b => b.mgmtWrite h v) s

/-- MGMT_TRANSACTION_DONE: BUSY clears with the data read, or with NACK. -/
def Blk.mgmtDone (b : Blk) (nack : Bool) (data : Byte) : Blk :=
  if !b.live || !b.lx.mgmtBusy then b
  else
    let b := { b with lx := { b.lx with mgmtBusy := false } }
    if nack then b.setFld 0x70040 26 1 1
    else if b.rb 0x70040 7 then b.setFld 0x70040 16 8 data.toNat
    else b

/-- MGMT_TRANSACTION_DONE. -/
def execMgmtTransactionDone (nack : Bool) (data : Byte) (s : State) : Out := upd (fun b => b.mgmtDone nack data) s

end Sys2Proof.Machine
end

