-- ==== Sys2Proof/Machine/Serve.lean ====
section
/-! DEFINITION. Messages that reach their chip (R388, R394 to R402, R406 to R408, R418): requests of partner chips and the commands
that serve them, multicasts, responses, and echoes. -/
namespace Sys2Proof.Machine

/-! ### Requests -/

/-- Take the request of a type at the head of a request pool of port p; requests wait while new work may not be taken (R431, R434). -/
def Blk.request (b : Blk) (p ty : Nat) (f : Blk → Nat → LMsg → Blk) : Blk :=
  if !b.issues || !b.portOn p then b
  else
    let b := b.sweepPort ((b.port p).rx.length) p
    let here := fun (i : Nat) => match (b.port p).head i with
      | some m => m.ty = ty && (ty = 6 || m.dst = b.node) && m.serving.isNone
      | none => false
    match [0, 2].find? here with
    | none => b
    | some i =>
      match (b.port p).head i with
      | none => b
      | some m => f b i m

/-- Answer a request that was not served; a window miss is counted. -/
def Blk.refuse (b : Blk) (m : LMsg) (st : Nat) : Blk :=
  (if st = 0x33 then b.inc 0x70110 1 else b).lxRespond m.src (0x80 + m.ty) m.tag st [] false

/-- OFFSET and BYTES of an RD or WR are malformed (R394). -/
def rwBad (off n : Nat) : Bool := n < 8 || 4096 < n || n % 8 ≠ 0 || off % 8 ≠ 0 || 4096 < off % 4096 + n

/-- RD: checked against the receive window and answered with its data; a confidential answer that the port may not carry is
PERMISSION (R402, R408). -/
def Blk.serveRd (b : Blk) (p pool : Nat) (m : LMsg) (poison : Bool) : Blk :=
  let b := b.consume p pool
  let off := fld (qw m.words 2) 0 32
  let n := fld (qw m.words 2) 32 13
  let w := m.hi 0 12
  let cr := fld (b.rwt w).1 8 4
  if m.len ≠ 24 || rwBad off n then b.refuse m 0x51
  else
    match b.rwtAddr w 1 off n m.enc with
    | (0, pa) =>
      if poison || b.devBad pa n then b.refuse m 0x40
      else
        let mayGo := match b.route m.src with | some (q, _) => cr = 0 || b.portEnc q | none => true
        if mayGo then b.lxRespond m.src 0x81 m.tag 0 (bytesWords n (b.devRead cr pa n)) (cr ≠ 0) else b.refuse m 0x32
    | (st, _) => b.refuse m st

/-- RD. -/
def execRdMsg (p : Fin 8) (poison : Bool) (s : State) : Out :=
  upd (fun b => b.request p.val 1 (fun b i m => b.serveRd p.val i m poison)) s

/-- WR: checked against the receive window, placed, and acknowledged. -/
def Blk.serveWr (b : Blk) (p pool : Nat) (m : LMsg) : Blk :=
  let b := b.consume p pool
  let off := fld (qw m.words 2) 0 32
  let n := fld (qw m.words 2) 32 13
  let w := m.hi 0 12
  if m.len ≠ 24 + n || rwBad off n then b.refuse m 0x51
  else
    match b.rwtAddr w 2 off n m.enc with
    | (0, pa) => (b.passWrite (fld (b.rwt w).1 8 4) pa (wordBytes (m.words.drop 3))).lxRespond m.src 0x82 m.tag 0 [] false
    | (st, _) => b.refuse m st

/-- WR. -/
def execWrMsg (p : Fin 8) (s : State) : Out := upd (fun b => b.request p.val 2 (fun b i m => b.serveWr p.val i m)) s

/-- A remote anchor signal takes effect under R376 and is acknowledged. -/
def Blk.serveAsig (b : Blk) (p pool : Nat) (m : LMsg) : Blk :=
  let b := b.consume p pool
  if m.len ≠ 24 || 2 ≤ m.hi 15 2 then b.refuse m 0x51
  else (b.signal (m.hi 0 15) (m.hi 15 2 = 1) (fld (qw m.words 2) 0 48)).lxRespond m.src 0x85 m.tag 0 [] false

/-- ASIG at its destination. -/
def execRemoteAsig (p : Fin 8) (s : State) : Out := upd (fun b => b.request p.val 5 (fun b i m => b.serveAsig p.val i m)) s

/-! ### Multicasts (R400, R406) -/

/-- A multicast is lost here. -/
def Blk.mcDrop (b : Blk) : Blk := b.inc 0x70118 1

/-- Deliver a multicast at this chip: a replica record is written as one write (R422), operand bytes reach the loads that wait. -/
def Blk.mcDeliver (b : Blk) (m : LMsg) : Blk :=
  let q2 := qw m.words 2
  let q3 := qw m.words 3
  let data := wordBytes (m.words.drop 4)
  match m.hi 10 2 with
  | 0 =>
    let n := fld q3 32 13
    let w := fld q2 0 12
    match b.rwtAddr w 2 (fld q3 0 32) n m.enc with
    | (0, pa) => (b.passWrite (fld (b.rwt w).1 8 4) pa (data.take n)).inc 0x70220 1
    | _ => b.mcDrop
  | 1 =>
    match b.emcTake (fld q2 0 16) (fld q2 16 8) (data.take (fld q3 0 13)) with
    | (b, true) => b
    | (b, false) => b.mcDrop
  | _ => b.mcDrop

/-- Forward a multicast on the ports of its group but the one it arrived on. -/
def Blk.mcForward (b : Blk) (p pool : Nat) (m : LMsg) (e : W64) : Blk :=
  let ws := m.words.set 0 (putFld (qw m.words 0) 9 6 (m.hops - 1))
  ((List.range 8).filter (fun q => q ≠ p && bit e q)).foldl (fun b q =>
    if m.hops = 0 || !b.portActive q || (m.conf && !b.portEnc q) then b.mcDrop
    else b.lxPush q pool ws m.conf none none) b

/-- MCAST: delivered where LOCAL = 1, and forwarded; a group with V = 0 is dropped. -/
def Blk.serveMcast (b : Blk) (p pool : Nat) (m : LMsg) : Blk :=
  let b := b.consume p pool
  let e := Tab.get 0 b.lx.mc (m.hi 0 10)
  if !bit e 9 then b.mcDrop
  else (if bit e 8 then b.mcDeliver m else b).mcForward p pool m e

/-- MCAST. -/
def execMcast (p : Fin 8) (s : State) : Out := upd (fun b => b.request p.val 6 (fun b i m => b.serveMcast p.val i m)) s

/-! ### RPOOL and RGRAD (R395 to R399) -/

/-- MODE. -/
def Served.mode (x : Served) : Nat := fld (qw x.words 1) 44 3
/-- Bytes of an index. -/
def Served.iw (x : Served) : Nat := if bit (qw x.words 1) 47 then 8 else 4
/-- WEN. -/
def Served.wen (x : Served) : Bool := bit (qw x.words 1) 48
/-- WFMT. -/
def Served.wfmt (x : Served) : Nat := fld (qw x.words 1) 49 2
/-- TALLY of an RGRAD. -/
def Served.tally (x : Served) : Nat := fld (qw x.words 1) 51 8
/-- NB. -/
def Served.nb (x : Served) : Nat := fld (qw x.words 2) 0 7
/-- NIDX. -/
def Served.nidx (x : Served) : Nat := fld (qw x.words 2) 8 9
/-- The body from byte 24. -/
def Served.body (x : Served) : List Byte := wordBytes (x.words.drop 3)
/-- Bytes of one gradient of an RGRAD with its count. -/
def Served.gradBytes (x : Served) (t : TableCopy) : Nat := if x.isPool then 0 else 8 + upTo 8 (t.n * t.acc.size)
/-- Offset of the bag lengths in the body. -/
def Served.lenAt (x : Served) (t : TableCopy) : Nat := x.nb * x.gradBytes t
/-- Offset of the indices. -/
def Served.idxAt (x : Served) (t : TableCopy) : Nat := x.lenAt t + upTo 8 (2 * x.nb)
/-- Offset of the weights. -/
def Served.wtAt (x : Served) (t : TableCopy) : Nat := x.idxAt t + upTo 8 (x.iw * x.nidx)
/-- Bytes of the body. -/
def Served.size (x : Served) (t : TableCopy) : Nat := x.wtAt t + (if x.wen then upTo 8 (wsize x.wfmt * x.nidx) else 0)
/-- Bag lengths. -/
def Served.lens (x : Served) (t : TableCopy) : List Nat := (List.range x.nb).map (fun i => leNat ((x.body.drop (x.lenAt t + 2 * i)).take 2))
/-- Ends of the bags. -/
def Served.ends (x : Served) (t : TableCopy) : List Nat :=
  ((x.lens t).foldl (fun (a : List Nat × Nat) n => (a.1 ++ [a.2 + n], a.2 + n)) ([], 0)).1

/-- A served command breaks R399, R94 or R222: the status it is answered with. -/
def Served.bad (b : Blk) (x : Served) (t : TableCopy) : Option Nat :=
  if anyOf [
      x.nb = 0, 64 < x.nb, x.nidx = 0, 256 < x.nidx, x.body.length ≠ x.size t, (x.lens t).foldl (· + ·) 0 ≠ x.nidx,
      (if x.isPool then 4 else 3) < x.mode, x.mode = 2 && !x.wen, x.wen && x.wfmt = 3 && !t.fp64,
      !x.isPool && !t.train] then some 0x51
  else if t.compact && !b.build.arrays then some 0x53
  else none

/-- The stream descriptor of a served command: one dimension of NIDX indices. -/
def Served.sd (x : Served) : List W64 :=
  [BitVec.ofNat 64 (1 + 1 <<< 4 + (if x.iw = 8 then 128 else 0) + (if x.wen then 2048 else 0) + x.wfmt <<< 12 + x.table <<< 16 + 0x1FFF <<< 36),
   0, 0, BitVec.ofNat 64 x.nidx, 0, BitVec.ofNat 64 (x.iw <<< 32), 0, 0]

/-- The consumer descriptor of a served command. -/
def Served.pd (x : Served) : List W64 :=
  if x.isPool then [BitVec.ofNat 64 (1 + x.mode <<< 4 + (x.nb - 1) <<< 24)]
  else [BitVec.ofNat 64 (1 + x.mode <<< 4 + x.tally <<< 20 + (x.nb - 1) <<< 32)]

/-- The gradients of an RGRAD by bag, with their counts. -/
def Served.grads (x : Served) (t : TableCopy) : List (Nat × Nat × List W64) :=
  if x.isPool then [] else
  (List.range x.nb).map (fun k =>
    let l := (x.body.drop (k * x.gradBytes t)).take (x.gradBytes t)
    (k, leNat (l.take 4), accLanes t.acc t.n (l.drop 8)))

/-- The pass of a served command starts on queue q = 16 + t. -/
def Blk.servedBind (b : Blk) (m : Cmd) (x : Served) (c t : Nat) (tab : TableCopy) : Blk :=
  let q := 16 + t
  let idx := (x.body.drop (x.idxAt tab)).take (x.iw * x.nidx)
  let wts := (x.body.drop (x.wtAt tab)).take (wsize x.wfmt * x.nidx)
  let cons := if x.isPool then Consumer.pool x.pd m.id t none else Consumer.scat x.pd m.id t none
  let b := b.updSq c q (fun _ => {
    st := .active, cmd := m.id, task := t, ctx := m.ctx, sd := x.sd, tab := tab, pass := 1, cons := cons, srv := true
    inl := some idx, winl := some wts, ends := x.ends tab, entries := 2 ^ 24, grads := x.grads tab })
  let b := ((List.range x.nb).filter (fun k => (x.lens tab).getD k 0 = 0)).foldl (fun b k =>
    if x.isPool then b.closeBag c q k else b.settle c q k) b
  b.pass c q { blocks := [] }

/-- The table of a served command, with the rows of the own shard where it is sharded (R414). -/
def Blk.servedTable (b : Blk) (id : Nat) (rd : View) (n : Nat) : Blk × Ds TableCopy :=
  Ds.bind (b.table id rd n) (fun b t =>
    if !t.sharded then (b, .ok t)
    else Ds.bind (b.findOwn (.desc id) t rd) (fun b o => (b, .ok { t with own := (o.map (·.size t)).getD 0 })))

/-- A served command whose task context runs reads and checks its table and starts (R402 step 5, R399). -/
def Blk.servedGo (b : Blk) (id : Nat) (rd : View) : Blk :=
  match b.cmd id with
  | none => b
  | some m =>
    match m.served, m.held with
    | some x, some (c, t) =>
      if m.begun || m.ending || m.park.isSome || !b.unitIssues c || b.dbgHalted c || (b.task c t).st ≠ .running then b
      else
        match b.servedTable id rd x.table with
        | (b, .ok tab) =>
          match x.bad b tab with
          | some st => b.failCmd id st
          | none => (b.updCmd id (fun m => { m with begun := true })).servedBind m x c t tab
        | (b, r) => b.dsFail id (.desc id) m.ctx r
    | _, _ => b

/-- Steps 1, 2 and 4 of R402 for an RPOOL or RGRAD; a confidential region without a key refuses too (R450). -/
def Blk.poolWindow (b : Blk) (m : LMsg) : Nat :=
  let e := (b.rwt (m.hi 0 12)).1
  if !bit e 0 then 0x33
  else if !bit e (if m.ty = 3 then 3 else 4) then 0x32
  else if fld e 8 4 ≠ 0 && (!b.active (fld e 8 4) || (m.ty = 4 && !m.enc)) then 0x32
  else 0

/-- An RPOOL or RGRAD that passes its window becomes a served command in the work queue that ANYCORE picks; where none has room it
waits (R396). An RGRAD keeps its receive buffers until its contributions are merged (R388). -/
def Blk.servePool (b : Blk) (p pool : Nat) (m : LMsg) : Blk :=
  let st := b.poolWindow m
  if st ≠ 0 then (b.consume p pool).refuse m st
  else
    let e := b.rwt (m.hi 0 12)
    let ctx := fld e.2 32 6
    let r := b.ring ctx
    let id := b.nextCmd
    let x : Served := { port := p, src := m.src, tag := m.tag, isPool := m.ty = 3, words := m.words, table := fld e.2 48 16, conf := fld e.1 8 4 ≠ 0 }
    let cmd : Cmd := { id := id, ring := ctx, cd := [0x800000000], served := some x, dbase := r.dbase, dcount := r.dcount }
    match b.chooseCore cmd with
    | none => b
    | some c =>
      let b := if x.isPool then (b.consume p pool).inc 0x70208 1
        else b.updPort p (fun y => { y with rx := y.rx.map (fun e => if e.1 = pool && e.2 = m then (e.1, { e.2 with serving := some id }) else e) })
      ({ b with cmds := b.cmds ++ [cmd], nextCmd := id + 1, sec := { b.sec with zero := false } } : Blk).enqueue id c false

/-- Served commands of a kind that came in on port p and can start, start. -/
def Blk.servedAll (b : Blk) (p : Nat) (isPool : Bool) (rd : View) : Blk :=
  let ids := (b.cmds.filter (fun m => match m.served with | some x => x.port = p && x.isPool = isPool && !m.begun | none => false)).map (·.id)
  ids.foldl (fun b id => b.servedGo id rd) b

/-- RPOOL. -/
def execRpool (p : Fin 8) (rd : View) (s : State) : Out :=
  upd (fun b => (b.request p.val 3 (fun b i m => b.servePool p.val i m)).servedAll p.val true rd) s

/-- RGRAD. -/
def execRgrad (p : Fin 8) (rd : View) (s : State) : Out :=
  upd (fun b => (b.request p.val 4 (fun b i m => b.servePool p.val i m)).servedAll p.val false rd) s

/-- The records of an RPOOL_RESP, in bag order. -/
def Cmd.poolReply (m : Cmd) (x : Served) : List W64 :=
  let f := ((m.tabs.find? (fun t => t.num = x.table)).getD {}).acc
  let rec_ := fun (k : Nat) =>
    let r := ((m.replies.find? (fun e => e.1 = k)).map (·.2)).getD (0, 0x40, [])
    leBytes 8 (r.1 % 2 ^ 32 + r.2.1 <<< 32) ++ pad8 (r.2.2.flatMap (fun l => leBytes f.size l.toNat))
  let body := (List.range x.nb).flatMap rec_
  BitVec.ofNat 64 (satN 16 m.rows + (satN 16 m.invidx) <<< 16 + (satN 16 m.defsub) <<< 32) :: bytesWords body.length body

/-- The response of a served command: its status and body. -/
def Blk.servedReply (b : Blk) (m : Cmd) (x : Served) : Blk :=
  let ty := if x.isPool then 0x83 else 0x84
  let mayGo := match b.route x.src with | some (q, _) => !x.conf || b.portEnc q | none => true
  if m.ending then b.lxRespond x.src ty x.tag (m.fail.getD 0x7F) [] false
  else if !x.isPool then b.lxRespond x.src ty x.tag 0 [BitVec.ofNat 64 m.applied] false
  else if mayGo then b.lxRespond x.src ty x.tag 0 (m.poolReply x) x.conf
  else b.lxRespond x.src ty x.tag 0x32 [] false

/-- SERVED_RESPONSE_SEND: once the work, the writes and the merges of a served command are done, its response is sent and its task
context is free (R396). -/
def Blk.servedSend (b : Blk) (id : Nat) : Blk :=
  match b.cmd id with
  | none => b
  | some m =>
    match m.served with
    | none => b
    | some x =>
      if !b.live || (match m.held with | some (c, _) => b.coreRst c | none => false) || !b.writesDone id || b.hasPass m (fun s => s.owner = id) || !(m.begun || m.ending) || (m.park.isSome && !m.ending) then b
      else
        match b.addTotals m with
        | (b, false) => b
        | (b, true) =>
          match b.cmd id with
          | none => b
          | some m =>
            let b := (b.servedReply m x).release m
            let b := { b with cmds := b.cmds.filter (fun y => y.id ≠ id) }
            b.sweepPort ((b.port x.port).rx.length) x.port

/-- SERVED_RESPONSE_SEND. -/
def execServedResponseSend (id : Nat) (s : State) : Out := upd (fun b => b.servedSend id) s

/-! ### Responses (R407, R418) -/

/-- The request kinds that a response type answers. -/
def LReqKind.answers (k : LReqKind) (ty : Nat) : Bool :=
  match k with
  | .read _ _ _ => ty = 0x81
  | .write _ => ty = 0x82
  | .rpool _ _ _ => ty = 0x83
  | .rgrad _ _ _ _ _ => ty = 0x84
  | .asig _ _ _ => ty = 0x85
  | .rsig _ => ty = 0x85

/-- The status that a command ends with where a response carries a status. -/
def lxStatus (st : Nat) : Nat := if st = 0x32 || st = 0x33 || st = 0x51 then st else 0x61

/-- Take the response of a type at the head of a response pool: that of a request which has ended is discarded and counted, one with a
status fails its request, another is given to `f`. -/
def Blk.response (b : Blk) (p ty : Nat) (f : Blk → LReq → LMsg → Blk) : Blk :=
  if !b.portOn p then b
  else
    let b := b.sweepPort ((b.port p).rx.length) p
    let here := fun (i : Nat) => match (b.port p).head i with | some m => m.ty = ty && m.dst = b.node | none => false
    match [1, 3].find? here with
    | none => b
    | some i =>
      match (b.port p).head i with
      | none => b
      | some m =>
        let b := b.consume p i
        match b.lx.reqs.find? (fun r => r.tag = m.tag && r.kind.answers ty) with
        | none => b.inc 0x70108 1
        | some r =>
          let b := { b with lx := { b.lx with reqs := b.lx.reqs.erase r } }
          let st := m.hi 0 8
          if st = 0 || (st = 0x40 && ty = 0x81) then f b r m else b.lxFail r (lxStatus st)

/-- Data, or poison, of a piece of a row read. -/
def Blk.giveRead (b : Blk) (r : LReq) (m : LMsg) (c i k : Nat) : Blk :=
  match (b.core c).slot i with
  | none => b
  | some t =>
    match t.pieces[k]? with
    | none => b
    | some x =>
      let bad := m.hi 0 8 ≠ 0
      let l := if bad then List.replicate x.len 0 else (((wordBytes m.body).drop (x.pa % 8)).take x.len)
      if l.length ≠ x.len then b.lxFail r 0x61
      else b.updSlot c i (fun t => { t with pieces := t.pieces.set k { x with byte := some l, bad := if bad then sectorsOf x.pa x.len else [] } })

/-- RD_RESP. -/
def execRdResp (p : Fin 8) (s : State) : Out :=
  upd (fun b => b.response p.val 0x81 (fun b r m => match r.kind with | .read c i k => b.giveRead r m c i k | _ => b)) s

/-- WR_ACK: the write has ended. -/
def execWrAck (p : Fin 8) (s : State) : Out := upd (fun b => b.response p.val 0x82 (fun b _ _ => b)) s

/-- One record of an RPOOL_RESP is joined into its bag, and its elements are delivered (R418). -/
def Blk.joinRec (b : Blk) (c q k : Nat) (ords : List Nat) (l : List Byte) : Blk :=
  let s := b.sq c q
  let n := leNat (l.take 4)
  let f := s.fmt
  let w := s.width
  let lanes := accLanes f w (l.drop 8)
  let x : Accu := { lanes := lanes, cnt := n,
                    m2 := if s.mode = 4 then accLanes f w (l.drop (8 + w * f.size)) else List.replicate w 0 }
  let b :=
    if s.hasFailed k then b
    else if leNat ((l.drop 4).take 1) = 0x40 then b.failBag c q k 0x40 0xFFFFFFFFFFFFFFFF
    else b.putBag c q ((s.bag k).joinAt f s.mode w ((ords.headD 0) - s.start k) x)
  ords.foldl (fun b e => b.deliver c q e k none) b

/-- Counts of an RPOOL_RESP are added to the requester's (R397). -/
def Cmd.addCounts (m : Cmd) (w : W64) : Cmd :=
  let inv := fld w 16 16
  let def_ := fld w 32 16
  let m := { m with rows := m.rows + fld w 0 16, invidx := m.invidx + inv, defsub := m.defsub + def_ }
  let m := if inv = 0 then m else m.flag 0
  if def_ = 0 then m else m.flag 1

/-- The records of an RPOOL_RESP in order. -/
def Blk.joinAll (c q size : Nat) : List (Nat × List Nat) → List Byte → Blk → Blk
  | [], _, b => b
  | g :: t, l, b => Blk.joinAll c q size t (l.drop size) (b.joinRec c q g.1 g.2 (l.take size))

/-- RPOOL_RESP of a pass that goes on: its slots are freed, its counts added, its partials joined. Of a pass that has ended only the slots
are freed. -/
def Blk.givePool (b : Blk) (r : LReq) (m : LMsg) (c q : Nat) (bags : List (Nat × List Nat)) : Blk :=
  let s := b.sq c q
  let ords := bags.flatMap (·.2)
  if s.ended || (s.st ≠ .active && s.st ≠ .parked) || r.cmd ≠ some s.owner then (b.freeRemote c q true ords).finishPass c q
  else
    let size := 8 + upTo 8 s.laneBytes
    let l := wordBytes (m.body.drop 1)
    if l.length ≠ size * bags.length then b.lxFail r 0x61
    else
      let b := (b.freeRemote c q false ords).updCmd s.owner (fun x => x.addCounts (qw m.body 0))
      Blk.joinAll c q size bags l b

/-- RPOOL_RESP. -/
def execRpoolResp (p : Fin 8) (s : State) : Out :=
  upd (fun b => b.response p.val 0x83 (fun b r m => match r.kind with | .rpool c q bags => b.givePool r m c q bags | _ => b)) s

/-- RGRAD_ACK: the contributions of a pass that goes on are counted on the local tally, and its elements have settled (R227, R230). -/
def Blk.giveGrad (b : Blk) (r : LReq) (c q : Nat) (n : Nat) (ords : List (Nat × Nat)) : Blk :=
  let s := b.sq c q
  if s.ended || (s.st ≠ .active && s.st ≠ .parked) || r.cmd ≠ some s.owner then b
  else
    let b := b.updSq c q (fun s => { s with nulls := s.nulls + n })
    let b := ords.foldl (fun b o =>
      let s := b.sq c q
      match s.flight.find? (fun x => x.ord = o.1) with
      | some x =>
        (b.updSq c q (fun s => { s with grads := if s.elemMode then s.grads.filter (fun g => g.1 ≠ o.1) else s.grads })).scatSettled c q x
          ((s.bagOf o.1).getD 0)
      | none => b) b
    b.scatEnd c q { blocks := [] }

/-- RGRAD_ACK. -/
def execRgradAck (p : Fin 8) (s : State) : Out :=
  upd (fun b => b.response p.val 0x84 (fun b r _ => match r.kind with | .rgrad c q _ n ords => b.giveGrad r c q n ords | _ => b)) s

/-- ASIG_ACK: the signal of a task ends with its tag. -/
def execAsigAck (p : Fin 8) (s : State) : Out :=
  upd (fun b => b.response p.val 0x85 (fun b r _ =>
    match r.kind with
    | .asig c t tag =>
      if (b.task c t).cmd = r.cmd && (b.task c t).asigs.any (fun a => a.tag = tag && a.sent) then
        (b.updTask c t (fun x => { x with asigs := x.asigs.filter (fun a => !(a.tag = tag && a.sent)) })).endTag c t (some tag)
      else b
    | _ => b)) s

/-! ### Echoes (R394) -/

/-- Take the MGMT message of a kind at the head of VL2. -/
def Blk.mgmt (b : Blk) (p sub : Nat) (f : Blk → LMsg → Blk) : Blk :=
  if !b.portOn p then b
  else
    let b := b.sweepPort ((b.port p).rx.length) p
    match (b.port p).head 4 with
    | none => b
    | some m => if m.hi 0 8 = sub then f (b.consume p 4) m else b

/-- ECHO: answered with its timebase. -/
def execEcho (p : Fin 8) (s : State) : Out :=
  upd (fun b => b.mgmt p.val 1 (fun b m =>
    b.lxPush p.val 4 (msgHead 0xF0 (b.rf 0x70008 0 6) 24 b.node 0xFFFF m.tag 2 false ++ [qw m.words 2]) false none none)) s

/-- ECHO_REPLY: consumed. -/
def execEchoReply (p : Fin 8) (s : State) : Out := upd (fun b => b.mgmt p.val 2 (fun b _ => b)) s

end Sys2Proof.Machine
end

