-- ==== Sys2Proof/Machine/Power.lean ====
section
/-! DEFINITION. Power states (R429 to R433), the brown-out hold (R434 to R436), resets (R437 to R441) and what each of them keeps
(R14, R442). -/
namespace Sys2Proof.Machine

/-! ### What registers keep (R14) -/

/-- What is left of a register whose fields of `sel` keep their value: the others return to their reset value. -/
def keepReg (sel : Fld → Bool) (o : Nat) (v : W64) : W64 :=
  match regAt o with
  | none => v
  | some (r, _, _) => (v &&& r.mask sel) ||| (r.rstVal &&& ~~~(r.mask sel))

/-- The same for the registers at the offsets of `p`; others stay. -/
def keepRegs (p : Nat → Bool) (sel : Fld → Bool) (t : Tab W64) : Tab W64 :=
  t.foldl (fun a e => if p e.1 then Tab.set (regReset e.1) a e.1 (keepReg sel e.1 e.2) else a) t

/-- Registers that belong to core c: its per-core block, its regulators, its debug register and its courier pair. -/
def ofCore (c o : Nat) : Bool :=
  o / 0x10000 = 0x10 + c || (decide (0x30100 ≤ o ∧ o < 0x30200) && (o - 0x30100) / 32 = c) ||
  (decide (0x90100 ≤ o ∧ o < 0x90140) && (o - 0x90100) / 8 = c) || (decide (0xA0000 ≤ o ∧ o < 0xA0200) && (o - 0xA0000) / 0x40 = c)

/-! ### Resets of the whole block (R437, R438, R440) -/

/-- A camp whose copy, write-back and updates have ended with a reset (R259). -/
def Camp.still (e : Camp) : Camp :=
  { e with lookups := 0, updates := 0, copying := false, recopyWait := false, demote := false, discard := false, landed := false }

/-- A block reset starts (R437 to R442), with the bit of CK_RST_CAUSE that tells why. -/
def Blk.blkReset (b : Blk) (cause : Nat) : Blk :=
  if b.pwr.st = .off || b.pwr.rst = .por then b
  else
    let b := b.setFld 0x2020 cause 1 1
    { build := b.build, time := b.time, free := b.free, host := b.host, msgs := b.msgs, dev := b.dev, bad := b.bad, dbg := b.dbg
      regs := keepRegs (fun _ => true) (fun f => f.b) b.regs
      lx := { nextTag := b.lx.nextTag }
      mig := { camps := b.mig.camps.map Camp.still, slots := b.mig.slots, recov := b.diren }
      sec := { zero := b.sec.zero || b.guarded }
      pwr := { rst := .blk } }

/-- BLOCK_RESET_PIN: RST_BLK_N is low. -/
def execBlockResetPin (s : State) : Out := upd (fun b => b.blkReset 1) s

/-- PM_FAIL (R437): PM_FAIL_N is low. -/
def execPmFail (s : State) : Out :=
  upd (fun b => if b.pwr.st = .off || b.pwr.rst = .por then b else (b.incSat 0x2010 32 16 1).blkReset 3) s

/-- BLOCK_RESET_DONE. -/
def execBlockResetDone (s : State) : Out :=
  upd (fun b => onlyIf (b.pwr.rst = .blk) (fun b => { b with pwr := { b.pwr with rst := .none } }) b) s

/-- A power-on reset starts: nothing is kept; host memory is not the block's. -/
def Blk.powerOn (b : Blk) : Blk :=
  { build := b.build, free := b.free, host := b.host, msgs := b.msgs, lx := { nextTag := b.lx.nextTag }, pwr := { rst := .por } }

/-- POWER_ON_RESET: RST_POR_N is low. -/
def execPowerOnReset (s : State) : Out := updAll Blk.powerOn s

/-- The named configurations with their options (R488): bits 1 and 0 the configuration, bit 2 the far tier, bit 3 a C1-S without arrays or
a C1-X with 1,024 lanes, bit 4 a C1-S with two Litha ports. -/
def buildOf (n step : Nat) : Build :=
  match n % 4 with
  | 0 => { config := 0, cores := 1, overlap := false, arrays := !n.testBit 3, far := n.testBit 2, litha := if n.testBit 4 then 2 else 0
           nchan := 16, lanes := 256, rcache := 4, coal := 4, step := step }
  | 1 => { config := 1, cores := 2, overlap := false, far := n.testBit 2, litha := 2, nchan := 16, lanes := 256, rcache := 4, coal := 4, step := step }
  | 2 => { config := 2, cores := 4, overlap := false, far := n.testBit 2, litha := 4, nchan := 32, lanes := 512, rcache := 8, coal := 8, step := step }
  | _ => { config := 3, cores := 8, overlap := true, far := n.testBit 2, litha := 8, nchan := 64, lanes := if n.testBit 3 then 1024 else 512
           rcache := 16, coal := 16, step := step }

/-- POWER_ON_RESET_DONE: the fuses and the strap are loaded, and the block is ready. -/
def execPowerOnResetDone (build : Fin 64) (step : BitVec 4) (s : State) : Out :=
  updAll (fun b => onlyIf (b.pwr.rst = .por)
    (fun b => { b with build := buildOf build.val step.toNat, pwr := { b.pwr with rst := .none } }) b) s

/-- SUPPLY_REMOVED: Off, where nothing is kept. -/
def execSupplyRemoved (s : State) : Out :=
  updAll (fun b => { build := b.build, free := b.free, host := b.host, msgs := b.msgs, lx := { nextTag := b.lx.nextTag }, pwr := { st := .off } }) s

/-! ### Refusals (R430, R444) -/

/-- A request is refused with a reason. -/
def Blk.pwrRefuse (b : Blk) (r : Nat) : Blk := (b.setFld 0x2008 8 4 r).setFld 0x2008 4 1 1

/-- Some copied command has not completed, its record included. -/
def Blk.cmdsOpen (b : Blk) : Bool :=
  b.cmds.any (fun m => m.served.isNone) || b.rings.any (fun e => !e.2.recs.isEmpty || !e.2.words.isEmpty)

/-- Some core is halted from the debug port, or asked to be. -/
def Blk.anyHalt (b : Blk) : Bool := (List.range b.build.cores).any (fun c => b.rb (0x90100 + 8 * c) 0 || b.rb (0x90100 + 8 * c) 4)

/-- A coalescer entry exists, or a tally count is nonzero. -/
def Blk.coOpen (b : Blk) : Bool :=
  !b.co.isEmpty || (List.range 256).any (fun t => b.reg (0x61000 + 8 * t) ≠ 0)

/-! ### Core reset (R439) -/

/-- The core that a command is queued on or held by. -/
def Cmd.onCore (m : Cmd) : Option Nat :=
  match m.phase with
  | .queued c => some c
  | .held c _ => some c
  | _ => none

/-- A core reset ends a command of the core; a FENCE in SEAL or APPLY runs on and completes as R233 lays down (R439). -/
def Blk.resetCmd (b : Blk) (m : Cmd) : Blk :=
  let on := m.op = 0x14 && !m.ending && b.fences.any (fun f => f.cmd = m.id && f.phase ≠ .wait)
  let b := b.endCmd m.id .abort
  if on then b.updCmd m.id (fun x => { x with aborted := false }) else b

/-- A core reset starts: the commands of the core end as for a deadline, without substitution, and what is issued is discarded. -/
def Blk.coreStart (b : Blk) (c : Nat) : Blk :=
  if (b.core c).rst then b
  else
    let mine := b.cmds.filter (fun m => m.onCore = some c)
    let b := b.updCore c (fun k => { k with rst := true, rstList := (mine.filter (fun m => m.served.isNone)).map (fun m => (m.ring, m.pos)) })
    let b := mine.foldl (fun b m => b.resetCmd m) b
    b.updCore c (fun k => { k with trk := k.trk.map (fun t => { t with late := true, faulted := false }), waits := [] })

/-- A core reset is asked for: refused in low power, held back by the brown-out hold (R441). -/
def Blk.coreReset (b : Blk) (c : Nat) : Blk :=
  if !b.coreOk c then b
  else if b.pwr.st ≠ .run then b.pwrRefuse 4
  else if b.pwr.hold then { b with pwr := { b.pwr with heldCore := c :: b.pwr.heldCore.erase c } }
  else b.coreStart c

/-- A fence of the command runs on in the M-island. -/
def Blk.fenceOn (b : Blk) (id : Nat) : Bool := b.fences.any (fun f => f.cmd = id)

/-- The commands of the core have completed with their records written, but those whose fence runs on, and its slice
holds no slot. -/
def Blk.coreDrained (b : Blk) (c : Nat) : Bool :=
  let k := b.core c
  b.cmds.all (fun m => m.served.isSome || b.fenceOn m.id || (m.onCore ≠ some c && !k.rstList.contains (m.ring, m.pos))) &&
  k.rstList.all (fun x => !(b.ring x.1).recs.any (fun r => r.pos = x.2)) && k.trk.isEmpty

/-- A core with its units in their reset states; numbers that tell its slots, planes and couriers apart go on. -/
def Core.fresh (k : Core) : Core := { nextSlot := k.nextSlot, nextKey := k.nextKey, couTag := k.couTag }

/-- CORE_RESET_DONE: the units of the core are in their reset states, its served commands are gone, and CBUSY clears. -/
def Blk.coreDone (b : Blk) (c : Nat) : Blk :=
  let ids := (b.cmds.filter (fun m => m.onCore = some c && m.served.isSome)).map (·.id)
  let b := b.leaveWaits (fun r => r.core = some c)
  let b := b.dropWaiters (fun w => match w with | .task k _ => k = c | _ => false)
  let b := b.updCore c Core.fresh
  let b : Blk := { b with
    cmds := (b.cmds.filter (fun m => !ids.contains m.id)).map (fun m => if m.onCore = some c then { m with phase := .ended } else m)
    fences := b.fences.map (fun (f : Fence) => if f.c = c then { f with tag := none } else f)
    l1 := Tab.set [] b.l1 c []
    stalled := b.stalled.filter (fun e => e.1 ≠ c)
    regs := keepRegs (ofCore c) (fun f => f.c) b.regs }
  (List.range b.build.litha).foldl (fun b p => b.sweepPort (b.port p).rx.length p) b

/-- CORE_RESET_DONE. -/
def execCoreResetDone (c : Fin 8) (s : State) : Out :=
  upd (fun b => onlyIf (b.live && b.coreRst c.val && b.coreDrained c.val) (fun b => b.coreDone c.val) b) s

/-! ### Link reset (R390, R411, R441) -/

/-- A port with nothing in it; its optical engine and the light are as they were. -/
def Port.fresh (x : Port) : Port := { oerst := x.oerst, oeSince := x.oeSince, lol := x.lol }

/-- A link reset starts. -/
def Blk.linkStart (b : Blk) (p : Nat) : Blk :=
  if (b.port p).rst then b
  else
    let b := (b.portDown p).updPort p (fun x => { x.fresh with rst := true })
    iter 11 (fun k b => b.setReg (pcnt p k) 0) b

/-- A link reset is asked for. -/
def Blk.linkReset (b : Blk) (p : Nat) : Blk :=
  if b.build.litha ≤ p then b
  else if b.pwr.st ≠ .run then b.pwrRefuse 4
  else if b.pwr.hold then { b with pwr := { b.pwr with heldLink := p :: b.pwr.heldLink.erase p } }
  else b.linkStart p

/-- LINK_RESET_DONE: LBUSY clears; an enabled port trains. -/
def execLinkResetDone (p : Fin 8) (s : State) : Out :=
  upd (fun b => onlyIf (b.live && (b.port p.val).rst)
    (fun b => (b.updPort p.val (fun x => { x with rst := false })).oeRelease p.val) b) s

/-! ### CK_RST_CTRL (R446) -/

/-- A write of CK_RST_CTRL. -/
def Blk.rstCtrlWrite (b : Blk) (h : Half) (v : W64) : Blk :=
  if !b.regOpen 0x2018 then b
  else if h = .full && bit v 0 && fld v 56 8 = 0xB1 then b.blkReset 2
  else
    let b := (List.range 8).foldl (fun b c => if wrOne h v (8 + c) then b.coreReset c else b) b
    (List.range 8).foldl (fun b p => if wrOne h v (16 + p) then b.linkReset p else b) b

/-- BLOCK: a write of CK_RST_CTRL. -/
def execBlockReset (h : Half) (v : W64) (s : State) : Out := upd (fun b => b.rstCtrlWrite h v) s
/-- CORE: a write of CK_RST_CTRL with bit c of CORE alone. -/
def execCoreReset (c : Fin 8) (s : State) : Out := upd (fun b => b.rstCtrlWrite .full (BitVec.ofNat 64 (2 ^ (8 + c.val)))) s
/-- LINK: a write of CK_RST_CTRL with bit p of LINK alone. -/
def execLinkReset (p : Fin 8) (s : State) : Out := upd (fun b => b.rstCtrlWrite .full (BitVec.ofNat 64 (2 ^ (16 + p.val)))) s

/-! ### Doze and Nap (R429 to R433) -/

/-- A request of CK_PWR_CTRL.REQ: 1 Doze, 2 Nap, 3 Run. -/
def Blk.pwrRequest (b : Blk) (r : Nat) : Blk :=
  let go := fun (b : Blk) (st : PwrState) => { b with pwr := { b.pwr with st := st } }
  if r = 0 then b
  else if b.cmdsOpen || (r ≠ 3 && b.anyHalt) then b.pwrRefuse 1
  else if r = 2 && b.coOpen then b.pwrRefuse 2
  else if r ≠ 3 && b.pwr.hold then b.pwrRefuse 3
  else
    match r, b.pwr.st with
    | 1, .run => go b .dozeIn
    | 2, .run => go b .napIn
    | 2, .doze => go b .napIn
    | 3, .doze => if b.pwr.hold then { b with pwr := { b.pwr with wantRun := true } } else go b .resume
    | 3, .nap => if b.pwr.hold then { b with pwr := { b.pwr with wantRun := true } } else go b .resume
    | _, _ => b.pwrRefuse 4

/-- A write of CK_PWR_CTRL. -/
def Blk.pwrCtrlWrite (b : Blk) (h : Half) (v : W64) : Blk :=
  if !b.regOpen 0x2000 then b
  else
    let b := b.fieldWrite 0x2000 h v
    if covers h 0 then b.pwrRequest (fld v 0 2) else b

/-- DOZE_REQUEST: a write of CK_PWR_CTRL. -/
def execDozeRequest (h : Half) (v : W64) (s : State) : Out := upd (fun b => b.pwrCtrlWrite h v) s
/-- NAP_REQUEST: a write of CK_PWR_CTRL. -/
def execNapRequest (h : Half) (v : W64) (s : State) : Out := upd (fun b => b.pwrCtrlWrite h v) s
/-- RUN_REQUEST: a write of CK_PWR_CTRL. -/
def execRunRequest (h : Half) (v : W64) (s : State) : Out := upd (fun b => b.pwrCtrlWrite h v) s

/-- What was in progress when the entry began has run to its end (R431 step 2). -/
def Blk.entryQuiet (b : Blk) : Bool :=
  !b.cmds.any (fun m => m.served.isSome) && b.wq.isEmpty && b.inletQ.isEmpty && b.rc.fills.isEmpty && !b.rc.inv && !b.rc.halving &&
  !b.sec.busy && !b.mig.camps.any (fun e => e.copying && e.st ≠ .live) && b.cores.all (fun k => k.2.trk.isEmpty && !k.2.rst && !k.2.ic.busy && !k.2.dc.busy)

/-- Every port is taken DOWN, and what it had received is dropped (R431 step 3). -/
def Blk.portsDown (b : Blk) : Blk :=
  (List.range b.build.litha).foldl (fun b p => (b.portDown p).updPort p (fun x => { x.fresh with rst := x.rst, since := x.since })) b

/-- What Nap keeps beyond the fields marked N (R442). -/
def Blk.napLoss (b : Blk) : Blk :=
  { b with
    cores := b.cores.foldl (fun t e => Tab.set {} t e.1 e.2.fresh) b.cores
    rc := {}, l1 := [], l2 := [], wcache := [], walks := [], xbad := [], ft := [], ftWait := [], invals := [], dcache := []
    nulls := [], stalled := [], qrst := [], belayed := []
    mig := { camps := b.mig.camps, slots := b.mig.slots, recov := b.mig.recov }
    lx := { b.lx with reqs := [], mgmtBusy := false, ewait := [], mcast := [] } }

/-- LOW_POWER_ENTRY_DONE (R431): the block rests in Doze or Nap. A doorbell with DBWAKE = 1 during the entry to Doze resumes at once (R441). -/
def Blk.entryDone (b : Blk) : Blk :=
  match b.pwr.st with
  | .dozeIn =>
    let b := b.portsDown
    { b with
      regs := keepRegs (fun _ => true) (fun f => f.d) b.regs
      sec := { b.sec with kdata := [] }
      pwr := { b.pwr with st := if b.pwr.dbWake then .resume else .doze, dbWake := false } }
  | .napIn =>
    let b := b.portsDown.napLoss
    ({ b with
      regs := keepRegs (fun _ => true) (fun f => f.nap) b.regs
      sec := { b.sec with kdata := [] }
      pwr := { b.pwr with st := .nap, dbWake := false } } : Blk).portsDrop
  | _ => b

/-- LOW_POWER_ENTRY_DONE. -/
def execLowPowerEntryDone (s : State) : Out := upd (fun b => onlyIf (b.live && b.entryQuiet) Blk.entryDone b) s

/-- HALTED follows HALTREQ while the islands run (R462, R467). -/
def Blk.haltSync (b : Blk) (c : Nat) : Blk :=
  let o := 0x90100 + 8 * c
  let b := b.setFld o 4 1 (b.rf o 0 1)
  if b.rb o 0 then b else b.updCore c (fun k => { k with stepOne := none })

/-- Work goes on that low power or a hold kept from going on. -/
def Blk.goOn (b : Blk) : Blk := if b.recPort then (b.portsGo.drainEvents).drainFaults.ftRetry else b

/-- RESUME_DONE: the islands run again, HALTREQ takes effect, enabled ports train. -/
def Blk.resumeDone (b : Blk) : Blk :=
  let b := { b with pwr := { b.pwr with st := .run, wantRun := false, dbWake := false } }
  let b := (List.range b.build.cores).foldl Blk.haltSync b
  let b := (List.range b.build.litha).foldl (fun b p => if !(b.port p).rst then b.portAgain p else b) b
  b.goOn

/-- RESUME_DONE. -/
def execResumeDone (s : State) : Out :=
  upd (fun b => onlyIf (!b.resetting && !b.pwr.halt && b.pwr.st = .resume && !b.pwr.hold) Blk.resumeDone b) s

/-! ### The brown-out hold (R434 to R436) -/

/-- PM_WARN: the hold begins, and is counted once. -/
def execPmWarn (s : State) : Out :=
  upd (fun b => onlyIf (!b.resetting && !b.pwr.hold)
    (fun b => { b.incSat 0x2010 0 16 1 with pwr := { b.pwr with hold := true } }) b) s

/-- HOLD_END: the hold ends; the resets and the request of Run that it held back are carried out. -/
def Blk.holdEnd (b : Blk) : Blk :=
  let cs := b.pwr.heldCore
  let ls := b.pwr.heldLink
  let run := b.pwr.wantRun && (b.pwr.st = .doze || b.pwr.st = .nap)
  let b := b.incSat 0x2010 16 16 1
  let b := { b with pwr := { b.pwr with
    hold := false, wantRun := false, heldCore := [], heldLink := [], st := if run then .resume else b.pwr.st } }
  let b := cs.foldl Blk.coreReset b
  let b := ls.foldl Blk.linkReset b
  b.goOn

/-- HOLD_END. -/
def execHoldEnd (s : State) : Out := upd (fun b => onlyIf (!b.resetting && b.pwr.hold) Blk.holdEnd b) s

end Sys2Proof.Machine
end

