-- ==== Sys2Proof/Machine/SeqOps.lean ====
section
/-! DEFINITION. The meanings of the sequencer's short operations (R324 to R332), of the words that stop (R313, R321), of task switches
(R308, R196), and of the sequencer's caches (R309 to R315). -/
namespace Sys2Proof.Machine

/-- NOP (R324). -/
def execNop (x : Slot) (s : State) : Out := upd (fun b => b.slotOp x (.nop)) s

/-- gd = ga + gb modulo 2^64 (R324, R325). -/
def execAdd (x : Slot) (rd ra rb : Greg) (s : State) : Out := upd (fun b => b.slotOp x (.alu .add rd.val ra.val rb.val)) s

/-- gd = ga - gb modulo 2^64 (R324, R325). -/
def execSub (x : Slot) (rd ra rb : Greg) (s : State) : Out := upd (fun b => b.slotOp x (.alu .sub rd.val ra.val rb.val)) s

/-- gd = ga and gb (R324, R325). -/
def execAndOp (x : Slot) (rd ra rb : Greg) (s : State) : Out := upd (fun b => b.slotOp x (.alu .and rd.val ra.val rb.val)) s

/-- gd = ga or gb (R324, R325). -/
def execOrOp (x : Slot) (rd ra rb : Greg) (s : State) : Out := upd (fun b => b.slotOp x (.alu .or rd.val ra.val rb.val)) s

/-- gd = ga xor gb (R324, R325). -/
def execXorOp (x : Slot) (rd ra rb : Greg) (s : State) : Out := upd (fun b => b.slotOp x (.alu .xor rd.val ra.val rb.val)) s

/-- gd = ga and not gb (R324, R325). -/
def execAndn (x : Slot) (rd ra rb : Greg) (s : State) : Out := upd (fun b => b.slotOp x (.alu .andn rd.val ra.val rb.val)) s

/-- gd = ga shifted left by gb[5:0] (R324, R325). -/
def execSll (x : Slot) (rd ra rb : Greg) (s : State) : Out := upd (fun b => b.slotOp x (.alu .sll rd.val ra.val rb.val)) s

/-- logical right shift by gb[5:0] (R324, R325). -/
def execSrl (x : Slot) (rd ra rb : Greg) (s : State) : Out := upd (fun b => b.slotOp x (.alu .srl rd.val ra.val rb.val)) s

/-- arithmetic right shift by gb[5:0] (R324, R325). -/
def execSra (x : Slot) (rd ra rb : Greg) (s : State) : Out := upd (fun b => b.slotOp x (.alu .sra rd.val ra.val rb.val)) s

/-- rotate left by gb[5:0] (R324, R325). -/
def execRol (x : Slot) (rd ra rb : Greg) (s : State) : Out := upd (fun b => b.slotOp x (.alu .rol rd.val ra.val rb.val)) s

/-- gd = 1 where ga = gb, else 0 (R324, R325). -/
def execSeqOp (x : Slot) (rd ra rb : Greg) (s : State) : Out := upd (fun b => b.slotOp x (.alu .seq rd.val ra.val rb.val)) s

/-- gd = 1 where ga < gb signed, else 0 (R324, R325). -/
def execSlt (x : Slot) (rd ra rb : Greg) (s : State) : Out := upd (fun b => b.slotOp x (.alu .slt rd.val ra.val rb.val)) s

/-- as SLT, unsigned (R324, R325). -/
def execSltu (x : Slot) (rd ra rb : Greg) (s : State) : Out := upd (fun b => b.slotOp x (.alu .sltu rd.val ra.val rb.val)) s

/-- Start the signed 128-bit product (R299). -/
def execMul (x : Slot) (ra rb : Greg) (s : State) : Out := upd (fun b => b.slotOp x (.mul true ra.val rb.val)) s

/-- Start the unsigned 128-bit product (R299). -/
def execMulh (x : Slot) (ra rb : Greg) (s : State) : Out := upd (fun b => b.slotOp x (.mul false ra.val rb.val)) s

/-- ADDI: the register form with the sign-extended immediate (R324). -/
def execAddi (x : Slot) (rd ra : Greg) (imm : BitVec 43) (s : State) : Out := upd (fun b => b.slotOp x (.alui .add rd.val ra.val (imm43 imm))) s

/-- ANDI: the register form with the sign-extended immediate (R324). -/
def execAndi (x : Slot) (rd ra : Greg) (imm : BitVec 43) (s : State) : Out := upd (fun b => b.slotOp x (.alui .and rd.val ra.val (imm43 imm))) s

/-- ORI: the register form with the sign-extended immediate (R324). -/
def execOri (x : Slot) (rd ra : Greg) (imm : BitVec 43) (s : State) : Out := upd (fun b => b.slotOp x (.alui .or rd.val ra.val (imm43 imm))) s

/-- XORI: the register form with the sign-extended immediate (R324). -/
def execXori (x : Slot) (rd ra : Greg) (imm : BitVec 43) (s : State) : Out := upd (fun b => b.slotOp x (.alui .xor rd.val ra.val (imm43 imm))) s

/-- SEQI: the register form with the sign-extended immediate (R324). -/
def execSeqi (x : Slot) (rd ra : Greg) (imm : BitVec 43) (s : State) : Out := upd (fun b => b.slotOp x (.alui .seq rd.val ra.val (imm43 imm))) s

/-- SLTI: the register form with the sign-extended immediate (R324). -/
def execSlti (x : Slot) (rd ra : Greg) (imm : BitVec 43) (s : State) : Out := upd (fun b => b.slotOp x (.alui .slt rd.val ra.val (imm43 imm))) s

/-- SLTIU: the register form with the sign-extended immediate (R324). -/
def execSltiu (x : Slot) (rd ra : Greg) (imm : BitVec 43) (s : State) : Out := upd (fun b => b.slotOp x (.alui .sltu rd.val ra.val (imm43 imm))) s

/-- SLLI: the shift by an immediate amount (R324). -/
def execSlli (x : Slot) (rd ra : Greg) (sh : BitVec 6) (s : State) : Out := upd (fun b => b.slotOp x (.alui .sll rd.val ra.val (sh.setWidth 64))) s

/-- SRLI: the shift by an immediate amount (R324). -/
def execSrli (x : Slot) (rd ra : Greg) (sh : BitVec 6) (s : State) : Out := upd (fun b => b.slotOp x (.alui .srl rd.val ra.val (sh.setWidth 64))) s

/-- SRAI: the shift by an immediate amount (R324). -/
def execSrai (x : Slot) (rd ra : Greg) (sh : BitVec 6) (s : State) : Out := upd (fun b => b.slotOp x (.alui .sra rd.val ra.val (sh.setWidth 64))) s

/-- ROLI: the shift by an immediate amount (R324). -/
def execRoli (x : Slot) (rd ra : Greg) (sh : BitVec 6) (s : State) : Out := upd (fun b => b.slotOp x (.alui .rol rd.val ra.val (sh.setWidth 64))) s

/-- gd = IMM, sign-extended (R324). -/
def execMovi (x : Slot) (rd : Greg) (imm : BitVec 49) (s : State) : Out := upd (fun b => b.slotOp x (.movi rd.val (imm49 imm))) s

/-- gd = special register SR (R326). -/
def execMfs (x : Slot) (rd : Greg) (sr : BitVec 6) (s : State) : Out := upd (fun b => b.slotOp x (.mfs rd.val sr.toNat)) s

/-- special register SR = ga (R326). -/
def execMts (x : Slot) (sr : BitVec 6) (ra : Greg) (s : State) : Out := upd (fun b => b.slotOp x (.mts sr.toNat ra.val)) s

/-- Load 1 byte, sign-extended (R309, R327). -/
def execLdb (x : Slot) (rd ra : Greg) (imm : BitVec 43) (par : SeqParity) (s : State) : Out := upd (fun b => b.slotOp x (.load 1 true rd.val ra.val (imm43 imm) par)) s

/-- Load 1 byte, zero-extended (R309, R327). -/
def execLdbu (x : Slot) (rd ra : Greg) (imm : BitVec 43) (par : SeqParity) (s : State) : Out := upd (fun b => b.slotOp x (.load 1 false rd.val ra.val (imm43 imm) par)) s

/-- Load 2 bytes, sign-extended (R309, R327). -/
def execLdh (x : Slot) (rd ra : Greg) (imm : BitVec 43) (par : SeqParity) (s : State) : Out := upd (fun b => b.slotOp x (.load 2 true rd.val ra.val (imm43 imm) par)) s

/-- Load 2 bytes, zero-extended (R309, R327). -/
def execLdhu (x : Slot) (rd ra : Greg) (imm : BitVec 43) (par : SeqParity) (s : State) : Out := upd (fun b => b.slotOp x (.load 2 false rd.val ra.val (imm43 imm) par)) s

/-- Load 4 bytes, sign-extended (R309, R327). -/
def execLdw (x : Slot) (rd ra : Greg) (imm : BitVec 43) (par : SeqParity) (s : State) : Out := upd (fun b => b.slotOp x (.load 4 true rd.val ra.val (imm43 imm) par)) s

/-- Load 4 bytes, zero-extended (R309, R327). -/
def execLdwu (x : Slot) (rd ra : Greg) (imm : BitVec 43) (par : SeqParity) (s : State) : Out := upd (fun b => b.slotOp x (.load 4 false rd.val ra.val (imm43 imm) par)) s

/-- Load 8 bytes (R309, R327). -/
def execLdd (x : Slot) (rd ra : Greg) (imm : BitVec 43) (par : SeqParity) (s : State) : Out := upd (fun b => b.slotOp x (.load 8 false rd.val ra.val (imm43 imm) par)) s

/-- Store 1 byte of gd (R309, R327). -/
def execStb (x : Slot) (rd ra : Greg) (imm : BitVec 43) (par : SeqParity) (s : State) : Out := upd (fun b => b.slotOp x (.store 1 rd.val ra.val (imm43 imm) par)) s

/-- Store 2 bytes of gd (R309, R327). -/
def execSth (x : Slot) (rd ra : Greg) (imm : BitVec 43) (par : SeqParity) (s : State) : Out := upd (fun b => b.slotOp x (.store 2 rd.val ra.val (imm43 imm) par)) s

/-- Store 4 bytes of gd (R309, R327). -/
def execStw (x : Slot) (rd ra : Greg) (imm : BitVec 43) (par : SeqParity) (s : State) : Out := upd (fun b => b.slotOp x (.store 4 rd.val ra.val (imm43 imm) par)) s

/-- Store 8 bytes of gd (R309, R327). -/
def execStd (x : Slot) (rd ra : Greg) (imm : BitVec 43) (par : SeqParity) (s : State) : Out := upd (fun b => b.slotOp x (.store 8 rd.val ra.val (imm43 imm) par)) s

/-- BEQ (R328). -/
def execBeq (x : Slot) (ra rb : Greg) (off : BitVec 43) (s : State) : Out := upd (fun b => b.slotOp x (.br .eq ra.val rb.val (imm43 off))) s

/-- BNE (R328). -/
def execBne (x : Slot) (ra rb : Greg) (off : BitVec 43) (s : State) : Out := upd (fun b => b.slotOp x (.br .ne ra.val rb.val (imm43 off))) s

/-- BLT (R328). -/
def execBlt (x : Slot) (ra rb : Greg) (off : BitVec 43) (s : State) : Out := upd (fun b => b.slotOp x (.br .lt ra.val rb.val (imm43 off))) s

/-- BGE (R328). -/
def execBge (x : Slot) (ra rb : Greg) (off : BitVec 43) (s : State) : Out := upd (fun b => b.slotOp x (.br .ge ra.val rb.val (imm43 off))) s

/-- BLTU (R328). -/
def execBltu (x : Slot) (ra rb : Greg) (off : BitVec 43) (s : State) : Out := upd (fun b => b.slotOp x (.br .ltu ra.val rb.val (imm43 off))) s

/-- BGEU (R328). -/
def execBgeu (x : Slot) (ra rb : Greg) (off : BitVec 43) (s : State) : Out := upd (fun b => b.slotOp x (.br .geu ra.val rb.val (imm43 off))) s

/-- Branch when a flag is 1 (R328). -/
def execBf1 (x : Slot) (fa : Flag) (off : BitVec 39) (s : State) : Out := upd (fun b => b.slotOp x (.bf true fa.toNat (imm39 off))) s

/-- Branch when a flag is 0 (R328). -/
def execBf0 (x : Slot) (fa : Flag) (off : BitVec 39) (s : State) : Out := upd (fun b => b.slotOp x (.bf false fa.toNat (imm39 off))) s

/-- Jump by an offset and link (R328). -/
def execJal (x : Slot) (rd : Greg) (off : BitVec 49) (s : State) : Out := upd (fun b => b.slotOp x (.jal rd.val (imm49 off))) s

/-- Jump to a register plus an immediate and link (R328). -/
def execJalr (x : Slot) (rd ra : Greg) (imm : BitVec 43) (s : State) : Out := upd (fun b => b.slotOp x (.jalr rd.val ra.val (imm43 imm))) s

/-- Return from the emulation handler (R313, R331). -/
def execEret (x : Slot) (s : State) : Out := upd (fun b => b.slotOp x (.eret)) s

/-- FSET (R329). -/
def execFset (x : Slot) (fd : Flag) (s : State) : Out := upd (fun b => b.slotOp x (.flag .set fd.toNat 0 0)) s

/-- FCLR (R329). -/
def execFclr (x : Slot) (fd : Flag) (s : State) : Out := upd (fun b => b.slotOp x (.flag .clr fd.toNat 0 0)) s

/-- FTGL (R329). -/
def execFtgl (x : Slot) (fd : Flag) (s : State) : Out := upd (fun b => b.slotOp x (.flag .tgl fd.toNat 0 0)) s

/-- Write the and of two flags into a third (R329). -/
def execFand (x : Slot) (fd fa fb : Flag) (s : State) : Out := upd (fun b => b.slotOp x (.flag .and fd.toNat fa.toNat fb.toNat)) s

/-- Write the or of two flags into a third (R329). -/
def execForOp (x : Slot) (fd fa fb : Flag) (s : State) : Out := upd (fun b => b.slotOp x (.flag .or fd.toNat fa.toNat fb.toNat)) s

/-- Write the xor of two flags into a third (R329). -/
def execFxor (x : Slot) (fd fa fb : Flag) (s : State) : Out := upd (fun b => b.slotOp x (.flag .xor fd.toNat fa.toNat fb.toNat)) s

/-- Write the andn of two flags into a third (R329). -/
def execFandn (x : Slot) (fd fa fb : Flag) (s : State) : Out := upd (fun b => b.slotOp x (.flag .andn fd.toNat fa.toNat fb.toNat)) s

/-- gRG = flag FB (R324, R329). -/
def execFrd (x : Slot) (rg : Greg) (fb : Flag) (s : State) : Out := upd (fun b => b.slotOp x (.frd rg.val fb.toNat)) s

/-- flag FB = gRG[0] (R324, R329). -/
def execFwr (x : Slot) (rg : Greg) (fb : Flag) (s : State) : Out := upd (fun b => b.slotOp x (.fwr rg.val fb.toNat)) s

/-- gRG = flag FB, flag FB = 1, one atomic operation (R324, R329). -/
def execFtas (x : Slot) (rg : Greg) (fb : Flag) (s : State) : Out := upd (fun b => b.slotOp x (.ftas rg.val fb.toNat)) s

/-- DCINV over the lines of a range (R330). -/
def execDcinv (x : Slot) (ra rb : Greg) (s : State) : Out := upd (fun b => b.slotOp x (.cache .dcinv ra.val rb.val)) s

/-- DCCLEAN over the lines of a range (R330). -/
def execDcclean (x : Slot) (ra rb : Greg) (s : State) : Out := upd (fun b => b.slotOp x (.cache .dcclean ra.val rb.val)) s

/-- ICINV over the lines of a range (R330). -/
def execIcinv (x : Slot) (ra rb : Greg) (s : State) : Out := upd (fun b => b.slotOp x (.cache .icinv ra.val rb.val)) s

/-- Write one courier word (R331, R372). -/
def execSend (x : Slot) (ra : Greg) (w : Bool) (s : State) : Out := upd (fun b => b.slotOp x (.send ra.val w)) s

/-- Read one courier word (R331, R373). -/
def execRecv (x : Slot) (rd : Greg) (w : Bool) (s : State) : Out := upd (fun b => b.slotOp x (.recv rd.val w)) s

/-- Wait on an anchor (R331, R376). -/
def execAwait (x : Slot) (ra rb : Greg) (anc : BitVec 15) (s : State) : Out := upd (fun b => b.slotOp x (.await ra.val rb.val anc.toNat)) s

/-- Wait for operation tags (R304). -/
def execWaitd (x : Slot) (mask : BitVec 16) (s : State) : Out := upd (fun b => b.slotOp x (.waitd mask.toNat)) s

/-- End the program (R306). -/
def execHalt (x : Slot) (s : State) : Out := upd (fun b => b.slotOp x (.halt)) s

/-! ### Products, misses and fetches -/

/-- A product in flight lands (R299), in issue order, whatever the task context does meanwhile. -/
def Blk.productLand (b : Blk) (c t : Nat) : Blk :=
  b.updTask c t (fun x =>
    match x.prods with
    | [] => x
    | p :: r => { x with prods := r, phi := p.extractLsb' 64 64, plo := p.extractLsb' 0 64 })

/-- PRODUCT_LAND. -/
def execProductLand (x : Ctx) (s : State) : Out := upd (fun b => onlyIf (b.coreLive x.c.val) (fun b => b.productLand x.c.val x.t.val) b) s

/-- The 64 bytes that the read of a line returns: from device memory, or as the operand gives them (R44, R249, R490). -/
def Blk.lineData (b : Blk) (host : Bool) (line cr : Nat) (r : Resp) : Except Nat Sect :=
  if !host && tierOf (64 * line) < 3 then
    if !b.paRange (64 * line) 64 then .error 7
    else if b.bad.contains line then .error 6
    else .ok (sectOf (b.devRead cr (64 * line) 64))
  else if !host && (b.window (64 * line)).isNone then .error 7
  else
    match r with
    | .data d => .ok d
    | .poison => .error 6
    | .error => .error 7

/-- LOAD_MISS_RETURN (R309, R310): the line is filled, unless another task context's miss has filled it meanwhile, or kept for the
waiting word while the cache is disabled, and the word issues; a poisoned load fails with POISON, a refused one with PERMISSION. -/
def Blk.loadMissReturn (b : Blk) (c t : Nat) (r : Resp) (par : SeqParity) : Blk :=
  match (b.task c t).want with
  | none => b
  | some (host, line, cr) =>
    if b.shutAt c (!host) (64 * line) then b else
    let b := b.updTask c t (fun x => { x with want := none })
    match b.lineData host line cr r with
    | .error 6 => b.failTask c t 0x40
    | .error _ => b.failTask c t 0x32
    | .ok d =>
      if b.rb (coreReg c 0) 1 then
        match b.seqParity c true (line % 256) par with
        | (b, true) => b
        | (b, false) => (if ((b.core c).dc.find host line).isSome then b else b.fillLine c true host line cr d).retryWord c t
      else (b.updTask c t (fun x => { x with lines := (host, line, d) :: x.lines })).retryWord c t

/-- LOAD_MISS_RETURN. -/
def execLoadMissReturn (x : Ctx) (r : Resp) (par : SeqParity) (s : State) : Out :=
  upd (fun b => onlyIf (b.coreLive x.c.val && !(b.core x.c.val).fatal) (fun b => b.loadMissReturn x.c.val x.t.val r par) b) s

/-- INSTRUCTION_FETCH_RETURN (R309, R311, R312): the line of the word at PC is filled; a fetch fault parks the task context, a
poisoned or refused fetch fails the command. -/
def Blk.fetchReturn (b : Blk) (c t : Nat) (r : Resp) (par : SeqParity) : Blk :=
  let x := b.task c t
  match x.cmd.bind b.cmd with
  | none => b
  | some m =>
    match b.xl (.seqFetch c t) m.ctx x.pc.toNat false with
    | (b, .wait) => b
    | (b, .bad k) => b.xltFatal (.seqFetch c t) m.ctx k x.pc
    | (b, .ok tl pa) =>
      let line := pa / 64
      let ien := b.rb (coreReg c 0) 0
      match (if ien then b.seqParity c false (line % 256) par else (b, false)) with
      | (b, _) =>
        match (if ien then (b.core c).ic.find (!tl.dev) line else none) with
        | some w => b.updCore c (fun k => { k with ic := k.ic.upd (line % 256) w (fun l => { l with age := 0 }) })
        | none =>
          if b.shutAt c tl.dev pa then b else
          let b := if ien then b.inc (coreReg c 0x90) 1 else b
          match b.lineData (!tl.dev) line tl.cr r with
          | .error 6 => b.failTask c t 0x40
          | .error _ => b.failTask c t 0x32
          | .ok d => if ien then b.fillLine c false (!tl.dev) line tl.cr d else b

/-- INSTRUCTION_FETCH_RETURN. -/
def execInstructionFetchReturn (x : Ctx) (r : Resp) (par : SeqParity) (s : State) : Out :=
  upd (fun b => onlyIf (b.seqIssues x.c.val && (b.task x.c.val x.t.val).prog && !(b.task x.c.val x.t.val).stop)
    (fun b => b.fetchReturn x.c.val x.t.val r par) b) s

/-! ### Reserved words (R313, R321, R322, R326, R334) -/

/-- The bits [lo + n - 1 : lo] of a slot or word are not all zero. -/
def nz (x lo n : Nat) : Bool := (x >>> lo) % 2 ^ n ≠ 0

/-- A special register that MFS may read. -/
def srRead (n : Nat) : Bool := n ≤ 1 || (8 ≤ n && n ≤ 19)
/-- A special register that MTS may write. -/
def srWrite (n : Nat) : Bool := 8 ≤ n && n ≤ 16

/-- A 63-bit slot traps as a reserved opcode (R321). -/
def slotReserved (x : Nat) : Bool :=
  let op := (x >>> 55) % 256
  if op = 0x00 || op = 0x4A || op = 0x74 then nz x 0 55
  else if 0x01 ≤ op && op ≤ 0x0D then nz x 0 37
  else if op = 0x0E || op = 0x0F || (0x60 ≤ op && op ≤ 0x62) then nz x 0 37 || nz x 49 6
  else if op = 0x11 || (0x13 ≤ op && op ≤ 0x15) || (0x1B ≤ op && op ≤ 0x1E) then false
  else if 0x17 ≤ op && op ≤ 0x1A then nz x 6 37
  else if op = 0x20 then nz x 0 43 || !srRead ((x >>> 43) % 64)
  else if op = 0x21 then nz x 0 43 || !srWrite ((x >>> 49) % 64)
  else if (0x30 ≤ op && op ≤ 0x36) || (0x38 ≤ op && op ≤ 0x3B) then false
  else if 0x40 ≤ op && op ≤ 0x49 then false
  else if 0x50 ≤ op && op ≤ 0x52 then nz x 0 39
  else if 0x53 ≤ op && op ≤ 0x56 then nz x 0 7
  else if 0x57 ≤ op && op ≤ 0x59 then nz x 0 33
  else if op = 0x70 then nz x 0 42 || nz x 49 6
  else if op = 0x71 then nz x 0 42 || nz x 43 6
  else if op = 0x72 then nz x 0 22 || nz x 49 6
  else if op = 0x73 then nz x 16 39
  else true

/-- A long word traps as a reserved opcode (R321, R334, R336, R337). -/
def longReserved (x : Nat) : Bool :=
  let op := (x >>> 116) % 2048
  let rd := nz x 110 6
  let ra := nz x 104 6
  let rb := nz x 98 6
  let rc := nz x 92 6
  if op = 0x001 then ra || rb || rc || nz x 64 28
  else if op = 0x010 || op = 0x012 || (0x014 ≤ op && op ≤ 0x017) then rb || rc || nz x 64 28
  else if op = 0x011 then rd || rc || nz x 69 23 || nz x 0 64 || ((x >>> 68) % 2 = 1 && (ra || rb))
  else if op = 0x013 then rd || rb || rc || nz x 64 28
  else if op = 0x018 then rb || rc || nz x 65 27
  else if op = 0x019 then nz x 82 10 || nz x 80 1 || ((x >>> 81) % 2 = 0 && rc)
  else true

/-- The CAUSE bits of a word that is reserved, 0 where it is not (R313, R321). -/
def wordCause (x : Nat) : Nat :=
  if x.testBit 127 then
    (if slotReserved ((x >>> 64) % 2 ^ 63) || x.testBit 63 then 256 else 0) +
    (if slotReserved (x % 2 ^ 63) || x.testBit 63 then 512 else 0)
  else if longReserved x then 1024 else 0

/-- RESERVED_OP (R313): the word at PC traps where it is reserved. -/
def execReservedOp (x : Ctx) (w : W128) (s : State) : Out :=
  upd (fun b => onlyIf (b.canIssue x.c.val x.t.val && wordCause w.toNat ≠ 0) (fun b => b.trap x.c.val x.t.val (wordCause w.toNat)) b) s

/-- MOVI64: gd = IMM (R334). -/
def execMovi64 (x : Ctx) (rd : Greg) (imm : W64) (s : State) : Out :=
  upd (fun b => onlyIf (b.canLong x.c.val x.t.val)
    (fun b => (b.updTask x.c.val x.t.val (fun y => y.setGr rd.val imm)).retire x.c.val x.t.val ((b.task x.c.val x.t.val).pc + 16)) b) s

/-! ### Task switches (R308, R196, R198) -/

/-- The next READY task context of a core in round-robin order, among those for which p holds. -/
def Core.nextReady (k : Core) (p : Nat → Bool) : Option Nat :=
  ((List.range 4).map (fun i => (k.last + 1 + i) % 4)).find? (fun t => (k.task t).st = .ready && p t)

/-- No task context of the core is RUNNING. -/
def Core.idle (k : Core) : Bool := (List.range 4).all (fun t => (k.task t).st ≠ .running)

/-- Switch task context t in: a word of it that waited tries to issue; a built-in routine goes on waiting for elements (R196). -/
def Blk.switchIn (b : Blk) (c t : Nat) : Blk :=
  let w := fun (x : Task) => if !x.prog && ((x.cmd.bind b.cmd).map (fun m => m.op = 0x10 && m.begun)).getD false then some b.time.toNat else none
  let b := (b.updCore c (fun k => ({ k with last := t } : Core).updTask t (fun x => { x with st := .running, waitFrom := w x }))).inc (coreReg c 0x88) 1
  b.retryWord c t

/-- TASK_SWITCH_IN (R308): of a halted core, only the task context that STEP names (R462). -/
def Blk.taskSwitchIn (b : Blk) (c : Nat) : Blk :=
  let k := b.core c
  if !b.seqIssues c || !k.idle then b else
  match k.nextReady (fun t => !b.dbgHalted c || k.stepOne = some t) with
  | some t => b.switchIn c t
  | none => b

/-- TASK_SWITCH_IN. -/
def execTaskSwitchIn (c : Fin 8) (s : State) : Out := upd (fun b => b.taskSwitchIn c.val) s

/-- Switch-out wait of GX mode (R198). -/
def Blk.gxwait (b : Blk) (c : Nat) : Nat := max 16 (b.rf (coreReg c 0x700) 16 32)

/-- GX_SWITCH_OUT (R196): the running task context has waited GXWAIT for an element, and another is ready. -/
def Blk.gxSwitchOut (b : Blk) (c : Nat) : Blk :=
  let k := b.core c
  match (List.range 4).find? (fun t => (k.task t).st = .running) with
  | none => b
  | some t =>
    match (k.task t).waitFrom with
    | none => b
    | some f =>
      if b.issues && b.coreUp c && b.rb (coreReg c 0x700) 1 && decide (b.time.toNat ≥ f + b.gxwait c) then
        match k.nextReady (fun _ => true) with
        | none => b
        | some u =>
          let b := b.updTask c t (fun x => { x with st := .waiting, waitFrom := none })
          (b.inc (coreReg c 0x758) 1).switchIn c u
      else b

/-- GX_SWITCH_OUT. -/
def execGxSwitchOut (c : Fin 8) (s : State) : Out := upd (fun b => b.gxSwitchOut c.val) s

/-- GX_MODE_CHANGE (R198): GXACT follows GX while no task context of the core holds a command. -/
def execGxModeChange (c : Fin 8) (s : State) : Out := upd (fun b => onlyIf (b.coreLive c.val) (fun b => b.gxFollow c.val) b) s

/-! ### CK_SEQ_CTRL (R314, R315) -/

/-- Some task context of the core holds a command. -/
def Core.holds (k : Core) : Bool := (List.range 4).any (fun t => (k.task t).st ≠ .free)

/-- ENERR of CK_SEQ_STAT[c]. -/
def Blk.seqEnerr (b : Blk) (c : Nat) : Blk := b.setFld (coreReg c 8) 3 1 1

/-- One invalidate bit of CK_SEQ_CTRL: refused while a task context holds a command. -/
def Blk.seqInval (b : Blk) (c : Nat) (data : Bool) : Blk :=
  if (b.core c).holds then b.seqEnerr c
  else b.updCore c (fun k => if data then { k with dc := { k.dc with busy := true, lines := [] } }
                             else { k with ic := { k.ic with busy := true, lines := [] } })

/-- One enable bit of CK_SEQ_CTRL, under the rule of R85. -/
def Blk.seqEnable (b : Blk) (c i : Nat) (v : Bool) : Blk :=
  let k := b.core c
  let s := if i = 0 then k.ic else k.dc
  let en := b.rb (coreReg c 0) i
  if v && !en then
    if s.clean && !s.busy then b.setFld (coreReg c 0) i 1 1 else b.seqEnerr c
  else if !v && en then
    (b.setFld (coreReg c 0) i 1 0).updCore c (fun k => if i = 0 then { k with ic := { k.ic with clean := false } }
                                                       else { k with dc := { k.dc with clean := false } })
  else b

/-- A host write of CK_SEQ_CTRL[c]. -/
def Blk.seqCtrlWrite (b : Blk) (c : Nat) (h : Half) (v : W64) : Blk :=
  if !b.regOpen (coreReg c 0) then b else
  let b := if wrOne h v 2 then b.seqInval c false else b
  let b := if wrOne h v 3 then b.seqInval c true else b
  if covers h 0 then (b.seqEnable c 0 (bit v 0)).seqEnable c 1 (bit v 1) else b

/-- IINV: a write of CK_SEQ_CTRL[c]. -/
def execIinv (c : Fin 8) (h : Half) (v : W64) (s : State) : Out := upd (fun b => b.seqCtrlWrite c.val h v) s
/-- DINV: a write of CK_SEQ_CTRL[c]. -/
def execDinv (c : Fin 8) (h : Half) (v : W64) (s : State) : Out := upd (fun b => b.seqCtrlWrite c.val h v) s
/-- SEQ_CACHE_ENABLE: a write of CK_SEQ_CTRL[c]. -/
def execSeqCacheEnable (c : Fin 8) (h : Half) (v : W64) (s : State) : Out := upd (fun b => b.seqCtrlWrite c.val h v) s

/-- The invalidate that runs on a cache ends. -/
def SCache.done (s : SCache) : SCache := if s.busy then { s with busy := false, clean := true, lines := [] } else s

/-- SEQ_CACHE_INVAL_DONE (R314, R315). -/
def execSeqCacheInvalDone (c : Fin 8) (s : State) : Out :=
  upd (fun b => onlyIf (b.live && b.coreOk c.val) (fun b => b.updCore c.val (fun k => { k with ic := k.ic.done, dc := k.dc.done })) b) s

end Sys2Proof.Machine
end

