-- ==== Sys2Proof/Machine/Secure.lean ====
section
/-! DEFINITION. Keys and scrubs (R448, R449, R455, R458), the TAP instructions, and the halt and step of cores (R459, R461, R462). -/
namespace Sys2Proof.Machine

/-! ### Key commits (R449, R466) -/

/-- CK_SEC_KDATA[w]. -/
def Blk.kdata (b : Blk) (w : Nat) : W64 := Tab.get 0 b.sec.kdata w

/-- A write of CK_SEC_KDATA[w]. -/
def Blk.kdataWrite (b : Blk) (w : Nat) (h : Half) (v : W64) : Blk :=
  if !b.regOpen (0x80100 + 8 * w) then b
  else { b with sec := { b.sec with kdata := Tab.set 0 b.sec.kdata w ((b.kdata w &&& ~~~(halfMask h)) ||| halfVal h v) } }

/-- Words lo to lo + n - 1 of CK_SEC_KDATA as one number, least significant word first. -/
def Blk.kdataNat (b : Blk) (lo n : Nat) : Nat := leNat (wordBytes ((List.range n).map (fun i => b.kdata (lo + i))))

/-- A commit is refused. -/
def Blk.kerr (b : Blk) : Blk := b.setFld 0x80000 18 1 1

/-- LOAD of region r. -/
def Blk.loadRegion (b : Blk) (r : Nat) : Blk :=
  if r = 0 || b.active r || b.kdataNat 0 4 = b.kdataNat 4 4 then b.kerr
  else { b with sec := { b.sec with keys := Tab.set 0 b.sec.keys r (BitVec.ofNat 512 (b.kdataNat 0 8)) } }

/-- CLEAR of region r: the key, its TLB entries and the row cache go; where no region remains a scrub runs. -/
def Blk.clearRegion (b : Blk) (r : Nat) : Blk :=
  let last := b.sec.keys.all (fun e => e.1 = r)
  if !b.active r || b.cmdsOpen || (last && b.coOpen) then b.kerr
  else
    { b with
      sec := { b.sec with keys := Tab.del b.sec.keys r, busy := true, scrub := last }
      l2 := b.l2.filter (fun t => t.cr ≠ r)
      l1 := b.l1.foldl (fun a e => Tab.set [] a e.1 (e.2.filter (fun t => t.cr ≠ r))) []
      rc := { b.rc with inv := true } }

/-- Change key slot s of port p. -/
def Blk.setKey (b : Blk) (p : Nat) (s : Bool) (k : Option LinkKey) : Blk :=
  b.updPort p (fun x => if s then { x with k1 := k } else { x with k0 := k })

/-- LOAD of slot s of port p. -/
def Blk.loadLink (b : Blk) (p : Nat) (s : Bool) : Blk :=
  if b.build.litha ≤ p || ((b.port p).key s).isSome || b.kdataNat 4 4 ≠ 0 then b.kerr
  else b.setKey p s (some { key := BitVec.ofNat 256 (b.kdataNat 0 4) })

/-- CLEAR of slot s of port p. -/
def Blk.clearLink (b : Blk) (p : Nat) (s : Bool) : Blk :=
  if b.build.litha ≤ p || ((b.port p).key s).isNone || (s = b.txSlot p && (b.port p).st = .active) then b.kerr
  else b.setKey p s none

/-- A write of CK_SEC_KCMD: a commit, after which CK_SEC_KDATA is zero. -/
def Blk.kcmdWrite (b : Blk) (h : Half) (v : W64) : Blk :=
  if !b.regOpen 0x80008 || !covers h 0 || b.sec.busy then b
  else
    let s := bit v 11
    let p := fld v 8 3
    let r := fld v 4 4
    let done := fun (b : Blk) => { b with sec := { b.sec with kdata := [] } }
    match fld v 0 2, bit v 2 with
    | 1, false => done (b.loadRegion r)
    | 2, false => done (b.clearRegion r)
    | 1, true => done (b.loadLink p s)
    | 2, true => done (b.clearLink p s)
    | _, _ => b

/-- KEY_LOAD_REGION: a write of CK_SEC_KCMD. -/
def execKeyLoadRegion (v : W64) (s : State) : Out := upd (fun b => b.kcmdWrite .full v) s
/-- KEY_CLEAR_REGION: a write of CK_SEC_KCMD. -/
def execKeyClearRegion (v : W64) (s : State) : Out := upd (fun b => b.kcmdWrite .full v) s
/-- KEY_LOAD_LINK: a write of CK_SEC_KCMD. -/
def execKeyLoadLink (v : W64) (s : State) : Out := upd (fun b => b.kcmdWrite .full v) s
/-- KEY_CLEAR_LINK: a write of CK_SEC_KCMD. -/
def execKeyClearLink (v : W64) (s : State) : Out := upd (fun b => b.kcmdWrite .full v) s

/-- KEY_CLEAR_DONE: the sweep and the scrub of a clear have ended. -/
def execKeyClearDone (s : State) : Out :=
  upd (fun b => onlyIf (b.live && b.sec.busy && !b.rc.inv && !b.sec.scrub) (fun b => { b with sec := { b.sec with busy := false } }) b) s

/-! ### The scrub (R457, R458) -/

/-- An accumulator with its sums zeroed. -/
def Accu.zeroed (a : Accu) : Accu := { a with lanes := a.lanes.map (fun _ => 0), m2 := a.m2.map (fun _ => 0) }

/-- An open bag with its sums zeroed. -/
def Bag.zeroed (x : Bag) : Bag :=
  { x with pitches := x.pitches.map (fun p => (p.1, p.2.1, p.2.2.zeroed)), kept := x.kept.map (fun p => (p.1, p.2.zeroed)) }

/-- A core with its guarded stores zeroed: registers, caches (clean again), bags, tiles, planes, feeder, couriers. -/
def Core.scrubbed (k : Core) : Core :=
  { k with
    tasks := k.tasks.foldl (fun t e => Tab.set {} t e.1 { e.2 with g := [], phi := 0, plo := 0, s := [] }) []
    ic := { clean := true }, dc := { clean := true }
    qs := k.qs.foldl (fun t e => Tab.set {} t e.1 { e.2 with bags := e.2.bags.map Bag.zeroed }) []
    planes := [], lastPlane := none, feed := []
    tiles := k.tiles.foldl (fun t e => Tab.set {} t e.1 { e.2 with e := [], undef := none }) []
    couOut := [], couHalf := none, couIn := [], couOpen := none }

/-- A port with its replay and receive buffers empty; the credits of what is dropped are returned. -/
def Port.scrubbed (x : Port) : Port :=
  x.rxFlits.foldl (fun x f => x.owe f.1 1) { x with replayBuf := [], resend := [], rx := [], rxBytes := [], rxFlits := [] }

/-- SCRUB_DONE: every guarded store is zero, and the block is Open. -/
def Blk.scrubDone (b : Blk) : Blk :=
  let b := { b with
    cores := b.cores.foldl (fun t e => Tab.set {} t e.1 e.2.scrubbed) []
    rc := { b.rc with lines := [], vict := [], sketch := [], incs := 0, clean := true }
    co := []
    sec := { b.sec with scrub := false, zero := true } }
  (List.range b.build.litha).foldl (fun b p => b.updPort p Port.scrubbed) b

/-- SCRUB_DONE. -/
def execScrubDone (s : State) : Out := upd (fun b => onlyIf (b.live && b.sec.scrub) Blk.scrubDone b) s

/-! ### The test access port (R459, R461) -/

/-- The debug port answers: it has power. -/
def Blk.tap (b : Blk) (f : Debug → Debug) : Blk := if b.pwr.st = .off then b else { b with dbg := f b.dbg }

/-- BYPASS: one bit, captured as 0. -/
def execBypass (s : State) : Out := upd (fun b => b.tap (fun d => { d with ir := .bypass, dr := 0 })) s
/-- SAMPLE_PRELOAD: the cells capture the pins, the block goes on. -/
def execSamplePreload (pins : List Bool) (s : State) : Out := upd (fun b => b.tap (fun d => { d with ir := .sample, cells := pins })) s
/-- EXTEST: the cells drive the pins. -/
def execExtest (cells : List Bool) (s : State) : Out := upd (fun b => b.tap (fun d => { d with ir := .extest, cells := cells })) s
/-- IDCODE: the identification register is selected. -/
def execIdcode (s : State) : Out := upd (fun b => b.tap (fun d => { d with ir := .idcode, dr := Config.idcode.toNat })) s
/-- DBG_TRST: the controller is reset and ATTACH is cleared. -/
def execDbgTrst (s : State) : Out :=
  upd (fun b => if b.pwr.st = .off then b else (b.setReg 0x90000 0).tap (fun d => { d with ir := .idcode })) s

/-! ### CK_DBG_CTRL and CK_DBG_CORE (R461, R462, R464, R467, R487) -/

/-- A write of a debug register is taken: a debug-bus write also in Doze and Nap. -/
def Blk.dbgOpen (b : Blk) (o : Nat) (dab : Bool) : Bool :=
  if dab then b.regPresent o && !b.resetting && (!b.pwr.halt || o = 0x90000) else b.regOpen o

/-- A write of CK_DBG_CTRL: ATTACH through the debug bus only, WAKE as a request of Run. -/
def Blk.dbgCtrlWrite (b : Blk) (h : Half) (v : W64) (dab : Bool) : Blk :=
  if !b.dbgOpen 0x90000 dab then b
  else
    let b := if dab then b.fieldWrite 0x90000 h v else b
    if wrOne h v 1 then b.pwrRequest 3 else b

/-- ATTACH: a debug-bus write of CK_DBG_CTRL. -/
def execAttach (v : W64) (s : State) : Out := upd (fun b => b.dbgCtrlWrite .full v true) s
/-- WAKE: a host write of CK_DBG_CTRL. -/
def execWake (h : Half) (v : W64) (s : State) : Out := upd (fun b => b.dbgCtrlWrite h v false) s

/-- One word of a task context of a halted core is to run: it is switched in, what ran leaves. -/
def Blk.stepTask (b : Blk) (c t : Nat) : Blk :=
  if (b.task c t).st = .free then b
  else
    let b := b.updCore c (fun k => { k with stepOne := some t })
    let b := iter 4 (fun i b => if i ≠ t && (b.task c i).st = .running then b.updTask c i (fun x => { x with st := .ready }) else b) b
    if b.seqIssues c && (b.task c t).st = .ready then b.switchIn c t else b

/-- A write of CK_DBG_CORE[c]: HALTREQ and TASK, then the halt or its end, then STEP. -/
def Blk.dbgCoreWrite (b : Blk) (c : Nat) (h : Half) (v : W64) (dab : Bool) : Blk :=
  let o := 0x90100 + 8 * c
  if !b.dbgOpen o dab then b
  else
    let b := b.fieldWrite o h v
    let b := if b.live then b.haltSync c else b
    if wrOne h v 1 && b.live && b.rb o 4 then b.stepTask c (b.rf o 2 2) else b

/-- HALTREQ: a write of CK_DBG_CORE[c]. -/
def execHaltreq (c : Fin 8) (h : Half) (v : W64) (s : State) : Out := upd (fun b => b.dbgCoreWrite c.val h v false) s
/-- STEP: a write of CK_DBG_CORE[c]. -/
def execDbgStep (c : Fin 8) (h : Half) (v : W64) (s : State) : Out := upd (fun b => b.dbgCoreWrite c.val h v false) s

end Sys2Proof.Machine
end

