-- ==== Sys2Proof/Machine/Regs.lean ====
section
/-! DEFINITION. The register window as a whole: what a read of a register returns (R9, R484, R487), the write of a register by its
offset (R9, R11, R480 to R487), and the debug access bus (R459, R460, R463, R464). -/
namespace Sys2Proof.Machine

/-! ### Reads -/

/-- Fields by lowest bit, as one word. -/
def pack (l : List (Nat × Nat)) : W64 := BitVec.ofNat 64 (l.foldl (fun a e => a ||| e.2 <<< e.1) 0)

/-- One bit for each number below n with p. -/
def bitsOf (n : Nat) (p : Nat → Bool) : Nat := (List.range n).foldl (fun a i => if p i then a + 2 ^ i else a) 0

/-- A condition as a field. -/
def flagBit (p : Bool) : Nat := if p then 1 else 0

/-- CK_CAP0 (R3). -/
def Build.cap0 (x : Build) : W64 :=
  pack [(0, x.cores), (4, flagBit x.overlap), (5, flagBit x.arrays), (6, flagBit x.far), (8, x.litha), (12, x.nchan),
    (20, if x.lanes = 1024 then 2 else if x.lanes = 512 then 1 else 0), (24, x.rcache), (32, x.coal)]

/-- CK_CAP1 (R4). -/
def Build.cap1 (x : Build) : W64 := pack [(0, 1100), (16, 2000), (32, if x.litha = 0 then 0 else 1750)]

/-- The code of a power state (R444). -/
def PwrState.code : PwrState → Nat
  | .run => 0
  | .dozeIn => 1
  | .doze => 2
  | .napIn => 3
  | .nap => 4
  | .resume => 5
  | .off => 0

/-- The code of a task context's state (R315). -/
def TState.code : TState → Nat
  | .free => 0
  | .ready => 1
  | .running => 2
  | .waiting => 3

/-- The code of a stream queue's state (R70). -/
def QState.code : QState → Nat
  | .free => 0
  | .active => 1
  | .armedIdle => 2
  | .parked => 3

/-- The code of a lock's state (R151). -/
def LState.code : LState → Nat
  | .free => 0
  | .exclusive => 1
  | .shared => 2
  | .queued => 3

/-- The code of a ramp state (R150). -/
def Ramp.code : Ramp → Nat
  | .gated => 0
  | .up => 1
  | .full => 2
  | .down => 3

/-- The code of a port's state (R411). -/
def LkState.code : LkState → Nat
  | .down => 0
  | .train => 1
  | .negotiate => 2
  | .active => 3
  | .retrain => 4

/-- The code of plane p (R150). -/
def Core.planeCode (k : Core) (p : Nat) : Nat :=
  match (k.plane p).st with
  | .empty => 0
  | .loading => 1
  | .resident => if k.lastPlane = some p then 3 else 2

/-- Status of the K-island's registers. -/
def Blk.statK (b : Blk) (o : Nat) : W64 :=
  if o = 0 then pack [(8, b.build.config), (12, b.build.step % 16)]
  else if o = 8 then b.build.cap0
  else if o = 0x10 then b.build.cap1
  else if o = 0x2008 then pack [(0, b.pwr.st.code), (3, flagBit b.pwr.hold)]
  else if o = 0x2018 then pack [(32, bitsOf 8 b.coreRst), (40, bitsOf 8 (fun p => (b.port p).rst))]
  else if o = 0x80000 then
    pack [(0, flagBit b.guarded), (1, bitsOf 16 b.active / 2), (16, flagBit b.sec.scrub), (17, flagBit b.sec.busy)]
  else 0

/-- Status of the M-island's registers. -/
def Blk.statM (b : Blk) (o : Nat) : W64 :=
  if o = 0x30420 then pack [(0, b.mig.camps.length), (40, flagBit b.mig.recov)]
  else if 0x41000 ≤ o && o < 0x41800 then
    let s := Tab.get {} b.ft ((o - 0x41000) / 8)
    pack [(0, flagBit s.valid), (8, s.gen % 256), (16, s.ctx), (22, min 1023 s.waiters.length), (32, s.gran)]
  else if o = 0x50008 then pack [(0, flagBit b.rc.clean), (1, flagBit b.rc.inv), (2, flagBit b.rc.halving)]
  else if o = 0x60010 then
    let f := b.fences.find? (fun f => f.phase = .apply)
    pack [(0, flagBit (!b.stalled.isEmpty)), (2, flagBit f.isSome), (8, (f.map (fun f => fdTally f.fd)).getD 0),
      (16, (b.co.filter (fun e => e.log.isSome)).length)]
  else 0

/-- Status of the L-island's registers. -/
def Blk.statL (b : Blk) (o : Nat) : W64 :=
  if o = 0x70040 then pack [(25, flagBit b.lx.mgmtBusy), (28, flagBit b.lx.oeint)]
  else if 0x71000 ≤ o && o < 0x71800 && o % 256 = 8 then
    let x := b.port ((o - 0x71000) / 256)
    pack [(0, x.st.code), (3, flagBit x.lol), (4, x.ver), (8, x.err), (16, x.pnode), (32, x.pport), (35, flagBit x.penc),
      (36, flagBit x.k0.isSome + 2 * flagBit x.k1.isSome)]
  else 0

/-- The wait is that of a task context. -/
def Waiter.ofTask (w : Waiter) : Bool :=
  match w.who with
  | .task _ _ => true
  | _ => false

/-- The waiters that hold an entry of the pool (R377): one for each task context, and the oldest 224 of the others. -/
def Blk.entered (b : Blk) : List Waiter :=
  b.waiters.filter Waiter.ofTask ++ (b.waiters.filter (fun w => !w.ofTask)).take 224

/-- Status of the H-island's registers: the couriers and the anchors. -/
def Blk.statH (b : Blk) (o : Nat) : W64 :=
  if 0xA0000 ≤ o && o < 0xA0200 && o % 64 = 16 then
    let c := (o - 0xA0000) / 64
    let k := b.core c
    let n := if b.qHeld 9 c c then 0 else k.couOut.length
    pack [(0, n % 2048), (12, flagBit k.couHalf.isSome), (13, flagBit (decide (2048 ≤ n) || b.qHeld 9 c c)), (32, b.couFree c),
      (49, flagBit k.couOpen.isSome)]
  else if 0xC0000 ≤ o && o < 0x100000 then
    let a := (o - 0xC0000) / 8
    pack [(0, b.anchor a), (48, flagBit (b.entered.any (fun w => w.anchor = a)))]
  else 0

/-- The byte of a tile buffer's lock (R151). -/
def Tile.lockByte (t : Tile) : Nat :=
  match t.lock with
  | .exclusive => 1 + t.owner <<< 2
  | .queued => 3 + t.owner <<< 2
  | .shared => 2 + (min 15 t.readers.length) <<< 4
  | .free => 0

/-- Status of the registers of core c at offset k of its block. -/
def Blk.statC (b : Blk) (c k : Nat) : W64 :=
  let x := b.core c
  if k = 8 then
    pack [(0, flagBit x.ic.clean), (1, flagBit x.dc.clean), (2, flagBit (x.ic.busy || x.dc.busy)), (4, flagBit x.fatal),
      (8, (List.range 4).foldl (fun a t => a + (x.task t).st.code <<< (2 * t)) 0)]
  else if 0x200 ≤ k && k < 0x280 then
    let q := (k - 0x200) / 8
    let s := x.sq q
    pack [(0, s.st.code), (2, flagBit s.shadow.isSome), (3, flagBit s.persist), (16, s.pass % 65536),
      (32, x.held q)]
  else if k = 0x410 then
    pack [(0, x.planeCode 0), (2, x.planeCode 1), (4, x.ramp.code), (6, flagBit (x.pinned 0 || x.pinned 1))]
  else if k = 0x418 then BitVec.ofNat 64 ((List.range 6).foldl (fun a t => a + (x.tile t).lockByte <<< (8 * t)) 0)
  else if k = 0x620 then
    let run := x.ch.find? (fun o => o.running)
    pack [(0, flagBit run.isSome), (1, (run.map (fun o => o.task)).getD 0),
      (3, bitsOf 4 (fun t => x.ch.any (fun o => o.task = t && !o.running))), (7, x.tq.length)]
  else 0

/-- The fields of a register that mirror a unit. -/
def Blk.stat (b : Blk) (o : Nat) : W64 :=
  if o < 0x10000 || (0x80000 ≤ o && o < 0x90000) then b.statK o
  else if o < 0x70000 then b.statM o
  else if o < 0x80000 then b.statL o
  else if o < 0x100000 then b.statH o
  else b.statC ((o - 0x100000) / 0x10000) (o % 0x10000)

/-- The bits of a register that its unit gives. -/
def statMask (o : Nat) : W64 := if 0xA0000 ≤ o && o < 0xA0200 && o % 64 = 16 then 0x00001FFF00000000 else 0

/-- The value that a 64-bit read of the register at an aligned offset returns. In Doze and Nap the fields that are not kept read
their reset values; those of the power and reset block tell of the state itself. -/
def Blk.regRead (b : Blk) (o : Nat) : W64 :=
  if b.resetting then 0xFFFFFFFFFFFFFFFF
  else if !b.regPresent o then 0
  else
    let v := (b.reg o &&& ~~~(statMask o)) ||| b.stat o
    if 0x2000 ≤ o && o < 0x3000 then v
    else if b.pwr.st = .doze then keepReg (fun f => f.d) o v
    else if b.pwr.st = .nap then keepReg (fun f => f.nap) o v
    else v

/-! ### Writes -/

/-- A write of the fields of the register at offset o, where it is not ignored. -/
def Blk.plainWrite (b : Blk) (o : Nat) (h : Half) (v : W64) : Blk := if b.regOpen o then b.fieldWrite o h v else b

/-- A write of a register whose fields lock at their first write (R9, R486). -/
def Blk.lockWrite (b : Blk) (o : Nat) (h : Half) (mask : W64) (ok : Bool) (v : W64) (bad : Blk → Blk) : Blk :=
  if !b.regOpen o || !covers h 0 || b.locked.contains o then b
  else
    let b := { b with locked := o :: b.locked }
    if ok then b.setReg o ((b.reg o &&& ~~~mask) ||| (halfVal h v &&& mask)) else bad (b.setReg o (regReset o))

/-- A write of CK_PORT_SPLIT[p] (R65): refused shares lock at their reset values and set SPLITERR. -/
def Blk.splitWrite (b : Blk) (o : Nat) (h : Half) (v : W64) : Blk :=
  let s := [fld v 0 8, fld v 8 8, fld v 16 8]
  b.lockWrite o h 0xFFFFFF (s.all (fun x => decide (5 ≤ x)) && s.foldl (· + ·) 0 = 100) v (fun b => b.setFld o 24 1 1)

/-- A write that a setting refuses while `busy`, telling so in bit i of register e. -/
def Blk.heldWrite (b : Blk) (o : Nat) (h : Half) (v : W64) (busy : Bool) (e i : Nat) : Blk :=
  if !b.regOpen o then b else if busy then b.setFld e i 1 1 else b.fieldWrite o h v

/-- A write of CK_MIG_CTRL (R264): DIREN stays while any entry exists. -/
def Blk.migCtrlWrite (b : Blk) (h : Half) (v : W64) : Blk :=
  if !b.regOpen 0x30418 then b
  else
    let old := b.diren
    let b := b.fieldWrite 0x30418 h v
    if old && !b.diren && !b.mig.camps.isEmpty then (b.setFld 0x30418 0 1 1).setFld 0x30420 41 1 1 else b

/-- Some tag of the overflow log is valid. -/
def Blk.logUsed (b : Blk) : Bool := b.co.any (fun e => e.log.isSome)

/-- Writes of the rings' registers, 0001_0000h to 0001_1FFFh. -/
def Blk.ringRegWrite (b : Blk) (o : Nat) (h : Half) (v : W64) : Blk :=
  if o < 0x11000 then
    let n := (o - 0x10000) / 0x40
    let k := o % 0x40
    if k = 0 then b.ringBaseWrite n h v
    else if (k = 8 || k = 16) && b.ringEn n then b
    else b.plainWrite o h v
  else if o = 0x11000 then b.fringWrite h v
  else if o = 0x11010 then b.eringWrite h v
  else if o = 0x11008 then (if b.regOpen o then (b.fieldWrite o h v).drainFaults.ftRetry else b)
  else b.plainWrite o h v

/-- Writes of the M-island's registers. -/
def Blk.memRegWrite (b : Blk) (o : Nat) (h : Half) (v : W64) : Blk :=
  if o < 0x30018 then b.splitWrite o h v
  else if 0x30040 ≤ o && o < 0x30058 then b.lockWrite o h 0x7FFF true v id
  else if o = 0x30400 || o = 0x30408 || o = 0x30410 then b.heldWrite o h v b.diren 0x30420 41
  else if o = 0x30418 then b.migCtrlWrite h v
  else if o = 0x50000 then b.rcCtrlWrite h v
  else if 0x50040 ≤ o && o < 0x500C0 then b.waydisWrite ((o - 0x50040) / 8) h v
  else if o = 0x60000 || o = 0x60008 then b.heldWrite o h v b.logUsed 0x60010 1
  else b.plainWrite o h v

/-- Writes of the L-island's registers. -/
def Blk.linkRegWrite (b : Blk) (o : Nat) (h : Half) (v : W64) : Blk :=
  if o = 0x70000 then b.lockWrite o h 0xFFFF true v id
  else if o = 0x70020 then b.taddrWrite h v
  else if o = 0x70030 then b.tdata1Write h v
  else if o = 0x70040 then b.mgmtWrite h v
  else if 0x71000 ≤ o && o % 256 = 0 then b.pctrlWrite ((o - 0x71000) / 256) h v
  else b.plainWrite o h v

/-- Writes of the courier registers. -/
def Blk.courierRegWrite (b : Blk) (o : Nat) (h : Half) (v : W64) : Blk :=
  let c := (o - 0xA0000) / 0x40
  let k := o % 0x40
  if k = 0x18 then b.couIn c h v
  else if k = 0x20 then
    let b := if wrOne h v 0 then b.couOpenMsg c else b
    if wrOne h v 1 then b.couCloseMsg c else b
  else b.plainWrite o h v

/-- A write of the register at offset o, through the host port or through the debug bus. -/
def Blk.regWrite (b : Blk) (o : Nat) (h : Half) (v : W64) (dab : Bool) : Blk :=
  if o = 0x2000 then b.pwrCtrlWrite h v
  else if o = 0x2018 then b.rstCtrlWrite h v
  else if o = 0x1200 then (if b.rb 0x1200 0 then b else b.plainWrite o h v)
  else if o < 0x10000 then b.plainWrite o h v
  else if o < 0x12000 then b.ringRegWrite o h v
  else if o < 0x20000 then (if o < 0x12420 then b.msiWrite ((o - 0x12000) / 16) (o % 16 = 8) h v else b)
  else if o < 0x20200 then b.doorbell ((o - 0x20000) / 8) h v
  else if o < 0x30000 then b.plainWrite o h v
  else if o < 0x70000 then b.memRegWrite o h v
  else if o < 0x80000 then b.linkRegWrite o h v
  else if o = 0x80008 then b.kcmdWrite h v
  else if 0x80100 ≤ o && o < 0x80140 then b.kdataWrite ((o - 0x80100) / 8) h v
  else if o = 0x90000 then b.dbgCtrlWrite h v dab
  else if 0x90100 ≤ o && o < 0x90140 then b.dbgCoreWrite ((o - 0x90100) / 8) h v dab
  else if 0xA0000 ≤ o && o < 0xA0200 then b.courierRegWrite o h v
  else if 0x100000 ≤ o && o % 0x10000 = 0 then b.seqCtrlWrite ((o - 0x100000) / 0x10000) h v
  else if 0x100000 ≤ o && o % 0x10000 = 0x700 then
    (if b.regOpen o then (b.fieldWrite o h v).gxFollow ((o - 0x100000) / 0x10000) else b)
  else b.plainWrite o h v

/-- REGISTER_WRITE: a host write of a size in bytes at an offset of the window. -/
def execRegisterWrite (off size : Nat) (v : W64) (s : State) : Out :=
  upd (fun b =>
    match accessHalf off size with
    | some h => b.regWrite (off / 8 * 8) h (if h = .full then v else v &&& 0xFFFFFFFF) false
    | none => b) s

/-! ### The debug access bus -/

/-- The response to a request: data and tag. -/
def Blk.respond (b : Blk) (v : W64) (tag : Nat) : Blk := { b with dbg := { b.dbg with respData := v, respTag := tag } }

/-- A debug register: what a write may reach while the block is Guarded or the debugger detached. -/
def isDbg (o : Nat) : Bool := o = 0x90000 || (decide (0x90100 ≤ o ∧ o < 0x90140) && o % 8 = 0)

/-- A request to space 0: the register window, as the host sees it. -/
def Blk.dabWindow (b : Blk) (off : Nat) (wr : Bool) (v : W64) : Blk :=
  let out := decide (0xA0000 ≤ off ∧ off < 0xA0200) && off % 64 = 0
  if 0x200000 ≤ off then b.respond 0 3
  else if off % 8 ≠ 0 then b.respond (if wr then 0 else 0xFFFFFFFFFFFFFFFF) 0
  else if wr then
    if b.guarded && !isDbg off then b.respond 0 1 else (b.regWrite off .full v true).respond 0 0
  else if out && b.guarded && b.regPresent off && !b.resetting then b.respond 0 1
  else if out && !b.resetting then
    let r := b.couPop ((off - 0xA0000) / 64)
    r.1.respond r.2 0
  else b.respond (b.regRead off) 0

/-- The units' stores have clock and power. -/
def Blk.clocked (b : Blk) : Bool := !b.resetting && (b.pwr.st = .run || b.pwr.st = .dozeIn || b.pwr.st = .napIn)

/-- A read of the arrays of a unit: zero while Guarded but for what space 4 holds outside the guarded stores (R463), else what the
unit holds, of which the spec gives no layout. -/
def Blk.dabStore (b : Blk) (space off : Nat) : Blk :=
  if b.guarded && !(space = 4 && Config.dabOpen off) then b.respond 0 1
  else if b.sec.zero then b.respond 0 0
  else b.freed.respond b.freeW 0

/-- One request of the debug access bus, and whether the meaning of its write is not given. -/
def Blk.dab (b : Blk) (addr : Nat) (wr : Bool) (v : W64) : Blk × Bool :=
  let space := addr / 2 ^ 36 % 16
  let core := addr / 2 ^ 33 % 8
  let off := addr % 2 ^ 33
  if !b.rb 0x90000 0 && !(space = 0 && wr && off = 0x90000) then (b.respond 0 3, false)
  else if space = 0 then (b.dabWindow off wr v, false)
  else if 5 < space || ((space = 2 || space = 3 || space = 4) && !b.coreOk core) then (b.respond 0 3, false)
  else if !b.clocked then (b.respond 0 2, false)
  else if !wr then (b.dabStore space off, false)
  else if b.guarded then (b.respond 0 1, false)
  else (b, true)

/-- DABACC: the response of the previous request is shifted out, and one request is shifted in. -/
def execDabacc (req : BitVec 105) (s : State) : Out :=
  let b := s.blk
  let r := b.dab (fld req 0 40) (bit req 40) (req.extractLsb' 41 64)
  if b.pwr.st = .off then .next s
  else if r.2 then .refused .debugStore
  else upd (fun b => { r.1 with dbg := { r.1.dbg with ir := .dabacc, dr := b.dbg.respData.toNat + b.dbg.respTag <<< 64 } }) s

end Sys2Proof.Machine
end

