-- ==== Sys2Proof/Machine/Dispatch.lean ====
section
/-! DEFINITION. The meaning of each command: one arm per constructor. -/
namespace Sys2Proof.Machine

/-- What a command does to everything but the queue of waiting commands. -/
def exec (i : Instr) (s : State) : Host.Outcome State Fault Refusal :=
  match i with
  | .nopCommand id => Sys2Proof.Machine.execNopCommand id s
  | .run id => Sys2Proof.Machine.execRun id s
  | .lookupPool id rd => Sys2Proof.Machine.execLookupPool id rd s
  | .interact id rd => Sys2Proof.Machine.execInteract id rd s
  | .backInteract id rd => Sys2Proof.Machine.execBackInteract id rd s
  | .scatter id rd => Sys2Proof.Machine.execScatter id rd s
  | .fenceCommand id rd => Sys2Proof.Machine.execFenceCommand id rd s
  | .copy id rd => Sys2Proof.Machine.execCopy id rd s
  | .advise id rd => Sys2Proof.Machine.execAdvise id rd s
  | .xltInval id => Sys2Proof.Machine.execXltInval id s
  | .xltInvalComplete id => Sys2Proof.Machine.execXltInvalComplete id s
  | .resume id => Sys2Proof.Machine.execResume id s
  | .dcInval id => Sys2Proof.Machine.execDcInval id s
  | .abort id => Sys2Proof.Machine.execAbort id s
  | .anchor id => Sys2Proof.Machine.execAnchor id s
  | .anchorWait id => Sys2Proof.Machine.execAnchorWait id s
  | .doorbell n h v => Sys2Proof.Machine.execDoorbell n h v s
  | .ringEntryRead n r => Sys2Proof.Machine.execRingEntryRead n r s
  | .doorbellRetry n => Sys2Proof.Machine.execDoorbellRetry n s
  | .commandStart id rd => Sys2Proof.Machine.execCommandStart id rd s
  | .commandComplete id => Sys2Proof.Machine.execCommandComplete id s
  | .completionRecordAck n => Sys2Proof.Machine.execCompletionRecordAck n s
  | .completionWordAck n => Sys2Proof.Machine.execCompletionWordAck n s
  | .completionWriteRefused n poison => Sys2Proof.Machine.execCompletionWriteRefused n poison s
  | .ringEnable n h v => Sys2Proof.Machine.execRingEnable n h v s
  | .ringDisable n h v => Sys2Proof.Machine.execRingDisable n h v s
  | .cheadWrite n h v => Sys2Proof.Machine.execCheadWrite n h v s
  | .faultRingEnable h v => Sys2Proof.Machine.execFaultRingEnable h v s
  | .eventRingEnable h v => Sys2Proof.Machine.execEventRingEnable h v s
  | .msiWrite v word1 h x => Sys2Proof.Machine.execMsiWrite v word1 h x s
  | .inletWrite off bytes => Sys2Proof.Machine.execInletWrite off bytes s
  | .inletWriteAck refused => Sys2Proof.Machine.execInletWriteAck refused s
  | .adapterWrite adapter pa bytes => Sys2Proof.Machine.execAdapterWrite adapter pa bytes s
  | .registerWrite off size v => Sys2Proof.Machine.execRegisterWrite off size v s
  | .nop sl => Sys2Proof.Machine.execNop sl s
  | .add sl rd ra rb => Sys2Proof.Machine.execAdd sl rd ra rb s
  | .sub sl rd ra rb => Sys2Proof.Machine.execSub sl rd ra rb s
  | .andOp sl rd ra rb => Sys2Proof.Machine.execAndOp sl rd ra rb s
  | .orOp sl rd ra rb => Sys2Proof.Machine.execOrOp sl rd ra rb s
  | .xorOp sl rd ra rb => Sys2Proof.Machine.execXorOp sl rd ra rb s
  | .andn sl rd ra rb => Sys2Proof.Machine.execAndn sl rd ra rb s
  | .sll sl rd ra rb => Sys2Proof.Machine.execSll sl rd ra rb s
  | .srl sl rd ra rb => Sys2Proof.Machine.execSrl sl rd ra rb s
  | .sra sl rd ra rb => Sys2Proof.Machine.execSra sl rd ra rb s
  | .rol sl rd ra rb => Sys2Proof.Machine.execRol sl rd ra rb s
  | .seqOp sl rd ra rb => Sys2Proof.Machine.execSeqOp sl rd ra rb s
  | .slt sl rd ra rb => Sys2Proof.Machine.execSlt sl rd ra rb s
  | .sltu sl rd ra rb => Sys2Proof.Machine.execSltu sl rd ra rb s
  | .mul sl ra rb => Sys2Proof.Machine.execMul sl ra rb s
  | .mulh sl ra rb => Sys2Proof.Machine.execMulh sl ra rb s
  | .productLand x => Sys2Proof.Machine.execProductLand x s
  | .addi sl rd ra imm => Sys2Proof.Machine.execAddi sl rd ra imm s
  | .andi sl rd ra imm => Sys2Proof.Machine.execAndi sl rd ra imm s
  | .ori sl rd ra imm => Sys2Proof.Machine.execOri sl rd ra imm s
  | .xori sl rd ra imm => Sys2Proof.Machine.execXori sl rd ra imm s
  | .slli sl rd ra sh => Sys2Proof.Machine.execSlli sl rd ra sh s
  | .srli sl rd ra sh => Sys2Proof.Machine.execSrli sl rd ra sh s
  | .srai sl rd ra sh => Sys2Proof.Machine.execSrai sl rd ra sh s
  | .roli sl rd ra sh => Sys2Proof.Machine.execRoli sl rd ra sh s
  | .seqi sl rd ra imm => Sys2Proof.Machine.execSeqi sl rd ra imm s
  | .slti sl rd ra imm => Sys2Proof.Machine.execSlti sl rd ra imm s
  | .sltiu sl rd ra imm => Sys2Proof.Machine.execSltiu sl rd ra imm s
  | .movi sl rd imm => Sys2Proof.Machine.execMovi sl rd imm s
  | .movi64 x rd imm => Sys2Proof.Machine.execMovi64 x rd imm s
  | .mfs sl rd sr => Sys2Proof.Machine.execMfs sl rd sr s
  | .mts sl sr ra => Sys2Proof.Machine.execMts sl sr ra s
  | .ldb sl rd ra imm par => Sys2Proof.Machine.execLdb sl rd ra imm par s
  | .ldbu sl rd ra imm par => Sys2Proof.Machine.execLdbu sl rd ra imm par s
  | .ldh sl rd ra imm par => Sys2Proof.Machine.execLdh sl rd ra imm par s
  | .ldhu sl rd ra imm par => Sys2Proof.Machine.execLdhu sl rd ra imm par s
  | .ldw sl rd ra imm par => Sys2Proof.Machine.execLdw sl rd ra imm par s
  | .ldwu sl rd ra imm par => Sys2Proof.Machine.execLdwu sl rd ra imm par s
  | .ldd sl rd ra imm par => Sys2Proof.Machine.execLdd sl rd ra imm par s
  | .loadMissReturn x r par => Sys2Proof.Machine.execLoadMissReturn x r par s
  | .stb sl rd ra imm par => Sys2Proof.Machine.execStb sl rd ra imm par s
  | .sth sl rd ra imm par => Sys2Proof.Machine.execSth sl rd ra imm par s
  | .stw sl rd ra imm par => Sys2Proof.Machine.execStw sl rd ra imm par s
  | .std sl rd ra imm par => Sys2Proof.Machine.execStd sl rd ra imm par s
  | .beq sl ra rb off => Sys2Proof.Machine.execBeq sl ra rb off s
  | .bne sl ra rb off => Sys2Proof.Machine.execBne sl ra rb off s
  | .blt sl ra rb off => Sys2Proof.Machine.execBlt sl ra rb off s
  | .bge sl ra rb off => Sys2Proof.Machine.execBge sl ra rb off s
  | .bltu sl ra rb off => Sys2Proof.Machine.execBltu sl ra rb off s
  | .bgeu sl ra rb off => Sys2Proof.Machine.execBgeu sl ra rb off s
  | .bf1 sl fa off => Sys2Proof.Machine.execBf1 sl fa off s
  | .bf0 sl fa off => Sys2Proof.Machine.execBf0 sl fa off s
  | .jal sl rd off => Sys2Proof.Machine.execJal sl rd off s
  | .jalr sl rd ra imm => Sys2Proof.Machine.execJalr sl rd ra imm s
  | .eret sl => Sys2Proof.Machine.execEret sl s
  | .fset sl fd => Sys2Proof.Machine.execFset sl fd s
  | .fclr sl fd => Sys2Proof.Machine.execFclr sl fd s
  | .ftgl sl fd => Sys2Proof.Machine.execFtgl sl fd s
  | .fand sl fd fa fb => Sys2Proof.Machine.execFand sl fd fa fb s
  | .forOp sl fd fa fb => Sys2Proof.Machine.execForOp sl fd fa fb s
  | .fxor sl fd fa fb => Sys2Proof.Machine.execFxor sl fd fa fb s
  | .fandn sl fd fa fb => Sys2Proof.Machine.execFandn sl fd fa fb s
  | .frd sl rg fb => Sys2Proof.Machine.execFrd sl rg fb s
  | .fwr sl rg fb => Sys2Proof.Machine.execFwr sl rg fb s
  | .ftas sl rg fb => Sys2Proof.Machine.execFtas sl rg fb s
  | .dcinv sl ra rb => Sys2Proof.Machine.execDcinv sl ra rb s
  | .dcclean sl ra rb => Sys2Proof.Machine.execDcclean sl ra rb s
  | .icinv sl ra rb => Sys2Proof.Machine.execIcinv sl ra rb s
  | .send sl ra w => Sys2Proof.Machine.execSend sl ra w s
  | .recv sl rd w => Sys2Proof.Machine.execRecv sl rd w s
  | .await sl ra rb anc => Sys2Proof.Machine.execAwait sl ra rb anc s
  | .waitd sl mask => Sys2Proof.Machine.execWaitd sl mask s
  | .halt sl => Sys2Proof.Machine.execHalt sl s
  | .reservedOp x w => Sys2Proof.Machine.execReservedOp x w s
  | .gather x rd ra imm v => Sys2Proof.Machine.execGather x rd ra imm v s
  | .rearm x ra rb q release => Sys2Proof.Machine.execRearm x ra rb q release s
  | .pool x rd ra imm v => Sys2Proof.Machine.execPool x rd ra imm v s
  | .expand x ra imm v => Sys2Proof.Machine.execExpand x ra imm v s
  | .matx x rd ra imm v => Sys2Proof.Machine.execMatx x rd ra imm v s
  | .chain x rd ra imm v => Sys2Proof.Machine.execChain x rd ra imm v s
  | .scat x rd ra imm v => Sys2Proof.Machine.execScat x rd ra imm v s
  | .fence x rd ra imm v => Sys2Proof.Machine.execFence x rd ra imm v s
  | .migr x rd ra imm advice v => Sys2Proof.Machine.execMigr x rd ra imm advice v s
  | .asig x rd ra rb rc anc op rmt imm => Sys2Proof.Machine.execAsig x rd ra rb rc anc op rmt imm s
  | .asigEffect x tag parity => Sys2Proof.Machine.execAsigEffect x tag parity s
  | .taskSwitchIn c => Sys2Proof.Machine.execTaskSwitchIn c s
  | .gxSwitchOut c => Sys2Proof.Machine.execGxSwitchOut c s
  | .gxModeChange c => Sys2Proof.Machine.execGxModeChange c s
  | .indexSectorReturn c q kind k r rd => Sys2Proof.Machine.execIndexSectorReturn c q kind k r rd s
  | .boundarySectorReturn c q k r => Sys2Proof.Machine.execBoundarySectorReturn c q k r s
  | .rowRequestIssue c => Sys2Proof.Machine.execRowRequestIssue c s
  | .rowCacheLookup c slot line par => Sys2Proof.Machine.execRowCacheLookup c slot line par s
  | .fillReturn fill poison => Sys2Proof.Machine.execFillReturn fill poison s
  | .inval h v => Sys2Proof.Machine.execInval h v s
  | .rcEnWrite h v => Sys2Proof.Machine.execRcEnWrite h v s
  | .clrcnt h v => Sys2Proof.Machine.execClrcnt h v s
  | .waydisWrite sl h v => Sys2Proof.Machine.execWaydisWrite sl h v s
  | .waydisInvalDone sl => Sys2Proof.Machine.execWaydisInvalDone sl s
  | .rowReturn c slot rd f => Sys2Proof.Machine.execRowReturn c slot rd f s
  | .bagOutputAck c q bag => Sys2Proof.Machine.execBagOutputAck c q bag s
  | .walkComplete ctx gran descs parity => Sys2Proof.Machine.execWalkComplete ctx gran descs parity s
  | .belayRecordWrite slot => Sys2Proof.Machine.execBelayRecordWrite slot s
  | .copyBlockLanded id blk rd => Sys2Proof.Machine.execCopyBlockLanded id blk rd s
  | .planeLoadDone c plane rd => Sys2Proof.Machine.execPlaneLoadDone c plane rd s
  | .tileLockGrant c tb => Sys2Proof.Machine.execTileLockGrant c tb s
  | .arrayInstructionIssue c rd => Sys2Proof.Machine.execArrayInstructionIssue c rd s
  | .wavefrontCommit c m => Sys2Proof.Machine.execWavefrontCommit c m s
  | .dummyWavefront c => Sys2Proof.Machine.execDummyWavefront c s
  | .rampDown c => Sys2Proof.Machine.execRampDown c s
  | .feederTailFlush c => Sys2Proof.Machine.execFeederTailFlush c s
  | .stalemate c tb => Sys2Proof.Machine.execStalemate c tb s
  | .chainStart c rd => Sys2Proof.Machine.execChainStart c rd s
  | .chainPass1End c rd => Sys2Proof.Machine.execChainPass1End c rd s
  | .chainEnd c => Sys2Proof.Machine.execChainEnd c s
  | .deadlineReached id rd => Sys2Proof.Machine.execDeadlineReached id rd s
  | .contributionMerge c q parity rd => Sys2Proof.Machine.execContributionMerge c q parity rd s
  | .fenceSeal fid => Sys2Proof.Machine.execFenceSeal fid s
  | .fenceApplyStart fid => Sys2Proof.Machine.execFenceApplyStart fid s
  | .entryApply fid rd => Sys2Proof.Machine.execEntryApply fid rd s
  | .fenceApplyEnd fid rd => Sys2Proof.Machine.execFenceApplyEnd fid rd s
  | .fenceDone fid => Sys2Proof.Machine.execFenceDone fid s
  | .campCopyLanded home poison => Sys2Proof.Machine.execCampCopyLanded home poison s
  | .campWritebackLanded home poison => Sys2Proof.Machine.execCampWritebackLanded home poison s
  | .queueReset cls index c kind => Sys2Proof.Machine.execQueueReset cls index c kind s
  | .queueResetDone cls index c => Sys2Proof.Machine.execQueueResetDone cls index c s
  | .courierPop c => Sys2Proof.Machine.execCourierPop c s
  | .courierInWrite c h v => Sys2Proof.Machine.execCourierInWrite c h v s
  | .openMsg c => Sys2Proof.Machine.execOpenMsg c s
  | .closeMsg c => Sys2Proof.Machine.execCloseMsg c s
  | .courierFlush c => Sys2Proof.Machine.execCourierFlush c s
  | .islandGate isl => Sys2Proof.Machine.execIslandGate isl s
  | .islandWake isl => Sys2Proof.Machine.execIslandWake isl s
  | .iinv c h v => Sys2Proof.Machine.execIinv c h v s
  | .dinv c h v => Sys2Proof.Machine.execDinv c h v s
  | .seqCacheInvalDone c => Sys2Proof.Machine.execSeqCacheInvalDone c s
  | .seqCacheEnable c h v => Sys2Proof.Machine.execSeqCacheEnable c h v s
  | .linkEnable p h v => Sys2Proof.Machine.execLinkEnable p h v s
  | .oeResetRelease p => Sys2Proof.Machine.execOeResetRelease p s
  | .laneLock p => Sys2Proof.Machine.execLaneLock p s
  | .trainTimeout p => Sys2Proof.Machine.execTrainTimeout p s
  | .advert p vmask enc node port free => Sys2Proof.Machine.execAdvert p vmask enc node port free s
  | .confirm p vsel => Sys2Proof.Machine.execConfirm p vsel s
  | .negotiateTimeout p => Sys2Proof.Machine.execNegotiateTimeout p s
  | .lossOfLight p => Sys2Proof.Machine.execLossOfLight p s
  | .retrain p h v => Sys2Proof.Machine.execRetrain p h v s
  | .resync p node port free lastSeq => Sys2Proof.Machine.execResync p node port free lastSeq s
  | .retrainTimeout p => Sys2Proof.Machine.execRetrainTimeout p s
  | .flitReceive p f => Sys2Proof.Machine.execFlitReceive p f s
  | .ackTimer p => Sys2Proof.Machine.execAckTimer p s
  | .replayTimeout p => Sys2Proof.Machine.execReplayTimeout p s
  | .rdMsg p poison => Sys2Proof.Machine.execRdMsg p poison s
  | .wrMsg p => Sys2Proof.Machine.execWrMsg p s
  | .rpool p rd => Sys2Proof.Machine.execRpool p rd s
  | .rgrad p rd => Sys2Proof.Machine.execRgrad p rd s
  | .remoteAsig p => Sys2Proof.Machine.execRemoteAsig p s
  | .mcast p => Sys2Proof.Machine.execMcast p s
  | .rdResp p => Sys2Proof.Machine.execRdResp p s
  | .wrAck p => Sys2Proof.Machine.execWrAck p s
  | .rpoolResp p => Sys2Proof.Machine.execRpoolResp p s
  | .rgradAck p => Sys2Proof.Machine.execRgradAck p s
  | .asigAck p => Sys2Proof.Machine.execAsigAck p s
  | .echo p => Sys2Proof.Machine.execEcho p s
  | .echoReply p => Sys2Proof.Machine.execEchoReply p s
  | .servedResponseSend id => Sys2Proof.Machine.execServedResponseSend id s
  | .requestTimeout tag => Sys2Proof.Machine.execRequestTimeout tag s
  | .escapeTimeout p resp => Sys2Proof.Machine.execEscapeTimeout p resp s
  | .transitForward p => Sys2Proof.Machine.execTransitForward p s
  | .rpoolBatchTimer c q node => Sys2Proof.Machine.execRpoolBatchTimer c q node s
  | .replicaReread c slot rd => Sys2Proof.Machine.execReplicaReread c slot rd s
  | .replicaWaitmax c slot => Sys2Proof.Machine.execReplicaWaitmax c slot s
  | .ewaitTimeout c => Sys2Proof.Machine.execEwaitTimeout c s
  | .ckLxTaddrWrite h v => Sys2Proof.Machine.execCkLxTaddrWrite h v s
  | .ckLxTdata1Write h v => Sys2Proof.Machine.execCkLxTdata1Write h v s
  | .goWrite h v => Sys2Proof.Machine.execGoWrite h v s
  | .mgmtTransactionDone nack data => Sys2Proof.Machine.execMgmtTransactionDone nack data s
  | .dozeRequest h v => Sys2Proof.Machine.execDozeRequest h v s
  | .napRequest h v => Sys2Proof.Machine.execNapRequest h v s
  | .runRequest h v => Sys2Proof.Machine.execRunRequest h v s
  | .powerOnResetDone build step => Sys2Proof.Machine.execPowerOnResetDone build step s
  | .blockReset h v => Sys2Proof.Machine.execBlockReset h v s
  | .coreReset c => Sys2Proof.Machine.execCoreReset c s
  | .coreResetDone c => Sys2Proof.Machine.execCoreResetDone c s
  | .linkReset p => Sys2Proof.Machine.execLinkReset p s
  | .linkResetDone p => Sys2Proof.Machine.execLinkResetDone p s
  | .keyLoadRegion v => Sys2Proof.Machine.execKeyLoadRegion v s
  | .keyClearRegion v => Sys2Proof.Machine.execKeyClearRegion v s
  | .keyLoadLink v => Sys2Proof.Machine.execKeyLoadLink v s
  | .keyClearLink v => Sys2Proof.Machine.execKeyClearLink v s
  | .samplePreload pins => Sys2Proof.Machine.execSamplePreload pins s
  | .extest cells => Sys2Proof.Machine.execExtest cells s
  | .dabacc req => Sys2Proof.Machine.execDabacc req s
  | .attach v => Sys2Proof.Machine.execAttach v s
  | .haltreq c h v => Sys2Proof.Machine.execHaltreq c h v s
  | .dbgStep c h v => Sys2Proof.Machine.execDbgStep c h v s
  | .wake h v => Sys2Proof.Machine.execWake h v s
  | .lossOfFecLock p => Sys2Proof.Machine.execLossOfFecLock p s
  | .lossOfLightCleared p => Sys2Proof.Machine.execLossOfLightCleared p s
  | .fenceRowWriteAck fid table row => Sys2Proof.Machine.execFenceRowWriteAck fid table row s
  | .instructionFetchReturn x r par => Sys2Proof.Machine.execInstructionFetchReturn x r par s
  | .cacheWritePass => Sys2Proof.Machine.execCacheWritePass s
  | .sketchHalving => Sys2Proof.Machine.execSketchHalving s
  | .sketchHalvingDone => Sys2Proof.Machine.execSketchHalvingDone s
  | .rcInvalDone => Sys2Proof.Machine.execRcInvalDone s
  | .migratorWindow => Sys2Proof.Machine.execMigratorWindow s
  | .directorySweep => Sys2Proof.Machine.execDirectorySweep s
  | .directorySweepDone => Sys2Proof.Machine.execDirectorySweepDone s
  | .timebaseTick => Sys2Proof.Machine.execTimebaseTick s
  | .lowPowerEntryDone => Sys2Proof.Machine.execLowPowerEntryDone s
  | .resumeDone => Sys2Proof.Machine.execResumeDone s
  | .pmWarn => Sys2Proof.Machine.execPmWarn s
  | .holdEnd => Sys2Proof.Machine.execHoldEnd s
  | .pmFail => Sys2Proof.Machine.execPmFail s
  | .powerOnReset => Sys2Proof.Machine.execPowerOnReset s
  | .blockResetPin => Sys2Proof.Machine.execBlockResetPin s
  | .blockResetDone => Sys2Proof.Machine.execBlockResetDone s
  | .keyClearDone => Sys2Proof.Machine.execKeyClearDone s
  | .scrubDone => Sys2Proof.Machine.execScrubDone s
  | .bypass => Sys2Proof.Machine.execBypass s
  | .idcode => Sys2Proof.Machine.execIdcode s
  | .dbgTrst => Sys2Proof.Machine.execDbgTrst s
  | .supplyRemoved => Sys2Proof.Machine.execSupplyRemoved s

end Sys2Proof.Machine
end

