-- ==== Sys2Proof/Safety.lean ====
section
/-! DEFINITION. The predicates that statements about the block are written in: what holds before a command has its own effect, and
what it leaves alone. -/
namespace Sys2Proof.Machine

/-- The machine with another block, the build and the timebase as before. -/
def State.withBlk (s : State) (b : Blk) : State := { s with blk := { b with build := s.blk.build, time := s.blk.time } }

/-- A byte of device memory as it is stored. -/
def Blk.devByte (b : Blk) (a : Nat) : Byte := Tab.get 0 b.dev a

/-- A byte of host memory, as far as the block's acknowledged writes have made it. -/
def Blk.hostByte (b : Blk) (a : Nat) : Byte := Tab.get 0 b.host a

/-! ### Sequencer words -/

/-- The word at the PC of task context t of core c is ended by its slot B: it can issue, and its slot A holds NOP. -/
def Blk.slotBEnds (b : Blk) (c t : Nat) : Prop :=
  b.canIssue c t = true ∧ (b.task c t).slotA = some .nop ∧ (b.task c t).word = none

/-- The translation context of the command that a task context holds. -/
def Blk.taskCtx (b : Blk) (c t : Nat) : Nat := (((b.task c t).cmd.bind b.cmd).map (·.ctx)).getD 0

/-- The task context after its word has issued: the PC has moved, nothing of the word is left. -/
def Task.issued (x : Task) (pc : W64) : Task :=
  { x with pc := pc, slotA := none, word := none, lines := [], awok := [], waitFrom := none }

/-- What a word leaves alone: everything but its task context, the single step that it may end, and the count of words of its core
(CK_SEQ_CNT, counter 0), which goes up by 1. -/
structure WordFrame (c t : Nat) (b b' : Blk) : Prop where
  block : { b' with cores := b.cores, regs := b.regs } = b
  cores : ∀ d, d ≠ c → b'.core d = b.core d
  core : { b'.core c with tasks := (b.core c).tasks, stepOne := (b.core c).stepOne } = b.core c
  tasks : ∀ u, u ≠ t → b'.task c u = b.task c u
  regs : ∀ o, o ≠ coreReg c 0x80 → b'.reg o = b.reg o
  words : b'.reg (coreReg c 0x80) = b.reg (coreReg c 0x80) + 1

/-- A word has written v to general register rd (a write of g0 is discarded) and moved the PC to pc; every other register of the task
context is as before. -/
structure WroteG (c t rd : Nat) (v pc : W64) (b b' : Blk) : Prop where
  frame : WordFrame c t b b'
  written : (b'.task c t).gr rd = if rd = 0 then 0 else v
  others : ∀ r, r ≠ rd → (b'.task c t).gr r = (b.task c t).gr r
  task : { b'.task c t with g := (b.task c t).g } = (b.task c t).issued pc

/-- A word has written flag n as task context t of core c names it: f0 to f255 ignore the write, f256 to f4095 are the core's own, the
others are shared. Every other flag is as before; nothing but flags, the task context, and what a word changes is touched. -/
structure WroteF (c t n : Nat) (v : Bool) (b b' : Blk) : Prop where
  block : { b' with cores := b.cores, regs := b.regs, flags := b.flags } = b
  cores : ∀ d, d ≠ c → b'.core d = b.core d
  core : { b'.core c with tasks := (b.core c).tasks, stepOne := (b.core c).stepOne, flags := (b.core c).flags } = b.core c
  tasks : ∀ u, u ≠ t → b'.task c u = b.task c u
  regs : ∀ o, o ≠ coreReg c 0x80 → b'.reg o = b.reg o
  words : b'.reg (coreReg c 0x80) = b.reg (coreReg c 0x80) + 1
  priv : ∀ m, 256 ≤ m → m < 4096 → b'.flag c t m = if m = n then v else b.flag c t m
  shared : ∀ m, 4096 ≤ m → b'.flag c t m = if m = n then v else b.flag c t m

/-! ### Engine operations -/

/-- A long operation that takes a tag can issue with its descriptor d (R304, R305, R335): its word can issue, tag is its task context's
lowest free tag, and the descriptor at ga + IMM has been read. The block is b once the dirty lines have been written back and the
descriptor read. -/
structure LongReady (b0 : Blk) (c t ra : Nat) (imm : W64) (v : View) (m : Cmd) (tag : Nat) (d : List W64) (b : Blk) : Prop where
  can : b0.canLong c t = true
  cmd : b0.taskCmd c t = some m
  tagged : (b0.task c t).freeTag = some tag
  low : (((b0.cleanAll c).task c t).gr ra + imm).toNat < 2 ^ 57
  aligned : (((b0.cleanAll c).task c t).gr ra + imm).toNat % 64 = 0
  read : (b0.cleanAll c).desc (.desc m.id) m.ctx v (((b0.cleanAll c).task c t).gr ra + imm).toNat = (b, .ok d)

/-- The word of a long operation has issued: its tag is busy, rd holds the tag's number, the PC has moved; nothing else changes. -/
structure LongIssued (c t rd tag : Nat) (b b' : Blk) : Prop where
  frame : WordFrame c t b b'
  tags : (b'.task c t).tags = tag :: (b.task c t).tags
  written : (b'.task c t).gr rd = if rd = 0 then 0 else BitVec.ofNat 64 tag
  others : ∀ r, r ≠ rd → (b'.task c t).gr r = (b.task c t).gr r
  pc : (b'.task c t).pc = (b.task c t).pc + 16

/-! ### Commands on their way -/

/-- The built-in routine of command id, of opcode op, goes on in task context t of core c (R346, R347): the command is held there, is
neither ended nor parked, and the core runs. -/
structure RoutineGoes (b : Blk) (id op : Nat) (m : Cmd) (c t : Nat) : Prop where
  cmd : b.cmd id = some m
  held : m.phase = .held c t
  op : m.op = op
  own : m.served = none
  going : m.ending = false
  unparked : m.park = none
  issues : b.unitIssues c = true
  unhalted : b.dbgHalted c = false
  runs : (b.task c t).st = .running

/-- The routine has not begun, and its deadline has not been reached (R191, R197). -/
structure RoutineReady (b : Blk) (id op : Nat) (m : Cmd) (c t : Nat) : Prop extends RoutineGoes b id op m c t where
  fresh : m.begun = false
  time : b.dlHit m = false

/-- A dispatcher command of opcode op has passed step 4 of R351 and has not begun. -/
structure DispReady (b : Blk) (id op : Nat) (m : Cmd) : Prop where
  cmd : b.cmd id = some m
  live : b.live = true
  disp : m.isDisp = true
  op : m.op = op
  phase : m.phase = .disp
  fresh : m.begun = false
  going : m.ending = false

/-- Its slot passes its checks and its deadline has not been reached. -/
structure DispGood (b : Blk) (id op : Nat) (bad : Bool) (m : Cmd) : Prop extends DispReady b id op m where
  time : b.dlHit m = false
  ver : fld (m.par 0) 0 4 = 1
  good : bad = false

/-- The block with the work of command id marked as begun. -/
def Blk.begun (b : Blk) (id : Nat) : Blk := b.updCmd id (fun x => { x with begun := true })

/-- The ports of host and adapter writes take writes at once: the block runs, without a brown-out hold or a halt (R432, R434, R472). -/
def Blk.portsTake (b : Blk) : Prop := b.resetting = false ∧ b.portHeld = false

/-! ### Links -/

/-- Port p has become x; nothing else of the block is changed. -/
structure OnlyPort (p : Nat) (x : Port) (b b' : Blk) : Prop where
  port : b'.port p = x
  others : ∀ q, q ≠ p → b'.port q = b.port q
  block : { b' with lx := { b'.lx with ports := b.lx.ports } } = b

/-- A port that has entered TRAIN. -/
def Port.training (x : Port) (now : Nat) : Port := { x with st := .train, since := now, confSent := none }

/-- A port that has entered RETRAIN: no DATA flits and no credits but those of VL2; the replay buffer stays (R390). -/
def Port.retraining (x : Port) (now : Nat) : Port :=
  { x with st := .retrain, since := now, locked := false, resend := [], fecWin := [], credit := [0, 0, 0, 0, x.credit.getD 4 0] }

/-- Nothing that port p holds awaits a response or belongs to a multicast. -/
def Port.quiet (x : Port) : Prop :=
  (∀ f ∈ x.replayBuf, f.req = none ∧ f.last = none) ∧ (∀ m ∈ x.tx, m.req = none ∧ m.mc = none)

/-- Message m is at the head of pool i of port p, whose link logic runs, and no head is one that leaves by itself. -/
structure HeadIs (b : Blk) (p i : Nat) (m : LMsg) : Prop where
  on : b.portOn p = true
  swept : b.sweepPort (b.port p).rx.length p = b
  head : (b.port p).head i = some m

/-- A request of a type for this chip, or a multicast, is next to be taken at port p: it is the head of pool i, and it is not yet
served. -/
structure RequestIs (b : Blk) (p i ty : Nat) (m : LMsg) : Prop extends HeadIs b p i m where
  issues : b.issues = true
  typ : m.ty = ty
  here : ty = 6 ∨ m.dst = b.node
  fresh : m.serving = none
  pool : i = 0 ∨ (i = 2 ∧ ∀ y, (b.port p).head 0 = some y → y.ty ≠ ty)

/-- A response of a type for this chip is next to be taken at port p, and it answers request r; b' is the block once the message has left
its buffer and the request is no longer open. -/
structure ResponseIs (b : Blk) (p i ty : Nat) (m : LMsg) (r : LReq) (b' : Blk) : Prop extends HeadIs b p i m where
  typ : m.ty = ty
  here : m.dst = b.node
  pool : i = 1 ∨ (i = 3 ∧ ∀ y, (b.port p).head 1 = some y → y.ty ≠ ty)
  open_ : (b.consume p i).lx.reqs.find? (fun r => r.tag = m.tag && r.kind.answers ty) = some r
  taken : b' = { b.consume p i with lx := { (b.consume p i).lx with reqs := (b.consume p i).lx.reqs.erase r } }

/-! ### The whole block -/

/-- The build is one that R488 names: a configuration with its options, and a step. -/
def Blk.legal (b : Blk) : Prop := ∃ (n : Fin 64) (k : BitVec 4), b.build = buildOf n.val k.toNat

/-- No register is listed twice. -/
def Blk.regsOnce (b : Blk) : Prop := (b.regs.map (fun e => e.1)).Nodup

end Sys2Proof.Machine
end

