-- ==== Sys2Proof/Certificates/Slice0/Obligations.lean ====
section
/-! DEFINITION. What is stated of the block: for every command the next state that it answers where it has its own effect, what it leaves
alone, and what every step keeps. Each statement's docstring names the rules it rests on. -/
section
open Sys2Proof Sys2Proof.Machine

/-- Integer operations work on 64-bit values (R324, R325): gd receives the value modulo 2^64, a write of g0 is discarded, SLTIU compares
with the sign-extended immediate read as unsigned, and no operation sets a flag or traps: nothing changes but gd, the PC and the count of
words, and of MUL and MULH the products in flight. -/
def Obligations.IntegerOperations : Prop :=
  ∀ (s : State) (c : Fin 8) (t : Fin 4) (rd ra : Greg) (a : W64), a = (s.blk.task c t).gr ra →
    (s.blk.slotBEnds c t →
      (∀ (rb : Greg) (b : W64), b = (s.blk.task c t).gr rb →
        (∀ p ∈ ([(Instr.add, a + b), (Instr.sub, a - b), (Instr.andOp, a &&& b), (Instr.orOp, a ||| b),
            (Instr.xorOp, a ^^^ b), (Instr.andn, a &&& ~~~b), (Instr.sll, a <<< (b.toNat % 64)), (Instr.srl, a >>> (b.toNat % 64)),
            (Instr.sra, a.sshiftRight (b.toNat % 64)), (Instr.rol, a.rotateLeft (b.toNat % 64)),
            (Instr.seqOp, if a = b then 1 else 0), (Instr.slt, if a.toInt < b.toInt then 1 else 0),
            (Instr.sltu, if a.toNat < b.toNat then 1 else 0)] : List ((Slot → Greg → Greg → Greg → Instr) × W64)),
          ∃ s', exec (p.1 ⟨c, t, .b⟩ rd ra rb) s = .next s' ∧ s'.pending = s.pending ∧
            WroteG c t rd p.2 ((s.blk.task c t).pc + 16) s.blk s'.blk) ∧
        (∀ p ∈ ([Instr.mul, Instr.mulh] : List (Slot → Greg → Greg → Instr)),
          ∃ s', exec (p ⟨c, t, .b⟩ ra rb) s = .next s' ∧ s'.pending = s.pending ∧ WordFrame c t s.blk s'.blk ∧
            { s'.blk.task c t with prods := (s.blk.task c t).prods } = (s.blk.task c t).issued ((s.blk.task c t).pc + 16))) ∧
      (∀ (imm : BitVec 43) (i : W64), i = imm.signExtend 64 →
        ∀ p ∈ ([(Instr.addi, a + i), (Instr.andi, a &&& i), (Instr.ori, a ||| i), (Instr.xori, a ^^^ i),
            (Instr.seqi, if a = i then 1 else 0), (Instr.slti, if a.toInt < i.toInt then 1 else 0),
            (Instr.sltiu, if a.toNat < i.toNat then 1 else 0)] : List ((Slot → Greg → Greg → BitVec 43 → Instr) × W64)),
          ∃ s', exec (p.1 ⟨c, t, .b⟩ rd ra imm) s = .next s' ∧ s'.pending = s.pending ∧
            WroteG c t rd p.2 ((s.blk.task c t).pc + 16) s.blk s'.blk) ∧
      (∀ (sh : BitVec 6),
        ∀ p ∈ ([(Instr.slli, a <<< sh.toNat), (Instr.srli, a >>> sh.toNat), (Instr.srai, a.sshiftRight sh.toNat),
            (Instr.roli, a.rotateLeft sh.toNat)] : List ((Slot → Greg → Greg → BitVec 6 → Instr) × W64)),
          ∃ s', exec (p.1 ⟨c, t, .b⟩ rd ra sh) s = .next s' ∧ s'.pending = s.pending ∧
            WroteG c t rd p.2 ((s.blk.task c t).pc + 16) s.blk s'.blk) ∧
      (∀ (imm : BitVec 49), ∃ s', exec (.movi ⟨c, t, .b⟩ rd imm) s = .next s' ∧ s'.pending = s.pending ∧
        WroteG c t rd (imm.signExtend 64) ((s.blk.task c t).pc + 16) s.blk s'.blk)) ∧
    (s.blk.canLong c t = true →
      ∀ (imm : W64), ∃ s', exec (.movi64 ⟨c, t⟩ rd imm) s = .next s' ∧ s'.pending = s.pending ∧
        WroteG c t rd imm ((s.blk.task c t).pc + 16) s.blk s'.blk)

/-- The multiplier (R299): MUL puts the signed and MULH the unsigned 128-bit product in flight, without writing PHI or PLO, and
PRODUCT_LAND moves the oldest product in flight to PHI and PLO, whether or not the task context is switched in. -/
def Obligations.ProductsLandInOrder : Prop :=
  ∀ (s : State) (c : Fin 8) (t : Fin 4),
    (∀ ra rb : Greg, s.blk.slotBEnds c t →
      ∀ p ∈ ([(Instr.mul, ((s.blk.task c t).gr ra).signExtend 128 * ((s.blk.task c t).gr rb).signExtend 128),
          (Instr.mulh, ((s.blk.task c t).gr ra).setWidth 128 * ((s.blk.task c t).gr rb).setWidth 128)] :
          List ((Slot → Greg → Greg → Instr) × W128)),
        ∃ s', exec (p.1 ⟨c, t, .b⟩ ra rb) s = .next s' ∧ s'.pending = s.pending ∧ WordFrame c t s.blk s'.blk ∧
          s'.blk.task c t = { (s.blk.task c t).issued ((s.blk.task c t).pc + 16) with
            prods := (s.blk.task c t).prods ++ [p.2] }) ∧
    (∀ (p : W128) (r : List W128), s.blk.coreLive c = true → (s.blk.task c t).prods = p :: r →
      ∃ s', exec (.productLand ⟨c, t⟩) s = .next s' ∧
        { s'.blk with cores := s.blk.cores } = s.blk ∧ (∀ d, d ≠ c.val → s'.blk.core d = s.blk.core d) ∧
        (∀ u, u ≠ t.val → s'.blk.task c u = s.blk.task c u) ∧
        s'.blk.task c t = { s.blk.task c t with prods := r, phi := p.extractLsb' 64 64, plo := p.extractLsb' 0 64 })

/-- Control transfers (R328, R331): a taken branch goes to the word address + 16 × OFF, JAL and JALR write the link, ERET clears f3 and
goes to EPC + 16; a branch that is not taken goes to the next word. -/
def Obligations.ControlTransfers : Prop :=
  ∀ (s : State) (c : Fin 8) (t : Fin 4), s.blk.slotBEnds c t →
    ∀ (x : Task) (pc : W64), x = s.blk.task c t → pc = x.pc →
    (∀ (ra rb : Greg) (off : BitVec 43) (a b : W64), a = x.gr ra → b = x.gr rb →
      ∀ p ∈ ([(Instr.beq, decide (a = b)), (Instr.bne, decide (a ≠ b)), (Instr.blt, decide (a.toInt < b.toInt)),
          (Instr.bge, decide (b.toInt ≤ a.toInt)), (Instr.bltu, decide (a.toNat < b.toNat)),
          (Instr.bgeu, decide (b.toNat ≤ a.toNat))] : List ((Slot → Greg → Greg → BitVec 43 → Instr) × Bool)),
        ∃ s', exec (p.1 ⟨c, t, .b⟩ ra rb off) s = .next s' ∧ WordFrame c t s.blk s'.blk ∧
          s'.blk.task c t = x.issued (if p.2 then pc + off.signExtend 64 * 16 else pc + 16)) ∧
    (∀ (fa : Flag) (off : BitVec 39), x.flagWaits fa.toNat = false →
      ∀ p ∈ ([(Instr.bf1, true), (Instr.bf0, false)] : List ((Slot → Flag → BitVec 39 → Instr) × Bool)),
        ∃ s', exec (p.1 ⟨c, t, .b⟩ fa off) s = .next s' ∧ WordFrame c t s.blk s'.blk ∧
          s'.blk.task c t = x.issued (if s.blk.flag c t fa.toNat = p.2 then pc + off.signExtend 64 * 16 else pc + 16)) ∧
    (∀ (rd : Greg) (off : BitVec 49), ∃ s', exec (.jal ⟨c, t, .b⟩ rd off) s = .next s' ∧ s'.pending = s.pending ∧
      WroteG c t rd (pc + 16) (pc + off.signExtend 64 * 16) s.blk s'.blk) ∧
    (∀ (rd ra : Greg) (imm : BitVec 43) (tg : W64), tg = x.gr ra + imm.signExtend 64 → tg.toNat % 16 = 0 → tg.toNat < 2 ^ 57 →
      ∃ s', exec (.jalr ⟨c, t, .b⟩ rd ra imm) s = .next s' ∧ s'.pending = s.pending ∧ WroteG c t rd (pc + 16) tg s.blk s'.blk) ∧
    (x.emu = true → ∃ s', exec (.eret ⟨c, t, .b⟩) s = .next s' ∧ WordFrame c t s.blk s'.blk ∧
      s'.blk.task c t = { x.issued (x.epc + 16) with emu := false })

/-- The flag operations (R301, R329): FD receives the value, a write of f0 to f255 is ignored, FRD and FTAS read the flag from before the
word; every other flag of every core and task context is as before, but for the event bits that follow the word itself. -/
def Obligations.FlagOperations : Prop :=
  ∀ (s : State) (c : Fin 8) (t : Fin 4), s.blk.slotBEnds c t →
    ∀ (x : Task), x = s.blk.task c t →
    (∀ (fd fa fb : Flag) (d a b : Bool), d = s.blk.flag c t fd.toNat → a = s.blk.flag c t fa.toNat → b = s.blk.flag c t fb.toNat →
      x.flagWaits fa.toNat = false → x.flagWaits fb.toNat = false →
      ∀ p ∈ ([(fun sl fd _ _ => Instr.fset sl fd, true), (fun sl fd _ _ => Instr.fclr sl fd, false),
          (fun sl fd _ _ => Instr.ftgl sl fd, !d), (Instr.fand, a && b), (Instr.forOp, a || b), (Instr.fxor, a != b),
          (Instr.fandn, a && !b)] : List ((Slot → Flag → Flag → Flag → Instr) × Bool)),
        ∃ s', exec (p.1 ⟨c, t, .b⟩ fd fa fb) s = .next s' ∧ s'.pending = s.pending ∧
          WroteF c t fd.toNat p.2 s.blk s'.blk ∧ s'.blk.task c t = x.issued (x.pc + 16)) ∧
    (∀ (rg : Greg) (fb : Flag), x.flagWaits fb.toNat = false →
      ∃ s', exec (.frd ⟨c, t, .b⟩ rg fb) s = .next s' ∧ s'.pending = s.pending ∧
        WroteG c t rg (if s.blk.flag c t fb.toNat then 1 else 0) (x.pc + 16) s.blk s'.blk) ∧
    (∀ (rg : Greg) (fb : Flag), ∃ s', exec (.fwr ⟨c, t, .b⟩ rg fb) s = .next s' ∧ s'.pending = s.pending ∧
      WroteF c t fb.toNat (bit (x.gr rg) 0) s.blk s'.blk ∧ s'.blk.task c t = x.issued (x.pc + 16)) ∧
    (∀ (rg : Greg) (fb : Flag), x.flagWaits fb.toNat = false →
      ∃ s', exec (.ftas ⟨c, t, .b⟩ rg fb) s = .next s' ∧ s'.pending = s.pending ∧ WroteF c t fb.toNat true s.blk s'.blk ∧
        s'.blk.task c t = (x.setGr rg (if s.blk.flag c t fb.toNat then 1 else 0)).issued (x.pc + 16))

/-- MFS and MTS (R326): each special register that MFS may read, and s0 to s7 and EPC written by MTS. -/
def Obligations.SpecialRegisters : Prop :=
  ∀ (s : State) (c : Fin 8) (t : Fin 4), s.blk.slotBEnds c t →
    ∀ (x : Task), x = s.blk.task c t →
    (∀ (rd : Greg) (sr : BitVec 6) (v : W64),
      (sr = 0 ∧ v = x.phi) ∨ (sr = 1 ∧ v = x.plo) ∨
      (8 ≤ sr.toNat ∧ sr.toNat < 16 ∧ (sr.toNat - 8) ∉ x.sPend ∧ v = Tab.get 0 x.s (sr.toNat - 8)) ∨
      (sr = 16 ∧ v = x.epc) ∨ (sr = 17 ∧ v = x.cause) ∨
      (∃ m, sr = 18 ∧ x.cmd.bind s.blk.cmd = some m ∧ m.ring < 64 ∧ fld v 0 3 = c ∧ fld v 3 2 = t ∧ fld v 5 6 = m.ring ∧
        bit v 11 = s.blk.flag c t 2 ∧ fld v 12 52 = 0) ∨
      (sr = 19 ∧ v = s.blk.time) →
      ∃ s', exec (.mfs ⟨c, t, .b⟩ rd sr) s = .next s' ∧ s'.pending = s.pending ∧ WroteG c t rd v (x.pc + 16) s.blk s'.blk) ∧
    (∀ (sr : BitVec 6) (ra : Greg), (8 ≤ sr.toNat ∧ sr.toNat < 16) ∨ sr = 16 →
      ∃ s', exec (.mts ⟨c, t, .b⟩ sr ra) s = .next s' ∧ s'.pending = s.pending ∧ WordFrame c t s.blk s'.blk ∧
        s'.blk.task c t = (if sr = 16 then { x.issued (x.pc + 16) with epc := x.gr ra }
          else { x.issued (x.pc + 16) with s := Tab.set 0 x.s (sr.toNat - 8) (x.gr ra) }))

/-- Loads (R309, R310, R327): where the address translates to a page and its line is at hand, gd receives the 1, 2, 4 or 8 bytes at
the physical address, sign- or zero-extended. b1 is the block after the translation, b2 after the look-up of the line. -/
def Obligations.LoadsReadMemory : Prop :=
  ∀ (s : State) (c : Fin 8) (t : Fin 4), s.blk.slotBEnds c t →
    ∀ (rd ra : Greg) (imm : BitVec 43) (par : SeqParity) (va : Nat),
      va = ((s.blk.task c t).gr ra + imm.signExtend 64).toNat → va < 2 ^ 57 →
    ∀ (b1 b2 : Blk) (tl : Tlb) (pa : Nat) (d : Sect),
      s.blk.xl (.seqData c t) (s.blk.taskCtx c t) va false = (b1, .ok tl pa) →
      b1.dataLine c t (!tl.dev) (pa / 64) tl.cr par = (b2, .data d) →
    ∀ byte : Nat → Nat, (∀ n, byte n = leNat (((Sect.bytes d).drop (pa % 64)).take n)) →
    ∀ p ∈ ([(Instr.ldb, 1, (BitVec.ofNat 8 (byte 1)).signExtend 64), (Instr.ldbu, 1, BitVec.ofNat 64 (byte 1)),
        (Instr.ldh, 2, (BitVec.ofNat 16 (byte 2)).signExtend 64), (Instr.ldhu, 2, BitVec.ofNat 64 (byte 2)),
        (Instr.ldw, 4, (BitVec.ofNat 32 (byte 4)).signExtend 64), (Instr.ldwu, 4, BitVec.ofNat 64 (byte 4)),
        (Instr.ldd, 8, BitVec.ofNat 64 (byte 8))] :
        List ((Slot → Greg → Greg → BitVec 43 → SeqParity → Instr) × Nat × W64)),
      va % p.2.1 = 0 →
      ∃ s', exec (p.1 ⟨c, t, .b⟩ rd ra imm par) s = .next s' ∧ s'.pending = s.pending ∧
        WroteG c t rd p.2.2 ((b2.task c t).pc + 16) b2 s'.blk

/-- Stores (R309, R310, R327): the low bytes of gd go to the line of the data cache, which becomes dirty, and memory is left alone; with
the cache disabled they go to host or device memory at the physical address, and no other byte of memory changes. -/
def Obligations.StoresWriteMemory : Prop :=
  ∀ (s : State) (c : Fin 8) (t : Fin 4), s.blk.slotBEnds c t →
    ∀ (rd ra : Greg) (imm : BitVec 43) (par : SeqParity) (va : Nat),
      va = ((s.blk.task c t).gr ra + imm.signExtend 64).toNat → va < 2 ^ 57 →
    ∀ (b1 : Blk) (tl : Tlb) (pa : Nat),
      s.blk.xl (.seqData c t) (s.blk.taskCtx c t) va true = (b1, .ok tl pa) → pa % 8 = va % 8 →
    ∀ p ∈ ([(Instr.stb, 1), (Instr.sth, 2), (Instr.stw, 4), (Instr.std, 8)] :
        List ((Slot → Greg → Greg → BitVec 43 → SeqParity → Instr) × Nat)),
      va % p.2 = 0 →
      ∀ bytes : List Byte, bytes = leBytes p.2 ((s.blk.task c t).gr rd).toNat →
      (∀ (b2 : Blk) (d : Sect) (w : Nat), b1.rb (coreReg c 0) 1 = true →
        b1.dataLine c t (!tl.dev) (pa / 64) tl.cr par = (b2, .data d) → (b2.core c).dc.find (!tl.dev) (pa / 64) = some w →
        ∃ s', exec (p.1 ⟨c, t, .b⟩ rd ra imm par) s = .next s' ∧ s'.pending = s.pending ∧
          { s'.blk with cores := b2.cores, regs := b2.regs } = b2 ∧
          (s'.blk.core c).dc.way (pa / 64 % 256) w = { (b2.core c).dc.way (pa / 64 % 256) w with
            dirty := true, age := 0, data := patchSect ((b2.core c).dc.way (pa / 64 % 256) w).data (pa % 64) bytes } ∧
          (∀ k, k ≠ 4 * (pa / 64 % 256) + w → Tab.get {} (s'.blk.core c).dc.lines k = Tab.get {} (b2.core c).dc.lines k) ∧
          s'.blk.task c t = (b2.task c t).issued ((b2.task c t).pc + 16)) ∧
      (b1.rb (coreReg c 0) 1 = false → tl.dev = false →
        ∃ s', exec (p.1 ⟨c, t, .b⟩ rd ra imm par) s = .next s' ∧ s'.pending = s.pending ∧ s'.blk.dev = b1.dev ∧
          (∀ a, s'.blk.hostByte a = if pa ≤ a ∧ a < pa + p.2 then bytes.getD (a - pa) 0 else b1.hostByte a) ∧
          s'.blk.task c t = (b1.task c t).issued ((b1.task c t).pc + 16)) ∧
      (b1.rb (coreReg c 0) 1 = false → tl.dev = true → tierOf pa < 3 → b1.paRange pa p.2 = true →
        b1.enc tl.cr (64 * (pa / 64)) = false →
        ∃ s', exec (p.1 ⟨c, t, .b⟩ rd ra imm par) s = .next s' ∧ s'.pending = s.pending ∧ s'.blk.host = b1.host ∧
          (∀ a, s'.blk.devByte a = if pa ≤ a ∧ a < pa + p.2 then bytes.getD (a - pa) 0 else b1.devByte a) ∧
          s'.blk.task c t = (b1.task c t).issued ((b1.task c t).pc + 16))

/-- A line that a load, a store or a fetch missed (R310, R311): it returns, and the cache holds it, clean, with the data that memory
gave; the word that waited for a data line then tries again. -/
def Obligations.SequencerMissesFill : Prop :=
  ∀ (s : State) (c : Fin 8) (t : Fin 4) (r : Resp),
    (∀ (host : Bool) (line cr : Nat) (d : Sect), s.blk.coreLive c = true → (s.blk.core c).fatal = false →
      (s.blk.task c t).want = some (host, line, cr) → s.blk.shutAt c (!host) (64 * line) = false →
      (s.blk.core c).dc.find host line = none → s.blk.rb (coreReg c 0) 1 = true → s.blk.lineData host line cr r = .ok d →
      ∃ (b : Blk) (w : Nat), exec (.loadMissReturn ⟨c, t⟩ r .none) s = .next (s.withBlk (b.retryWord c t)) ∧
        b.task c t = { s.blk.task c t with want := none } ∧ (b.core c).dc.find host line = some w ∧
        (b.core c).dc.way (line % 256) w = { valid := true, host := host, line := line, cr := cr, age := 1, data := d }) ∧
    (∀ (m : Cmd) (b1 : Blk) (tl : Tlb) (pa : Nat) (d : Sect), s.blk.seqIssues c = true → (s.blk.task c t).prog = true →
      (s.blk.task c t).stop = false → (s.blk.task c t).cmd.bind s.blk.cmd = some m →
      s.blk.xl (.seqFetch c t) m.ctx (s.blk.task c t).pc.toNat false = (b1, .ok tl pa) → b1.rb (coreReg c 0) 0 = true →
      (b1.core c).ic.find (!tl.dev) (pa / 64) = none → b1.shutAt c tl.dev pa = false →
      (b1.inc (coreReg c 0x90) 1).lineData (!tl.dev) (pa / 64) tl.cr r = .ok d →
      ∃ (b : Blk) (w : Nat), exec (.instructionFetchReturn ⟨c, t⟩ r .none) s = .next (s.withBlk b) ∧
        b.reg (coreReg c 0x90) = b1.reg (coreReg c 0x90) + 1 ∧ (b.core c).ic.find (!tl.dev) (pa / 64) = some w ∧
        (b.core c).ic.way (pa / 64 % 256) w =
          { valid := true, host := !tl.dev, line := pa / 64, cr := tl.cr, age := 1, data := d } ∧
        { b.core c with ic := (b1.core c).ic } = b1.core c)

/-- The range operations on the caches (R330): l are the physical ranges of the bytes from ga to ga + gb − 1, b1 the block after
their translation. DCINV and ICINV drop every line that the range touches and keep the others; DCCLEAN writes back the dirty lines it
touches and keeps every line's data. -/
def Obligations.CacheRangeOperations : Prop :=
  ∀ (s : State) (c : Fin 8) (t : Fin 4), s.blk.slotBEnds c t →
    ∀ (ra rb : Greg) (b1 : Blk) (l : List (Bool × Nat × Nat)),
      s.blk.ranges c t (s.blk.taskCtx c t) (((s.blk.task c t).gr rb).toNat / 2 ^ 30 + 2) ((s.blk.task c t).gr ra).toNat
        ((s.blk.task c t).gr rb).toNat = (b1, .ok {}, l) →
      (((s.blk.task c t).gr rb) = 0 → l = [] ∧ b1 = s.blk) ∧
      (∃ s', exec (.dcinv ⟨c, t, .b⟩ ra rb) s = .next s' ∧ s'.pending = s.pending ∧
        { s'.blk with cores := b1.cores, regs := b1.regs } = b1 ∧
        (s'.blk.core c).dc.lines = (b1.core c).dc.lines.filter (fun e => !l.any (touches e.2)) ∧
        (s'.blk.core c).ic = (b1.core c).ic ∧ s'.blk.task c t = (b1.task c t).issued ((b1.task c t).pc + 16)) ∧
      (∃ s', exec (.icinv ⟨c, t, .b⟩ ra rb) s = .next s' ∧ s'.pending = s.pending ∧
        { s'.blk with cores := b1.cores, regs := b1.regs } = b1 ∧
        (s'.blk.core c).ic.lines = (b1.core c).ic.lines.filter (fun e => !l.any (touches e.2)) ∧
        (s'.blk.core c).dc = (b1.core c).dc ∧ s'.blk.task c t = (b1.task c t).issued ((b1.task c t).pc + 16)) ∧
      (∃ s', exec (.dcclean ⟨c, t, .b⟩ ra rb) s = .next s' ∧ s'.pending = s.pending ∧
        (∀ k, l.any (touches (Tab.get {} (b1.core c).dc.lines k)) = true →
          (Tab.get {} (s'.blk.core c).dc.lines k).valid = true → (Tab.get {} (s'.blk.core c).dc.lines k).dirty = false) ∧
        (∀ k, (Tab.get {} (s'.blk.core c).dc.lines k).data = (Tab.get {} (b1.core c).dc.lines k).data) ∧
        (s'.blk.core c).ic = (b1.core c).ic ∧ s'.blk.task c t = (b1.task c t).issued ((b1.task c t).pc + 16))

/-- Courier words (R331, R372, R373): SEND puts ga[31:0] into the packer, as the low half of a new entry or as the high half of the one
that waits; RECV takes the oldest word, and answers the not-valid tag where none waits and W = 0. -/
def Obligations.CourierWords : Prop :=
  ∀ (s : State) (c : Fin 8) (t : Fin 4), s.blk.slotBEnds c t →
    ∀ (k : Core) (x : Task), k = s.blk.core c → x = s.blk.task c t →
    (∀ (ra : Greg) (w : Bool), s.blk.qHeld 9 c c = false → k.couOut.length < 2048 →
      ∃ s', exec (.send ⟨c, t, .b⟩ ra w) s = .next s' ∧ s'.pending = s.pending ∧
        { s'.blk with cores := s.blk.cores, regs := s.blk.regs } = s.blk ∧
        (k.couHalf = none → (s'.blk.core c).couOut = k.couOut ∧
          (s'.blk.core c).couHalf = some ((x.gr ra).setWidth 32, x.cmd.getD 0, s.blk.time.toNat)) ∧
        (∀ lo m at_, k.couHalf = some (lo, m, at_) → (s'.blk.core c).couHalf = none ∧
          (s'.blk.core c).couOut = k.couOut ++ [(((x.gr ra).setWidth 32 : W32) ++ lo, 8)]) ∧
        (s'.blk.core c).couIn = k.couIn ∧ s'.blk.task c t = x.issued (x.pc + 16)) ∧
    (∀ (rd : Greg) (w : Bool) (v : W32) (l : List (Option W32)), s.blk.qHeld 10 c c = false → k.couIn = some v :: l →
      ∃ s', exec (.recv ⟨c, t, .b⟩ rd w) s = .next s' ∧ s'.pending = s.pending ∧ (s'.blk.core c).couIn = l ∧
        (s'.blk.core c).couOut = k.couOut ∧ { s'.blk with cores := s.blk.cores, regs := s.blk.regs } = s.blk ∧
        s'.blk.task c t = (x.setGr rd (v.setWidth 64)).issued (x.pc + 16)) ∧
    (∀ (rd : Greg), (k.couIn = [] ∨ ∃ l, k.couIn = none :: l) →
      ∃ s', exec (.recv ⟨c, t, .b⟩ rd false) s = .next s' ∧ s'.pending = s.pending ∧
        WroteG c t rd 0x8000000000000000 (x.pc + 16) s.blk s'.blk)

/-- Waits that are met, NOP, and the end of a program (R304, R306, R331, R376): NOP, an AWAIT whose anchor has reached its target and a
WAITD whose tags have ended move to the next word and do nothing else; HALT stops the task context, which takes no control transfer. -/
def Obligations.WaitsMetAndHalt : Prop :=
  ∀ (s : State) (c : Fin 8) (t : Fin 4), s.blk.slotBEnds c t →
    ∀ (x : Task), x = s.blk.task c t →
    (∃ s', exec (.nop ⟨c, t, .b⟩) s = .next s' ∧ s'.pending = s.pending ∧ WordFrame c t s.blk s'.blk ∧
      s'.blk.task c t = x.issued (x.pc + 16)) ∧
    (∀ (ra rb : Greg) (anc : BitVec 15),
      fld (x.gr ra) 0 48 ≤ s.blk.anchor ((fld (x.gr rb) 0 15 + anc.toNat) % 32768) →
      ∃ s', exec (.await ⟨c, t, .b⟩ ra rb anc) s = .next s' ∧ s'.pending = s.pending ∧ WordFrame c t s.blk s'.blk ∧
        s'.blk.task c t = x.issued (x.pc + 16)) ∧
    (∀ (mask : BitVec 16), (∀ n ∈ x.tags, mask.toNat.testBit n = false) →
      ∃ s', exec (.waitd ⟨c, t, .b⟩ mask) s = .next s' ∧ s'.pending = s.pending ∧ WordFrame c t s.blk s'.blk ∧
        s'.blk.task c t = x.issued (x.pc + 16)) ∧
    (∃ s', exec (.halt ⟨c, t, .b⟩) s = .next s' ∧ s'.pending = s.pending ∧ WordFrame c t s.blk s'.blk ∧
      s'.blk.task c t = { x.issued (x.pc + 16) with halted := true })

/-- An AWAIT whose anchor has not reached its target (R308, R331, R377): the word waits, the task context becomes WAITING and is
entered last in the list of waiters; the PC stays. -/
def Obligations.AwaitEntersTheWaiters : Prop :=
  ∀ (s : State) (c : Fin 8) (t : Fin 4), s.blk.slotBEnds c t →
    ∀ (ra rb : Greg) (anc : BitVec 15) (a tg : Nat), a = (fld ((s.blk.task c t).gr rb) 0 15 + anc.toNat) % 32768 →
      tg = fld ((s.blk.task c t).gr ra) 0 48 → s.blk.anchor a < tg → (a, tg) ∉ (s.blk.task c t).awok →
      ∃ s', exec (.await ⟨c, t, .b⟩ ra rb anc) s = .next s' ∧ s'.pending = s.pending ∧
        { s'.blk with cores := s.blk.cores, waiters := s.blk.waiters } = s.blk ∧
        s'.blk.waiters = s.blk.waiters ++ [{ anchor := a, target := tg, who := .task c t }] ∧
        (s'.blk.task c t).st = .waiting ∧ (s'.blk.task c t).pc = (s.blk.task c t).pc ∧
        (∀ r, (s'.blk.task c t).gr r = (s.blk.task c t).gr r) ∧ (s'.blk.task c t).waitAnc = some (a, tg)

/-- A word that holds a reserved opcode traps before any slot takes effect (R313): EPC receives the word's address, CAUSE the reason,
f3 is set and the PC receives CK_SEQ_EMU.VEC. -/
def Obligations.ReservedWordsTrap : Prop :=
  ∀ (s : State) (c : Fin 8) (t : Fin 4) (w : W128), s.blk.canIssue c t = true → wordCause w.toNat ≠ 0 →
    (s.blk.task c t).emu = false → s.blk.reg (coreReg c 0x10) ≠ 0 →
    ∃ s', exec (.reservedOp ⟨c, t⟩ w) s = .next s' ∧ s'.pending = s.pending ∧
      s'.blk.task c t = { s.blk.task c t with
        epc := (s.blk.task c t).pc, cause := BitVec.ofNat 64 (1 + wordCause w.toNat), emu := true,
        pc := s.blk.reg (coreReg c 0x10), slotA := none, word := none } ∧
      s'.blk.flag c t 3 = true ∧ (∀ u, u ≠ t.val → s'.blk.task c u = s.blk.task c u) ∧
      s'.blk.reg (coreReg c 0xB0) = s.blk.reg (coreReg c 0xB0) + 1 ∧ (∀ o, o ≠ coreReg c 0xB0 → s'.blk.reg o = s.blk.reg o) ∧
      { s'.blk with cores := s.blk.cores, regs := s.blk.regs } = s.blk

/-- The two slots of a paired word (R298): slot A waits for slot B and changes nothing else; then both slots' sources are read before
either slot writes, and where both write one register the value of slot B remains. -/
def Obligations.PairedWordReadsBeforeItWrites : Prop :=
  ∀ (s : State) (c : Fin 8) (t : Fin 4), s.blk.canIssue c t = true → (s.blk.task c t).word = none →
    ∀ (x : Task) (rd1 ra1 rb1 rd2 ra2 rb2 : Greg), x = s.blk.task c t →
    (∃ s', exec (.add ⟨c, t, .a⟩ rd1 ra1 rb1) s = .next s' ∧ { s'.blk with cores := s.blk.cores } = s.blk ∧
      (∀ d, d ≠ c.val → s'.blk.core d = s.blk.core d) ∧ (∀ u, u ≠ t.val → s'.blk.task c u = s.blk.task c u) ∧
      s'.blk.task c t = { x with slotA := some (.alu .add rd1 ra1 rb1) }) ∧
    (x.slotA = some (.alu .add rd1 ra1 rb1) →
      ∃ s', exec (.sub ⟨c, t, .b⟩ rd2 ra2 rb2) s = .next s' ∧ WordFrame c t s.blk s'.blk ∧
        s'.blk.task c t = ((x.setGr rd1 (x.gr ra1 + x.gr rb1)).setGr rd2 (x.gr ra2 - x.gr rb2)).issued (x.pc + 16))

/-- Task switches (R308, R196, R198): TASK_SWITCH_IN runs the next READY task context in round-robin order on an idle sequencer;
GX_SWITCH_OUT makes a task context that has waited GXWAIT for an element WAITING and runs the next READY one; GX_MODE_CHANGE lets GXACT
follow GX while no task context of the core holds a command, and only then. -/
def Obligations.TaskSwitches : Prop :=
  ∀ (s : State) (c : Fin 8) (k : Core), k = s.blk.core c →
    (∀ t, s.blk.seqIssues c = true → k.idle = true → k.nextReady (fun t => !s.blk.dbgHalted c || k.stepOne = some t) = some t →
      (k.task t).word = none → (k.task t).prog = true →
      ∃ s', exec (.taskSwitchIn c) s = .next s' ∧ s'.pending = s.pending ∧
        s'.blk.task c t = { k.task t with st := .running, waitFrom := none } ∧
        (∀ u, u ≠ t → s'.blk.task c u = k.task u) ∧ (s'.blk.core c).last = t ∧
        s'.blk.reg (coreReg c 0x88) = s.blk.reg (coreReg c 0x88) + 1 ∧
        { s'.blk with cores := s.blk.cores, regs := s.blk.regs } = s.blk) ∧
    (∀ t u f, (List.range 4).find? (fun t => (k.task t).st = .running) = some t → (k.task t).waitFrom = some f →
      s.blk.issues = true → s.blk.coreUp c = true → s.blk.rb (coreReg c 0x700) 1 = true →
      f + max 16 (s.blk.rf (coreReg c 0x700) 16 32) ≤ s.blk.time.toNat → k.nextReady (fun _ => true) = some u →
      (k.task u).word = none → (k.task u).prog = true →
      ∃ s', exec (.gxSwitchOut c) s = .next s' ∧ s'.pending = s.pending ∧
        s'.blk.task c t = { k.task t with st := .waiting, waitFrom := none } ∧
        s'.blk.task c u = { k.task u with st := .running, waitFrom := none } ∧
        (∀ v, v ≠ t → v ≠ u → s'.blk.task c v = k.task v) ∧
        s'.blk.reg (coreReg c 0x758) = s.blk.reg (coreReg c 0x758) + 1) ∧
    (s.blk.coreLive c = true →
      ∃ s', exec (.gxModeChange c) s = .next s' ∧ s'.pending = s.pending ∧
        ((∀ t, t < 4 → (k.task t).st = .free) → s'.blk.rb (coreReg c 0x700) 1 = s.blk.rb (coreReg c 0x700) 0) ∧
        ((∃ t, t < 4 ∧ (k.task t).st ≠ .free) → s'.blk = s.blk) ∧
        (∀ o, o ≠ coreReg c 0x700 → s'.blk.reg o = s.blk.reg o) ∧ { s'.blk with regs := s.blk.regs } = s.blk)

/-- CK_SEQ_CTRL (R314, R315): IINV and DINV empty a cache, which stays busy until SEQ_CACHE_INVAL_DONE, while no task context of the
core holds a command; EN rises on a cache that is clean since its last invalidate, and is refused with ENERR otherwise. -/
def Obligations.SequencerCacheControl : Prop :=
  ∀ (s : State) (c : Fin 8) (k : Core) (v : W64), k = s.blk.core c →
    (s.blk.regOpen (coreReg c 0) = true →
      (bit v 0 = s.blk.rb (coreReg c 0) 0 → bit v 1 = s.blk.rb (coreReg c 0) 1 → bit v 2 = true → bit v 3 = false → k.holds = false →
        ∃ s', exec (.iinv c .full v) s = .next s' ∧ s'.pending = s.pending ∧ (s'.blk.core c).ic = { k.ic with busy := true, lines := [] } ∧
          (s'.blk.core c).dc = k.dc ∧ { s'.blk with cores := s.blk.cores } = s.blk) ∧
      (bit v 0 = s.blk.rb (coreReg c 0) 0 → bit v 1 = s.blk.rb (coreReg c 0) 1 → bit v 2 = false → bit v 3 = true → k.holds = false →
        ∃ s', exec (.dinv c .full v) s = .next s' ∧ s'.pending = s.pending ∧ (s'.blk.core c).dc = { k.dc with busy := true, lines := [] } ∧
          (s'.blk.core c).ic = k.ic ∧ { s'.blk with cores := s.blk.cores } = s.blk) ∧
      (bit v 0 = true → s.blk.rb (coreReg c 0) 0 = false → bit v 1 = s.blk.rb (coreReg c 0) 1 → bit v 2 = false → bit v 3 = false →
        (k.ic.clean = true → k.ic.busy = false →
          ∃ s', exec (.seqCacheEnable c .full v) s = .next s' ∧ s'.pending = s.pending ∧
            s'.blk.reg (coreReg c 0) = putFld (s.blk.reg (coreReg c 0)) 0 1 1 ∧
            (∀ o, o ≠ coreReg c 0 → s'.blk.reg o = s.blk.reg o) ∧ { s'.blk with regs := s.blk.regs } = s.blk) ∧
        (k.ic.clean = false ∨ k.ic.busy = true →
          ∃ s', exec (.seqCacheEnable c .full v) s = .next s' ∧ s'.blk.rb (coreReg c 8) 3 = true ∧
            s'.blk.reg (coreReg c 0) = s.blk.reg (coreReg c 0) ∧ { s'.blk with regs := s.blk.regs } = s.blk))) ∧
    (s.blk.live = true → s.blk.coreOk c = true →
      ∃ s', exec (.seqCacheInvalDone c) s = .next s' ∧ s'.pending = s.pending ∧
        (k.ic.busy = true → (s'.blk.core c).ic = { clean := true, busy := false, lines := [] }) ∧
        (k.ic.busy = false → (s'.blk.core c).ic = k.ic) ∧
        (k.dc.busy = true → (s'.blk.core c).dc = { clean := true, busy := false, lines := [] }) ∧
        (k.dc.busy = false → (s'.blk.core c).dc = k.dc) ∧
        { s'.blk with cores := s.blk.cores } = s.blk ∧ (∀ d, d ≠ c.val → s'.blk.core d = s.blk.core d))

/-- Sector reads of a stream (R52, R97, R408): a returned block that holds an index, a weight or a boundary entry that the pass needs next is
kept (with its poison, and marked where its page is confidential), and the pass goes on from it. b1 is the block after the translation of the read. -/
def Obligations.StreamSectorsAreKept : Prop :=
  ∀ (s : State) (c : Fin 8) (q : Fin 20) (k : Nat) (r : Resp) (rd : View) (x : SQ), x = s.blk.sq c q → s.blk.reads c q = true →
    ∀ (b1 : Blk) (a : Rd) (d : Resp), (∀ l, a = .bytes l → d = .data (sectOf l)) → (a = .poison → d = .poison) →
      ((∃ l, a = .bytes l) ∨ a = .poison) →
    (x.inl = none → (∃ o ∈ x.window, sdIdxAddr x.sd o / 64 = k) → x.sec 0 k = none →
      s.blk.vread (.idx c q k) x.ctx { blocks := [(k, r)] } (64 * k) 64 = (b1, a) →
      exec (.indexSectorReturn c q .index k r rd) s =
        .next (s.withBlk ((b1.updSq c q (fun y => { y with
          secs := (0, k, d) :: y.secs
          csec := if b1.confAt (.idx c q k) x.ctx (64 * k) then (0, k) :: y.csec else y.csec })).pass c q rd))) ∧
    (x.wread = true → x.winl = none → (∃ o ∈ x.window, (sdWbase x.sd + wsize (sdWfmt x.sd) * o) / 64 = k) → x.sec 1 k = none →
      s.blk.vread (.wgt c q k) x.ctx { blocks := [(k, r)] } (64 * k) 64 = (b1, a) →
      exec (.indexSectorReturn c q .weight k r rd) s =
        .next (s.withBlk ((b1.updSq c q (fun y => { y with
          secs := (1, k, d) :: y.secs
          csec := if b1.confAt (.wgt c q k) x.ctx (64 * k) then (1, k) :: y.csec else y.csec })).pass c q rd))) ∧
    (x.cons ≠ .none → x.binl = none → (pdBbase x.cons.d + pdBw x.cons.d * x.entries) / 64 ≤ k →
      64 * k < pdBbase x.cons.d + pdBw x.cons.d * x.nent → x.sec 2 k = none →
      s.blk.vread (.bnd c q k) x.ctx { blocks := [(k, r)] } (64 * k) 64 = (b1, a) →
      exec (.boundarySectorReturn c q k r) s =
        .next (s.withBlk ((b1.updSq c q (fun y => { y with
          secs := (2, k, d) :: y.secs
          csec := if b1.confAt (.bnd c q k) x.ctx (64 * k) then (2, k) :: y.csec else y.csec })).pass c q { blocks := [] })))

/-- ROW_REQUEST_ISSUE (R20, R21, R54, R59, R60): the next ready queue in turn after the last one issues its next element, which is
outstanding from then on, and no other command whose requests the core has begun has some left; b1 is the block after every pass has resolved what it can. -/
def Obligations.NextReadyQueueIssues : Prop :=
  ∀ (s : State) (c : Fin 8) (b1 : Blk) (q : Nat) (x : Elem), s.blk.unitIssues c = true →
    b1 = iter 20 (fun q b => if (b.sq c q).st = .active && !(b.sq c q).ended then b.pass c q { blocks := [] } else b) s.blk →
    (List.range 4).find? (fun t => b1.canBurst c (16 + t)) = none →
    ((List.range 16).map (fun i => ((b1.core c).rr + 1 + i) % 16)).find? (fun q => b1.canIssueElem c q) = some q →
    (b1.sq c q).head = some x →
    ∃ b2 : Blk, exec (.rowRequestIssue c) s = .next (s.withBlk (((b2.readElem c q x).drain c q).flushBatches c q)) ∧
      (b2.core c).rr = q ∧ x ∈ (b2.sq c q).flight ∧ (b1.core c).turn (b1.sq c q).owner = true ∧
      (∀ y ∈ (b2.sq c q).redo ++ (b2.sq c q).buf, y.ord ≠ x.ord) ∧
      (b2.core c).trk = (b1.core c).trk ∧ b2.dev = b1.dev ∧ b2.host = b1.host ∧ b2.regs = b1.regs

/-- ROW_CACHE_LOOKUP (R73, R76, R79): a hit gives the piece its bytes, makes the line youngest and counts; a miss starts a fill of the
sectors that the piece needs, with the data that memory holds, and the piece waits for it. -/
def Obligations.RowCacheLookups : Prop :=
  ∀ (s : State) (c : Fin 8) (i line : Nat) (t : TSlot) (p : Piece) (x : SQ), s.blk.coreLive c = true →
    (s.blk.core c).trk.find? (fun t => t.id == i) = some t → t.consulted = true → x = s.blk.sq c t.q →
    s.blk.tieredSlot x t = false →
    t.pieces.find? (fun p => p.pa / 128 = line && p.byte.isNone && p.fill.isNone && !p.looked) = some p →
    s.blk.looksUp x t p = true → x.streamfill = false →
    (∀ (w : Nat) (l : RcLine), s.blk.rcFind line = some w → l = s.blk.rcWay line w →
      ((needs p.pa p.len).1 = true → l.v0 = true) → ((needs p.pa p.len).2 = true → l.v1 = true) →
      ∃ s', exec (.rowCacheLookup c i line .none) s = .next s' ∧ s'.pending = s.pending ∧
        (s'.blk.core c).trk.find? (fun t => t.id == i) = some { t with pieces := t.pieces.map (fun y => if y = p then
          { y with byte := some (((lineBytes l.s0 l.s1).drop (p.pa % 128)).take p.len) } else y) } ∧
        s'.blk.rcWay line w = { l with age := 0 } ∧ s'.blk.reg 0x50100 = s.blk.reg 0x50100 + 1 ∧
        (∀ o, o ≠ 0x50100 → s'.blk.reg o = s.blk.reg o) ∧ s'.blk.dev = s.blk.dev ∧ s'.blk.rc.fills = s.blk.rc.fills) ∧
    (s.blk.rcFind line = none → (∀ v ∈ s.blk.rc.vict, v.l.line ≠ line) → (∀ f ∈ s.blk.rc.fills, f.line ≠ line) →
      s.blk.fillsIn line < 512 → s.blk.pieceShut c t.q p = false →
      ∃ s' f, exec (.rowCacheLookup c i line .none) s = .next s' ∧ s'.pending = s.pending ∧
        s'.blk.rc.fills = s.blk.rc.fills ++ [f] ∧ f.id = s.blk.rc.nextFill ∧ f.line = line ∧ f.cr = p.cr ∧
        (f.f0, f.f1) = needs p.pa p.len ∧ f.s0 = s.blk.sectorAt p.cr (2 * line) ∧ f.s1 = s.blk.sectorAt p.cr (2 * line + 1) ∧
        (s'.blk.core c).trk.find? (fun t => t.id == i) = some { t with pieces := t.pieces.map (fun y => if y = p then
          { y with fill := some f.id } else y) } ∧
        s'.blk.reg 0x50108 = s.blk.reg 0x50108 + 1 ∧ s'.blk.rc.lines = s.blk.rc.lines ∧ s'.blk.dev = s.blk.dev)

/-- FILL_RETURN (R79, R83): the waiting pieces get the bytes of the fill, and the line is installed in an invalid enabled way with the
sectors that were fetched, age 1 (age 3 for a streaming read); the other ways of the cache are as before. -/
def Obligations.FillsInstallLines : Prop :=
  ∀ (s : State) (n w : Nat) (f : Fill), s.blk.live = true → s.blk.rc.fills.find? (fun f => f.id = n) = some f →
    f.install = true → f.overW = false → (f.f0 = true → 2 * f.line ∉ s.blk.bad) → (f.f1 = true → 2 * f.line + 1 ∉ s.blk.bad) →
    s.blk.rcOn = true → s.blk.rcFind f.line = none →
    ((List.range 16).filter (fun w => !s.blk.wayOff f.line w)).find? (fun w => !(s.blk.rcWay f.line w).valid) = some w →
    ∃ s', exec (.fillReturn n false) s = .next s' ∧ s'.pending = s.pending ∧
      s'.blk.rc.fills = s.blk.rc.fills.filter (fun g => g.id ≠ n) ∧
      s'.blk.rcWay f.line w = { line := f.line, v0 := f.f0, v1 := f.f1, age := if f.stream then 3 else 1, s0 := f.s0, s1 := f.s1 } ∧
      (∀ k, k ≠ s.blk.rcKey f.line w → Tab.get {} s'.blk.rc.lines k = Tab.get {} s.blk.rc.lines k) ∧
      (∀ c t, t ∈ (s.blk.core c).trk → ∃ u ∈ (s'.blk.core c).trk, u = { t with pieces := t.pieces.map (fun p => if p.fill = some n then
        { p with fill := none, bad := p.bad ++ [], byte := some (((lineBytes f.s0 f.s1).drop (p.pa % 128)).take p.len) } else p) }) ∧
      s'.blk.dev = s.blk.dev ∧ s'.blk.bad = s.blk.bad

/-- CK_RC_CTRL and CK_RC_WAYDIS (R78, R85, R86, R89, R90): INVAL starts the sweep, whose end leaves every line and counter of the sketch
cleared and the cache CLEAN; EN rises on a clean cache alone; CLRCNT clears the counters; a disabled way loses its lines; the sketch is
halved. -/
def Obligations.RowCacheControl : Prop :=
  ∀ (s : State) (v : W64), (s.blk.regOpen 0x50000 = true →
      (bit v 1 = true → bit v 2 = false → bit v 0 = s.blk.rb 0x50000 0 →
        ∃ s', exec (.inval .full v) s = .next s' ∧ s'.pending = s.pending ∧ s'.blk.rc = { s.blk.rc with inv := true } ∧
          s'.blk.rf 0x50000 4 4 = fld v 4 4 ∧ s'.blk.rf 0x50000 8 5 = fld v 8 5 ∧
          (∀ o, o ≠ 0x50000 → s'.blk.reg o = s.blk.reg o) ∧ { s'.blk with rc := s.blk.rc, regs := s.blk.regs } = s.blk) ∧
      (bit v 0 = true → bit v 1 = false → bit v 2 = false → s.blk.rb 0x50000 0 = false →
        (s.blk.rc.clean = true → s.blk.rc.inv = false →
          ∃ s', exec (.rcEnWrite .full v) s = .next s' ∧ s'.pending = s.pending ∧ s'.blk.rb 0x50000 0 = true ∧ s'.blk.rc = s.blk.rc ∧
            (∀ o, o ≠ 0x50000 → s'.blk.reg o = s.blk.reg o)) ∧
        (s.blk.rc.clean = false ∨ s.blk.rc.inv = true →
          ∃ s', exec (.rcEnWrite .full v) s = .next s' ∧ s'.blk.rb 0x50000 0 = false ∧ s'.blk.rc = s.blk.rc ∧
            s'.blk.rb 0x50008 3 = true)) ∧
      (bit v 2 = true → bit v 1 = false → bit v 0 = s.blk.rb 0x50000 0 →
        ∃ s', exec (.clrcnt .full v) s = .next s' ∧ s'.pending = s.pending ∧ (∀ k, k < 12 → s'.blk.reg (0x50100 + 8 * k) = 0) ∧
          s'.blk.rc = s.blk.rc)) ∧
    (s.blk.live = true →
      (s.blk.rc.inv = true → ∃ s', exec .rcInvalDone s = .next s' ∧ s'.blk.rc = { s.blk.rc with
        inv := false, clean := true, lines := [], vict := [], sketch := [], incs := 0 } ∧ { s'.blk with rc := s.blk.rc } = s.blk) ∧
      (s.blk.rc.halving = false → 2 ^ s.blk.agep ≤ s.blk.rc.incs → ∃ s', exec .sketchHalving s = .next s' ∧
        s'.blk.rc = { s.blk.rc with halving := true, incs := 0 } ∧ { s'.blk with rc := s.blk.rc } = s.blk) ∧
      (s.blk.rc.halving = true → ∃ s', exec .sketchHalvingDone s = .next s' ∧ s'.blk.rc.halving = false ∧
        (∀ e, e ∈ s'.blk.rc.sketch ↔ e.2 ≠ 0 ∧ ∃ n, (e.1, n) ∈ s.blk.rc.sketch ∧ e.2 = n / 2) ∧ { s'.blk with rc := s.blk.rc } = s.blk) ∧
      (∀ (sl : Fin 16), ∃ s', exec (.waydisInvalDone sl) s = .next s' ∧ { s'.blk with rc := s.blk.rc } = s.blk ∧
        (∀ e ∈ s'.blk.rc.lines, ¬ (e.1 / 65536 = sl.val ∧ 16 * sl.val + e.1 % 16 ∈ s.blk.rc.dying)) ∧
        (∀ e ∈ s.blk.rc.lines, e.1 / 65536 ≠ sl.val → e ∈ s'.blk.rc.lines) ∧
        (∀ w ∈ s'.blk.rc.dying, w / 16 ≠ sl.val))) ∧
    (∀ (sl : Fin 16), s.blk.regOpen (0x50040 + 8 * sl) = true →
      ∃ s', exec (.waydisWrite sl .full v) s = .next s' ∧ s'.pending = s.pending ∧ s'.blk.rf (0x50040 + 8 * sl) 0 16 = fld v 0 16 ∧
        (∀ w, w < 16 → bit v w = true → s.blk.rb (0x50040 + 8 * sl) w = false → 16 * sl.val + w ∈ s'.blk.rc.dying) ∧
        s'.blk.rc.lines = s.blk.rc.lines)

/-- Rows that return (R42, R59, R112, R417, R423): ROW_RETURN frees its tracker slot (in a fetch-ahead build once the consumer accepts the row), counts the row and gives its bytes to the element it
serves; a replica record that is not current waits and is read again after 64 T-ticks, or is used once WAITMAX has passed; a batch of
pushed-down elements is sent 64 T-ticks after its first element; the acknowledgement of a bag's output write settles the bag. -/
def Obligations.RowsReachTheirElements : Prop :=
  ∀ (s : State) (c : Fin 8) (i : Nat) (t : TSlot) (x : SQ) (rd : View) (l : List Byte) (bad : List Bool),
    s.blk.coreLive c = true → (s.blk.core c).trk.find? (fun t => t.id == i) = some t → x = s.blk.sq c t.q → t.late = false →
    t.plane = none → t.got = false →
    (t.kind = .row → t.stale = false → t.faulted = false → t.consulted = true →
      (∀ p ∈ t.pieces, pieceRefused rd p = false) → (∀ p ∈ t.pieces, p.hold = false) →
      s.blk.slotBytes x t rd = some (l, bad) →
      ∃ b : Blk, exec (.rowReturn c i rd .none) s = .next (s.withBlk (b.drainParts 512 c t.q)) ∧
        b = (s.blk.rowGot c t).slotParts c t l bad ∧ (t.camp = none →
        (s.blk.build.overlap = true → ∀ u ∈ (b.core c).trk, u.id ≠ i) ∧
        (s.blk.build.overlap = false → (b.core c).trk.find? (fun t => t.id == i) = some { t with got := true, pieces := [] }) ∧ (∀ u ∈ (s.blk.core c).trk, u.id ≠ i → u ∈ (b.core c).trk) ∧
        (t.ord, t.half, 0, l.take x.tab.rowBytes) ∈ (b.sq c t.q).parts ∧
        ((t.ord, t.half) ∈ (b.sq c t.q).pbad ↔ (t.ord, t.half) ∈ x.pbad ∨ true ∈ bad) ∧
        (∀ m, s.blk.cmd x.owner = some m → b.cmd x.owner = some { m with rows := m.rows + 1 }) ∧
        b.dev = s.blk.dev ∧ b.host = s.blk.host)) ∧
    (t.stale = true → t.last + 64 ≤ s.blk.time.toNat →
      ∃ b : Blk, exec (.replicaReread c i rd) s = .next (s.withBlk (b.rowReturn c i rd .none)) ∧
        (b.core c).trk.find? (fun t => t.id == i) = some { t with stale := false, pieces := t.pieces.map (fun p => { p with byte := none, looked := false }) } ∧
        b.reg 0x70218 = s.blk.reg 0x70218 + (if t.rereads = 1 then 1 else 0)) ∧
    (t.stale = true → t.camp = none → t.first + fld (qw x.tab.smd 6) 0 32 ≤ s.blk.time.toNat → s.blk.slotBytes x t { blocks := [] } = some (l, bad) →
      ∃ b : Blk, exec (.replicaWaitmax c i) s = .next (s.withBlk (b.drainParts 512 c t.q)) ∧
        (s.blk.build.overlap = true → ∀ u ∈ (b.core c).trk, u.id ≠ i) ∧ (t.ord, t.half, 0, l.take x.tab.rowBytes) ∈ (b.sq c t.q).parts ∧
        b.reg 0x70210 = s.blk.reg 0x70210 + 1 ∧
        (∀ m, s.blk.cmd x.owner = some m → b.cmd x.owner = some { m.flag 8 with rows := m.rows + 1 })) ∧
    (∀ (q : Fin 20) (node : BitVec 16) (y : Batch), (s.blk.sq c q).batches.find? (fun x => x.node = node.toNat) = some y →
      s.blk.unitIssues c = true → y.first + 64 ≤ s.blk.time.toNat →
      exec (.rpoolBatchTimer c q node) s = .next (s.withBlk (s.blk.sendBatch c q node.toNat))) ∧
    (∀ (q : Fin 20) (k : Nat) (o : OutW), (s.blk.sq c q).out.find? (fun o => o.bag = k) = some o →
      (s.blk.sq c q).cons.tb = none → o.issued = true → s.blk.passed o.ids = true →
      ∃ b : Blk, exec (.bagOutputAck c q k) s = .next (s.withBlk (((b.updSq c q (fun x => x.settle k)).passCheck c q).finishPass c q)) ∧
        b.host = (s.blk.hostParts o.hosts).host ∧ b.dev = s.blk.dev ∧
        b.sq c q = { s.blk.sq c q with out := (s.blk.sq c q).out.filter (fun x => x.bag ≠ k) })

/-- Streams and their consumers (R57, R68, R95, R221, R304): GATHER binds its descriptor to a FREE or ARMED_IDLE queue, whose pass 1
starts; REARM starts the next pass of an idle queue, releases it, or fills the shadow slot of a busy one; POOL and SCAT bind themselves
to a pass. The tag of GATHER, POOL and SCAT is written to the register that the word names. -/
def Obligations.StreamOperationsIssue : Prop :=
  ∀ (s : State) (c : Fin 8) (t : Fin 4) (rd ra rb : Greg) (imm : W64) (v : View),
    (∀ (m : Cmd) (tag : Nat) (d : List W64) (b1 : Blk), LongReady s.blk c t ra imm v m tag d b1 →
      (∀ (b2 : Blk) (tab : TableCopy), b1.sdCheck m v d false = (b2, .ok tab) →
        ((b2.sq c (sdQueue d)).st = .free ∨ (b2.sq c (sdQueue d)).st = .armedIdle) → b2.qHeld 2 c (sdQueue d) = false →
        ∃ b3 b4 : Blk, exec (.gather ⟨c, t⟩ rd ra imm v) s = .next (s.withBlk b4) ∧ LongIssued c t rd tag (b3.consStart c (sdQueue d)) b4 ∧
          b3.sq c (sdQueue d) = { st := .active, cmd := m.id, task := t, tag := some tag, ctx := m.ctx, sd := d, tab := tab, pass := 1,
                                  cons := (b2.sq c (sdQueue d)).nextCons } ∧
          (∀ r, r ≠ sdQueue d → b3.sq c r = b2.sq c r) ∧ { b3 with cores := b2.cores } = b2) ∧
      (∀ b2 : Blk, b1.pdCheck c d = none → b1.bindCons c (pdQueue d) (.pool d m.id t (some tag)) = (b2, true) →
        ∃ b4 : Blk, exec (.pool ⟨c, t⟩ rd ra imm v) s = .next (s.withBlk b4) ∧ LongIssued c t rd tag b2 b4) ∧
      (∀ (b2 b3 : Blk) (opb : List W64), b1.scCheck m c v d = (b2, .ok opb) →
        b2.bindCons c (pdQueue d) (.scat d m.id t (some tag)) = (b3, true) →
        ∃ b4 : Blk, exec (.scat ⟨c, t⟩ rd ra imm v) s = .next (s.withBlk b4) ∧
          LongIssued c t rd tag (b3.updSq c (pdQueue d) (fun y => { y with tab := { y.tab with opb := opb } })) b4)) ∧
    (∀ (q : Fin 16) (x : SQ), s.blk.canLong c t = true → x = (s.blk.cleanAll c).sq c q →
      sdBaseBad ((x.sd.set 1 ((s.blk.task c t).gr ra)).set 2 ((s.blk.task c t).gr rb)) = false → x.st = (s.blk.sq c q).st →
      x.shadow = (s.blk.sq c q).shadow → x.sd = (s.blk.sq c q).sd →
      (x.st = .armedIdle → exec (.rearm ⟨c, t⟩ ra rb q false) s = .next (s.withBlk
        ((((s.blk.cleanAll c).updSq c q (fun y => y.rearm ((s.blk.task c t).gr ra) ((s.blk.task c t).gr rb))).consStart c q).plainDone c t))) ∧
      (x.st = .armedIdle → exec (.rearm ⟨c, t⟩ 0 0 q true) s = .next (s.withBlk
        (((s.blk.cleanAll c).updSq c q (fun y => { passFlag := y.passFlag, pass := y.pass, nextCons := y.nextCons })).plainDone c t))) ∧
      (x.st = .active → x.shadow = none → ∀ m, s.blk.taskCmd c t = some m →
        ∃ b3 b4 : Blk, exec (.rearm ⟨c, t⟩ ra rb q false) s = .next (s.withBlk (b4.plainDone c t)) ∧
          b3.sq c q = { x with shadow := some { release := false, ibase := (s.blk.task c t).gr ra, wbase := (s.blk.task c t).gr rb } } ∧
          b4 = b3.updCmd m.id (fun y => y.flag 7)))

/-- The other engine operations (R122, R137, R164, R232, R266): MATX enters the instruction queue, EXPAND loads or releases the plan,
CHAIN enters the chain's list and asks for its tile locks, FENCE begins a fence in WAIT, MIGR begins a copy or an advice. The tag of each
but EXPAND is written to the register that the word names. -/
def Obligations.EngineOperationsIssue : Prop :=
  ∀ (s : State) (c : Fin 8) (t : Fin 4) (rd ra : Greg) (imm : W64) (v : View),
    (∀ (m : Cmd) (tag : Nat) (d : List W64) (b1 : Blk), LongReady s.blk c t ra imm v m tag d b1 →
      (b1.build.arrays = true → adBad d = none → (b1.core c).iqUsed < 16 → b1.qHeld 4 c 0 = false →
        ∃ (b2 b3 : Blk) (a : AInstr), exec (.matx ⟨c, t⟩ rd ra imm v) s = .next (s.withBlk b3) ∧ LongIssued c t rd tag b2 b3 ∧
          (b2.core c).iq = (b1.core c).iq ++ [a] ∧ a.kind = .matx ∧ a.ad = d ∧ a.tag = some tag ∧ a.cmd = m.id ∧ a.task = t ∧
          a.issued = false ∧ { b2 with cores := b1.cores } = b1) ∧
      (∀ (b2 : Blk) (y : List (List W64) × List TableCopy), b1.fenceCheck m v d = (b2, .ok y) →
        ∃ (b3 b4 : Blk) (f : Fence), exec (.fence ⟨c, t⟩ rd ra imm v) s = .next (s.withBlk b4) ∧ LongIssued c t rd tag b3 b4 ∧
          f.phase = .wait ∧ f.cmd = m.id ∧ f.tag = some tag ∧ f.fd = d ∧ f.list = y.1 ∧ f.tabs = y.2 ∧ f.id = b2.nextFence ∧
          (fdForce d = true ∨ fdNsend d = 0 → b3.fences = b2.fences ++ [f]) ∧ b3.nextFence = b2.nextFence + 1) ∧
      (cpBad d = none → exec (.migr ⟨c, t⟩ rd ra imm false v) s =
        .next (s.withBlk ((b1.longDone c t rd tag).copyNew m c t (some tag) d))) ∧
      (∀ (b2 : Blk) (tab : TableCopy), b1.avCheck m v d = (b2, .ok tab) → exec (.migr ⟨c, t⟩ rd ra imm true v) s =
        .next (s.withBlk ((b2.longDone c t rd tag).adviseNew m c t (some tag) d tab))) ∧
      LongIssued c t rd tag b1 (b1.longDone c t rd tag)) ∧
    (∀ (m : Cmd) (tag va : Nat) (b1 : Blk) (d : List W64) (us : List QsdUse), s.blk.canLong c t = true →
      (∀ o ∈ (s.blk.core c).ch, o.task = t → o.running = true) → s.blk.taskCmd c t = some m →
      (s.blk.task c t).freeTag = some tag → va = (((s.blk.cleanAll c).task c t).gr ra + imm).toNat → va < 2 ^ 57 → va % 64 = 0 →
      (s.blk.cleanAll c).chainCheck m v va = (b1, .ok (d, us)) →
      ∃ (b2 b3 : Blk) (o : ChainOp), exec (.chain ⟨c, t⟩ rd ra imm v) s = .next (s.withBlk b3) ∧
        LongIssued c t rd tag (b2.chainLocks c o) b3 ∧ (b2.core c).ch = (b1.core c).ch ++ [o] ∧ o.vd = d ∧ o.qs = us ∧ o.tag = tag ∧
        o.cmd = m.id ∧ o.task = t ∧ o.running = false ∧ (b2.task c t).sPend = (b1.task c t).sPend ++ vdSums d) ∧
    (∀ (m : Cmd), s.blk.canLong c t = true → s.blk.taskCmd c t = some m → s.blk.build.arrays = true →
      (∀ p, (s.blk.core c).plan = some p → p.1 = t) →
      (((s.blk.task c t).gr ra + imm) = 0 → ∃ b2 : Blk, exec (.expand ⟨c, t⟩ ra imm v) s = .next (s.withBlk (b2.plainDone c t)) ∧
        (b2.core c).plan = none ∧ (b2.core c).planTabs = []) ∧
      (∀ (va : Nat) (b1 b2 : Blk) (xp : List W64) (ts : List TableCopy), va = ((s.blk.task c t).gr ra + imm).toNat → va ≠ 0 →
        va < 2 ^ 57 → va % 64 = 0 → (s.blk.cleanAll c).desc (.desc m.id) m.ctx v va = (b1, .ok xp) → xpBad xp = none →
        Blk.xpTabs m.id v xp (xpTables xp) b1 = (b2, .ok ts) →
        ∃ b3 : Blk, exec (.expand ⟨c, t⟩ ra imm v) s = .next (s.withBlk (b3.plainDone c t)) ∧ (b3.core c).plan = some (t.val, xp) ∧
          (b3.core c).planTabs = ts))

/-- Signals (R190, R337, R376): ASIG takes its anchor, operation and value with the writes issued before it; once those are acknowledged
the signal takes effect at the anchor, added or set modulo 2^48, and its tag ends. No other anchor changes. -/
def Obligations.SignalsTakeEffectAtAnchors : Prop :=
  ∀ (s : State) (c : Fin 8) (t : Fin 4),
    (∀ (rd ra rb rc : Greg) (anc : BitVec 15) (op : BitVec 2) (rmt : Bool) (imm : W64) (m : Cmd) (tag : Nat) (x : Task),
      s.blk.canLong c t = true → op.toNat < 2 → (rmt = false → rc = 0) → s.blk.taskCmd c t = some m →
      (s.blk.task c t).freeTag = some tag → x = (s.blk.cleanAll c).task c t →
      ∃ (b2 b3 : Blk) (a : ASig), exec (.asig ⟨c, t⟩ rd ra rb rc anc op rmt imm) s = .next (s.withBlk b3) ∧ LongIssued c t rd tag b2 b3 ∧
        (b2.task c t) = { x with asigs := x.asigs ++ [a] } ∧ a.tag = tag ∧ a.anchor = (fld (x.gr rb) 0 15 + anc.toNat) % 32768 ∧
        a.isSet = (op == 1) ∧ a.value = fld (x.gr ra + imm) 0 48 ∧ a.node = (if rmt then some (fld (x.gr rc) 0 16) else none) ∧
        a.after = (s.blk.cleanAll c).nextWr ∧ { b2 with cores := (s.blk.cleanAll c).cores } = s.blk.cleanAll c) ∧
    (∀ (tag : Fin 16) (m : Cmd) (a : ASig), (s.blk.task c t).asigs.find? (fun a => a.tag = tag.val) = some a →
      s.blk.taskCmd c t = some m → s.blk.coreLive c = true → a.sent = false → m.ending = false → s.blk.asigFree c m.id a = true →
      (a.node = none ∨ a.node = some s.blk.node) →
      ∃ b2 : Blk, exec (.asigEffect ⟨c, t⟩ tag false) s = .next (s.withBlk (b2.endTag c t (some tag.val))) ∧
        b2.anchor a.anchor = (if a.isSet then a.value else s.blk.anchor a.anchor + a.value) % 2 ^ 48 ∧
        (∀ k, k ≠ a.anchor → b2.anchor k = s.blk.anchor k) ∧ b2.dev = s.blk.dev ∧ b2.host = s.blk.host)

/-- Routines of lookup cores (R182, R191, R218, R266, R346, R347, R348): once the parameter block and its descriptors have been read and
checked, NOP, RUN, INTERACT, BACK_INTERACT, FENCE, COPY and ADVISE begin, LOOKUP_POOL and SCATTER start their pairs; a routine that has
not begun at its deadline ends its command there. -/
def Obligations.HostRoutinesBegin : Prop :=
  ∀ (s : State) (id c t : Nat) (m : Cmd) (rd : View),
    (RoutineReady s.blk id 0x01 m c t → exec (.nopCommand id) s = .next (s.withBlk (s.blk.begun id))) ∧
    (RoutineReady s.blk id 0x02 m c t →
      exec (.run id) s = .next (s.withBlk ((s.blk.begun id).updTask c t (fun x => { x with prog := true })))) ∧
    (∀ (b1 : Blk) (d : List W64), s.blk.oneDesc m rd = (b1, .ok d) →
      (RoutineReady s.blk id 0x11 m c t → ixBad d = none → b1.build.arrays = true →
        exec (.interact id rd) s = .next (s.withBlk (b1.updCmd id (fun x => { x with ixd := d, unitN := ixN d, begun := true })))) ∧
      (∀ (b2 : Blk) (x : List W64), RoutineReady s.blk id 0x12 m c t → bxBad d = none →
        b1.desc (.desc id) m.ctx rd (bxIxd d) = (b2, .ok x) → ixBad x = none → bxSmall d x = false → b2.build.arrays = true →
        exec (.backInteract id rd) s =
          .next (s.withBlk (b2.updCmd id (fun y => { y with bxd := d, ixd := x, unitN := ixN x, begun := true })))) ∧
      (∀ (b2 : Blk) (y : List (List W64) × List TableCopy), RoutineReady s.blk id 0x14 m c t → b1.fenceCheck m rd d = (b2, .ok y) →
        exec (.fenceCommand id rd) s = .next (s.withBlk ((b2.begun id).fenceNew m c t none d y))) ∧
      (RoutineReady s.blk id 0x15 m c t → cpBad d = none →
        exec (.copy id rd) s = .next (s.withBlk ((b1.begun id).copyNew m c t none d))) ∧
      (∀ (b2 : Blk) (tab : TableCopy), RoutineReady s.blk id 0x16 m c t → b1.avCheck m rd d = (b2, .ok tab) →
        exec (.advise id rd) s = .next (s.withBlk ((b2.begun id).adviseNew m c t none d tab)))) ∧
    (∀ (b1 b2 : Blk) (pb : List W64) (l : List (List W64 × List W64 × List W64)), RoutineReady s.blk id 0x10 m c t →
      s.blk.block m rd (lpBad m) = (b1, .ok pb) → Blk.lpPairs m rd pb (lpNp pb) 0 b1 = (b2, .ok l) →
      exec (.lookupPool id rd) s = .next (s.withBlk (Blk.pairsGo 3 id c t
        ((b2.updCmd id (fun x => { x with par0 := pb, pairs := l, unitN := l.length, begun := true })).updTask c t
          (fun x => { x with waitFrom := some b2.time.toNat }))))) ∧
    (∀ (b1 b2 : Blk) (pb : List W64) (p : List W64 × List W64 × List W64), RoutineReady s.blk id 0x13 m c t →
      s.blk.block m rd sbBad = (b1, .ok pb) → b1.scPair m rd pb = (b2, .ok p) →
      exec (.scatter id rd) s = .next (s.withBlk (Blk.pairsGo 1 id c t
        (b2.updCmd id (fun x => { x with pairs := [p], unitN := 1, begun := true }))))) ∧
    (∀ (sd d opb : List W64) (q : Nat), RoutineGoes s.blk id 0x10 m c t → m.begun = true → m.unitC = 0 →
      m.pairs[m.unitW]? = some (sd, d, opb) → q = (if m.short then 16 + t else sdQueue sd) →
      ((s.blk.sq c q).st ≠ .free → (s.blk.sq c q).st ≠ .armedIdle → exec (.lookupPool id rd) s = .next s) ∧
      ((s.blk.sq c q).st = .free → (s.blk.sq c q).nextCons = .none →
        ∃ b2 : Blk, exec (.lookupPool id rd) s = .next (s.withBlk (Blk.pairsGo 2 id c t
            (((b2.consStart c q).pass c q { blocks := [] }).updCmd id (fun x => { x with unitW := x.unitW + 1, unitC := 0 })))) ∧
          (b2.sq c q).st = .active ∧ (b2.sq c q).cmd = id ∧ (b2.sq c q).task = t ∧ (b2.sq c q).cons = .pool d id t none ∧
          (b2.sq c q).pass = 1 ∧ (∀ r, r ≠ q → b2.sq c r = s.blk.sq c r))) ∧
    (∀ p ∈ [(Instr.nopCommand id, 0x01), (.run id, 0x02), (.lookupPool id rd, 0x10), (.interact id rd, 0x11), (.backInteract id rd, 0x12),
            (.scatter id rd, 0x13), (.fenceCommand id rd, 0x14), (.copy id rd, 0x15), (.advise id rd, 0x16)],
      RoutineGoes s.blk id p.2 m c t → m.begun = false → s.blk.dlHit m = true → s.blk.dlChecked c = true →
      exec p.1 s = .next (s.withBlk ((s.blk.dlCount m).endCmd id .deadline)))

/-- Invalidations (R280, R281, R352): XLT_INVAL removes every translation in scope from the TLBs and the walk cache at once and marks the
walks in scope; XLT_INVAL_COMPLETE follows once every use in flight of a removed translation has ended, and is counted; DC_INVAL removes
the descriptors in scope and every resident expansion matrix. Nothing else of the block changes but the command. -/
def Obligations.InvalidationsTakeEffect : Prop :=
  ∀ (s : State) (id : Nat) (m : Cmd),
    (DispGood s.blk id 0x20 (xiBad m) m →
      ∃ b : Blk, exec (.xltInval id) s = .next (s.withBlk b) ∧
        (∀ t, t ∈ b.l2 ↔ t ∈ s.blk.l2 ∧ t.hit m = false) ∧ (∀ e ∈ b.l1, ∀ t ∈ e.2, t.hit m = false) ∧
        (∀ e, e ∈ b.wcache ↔ e ∈ s.blk.wcache ∧ m.inCtx e.1 = false) ∧
        (∀ w ∈ b.walks.take 16, m.inCtx w.ctx = true → w.discard = true) ∧
        (∃ x ∈ b.invals, x.cmd = id) ∧
        { b with l2 := s.blk.l2, l1 := s.blk.l1, wcache := s.blk.wcache, walks := s.blk.walks, invals := s.blk.invals } = s.blk.begun id) ∧
    (∀ x : Inval, s.blk.invals.find? (fun x => x.cmd = id) = some x → s.blk.live = true →
      ((∃ u ∈ x.uses, s.blk.useOpen u = true) → exec (.xltInvalComplete id) s = .next s) ∧
      ((∀ u ∈ x.uses, s.blk.useOpen u = false) →
        ∃ b : Blk, exec (.xltInvalComplete id) s = .next (s.withBlk b) ∧ (∀ y ∈ b.invals, y.cmd ≠ id) ∧
          b.reg 0x40348 = s.blk.reg 0x40348 + 1 ∧ (∀ o, o ≠ 0x40348 → b.reg o = s.blk.reg o) ∧
          (∀ y, s.blk.cmd id = some y → b.cmd id = some { y with ready := true }) ∧
          { b with invals := s.blk.invals, regs := s.blk.regs, cmds := s.blk.cmds } = s.blk)) ∧
    (DispGood s.blk id 0x22 (diBad m) m →
      ∃ b : Blk, exec (.dcInval id) s = .next (s.withBlk b) ∧
        (∀ e, e ∈ b.dcache ↔ e ∈ s.blk.dcache ∧ m.dcHit e.1 e.2.1 = false) ∧
        (∀ c p, c < 8 → p < 2 → (s.blk.core c).planeUsed p = false → (b.core c).plane p = {}) ∧
        (∀ c p, c < 8 → p < 2 → (s.blk.core c).planeUsed p = true → (b.core c).plane p = { (s.blk.core c).plane p with dying := true }) ∧
        b.cmd id = some { m with begun := true, ready := true } ∧
        { b with dcache := s.blk.dcache, cores := s.blk.cores, cmds := s.blk.cmds } = s.blk)

/-- RESUME, ABORT, ANCHOR and ANCHOR_WAIT (R285, R353, R354, R376, R377): RESUME frees a fault-table slot of the same generation, whose
waiters walk again, and does nothing for another; ABORT marks a position ahead of HEAD or ends a copied command; ANCHOR adds to its
anchor or sets it modulo 2^48, ANCHOR_WAIT is met at once or enters the waiters. -/
def Obligations.DispatcherCommandsAct : Prop :=
  ∀ (s : State) (id : Nat) (m : Cmd),
    (∀ (i g : Nat) (f : FtSlot), DispGood s.blk id 0x21 (rsBad m) m → i = fld (m.par 0) 8 8 → g = fld (m.par 0) 16 8 →
      f = Tab.get {} s.blk.ft i →
      (f.valid = false ∨ f.gen ≠ g → exec (.resume id) s = .next (s.withBlk ((s.blk.begun id).cmdReady id))) ∧
      (f.valid = true → f.gen = g → ∃ b : Blk, exec (.resume id) s = .next (s.withBlk
          (((f.waiters.foldl (fun b x => b.resumeReq (i, g) f.ctx x) b).resumePasses (i, g)).ftRetry.cmdReady id)) ∧
        Tab.get {} b.ft i = { gen := g } ∧ { b with ft := s.blk.ft } = s.blk.begun id)) ∧
    (∀ (n pos d : Nat), DispGood s.blk id 0x23 (abBad m) m → (n, pos) = m.target → d = ahead (s.blk.ringHead n) pos →
      (d < 2 ^ 16 → d ≤ (s.blk.ring n).size → pos ∉ (s.blk.ring n).marks → (s.blk.ring n).marks.length < 16 →
        ∃ b : Blk, exec (.abort id) s = .next (s.withBlk b) ∧ b.ring n = { s.blk.ring n with marks := (s.blk.ring n).marks ++ [pos] } ∧
          (∀ k, k ≠ n → b.ring k = s.blk.ring k) ∧ b.cmd id = some { m with begun := true, abortOf := some (n, pos), unitN := 0 } ∧
          { b with rings := s.blk.rings, cmds := s.blk.cmds } = s.blk) ∧
      (∀ (b1 : Blk) (y : Cmd), b1 = (s.blk.begun id).updCmd id (fun x => { x with abortOf := some (n, pos), unitN := 0 }) →
        2 ^ 16 ≤ d → b1.cmds.find? (fun y => y.ring = n && y.pos = pos && y.served.isNone) = some y → y.ending = false →
        (∀ f ∈ b1.fences, f.cmd = y.id → f.phase = .wait) →
        exec (.abort id) s = .next (s.withBlk (b1.endCmd y.id .abort)))) ∧
    (DispGood s.blk id 0x24 (anBad m || decide (2 ≤ m.anOp)) m →
      ∃ b : Blk, exec (.anchor id) s = .next (s.withBlk b) ∧
        b.anchor m.anNum = (if m.anOp = 1 then m.anVal else s.blk.anchor m.anNum + m.anVal) % 2 ^ 48 ∧
        (∀ k, k ≠ m.anNum → b.anchor k = s.blk.anchor k) ∧ (∀ w ∈ b.waiters, w.anchor = m.anNum → b.anchor m.anNum < w.target) ∧
        b.cmd id = some { m with begun := true, ready := true } ∧ b.regs = s.blk.regs ∧ b.dev = s.blk.dev ∧ b.host = s.blk.host) ∧
    (DispGood s.blk id 0x25 (anBad m || m.anOp != 0) m →
      (m.anVal ≤ s.blk.anchor m.anNum → exec (.anchorWait id) s = .next (s.withBlk ((s.blk.begun id).cmdReady id))) ∧
      (s.blk.anchor m.anNum < m.anVal → exec (.anchorWait id) s = .next (s.withBlk { s.blk.begun id with
        waiters := s.blk.waiters ++ [{ anchor := m.anNum, target := m.anVal, who := .cmd id }] })))

/-- The slots of dispatcher commands are checked (R351, R501): a command that is at its deadline ends there, a slot of another version
fails with VERSION 50h, a slot that breaks its own checks with DESCRIPTOR 51h; none of its effect is made. -/
def Obligations.DispatcherSlotsAreChecked : Prop :=
  ∀ (s : State) (id : Nat) (m : Cmd),
    ∀ p ∈ [(Instr.xltInval id, 0x20, xiBad m), (.resume id, 0x21, rsBad m), (.dcInval id, 0x22, diBad m), (.abort id, 0x23, abBad m),
           (.anchor id, 0x24, anBad m || decide (2 ≤ m.anOp)), (.anchorWait id, 0x25, anBad m || m.anOp != 0)],
      DispReady s.blk id p.2.1 m →
      (s.blk.dlHit m = true → exec p.1 s = .next (s.withBlk ((s.blk.begun id).endCmd id .deadline))) ∧
      (s.blk.dlHit m = false → fld (m.par 0) 0 4 ≠ 1 → exec p.1 s = .next (s.withBlk ((s.blk.begun id).failCmd id 0x50))) ∧
      (s.blk.dlHit m = false → fld (m.par 0) 0 4 = 1 → p.2.2 = true →
        exec p.1 s = .next (s.withBlk ((s.blk.begun id).failCmd id 0x51)))

/-- Doorbells and the reading of rings (R339, R343 to R345, R349, R432): an accepted doorbell records its tail and restarts the reads at
HEAD, a bad one writes BAD_DOORBELL; a stale entry is read again RETRIES times, 64 T-ticks after it returned, before the ring halts with
STALE; a one-entry command is copied with the fields of its ring, and HEAD passes it. -/
def Obligations.RingsAreRead : Prop :=
  ∀ (s : State) (n : Fin 64) (h : Half) (v : W64) (r : Resp) (x : Ring), x = s.blk.ring n →
    (s.blk.resetting = false → s.blk.pwr.halt = false → covers h 0 = true → s.blk.ringEn n = true →
      (s.blk.ctxEn n = true → s.blk.dbBad n (fld (halfVal h v) 0 17) = false →
        ∃ b : Blk, exec (.doorbell n h v) s = .next (s.withBlk b) ∧
          b.ring n = { x with tail := fld (halfVal h v) 0 17, stop := false, refused := false, tries := 0, again := none, part := [] } ∧
          (∀ k, k ≠ n.val → b.ring k = s.blk.ring k) ∧ b.rb (ringReg n 24) 17 = x.held ∧
          (∀ o, o ≠ ringReg n 24 → b.reg o = s.blk.reg o) ∧
          b.pwr.st = (if s.blk.rb 0x2000 8 ∧ s.blk.pwr.st = .doze then .resume else s.blk.pwr.st) ∧
          { b with rings := s.blk.rings, regs := s.blk.regs, pwr := s.blk.pwr } = s.blk) ∧
      (s.blk.pwr.st = .run → (s.blk.ctxEn n = false ∨ s.blk.dbBad n (fld (halfVal h v) 0 17) = true) →
        exec (.doorbell n h v) s = .next (s.withBlk (s.blk.event 0x11 n 0 0 [halfVal h v])))) ∧
    (covers h 0 = false → exec (.doorbell n h v) s = .next s) ∧
    (∀ (b1 : Blk) (ws : List W64) (w : Sect) (va pos : Nat), s.blk.ringReads n = true → x.part = [] → pos = s.blk.ringHead n →
      va = x.base.toNat + 64 * (pos % x.size) → w = sectOf (wordBytes ws) → (b1.ring n) = x → b1.ringHead n = pos →
      s.blk.words (.ring n) n { blocks := [(va / 64, r)] } va 8 = (b1, .ok ws) →
      (bit w 4 ≠ phaseAt x.log2 pos → x.tries < b1.rf 0x20800 0 8 → exec (.ringEntryRead n r) s =
        .next (s.withBlk (b1.updRing n (fun y => { y with tries := y.tries + 1, again := some b1.time.toNat })))) ∧
      (bit w 4 ≠ phaseAt x.log2 pos → b1.rf 0x20800 0 8 ≤ x.tries → exec (.ringEntryRead n r) s =
        .next (s.withBlk ((b1.ringStop n).event 0x10 n 0 0 [ringQ2 0x52 0 pos]))) ∧
      (bit w 4 = phaseAt x.log2 pos → fld w 5 2 = 0 → 1 ≤ ahead pos x.tail → pos ∉ x.marks →
        ∃ (b : Blk) (m : Cmd), exec (.ringEntryRead n r) s = .next (s.withBlk b) ∧ b.cmds = b1.cmds ++ [m] ∧
          m.id = b1.nextCmd ∧ m.ring = n ∧ m.pos = pos ∧ m.cdVa = va ∧ m.cd = Sect.words w ∧ m.ext = [] ∧ m.phase = .copied ∧
          m.cbase = x.cbase ∧ m.dbase = x.dbase ∧ m.dcount = x.dcount ∧ m.fail = none ∧ b.nextCmd = b1.nextCmd + 1 ∧
          b.ringHead n = (pos + 1) % 2 ^ 17 ∧ (b.ring n).copied = (x.copied + 1) % 2 ^ 17 ∧
          (∀ o, o ≠ ringReg n 24 → b.reg o = b1.reg o) ∧ b.dev = b1.dev ∧ b.host = b1.host)) ∧
    (∀ t, x.again = some t → s.blk.issues = true → t + 64 ≤ s.blk.time.toNat →
      exec (.doorbellRetry n) s = .next (s.withBlk (s.blk.updRing n (fun y => { y with again := none }))))

/-- COMMAND_START (R18, R66, R344, R351): the first of the checks 1 to 3 that fails gives the command its status; once the commands before
it in its ring have passed and BARRIER and INLETW allow it, a dispatcher command goes to the dispatcher and any other to the work queue of
its core, a short-path command ahead of the others. -/
def Obligations.CommandsStart : Prop :=
  ∀ (s : State) (id : Nat) (m : Cmd) (rd : View), s.blk.issues = true → s.blk.cmd id = some m → m.phase = .copied →
    (∀ st, s.blk.startBad m = some st → exec (.commandStart id rd) s = .next (s.withBlk (s.blk.failCmd id st))) ∧
    (s.blk.startBad m = none → s.blk.dlHit m = true →
      exec (.commandStart id rd) s = .next (s.withBlk ((s.blk.dlCount m).endCmd id .deadline))) ∧
    (s.blk.startBad m = none → s.blk.dlHit m = false →
      (s.blk.ringTurn m = false ∨ s.blk.startWaits m = true → exec (.commandStart id rd) s = .next s) ∧
      (s.blk.ringTurn m = true → s.blk.startWaits m = false →
        (m.isDisp = true → exec (.commandStart id rd) s = .next (s.withBlk (s.blk.updCmd id (fun x => { x with phase := .disp })))) ∧
        (∀ (c : Nat) (b1 : Blk) (sh : Bool), m.isDisp = false → s.blk.chooseCore m = some c → s.blk.shortPath m rd = (b1, .ok sh) →
          ∃ b2 : Blk, exec (.commandStart id rd) s = .next (s.withBlk (b2.place 4 c)) ∧
            (b2.core c).workq = (if sh then b1.queueShort id (b1.core c).workq else (b1.core c).workq ++ [id]) ∧
            (∀ y, b1.cmd id = some y → b2.cmd id = some { y with phase := .queued c, short := sh }) ∧
            (∀ d, d ≠ c → b2.core d = b1.core d) ∧ { b2 with cores := b1.cores, cmds := b1.cmds } = b1))) ∧
    (fld (qw m.cd 0) 0 4 ≠ 1 → s.blk.startBad m = some 0x50) ∧
    (fld (qw m.cd 0) 0 4 = 1 → m.cdBad = true → s.blk.startBad m = some 0x51) ∧
    (fld (qw m.cd 0) 0 4 = 1 → m.cdBad = false → opAssigned m.op = false → s.blk.startBad m = some 0x53)

/-- Completions (R306, R343, R355, R356, R471, R502): a command that is done leaves the block, and its record waits for its ring; the
record is written at CTAIL with the phase of its position, its completion word follows, and the interrupt comes last; a refused write
holds the ring's completions and writes RING_ERROR; a write of CHEAD moves it. -/
def Obligations.CompletionsAreWritten : Prop :=
  ∀ (s : State),
    (∀ (id : Nat) (m : Cmd) (b1 : Blk) (m1 : Cmd), s.blk.live = true → s.blk.cmd id = some m → m.served = none → s.blk.cmdDone m = true →
      (m.park = none ∨ m.ending = true) → (s.blk.progClean m).addTotals m = (b1, true) → b1.cmd id = some m1 →
      ∃ b2 : Blk, exec (.commandComplete id) s = .next (s.withBlk b2) ∧ (∀ x ∈ b2.cmds, x.id ≠ id) ∧
        (b2.ring m1.ring).recs = (b1.ring m1.ring).recs ++
          [{ w := m1.record, caddr := m1.caddr, irq := m1.irq, cbase := m1.cbase, clog := m1.clog, pos := m1.pos }] ∧
        b2 = (({ (b1.countStatus m1.status).release m1 with cmds := ((b1.countStatus m1.status).release m1).cmds.filter (fun x => x.id ≠ id) } : Blk).updRing
          m1.ring (fun x => { x with recs := x.recs ++
            [{ w := m1.record, caddr := m1.caddr, irq := m1.irq, cbase := m1.cbase, clog := m1.clog, pos := m1.pos }] }))) ∧
    (∀ (n : Fin 64) (r : Rec) (rest : List Rec) (q0 : W64) (b1 : Blk) (ps : List WPart), (s.blk.ring n).recs = r :: rest →
      s.blk.complOpen n = true → q0 = qw r.w 0 ||| (if phaseAt r.clog (s.blk.ctail n) then 16 else 0) →
      s.blk.xlWrite (.compl n) n (r.va (s.blk.ctail n)) (wordBytes (q0 :: r.w.drop 1)) = (b1, .parts ps) →
      ∃ b2 b3 : Blk, exec (.completionRecordAck n) s = .next (s.withBlk b3) ∧
        b2.ctail n = (s.blk.ctail n + 1) % 2 ^ 17 ∧ b2 = (b1.doParts none ps).setFld (ringReg n 24) 32 17 ((s.blk.ctail n + 1) % 2 ^ 17) ∧
        (r.caddr = 0 → b3 = Blk.ringFreed (if r.irq then (b2.updRing n (fun x => { x with recs := rest })).trigger n
          else b2.updRing n (fun x => { x with recs := rest })) n) ∧
        (r.caddr ≠ 0 → b3 = (b2.updRing n (fun x => { x with recs := rest, words := x.words ++
          [{ r with place := s.blk.ctail n, q0 := q0 }] })).ringFreed n)) ∧
    (∀ (n : Fin 64) (r : Rec) (rest : List Rec) (b1 : Blk) (ps : List WPart), (s.blk.ring n).words = r :: rest →
      s.blk.complOpen n = true → s.blk.xlWrite (.cword n) n r.caddr.toNat (wordBytes [r.q0]) = (b1, .parts ps) →
      ∃ b2 : Blk, exec (.completionWordAck n) s = .next (s.withBlk ((if r.irq then b2.trigger n else b2).ringFreed n)) ∧
        b2 = (b1.doParts none ps).updRing n (fun x => { x with words := rest })) ∧
    (∀ (n : Fin 64) (poison : Bool) (r : Rec) (rest : List Rec), s.blk.complOpen n = true →
      ((s.blk.ring n).words = r :: rest → ∃ b : Blk, exec (.completionWriteRefused n poison) s = .next (s.withBlk
          (b.event 0x12 n 0 0 [ringQ2 (if poison then 0x40 else 0x32) 1 r.place, BitVec.ofNat 64 r.caddr.toNat])) ∧
        b.ring n = { s.blk.ring n with refused := true, held := true } ∧ b.rb (ringReg n 24) 17 = true ∧ b.cmds = s.blk.cmds) ∧
      ((s.blk.ring n).words = [] → (s.blk.ring n).recs = r :: rest → ∃ b : Blk, exec (.completionWriteRefused n poison) s = .next (s.withBlk
          (b.event 0x12 n 0 0 [ringQ2 (if poison then 0x40 else 0x32) 1 (s.blk.ctail n), BitVec.ofNat 64 (r.va (s.blk.ctail n))])) ∧
        b.ring n = { s.blk.ring n with refused := true, held := true } ∧ b.rb (ringReg n 24) 17 = true ∧ b.cmds = s.blk.cmds)) ∧
    (∀ (n : Fin 64) (h : Half) (v : W64), s.blk.regOpen (ringReg n 32) = true →
      ∃ b : Blk, exec (.cheadWrite n h v) s = .next (s.withBlk b) ∧
        (h ≠ .high → b.rf (ringReg n 32) 0 17 = fld v 0 17) ∧ (h = .high → b.rf (ringReg n 32) 0 17 = s.blk.rf (ringReg n 32) 0 17) ∧
        (∀ o, o ≠ ringReg n 32 → b.reg o = s.blk.reg o) ∧ { b with regs := s.blk.regs } = s.blk)

/-- Ring registers (R340, R358, R360): an enable of an idle ring takes the fields of its registers and every position starts at 0; a write
of EN = 0 stops the reading of the ring and changes nothing else; fault and event rings take their fields at the enable, with TAIL at 0; a
held message is sent once MASK = 0 and EN = 1. -/
def Obligations.RingRegistersEnable : Prop :=
  ∀ (s : State) (h : Half) (v : W64),
    (∀ n : Fin 64, s.blk.regOpen (ringReg n 0) = true →
      (s.blk.ringEn n = false → wrOne h v 0 = true → s.blk.ringBusy n = false →
        ∃ b1 b2 : Blk, exec (.ringEnable n h v) s = .next (s.withBlk b2) ∧ b1 = (s.blk.fieldWrite (ringReg n 0) h v) ∧
          b2.ring n = { base := BitVec.ofNat 64 (4096 * b1.rf (ringReg n 0) 12 45), log2 := clamp 6 16 (b1.rf (ringReg n 0) 1 5),
                        cbase := BitVec.ofNat 64 (4096 * b1.rf (ringReg n 8) 12 45), dbase := BitVec.ofNat 64 (4096 * b1.rf (ringReg n 16) 19 45),
                        dcount := min 65536 (b1.rf (ringReg n 16) 0 17), marks := (s.blk.ring n).marks } ∧
          b2.ringEn n = true ∧ b2.ringHead n = 0 ∧ b2.ctail n = 0 ∧ (∀ k, k ≠ n.val → b2.ring k = s.blk.ring k) ∧
          (∀ o, o ≠ ringReg n 0 → o ≠ ringReg n 24 → b2.reg o = s.blk.reg o) ∧
          { b2 with regs := s.blk.regs, rings := s.blk.rings } = s.blk) ∧
      (s.blk.ringEn n = true → covers h 0 = true → bit (halfVal h v) 0 = false →
        ∃ b2 : Blk, exec (.ringDisable n h v) s = .next (s.withBlk b2) ∧ b2.reg (ringReg n 0) = putFld (s.blk.reg (ringReg n 0)) 0 1 0 ∧
          b2.ring n = { s.blk.ring n with part := [], tries := 0, again := none } ∧ (∀ k, k ≠ n.val → b2.ring k = s.blk.ring k) ∧
          (∀ o, o ≠ ringReg n 0 → b2.reg o = s.blk.reg o) ∧ { b2 with regs := s.blk.regs, rings := s.blk.rings } = s.blk)) ∧
    (s.blk.regOpen 0x11000 = true → s.blk.rb 0x11000 0 = false → wrOne h v 0 = true →
      ∃ b1 b2 : Blk, exec (.faultRingEnable h v) s = .next (s.withBlk b2.drainFaults.ftRetry) ∧ b1 = s.blk.fieldWrite 0x11000 h v ∧
        b2.fringLog = clamp 6 12 (b1.rf 0x11000 1 4) ∧ b2.fringBase = 4096 * b1.rf 0x11000 12 40 ∧ b2.rf 0x11008 32 17 = 0 ∧
        b2.rb 0x11000 0 = true ∧ { b2 with regs := s.blk.regs, fringLog := s.blk.fringLog, fringBase := s.blk.fringBase } = s.blk) ∧
    (s.blk.regOpen 0x11010 = true → s.blk.rb 0x11010 0 = false → wrOne h v 0 = true →
      ∃ b1 b2 : Blk, exec (.eventRingEnable h v) s = .next (s.withBlk b2) ∧ b1 = s.blk.fieldWrite 0x11010 h v ∧
        b2.eringLog = clamp 12 24 (b1.rf 0x11010 1 5) ∧ b2.eringBase = 4096 * b1.rf 0x11010 12 40 ∧ b2.rf 0x11018 24 24 = 0 ∧
        b2.rb 0x11010 0 = true ∧ { b2 with regs := s.blk.regs, eringLog := s.blk.eringLog, eringBase := s.blk.eringBase } = s.blk) ∧
    (∀ (i : Fin 66) (word1 : Bool) (b1 : Blk), s.blk.regOpen (if word1 then msi1 i else msi0 i) = true →
      b1 = s.blk.fieldWrite (if word1 then msi1 i else msi0 i) h v →
      (b1.rb (msi1 i) 32 = true → b1.rb (msi0 i) 1 = false → b1.rb (msi0 i) 0 = true →
        ∃ b2 : Blk, exec (.msiWrite i word1 h v) s = .next (s.withBlk b2) ∧ b2.rb (msi1 i) 32 = false ∧
          b2.host = devStore (4 * b1.rf (msi0 i) 2 50) (leBytes 4 (b1.rf (msi1 i) 0 32)) b1.host) ∧
      (b1.rb (msi1 i) 32 = false ∨ b1.rb (msi0 i) 1 = true ∨ b1.rb (msi0 i) 0 = false →
        exec (.msiWrite i word1 h v) s = .next (s.withBlk b1)))

/-- Writes from outside (R80, R269 to R272, R361, R362, R434): an inlet write and an adapter write that their windows and regions allow
enter the writes on their way to memory, any other is dropped whole with its event; the oldest write on its way reaches memory; an
acknowledged inlet write is counted in bytes; while the ports are held the writes wait in order. -/
def Obligations.PortWritesReachMemory : Prop :=
  ∀ (s : State) (bytes : List Byte), bytes ≠ [] →
    (∀ (off pa cr : Nat), pa = 4096 * s.blk.rf 0x1100 12 34 + off → cr = s.blk.rf 0x1100 0 4 →
      (s.blk.portsTake → s.blk.portRefused cr pa bytes.length = false → exec (.inletWrite off bytes) s = .next (s.withBlk { s.blk with
        wq := s.blk.wq ++ [{ id := s.blk.nextWr, pa := pa, bytes := bytes, cr := cr, cmd := none }], nextWr := s.blk.nextWr + 1
        inletQ := s.blk.inletQ ++ [(s.blk.nextWr, bytes.length)] })) ∧
      (s.blk.portsTake → s.blk.portRefused cr pa bytes.length = true → exec (.inletWrite off bytes) s =
        .next (s.withBlk (s.blk.event 0x51 0 0 0 [BitVec.ofNat 64 bytes.length, BitVec.ofNat 64 pa]))) ∧
      (s.blk.resetting = false → s.blk.pwr.st = .run → s.blk.portHeld = true → exec (.inletWrite off bytes) s =
        .next (s.withBlk { s.blk with pwr := { s.blk.pwr with inletHeld := s.blk.pwr.inletHeld ++ [(off, bytes)] } }))) ∧
    (∀ (id n : Nat) (rest : List (Nat × Nat)), s.blk.inletQ = (id, n) :: rest → s.blk.live = true →
      (s.blk.passed [id] = true → ∃ b : Blk, exec (.inletWriteAck false) s = .next (s.withBlk b) ∧ b.inletQ = rest ∧
        b.reg 0x1108 = s.blk.reg 0x1108 + BitVec.ofNat 64 n ∧ (∀ o, o ≠ 0x1108 → b.reg o = s.blk.reg o) ∧
        { b with regs := s.blk.regs, inletQ := s.blk.inletQ } = s.blk) ∧
      (∀ w, s.blk.wq.find? (fun w => w.id = id) = some w → exec (.inletWriteAck true) s = .next (s.withBlk
        (({ s.blk with wq := s.blk.wq.filter (fun x => x.id ≠ id), inletQ := rest } : Blk).event 0x51 0 0 0
          [BitVec.ofNat 64 n, BitVec.ofNat 64 w.pa])))) ∧
    (∀ (ad : BitVec 16) (pa : BitVec 46) (k : Nat), s.blk.portsTake → s.blk.apRegion ad.toNat pa.toNat bytes.length = some k →
      s.blk.portRefused (s.blk.rf (0x31008 + 16 * k) 36 4) pa.toNat bytes.length = false →
      exec (.adapterWrite ad pa bytes) s = .next (s.withBlk { s.blk with
        wq := s.blk.wq ++ [{ id := s.blk.nextWr, pa := pa.toNat, bytes := bytes, cr := s.blk.rf (0x31008 + 16 * k) 36 4, cmd := none }]
        nextWr := s.blk.nextWr + 1 })) ∧
    (∀ (ad : BitVec 16) (pa : BitVec 46), s.blk.portsTake → s.blk.apRegion ad.toNat pa.toNat bytes.length = none →
      ∃ b : Blk, exec (.adapterWrite ad pa bytes) s = .next (s.withBlk (b.event 0x50 0 0 0
          [BitVec.ofNat 64 (ad.toNat + bytes.length <<< 16), BitVec.ofNat 64 pa.toNat])) ∧
        b.reg 0x30508 = s.blk.reg 0x30508 + 1 ∧ b.rb 0x30500 0 = true ∧ { b with regs := s.blk.regs } = s.blk) ∧
    (∀ (w : DevWrite) (rest : List DevWrite), s.blk.wq = w :: rest → s.blk.live = true →
      ∃ b : Blk, exec .cacheWritePass s = .next (s.withBlk (iter 8 (fun c b => b.arraySweep c) b)) ∧ b.wq = rest ∧
        b.dev = (s.blk.devWrite w.cr w.pa w.bytes).dev ∧ b.bad = (s.blk.devWrite w.cr w.pa w.bytes).bad ∧ b.host = s.blk.host)

/-- COPY_BLOCK_LANDED (R267): a block of a copy has been read and written; the bytes between its first and its last address reach the
destination, 64-byte blocks count as rows, and the last block ends the copy and its tag. -/
def Obligations.CopyBlocksLand : Prop :=
  ∀ (s : State) (id k n : Nat) (rd : View) (x : Copying) (b1 b2 b3 : Blk) (t : Tlb) (pa : Nat) (ps qs : List WPart) (l : List Byte),
    s.blk.copies.find? (fun x => x.id = id) = some x → s.blk.coreLive x.c = true → x.park = none → k < x.blocks → k ∉ x.done →
    n = x.hi k - x.lo k → s.blk.xl (.copy id) x.ctx (x.lo k) false = (b1, .ok t pa) →
    b1.xlWrite (.copy id) x.ctx (x.dst + (x.lo k - x.src)) (List.replicate n 0) = (b2, .parts ps) → copyRefused t pa ps = false →
    b2.vread (.copy id) x.ctx rd (x.lo k) n = (b3, .bytes l) →
    qs.map (fun p => (p.t, p.pa)) = ps.map (fun p => (p.t, p.pa)) → qs.flatMap (fun p => p.bytes) = l →
    qs.map (fun p => p.bytes.length) = ps.map (fun p => p.bytes.length) →
    ∃ b4 : Blk, b4 = (b3.doParts (some x.cmd) qs).updCmd x.cmd (fun m => { m with rows := m.rows + n / 64 }) ∧
      (x.done.length + 1 = x.blocks → exec (.copyBlockLanded id k rd) s =
        .next (s.withBlk (({ b4 with copies := b4.copies.filter (fun z => z.id ≠ id) } : Blk).endTag x.c x.task x.tag))) ∧
      (x.done.length + 1 ≠ x.blocks → exec (.copyBlockLanded id k rd) s =
        .next (s.withBlk { b4 with copies := b4.copies.map (fun z => if z.id = id then { x with done := k :: x.done } else z) }))

/-- WALK_COMPLETE (R277 to R279, R286): a walk that succeeds fills the L2 TLB with its leaf's translation and the access goes on; one that
fails for good tells its access; a walk marked by an invalidation starts again; a parity error is block-fatal. The checks of a descriptor
are made in order. -/
def Obligations.WalksComplete : Prop :=
  ∀ (s : State) (ctx : Fin 64) (gran : BitVec 27) (descs ds : List DescRead), s.blk.live = true →
    exec (.walkComplete ctx gran descs true) s = .next (s.withBlk (s.blk.blockFatal 0x14)) ∧
    (∀ (w : Walk) (r : Req) (va : Nat) (wr : Bool), (s.blk.walks.take 16).find? (fun w => w.ctx = ctx.val && w.gran = gran.toNat) = some w →
      w.reqs = [(r, va, wr)] → ds = s.blk.cachedDescs ctx gran.toNat ++ descs →
      (∀ (lvl : Nat) (d : W64), s.blk.walk w.user wr 5 ds = .ok lvl d → w.discard = false →
        ∃ b : Blk, exec (.walkComplete ctx gran descs false) s = .next (s.withBlk (b.walkRetry r)) ∧
          (wr = false ∨ s.blk.walk w.user false 5 ds = .ok lvl d →
            leafTlb ctx gran.toNat lvl d (allWritable (ds.take (6 - lvl))) ∈ b.l2) ∧
          (∀ x ∈ b.walks, ¬ (x.ctx = ctx ∧ x.gran = gran.toNat)) ∧ b.cores = s.blk.cores ∧ b.cmds = s.blk.cmds ∧ b.dev = s.blk.dev) ∧
      (∀ (kind lvl : Nat) (d : W64), s.blk.walk w.user wr 5 ds = .fail kind lvl d → w.discard = false → s.blk.endedOut r = none →
        (resumable kind = false ∨ s.blk.rb 0x11000 0 = false) →
        ∃ b : Blk, exec (.walkComplete ctx gran descs false) s = .next (s.withBlk (b.walkBad r ctx kind va wr)) ∧
          (∀ x ∈ b.walks, ¬ (x.ctx = ctx ∧ x.gran = gran.toNat)) ∧ b.cores = s.blk.cores ∧ b.cmds = s.blk.cmds ∧ b.l1 = s.blk.l1) ∧
      (s.blk.walk w.user wr 5 ds ≠ .short → w.discard = true →
        ∃ b : Blk, exec (.walkComplete ctx gran descs false) s = .next (s.withBlk b) ∧
          (∃ x ∈ b.walks, x.ctx = ctx ∧ x.gran = gran.toNat ∧ x.reqs = w.reqs ∧ x.discard = false) ∧ b.l2 = s.blk.l2 ∧ b.l1 = s.blk.l1)) ∧
    (∀ (user wr : Bool) (lvl : Nat) (x : W64), s.blk.checkDesc user wr lvl .poison = .bad 6 ∧
      (bit x 0 = false → s.blk.checkDesc user wr lvl (.word x) = .bad 1) ∧
      (bit x 0 = true → user = true → bit x 4 = false → s.blk.checkDesc user wr lvl (.word x) = .bad 5) ∧
      (bit x 0 = true → user = false → wr = true → bit x 2 = false → s.blk.checkDesc user wr lvl (.word x) = .bad 4) ∧
      (bit x 0 = true → user = false → wr = false → bit x 1 = true → s.blk.checkDesc user wr 5 (.word x) = .bad 9) ∧
      (bit x 0 = true → user = false → wr = false → bit x 1 = false → s.blk.checkDesc user wr 3 (.word x) = .bad 8 ∧
        s.blk.checkDesc user wr 4 (.word x) = .ptr))

/-- Deadlines and belay records (R191 to R193, R199, R289, R290): a deadline ends its command, whose unclosed bags and samples are counted,
and with DSUB = 1 written with the default row; a parked pass that has settled writes its belay record, whose SEQ goes up by 1, and its
reads leave their tracker slots. -/
def Obligations.DeadlinesAndBelays : Prop :=
  ∀ (s : State) (id : Nat) (m : Cmd) (rd : View), s.blk.live = true →
    (s.blk.cmd id = some m → s.blk.dlNow m = true →
      (m.dsub = false → ∃ b : Blk, exec (.deadlineReached id rd) s = .next (s.withBlk
          (((b.updCmd id (fun y => { y with dlmiss := y.dlmiss + m.samples })).dlCount m).endCmd id .deadline)) ∧
        (∀ c t, m.held = some (c, t) →
          b = ((s.blk.poolPasses m).foldl (fun b p => b.dlPass id p none) s.blk).inc (coreReg c 0x750) m.samples) ∧
        (m.held = none → b = s.blk)) ∧
      (∀ c q t, m.dsub = true → m.held = some (c, t) → s.blk.poolPasses m = [(c, q)] → (s.blk.sq c q).unclosed ≠ [] →
        (s.blk.sq c q).tab.defmode = false →
        exec (.deadlineReached id rd) s = .next (s.withBlk (((((s.blk.dlPass id (c, q) (some (List.replicate (s.blk.sq c q).tab.d 0))).inc
          (coreReg c 0x750) m.samples).updCmd id (fun y => { y with dlmiss := y.dlmiss + m.samples })).dlCount m).endCmd id .deadline)))) ∧
    (∀ (slot : Fin 160) (c q : Nat) (sq : SQ), slot.val < 128 → c = slot.val / 16 → q = slot.val % 16 → sq = s.blk.sq c q →
      s.blk.passSettled c q = true → sq.ended = false → sq.resumed = false →
      (∀ u ∈ (s.blk.core c).trk, u.q = q → u.camp = none) →
      ∃ b : Blk, exec (.belayRecordWrite slot) s = .next (s.withBlk b) ∧ (b.sq c q).belayed = true ∧
        Tab.get 0 b.belay slot.val = (Tab.get 0 s.blk.belay slot.val + 1) % 2 ^ 32 ∧
        (∀ k, k ≠ slot.val → Tab.get 0 b.belay k = Tab.get 0 s.blk.belay k) ∧
        (∀ u ∈ (b.core c).trk, u.q = q → u.faulted = false) ∧
        (∀ y, s.blk.cmd sq.owner = some y →
          b.cmd sq.owner = some { y with belay := some (slot.val, (Tab.get 0 s.blk.belay slot.val + 1) % 2 ^ 32) }) ∧ b.dev = s.blk.dev) ∧
    (∀ (c : Fin 8) (t : Fin 4) (slot : Fin 160) (y : Cmd) (kind w nx : Nat) (sg : Nat × Nat) (us : List Nat), slot.val = 128 + 4 * c + t →
      (s.blk.sq c (16 + t)).st ≠ .parked → s.blk.taskCmd c t = some y →
      (s.blk.parkedOps c t y).find? (fun x => !s.blk.belayed.contains (slot.val, x.2.1.1, x.2.1.2)) = some (kind, sg, w, nx, us) →
      ∃ b : Blk, exec (.belayRecordWrite slot) s = .next (s.withBlk (b.belayWrite slot y.id
          { kind := kind, final := false, core := c, queue := 0, task := t, ring := y.ring, w := w, bw := 0, fslot := sg.1, fgen := sg.2,
            pass := 0, next := nx, ubits := us, bbits := [] })) ∧ (slot.val, sg.1, sg.2) ∈ b.belayed ∧
        { b with belayed := s.blk.belayed } = s.blk)

/-- REGISTER_WRITE (R9, R11): a write of 4 or 8 aligned bytes of a plain register leaves its RW fields as written, clears the W1C bits
written as 1 and leaves every other field and every other register alone; any other access changes nothing, nor does a write of a
register that is absent or not open, of a ring's fields while its EN is 1, or of a locked tier size. -/
def Obligations.RegisterWritesFollowAccessTypes : Prop :=
  ∀ (s : State) (off size : Nat) (v : W64),
    (accessHalf off size = none → exec (.registerWrite off size v) s = .next s) ∧
    (∀ (h : Half) (o : Nat), accessHalf off size = some h → o = off / 8 * 8 →
      (o ∈ [0x1100, 0x20800, 0x40200, 0x11018, 0x60010, 0x90008] ∨ (∃ n, n < 64 ∧ o = 0x40000 + 8 * n) ∨
        (∃ n, n < 256 ∧ (o = 0x31000 + 16 * n ∨ o = 0x31008 + 16 * n)) →
        (s.blk.regOpen o = false → exec (.registerWrite off size v) s = .next s) ∧
        (∀ (r : RegDesc) (i j : Nat), regAt o = some (r, i, j) → s.blk.regOpen o = true →
          ∃ b : Blk, exec (.registerWrite off size v) s = .next (s.withBlk b) ∧
            b.reg o = fieldsAfter r (s.blk.reg o) h (if h = .full then v else v &&& 0xFFFFFFFF) ∧
            (∀ p, p ≠ o → b.reg p = s.blk.reg p) ∧ { b with regs := s.blk.regs } = s.blk)) ∧
      (∀ n, n < 64 → (o = ringReg n 8 ∨ o = ringReg n 16) → s.blk.ringEn n = true → exec (.registerWrite off size v) s = .next s) ∧
      (∀ k, k < 3 → o = 0x30040 + 8 * k → s.blk.regOpen o = true → covers h 0 = true →
        (o ∈ s.blk.locked → exec (.registerWrite off size v) s = .next s) ∧
        (o ∉ s.blk.locked → ∃ b : Blk, exec (.registerWrite off size v) s = .next (s.withBlk b) ∧ b.rf o 0 15 = fld v 0 15 ∧
          b.locked = o :: s.blk.locked ∧ (∀ p, p ≠ o → b.reg p = s.blk.reg p))))

/-- The cube array (R123, R128, R130, R135, R138, R143, R145): a loaded plane is resident with its matrix, unchecked; an instruction that
has its locks and its plane issues with its activations; a check wavefront that passes marks its plane, a data wavefront commits exact
integer dot products to its tile; a mismatch that may be retried is retried, any other ends the command with 41h. -/
def Obligations.ArrayWorksOnPlanes : Prop :=
  ∀ (s : State) (c : Fin 8) (rd : View), s.blk.coreLive c = true → s.blk.coreRst c = false →
    (∀ (p : Fin 2) (x : Plane) (b1 : Blk) (w : List (List W32)) (cs : Tab W32) (sat : Bool) (ms : List (FV × FV)),
      x = (s.blk.core c).plane p → x.st = .loading → x.joined = false → s.blk.planeData c rd x = (b1, .ok (w, cs, sat, ms)) →
      ∃ b2 : Blk, exec (.planeLoadDone c p rd) s = .next (s.withBlk b2) ∧ ((b2.core c).plane p).st = .resident ∧
        ((b2.core c).plane p).w = w ∧ ((b2.core c).plane p).cs = cs ∧ ((b2.core c).plane p).checked = false ∧
        b2.reg (coreReg c 0x458) = b1.reg (coreReg c 0x458) + 1 ∧
        (x.key.head? ∈ [some 0, some 2, some 3] → ∀ j ∈ s.blk.joiners c x.key,
          ((b2.core j.1).plane j.2).st = .resident ∧ ((b2.core j.1).plane j.2).w = w)) ∧
    (∀ (b1 b2 b3 k3 b4 b5 : Blk) (a : AInstr) (key : List Nat) (p : Nat) (ws : List WPart) (rows : List (List W32)) (rs cs : List W32)
        (sat : Bool) (ms : List (FV × FV)), s.blk.unitIssues c = true → s.blk.build.arrays = true →
      b1 = interNext 16 c ((((List.range 20).foldl (fun b q => (b.batchQueue c q).batchGrad c q) (s.blk.arraySweep c)).batchPlan c).updCore c
        (fun k => { k with flush := false })) →
      b1.qHeld 4 c 0 = false → (b1.core c).head = some a → b1.arrayLocks c a = (b2, true) → b2.planeKey c a.src = (b3, .ok key) →
      k3 = b3.updCore c (fun k => { k with iq := k.iq.map (fun x => if x.id = a.id then { x with key := key } else x) }) →
      (k3.core c).planeOf key = some p → ((k3.core c).plane p).st = .resident →
      (∀ x ∈ (k3.core c).iq, x.issued = true → x.done = false → x.cmd = a.cmd) →
      Blk.xlWrites (.plane c) a.ctx (if a.kind = .matx then (List.range (adM a.ad)).flatMap (matxRanges a.ad) else []) k3 = (b4, .ok ws) →
      b4.actRows c rd a = (b5, .ok (rows, rs, cs, sat, ms)) →
      ∃ b6 : Blk, exec (.arrayInstructionIssue c rd) s = .next (s.withBlk b6) ∧
        (∀ x ∈ (b6.core c).iq, x.id = a.id → x.issued = true ∧ x.rows = rows ∧ x.scales = rs ∧ x.cols = cs ∧ x.plane = p ∧ x.key = key) ∧
        (b6.core c).lastCmd = some a.cmd ∧ (b6.core c).ramp ≠ .gated) ∧
    (∀ (a : AInstr) (x : Plane), (∀ m ∈ s.blk.cmds, m.unitReady = []) → (s.blk.core c).iq.find? (fun a => a.issued && !a.done) = some a →
      x = (s.blk.core c).plane a.plane →
      ((x.checked = false ∨ (s.blk.core c).lastPlane ≠ some a.plane) → x.retried = false →
        ∃ b : Blk, exec (.wavefrontCommit c .none) s = .next (s.withBlk b) ∧ (b.core c).plane a.plane = { x with checked := true, logged := false } ∧
          (b.core c).lastPlane = some a.plane ∧ b.regs = s.blk.regs ∧ b.dev = s.blk.dev ∧ b.cmds = s.blk.cmds) ∧
      (x.checked = true → (s.blk.core c).lastPlane = some a.plane → a.kind = .matx → a.retry = false → fmtInt (adFmt a.ad) = true →
        adScale a.ad = false → adAcc a.ad = false → adDlo a.ad < 6 → adDhi a.ad = 7 → a.fmt = adFmt a.ad →
        ∃ b : Blk, exec (.wavefrontCommit c .none) s = .next (s.withBlk b) ∧
          (∀ i j, a.next ≤ i → i < a.next + min (fmtRate a.fmt) (adM a.ad - a.next) → j < 128 →
            (b.tile c (adDlo a.ad)).at (128 * i + j) = w32i (dotInt (a.rows.getD i []) (planeCol x.w j))) ∧
          (∀ t k, t ≠ adDlo a.ad → (b.tile c t).at k = (s.blk.tile c t).at k) ∧
          b.reg (coreReg c 0x448) = s.blk.reg (coreReg c 0x448) + 1 ∧ b.dev = s.blk.dev ∧ b.host = s.blk.host) ∧
      (∀ ix : Fin 128, x.checked = true → (s.blk.core c).lastPlane = some a.plane →
        (s.blk.rb (coreReg c 0x400) 0 = true → a.retry = false →
          ∃ b : Blk, exec (.wavefrontCommit c (.row ix)) s = .next (s.withBlk b) ∧ b.rb (coreReg c 0x420) 0 = true ∧
            (∀ y ∈ (b.core c).iq, y.id = a.id → y.retry = true) ∧ b.cmds = s.blk.cmds ∧ (b.core c).tiles = (s.blk.core c).tiles) ∧
        ((s.blk.rb (coreReg c 0x400) 0 = false ∨ a.retry = true) →
          ∃ b : Blk, exec (.wavefrontCommit c (.row ix)) s = .next (s.withBlk (b.failCmd a.cmd 0x41)) ∧
            b.reg (coreReg c 0x470) = s.blk.reg (coreReg c 0x470) + 1 ∧ b.rb (coreReg c 0x410) 9 = true ∧ b.rb (coreReg c 0x420) 0 = true ∧
            b.cores = s.blk.cores ∧ b.cmds = s.blk.cmds)))

/-- Around the array (R119, R140, R142, R146, R424): locks are granted in request order as far as a tile buffer allows; a stalemate is
told once for each wait; a dummy wavefront counts; a ramp steps down to gated; feeder rows that have waited are flushed; the wait for a
multicast E ends and the chip reads its own copy. -/
def Obligations.ArrayIsKeptInOrder : Prop :=
  ∀ (s : State) (c : Fin 8) (i : Fin 6) (t : Tile), s.blk.coreLive c = true → t = s.blk.tile c i →
    (s.blk.coreRst c = false → (∀ q < 20, (s.blk.sq c q).cons.tb ≠ some i.val) →
      exec (.tileLockGrant c i) s = .next (s.withBlk (s.blk.updTile c i (fun t => t.grant (t.waits.length + 1)))) ∧
      (∀ (r : LockReq) (rest : List LockReq), t.waits = r :: rest →
        (t.lock = .free → r.write = true →
          t.grant (t.waits.length + 1) = { t with lock := .exclusive, owner := r.task, unit := r.unit, waits := rest }) ∧
        (t.lock = .exclusive ∨ t.lock = .queued → t.grant (t.waits.length + 1) = t) ∧
        (t.lock = .shared → r.write = true → t.grant (t.waits.length + 1) = t) ∧
        (t.lock = .free → r.write = false → (∀ y ∈ rest.head?, y.write = true) →
          t.grant (t.waits.length + 1) = { t with lock := .shared, readers := [(r.task, r.unit)], waits := rest }))) ∧
    (∀ (r : LockReq) (o : Nat), t.waits.find? (fun r => !r.told && (t.holder r.task).isSome &&
        decide (r.since + s.blk.rf (coreReg c 0x408) 0 32 < s.blk.time.toNat)) = some r → s.blk.rf (coreReg c 0x408) 0 32 ≠ 0 →
      t.holder r.task = some o →
      ∃ b : Blk, exec (.stalemate c i) s = .next (s.withBlk ((b.event 0x41 0 c 0 [BitVec.ofNat 64 (i + o <<< 4 + r.task <<< 6)]).updTile c i
          (fun t => { t with waits := t.waits.map (fun x => if x = r then { x with told := true } else x) }))) ∧
        b.rb (coreReg c 0x410) 8 = true ∧ b.reg (coreReg c 0x478) = s.blk.reg (coreReg c 0x478) + 1 ∧ { b with regs := s.blk.regs } = s.blk) ∧
    (s.blk.unitIssues c = true → (s.blk.core c).arrayIdle = true → (s.blk.core c).lastPlane.isSome = true → (s.blk.core c).ramp ≠ .gated →
      s.blk.rf (coreReg c 0x400) 8 8 ≠ 0 →
      exec (.dummyWavefront c) s = .next (s.withBlk (s.blk.setReg (coreReg c 0x450) (s.blk.reg (coreReg c 0x450) + 1)))) ∧
    ((s.blk.core c).arrayIdle = true → (s.blk.core c).ramp ≠ .gated →
      exec (.rampDown c) s = .next (s.withBlk (s.blk.updCore c (fun k =>
        { k with ramp := if (s.blk.core c).duty ≤ 1 then .gated else .down, duty := (s.blk.core c).duty - 1 })))) ∧
    (s.blk.unitIssues c = true → (∃ f ∈ (s.blk.core c).feed, f.sent = false) →
      (s.blk.core c).feedFrom + max 16 (s.blk.rf (coreReg c 0x400) 32 16) ≤ s.blk.time.toNat →
      exec (.feederTailFlush c) s = .next (s.withBlk (s.blk.updCore c (fun k => { k with flush := true })))) ∧
    (∀ (p : Fin 2) (x : Plane) (tab : TableCopy) (h : Nat) (tr : Bool), x = (s.blk.core c).plane p → x.st = .loading → x.src = .exp tab h tr →
      s.blk.emcWaits tab x = true → x.loadFrom + fld (qw tab.smd 6) 32 32 ≤ s.blk.time.toNat →
      (∀ o < 2, o ≠ p.val → ((s.blk.core c).plane o).st ≠ .loading) →
      ∃ b : Blk, exec (.ewaitTimeout c) s = .next (s.withBlk b) ∧ (b.core c).plane p = { x with fallback := true, mcb := [] } ∧
        (∀ o, o ≠ p.val → (b.core c).plane o = (s.blk.core c).plane o) ∧ b.reg 0x70228 = s.blk.reg 0x70228 + 1 ∧
        { b with regs := s.blk.regs, cores := s.blk.cores } = s.blk)

/-- Chain operations (R164, R171, R175, R205): the next ready operation in turn starts with its scales and its S registers read once and
goes on as far as its reads have returned; after a first pass its scales are written and the next pass begins; an operation whose writes
are acknowledged ends with its tag, its output lock and its summaries. -/
def Obligations.ChainOperationsRun : Prop :=
  ∀ (s : State) (c : Fin 8) (rd : View),
    (∀ (b1 b2 : Blk) (o : ChainOp) (us : List QsdUse), s.blk.unitIssues c = true → b1 = s.blk.arraySweep c →
      (∀ x ∈ (b1.core c).ch, x.running = false) → b1.qHeld 3 c 0 = false →
      ((List.range 4).map (fun i => ((b1.core c).chRR + 1 + i) % 4)).findSome? (fun t =>
        (b1.core c).ch.find? (fun o => o.task = t && (b1.core c).chainReady o)) = some o →
      vdIsrc o.vd ≠ 2 → vdOdst o.vd ≠ 1 → Blk.slotReads c o rd o.qs b1 = (b2, .ok us) →
      ∃ b3 : Blk, exec (.chainStart c rd) s = .next (s.withBlk
          (b3.chainRun (((((b3.core c).ch.find? (fun o => o.running)).map (fun o => o.chunks - o.w)).getD 0)) c rd)) ∧
        (b3.core c).chRR = o.task ∧
        (∀ x ∈ (b3.core c).ch, x.id = o.id → x.running = true ∧ x.rows = vdRows o.vd ∧ x.cols = vdCols o.vd ∧ x.ityp = vdIfmt o.vd ∧
          x.w = o.w ∧ x.chunks = chunkCount b2.build.lanes (vdRows o.vd) (vdCols o.vd) ∧ x.qs = us ∧
          x.sregs = (List.range 8).map (fun i => Tab.get 0 (b2.task c o.task).s i)) ∧
        (vdClrst o.vd = true → b3.rf (coreReg c (0x600 + 8 * o.task)) 0 5 = 0) ∧ b3.dev = b2.dev ∧ b3.host = b2.host) ∧
    (∀ (b1 : Blk) (o : ChainOp) (u : QsdUse) (sc : List W32) (ps : List WPart), s.blk.unitIssues c = true →
      (s.blk.core c).ch.find? (fun o => o.running && o.pass1 && o.chunks ≤ o.w) = some o → o.need = some u →
      sc = (List.range (fld (qw u.hdr 0) 32 32)).map (fun g => firstScale (stTgt (vdStage o.vd u.stage)) (u.group g)) →
      Blk.xlWrites (.chain c o.task) o.ctx [(u.va + 64, scaleBytes sc)] s.blk = (b1, .ok ps) →
      ∃ b2 : Blk, exec (.chainPass1End c rd) s = .next (s.withBlk
          (b2.chainRun (((((b2.core c).ch.find? (fun o => o.running)).map (fun o => o.chunks - o.w)).getD 0)) c rd)) ∧
        b2.host = (b1.writeParts o.cmd ps).1.host ∧ b2.wq = (b1.writeParts o.cmd ps).1.wq ∧
        (∀ x ∈ (b2.core c).ch, x.id = o.id → x.w = 0 ∧ ∀ y ∈ x.qs, y.stage = u.stage → y.scales = some sc ∧ y.xs = [])) ∧
    (∀ o : ChainOp, s.blk.coreLive c = true → s.blk.coreRst c = false →
      (s.blk.core c).ch.find? (fun o => o.running && !o.pass1 && o.chunks ≤ o.w && o.park.isNone) = some o →
      (s.blk.core c).ch.find? (fun x => x.id = o.id) = some o → o.closed = true → o.qs = [] → s.blk.passed o.ids = true →
      ∃ b : Blk, exec (.chainEnd c) s = .next (s.withBlk b) ∧ (∀ x, x ∈ (b.core c).ch ↔ x ∈ (s.blk.core c).ch ∧ x.id ≠ o.id) ∧
        b.reg (coreReg c 0x640) = s.blk.reg (coreReg c 0x640) + 1 ∧ (∀ r, r ≠ coreReg c 0x640 → b.reg r = s.blk.reg r) ∧
        b.task c o.task = { s.blk.task c o.task with
          tags := (s.blk.task c o.task).tags.erase o.tag
          sPend := (s.blk.task c o.task).sPend.filter (fun k => !(vdSums o.vd).contains k) } ∧
        (vdOdst o.vd = 1 → (s.blk.tile c (vdOtb o.vd)).holds o.task o.unit true = true → (b.tile c (vdOtb o.vd)).lock = .free) ∧
        { b with cores := s.blk.cores, regs := s.blk.regs } = s.blk)

/-- Contributions (R223, R224, R228, R469): a contribution merges its term into the entry of its row with one addition per lane and a count,
or creates the entry in its set; CONTRIBUTION_MERGE moves the first resolved element that can go; a parity error of the coalescer's array is
block-fatal. -/
def Obligations.ContributionsMerge : Prop :=
  ∀ (s : State) (c : Fin 8) (q : Fin 20) (rd : View), s.blk.live = true → s.blk.coreOk c = true → (s.blk.sq c q).cons.isScat = true →
    ((∃ e ∈ s.blk.co, e.log = none) → exec (.contributionMerge c q true rd) s = .next (s.withBlk (s.blk.blockFatal 0x10))) ∧
    (∀ (b1 b2 : Blk) (x : Elem) (l : List Elem), (s.blk.sq c q).ended = false → s.blk.unitIssues c = true → (s.blk.sq c q).st = .active →
      b1 = s.blk.pass c q rd → (b1.sq c q).ready = x :: l → b1.scatElem c q rd x = (b2, .moved) →
      exec (.contributionMerge c q false rd) s = .next (s.withBlk (b2.scatEnd c q rd))) ∧
    (∀ (b : Blk) (f : FFmt) (table row chunk tally : Nat) (lanes : List W64),
      (∀ e, b.co.find? (fun e => e.is table row chunk tally) = some e → e.log = none →
        ∃ b' : Blk, b.coAdd f table row chunk tally lanes = (b', .ok) ∧
          b'.co.find? (fun e => e.is table row chunk tally) = some { e with lanes := zipLanes f.add e.lanes lanes, cnt := (e.cnt + 1) % 2 ^ 32 } ∧
          (∀ x, x.is table row chunk tally = false → (x ∈ b'.co ↔ x ∈ b.co)) ∧
          b'.reg 0x60100 = b.reg 0x60100 + 1 ∧ b'.dev = b.dev) ∧
      (b.co.find? (fun e => e.is table row chunk tally) = none →
        (b.co.filter (fun e => e.log.isNone && Config.coSet e.table e.row e.chunk % b.coSets = Config.coSet table row chunk % b.coSets)).length < 16 →
        ∃ b' : Blk, b.coAdd f table row chunk tally lanes = (b', .ok) ∧
          b'.co = b.co ++ [{ table := table, row := row, chunk := chunk, tally := tally, lanes := lanes, cnt := 1 }] ∧
          b'.reg 0x60108 = b.reg 0x60108 + 1 ∧ b'.dev = b.dev))

/-- The phases of a fence (R227, R233 to R235): SEAL once its tally has what it expects, at once with FORCE; APPLY with RECV recorded, one
fence at a time, DROPHELD freeing the held entries; after the last row the report and DONE, which frees the applied entries; at its end the
tally holds the held contributions, the anchor is reduced, and the fence is gone. -/
def Obligations.FencesGoThroughTheirPhases : Prop :=
  ∀ (s : State) (i : Nat) (f : Fence) (rd : View), s.blk.fence i = some f → s.blk.live = true → f.park = none →
    (f.phase = .wait → s.blk.tallyBusy f = false →
      (fdForce f.fd = true → ∃ b : Blk, exec (.fenceSeal i) s = .next (s.withBlk b) ∧
        b.fence i = some { f with phase := .seal, rem := 0, expect := fdExploc f.fd } ∧ { b with fences := s.blk.fences } = s.blk) ∧
      (fdForce f.fd = false → fdNsend f.fd = 0 → fdExploc f.fd ≤ s.blk.tally (fdTally f.fd) →
        ∃ b : Blk, exec (.fenceSeal i) s = .next (s.withBlk b) ∧
          b.fence i = some { f with phase := .seal, rem := 0, expect := fdExploc f.fd } ∧ { b with fences := s.blk.fences } = s.blk) ∧
      (∀ r, fdForce f.fd = false → fdNsend f.fd ≠ 0 → f.entry = true → r = s.blk.anchor (fdAnchor f.fd) % 2 ^ 32 →
        fdExploc f.fd + r ≤ s.blk.tally (fdTally f.fd) →
        ∃ b : Blk, exec (.fenceSeal i) s = .next (s.withBlk b) ∧
          b.fence i = some { f with phase := .seal, rem := r, expect := fdExploc f.fd + r } ∧ { b with fences := s.blk.fences } = s.blk) ∧
      (fdForce f.fd = false → fdNsend f.fd = 0 → s.blk.tally (fdTally f.fd) < fdExploc f.fd → exec (.fenceSeal i) s = .next s)) ∧
    (f.phase = .seal → (∀ x ∈ s.blk.fences, x.phase ≠ .apply) →
      ∃ (b : Blk) (g : Fence), exec (.fenceApplyStart i) s = .next (s.withBlk b) ∧ b.fence i = some g ∧ g.phase = .apply ∧
        g.recv = s.blk.tally (fdTally f.fd) ∧ g.nulls = Tab.get 0 s.blk.nulls (fdTally f.fd) ∧ g.applied = g.nulls ∧
        g.todo = b.tallyRows (fdTally f.fd) ∧ (fdDrop f.fd = true → ∀ e ∈ b.co, e.tally = fdTally f.fd → e ∈ s.blk.co ∧ e.held = false) ∧
        (fdDrop f.fd = false → ∀ e ∈ s.blk.co, e.tally = fdTally f.fd → { e with held := false } ∈ b.co) ∧
        (∀ e, e.tally ≠ fdTally f.fd → (e ∈ b.co ↔ e ∈ s.blk.co)) ∧ { b with fences := s.blk.fences, co := s.blk.co } = s.blk) ∧
    (∀ (b1 : Blk) (qs : List WPart), f.phase = .apply → f.todo = [] → (∀ t ∈ f.tabs, t.compact = false) →
      s.blk.xlWrite (.report i) f.ctx (fdRbase f.fd) f.report = (b1, .parts qs) → (b1.freed.writeParts f.cmd qs).1.fence i = some f →
      ∃ b : Blk, exec (.fenceApplyEnd i rd) s = .next (s.withBlk b) ∧
        b.fence i = some { f with phase := .done, ids := ((b1.freed.writeParts f.cmd qs).2), repFail := none } ∧
        (∀ e ∈ b.co, e.tally = fdTally f.fd → e.applied = false) ∧ b.host = (b1.freed.writeParts f.cmd qs).1.host ∧
        b.wq = (b1.freed.writeParts f.cmd qs).1.wq) ∧
    (∀ (b1 : Blk) (l : List (WPart × Bool × W64)), f.phase = .done → f.writes = [] → s.blk.passed f.ids = true →
      (∀ m ∈ f.mcs, Tab.get 0 s.blk.lx.mcast m = 0) → f.abortLate = false →
      Blk.statAdds (.report i) f.ctx (f.tabs.flatMap f.totals) s.blk = (b1, .ok l) →
      ∃ b : Blk, exec (.fenceDone i) s = .next (s.withBlk b) ∧ (∀ x ∈ b.fences, x.id ≠ i) ∧
        b.reg (0x61000 + 8 * fdTally f.fd) = BitVec.ofNat 64 f.held ∧ Tab.get 0 b.nulls (fdTally f.fd) = 0 ∧
        (fdForce f.fd = false → fdNsend f.fd ≠ 0 →
          b.anchor (fdAnchor f.fd) = (b1.anchor (fdAnchor f.fd) + (2 ^ 48 - (fdNsend f.fd * 2 ^ 32 + f.rem) % 2 ^ 48)) % 2 ^ 48) ∧
        (∀ m, b1.cmd f.cmd = some m → ∃ m', b.cmd f.cmd = some m' ∧ m'.applied = m.applied + f.applied))

/-- The application of a row (R234, R236, R239): a row whose reads have returned is updated, its writes are issued, its entries are marked
as applied and counted; a row without its table is held; the acknowledgement of its writes leaves the fence. -/
def Obligations.RowsAreApplied : Prop :=
  ∀ (s : State) (i : Nat) (f : Fence) (rd : View), s.blk.fence i = some f → s.blk.live = true →
    (∀ (r : FenceRow) (rest : List FenceRow) (t : TableCopy) (e : List W64) (b1 b2 b3 : Blk) (x : RowRead) (y : RowEnc × List Byte × List Byte)
        (ps : List WPart), f.phase = .apply → f.park = none → f.todo = r :: rest →
      f.tabs.find? (fun t => t.num = r.table) = some t → f.list.find? (fun e => leTable e = r.table) = some e → t.reprows = 0 →
      s.blk.rowRead i t rd r.row = (b1, .ok x) → x.place = .home → y = b1.rowUpdate f t e r.row x →
      Blk.xlWrites (.entry f.id) f.ctx (rowWrites t r.row false y none) b1 = (b2, .ok ps) → b3 = (b2.writeParts f.cmd ps).1 → b3.fence i = some f →
      ∃ (b : Blk) (g : Fence), exec (.entryApply i rd) s = .next (s.withBlk b) ∧ b.fence i = some g ∧
        g.todo = f.todo.filter (· ≠ r) ∧ g.fin = f.fin ++ [r] ∧ g.rows = f.rows + 1 ∧
        g.applied = f.applied + b3.rowCount r (fdTally f.fd) ∧ g.chunks = f.chunks + (b3.rowEntries f r).length ∧
        g.writes = f.writes ++ [{ table := r.table, row := r.row, ids := (b2.writeParts f.cmd ps).2, camp := none }] ∧
        (∀ c ∈ b.co, c.table = r.table → c.row = r.row → c.tally = fdTally f.fd → c.applied = true) ∧
        b.reg 0x60120 = b3.reg 0x60120 + BitVec.ofNat 64 (b3.rowEntries f r).length ∧
        b.host = b3.host ∧ b.wq = b3.wq ∧ b.dev = b3.dev) ∧
    (∀ (r : FenceRow) (rest : List FenceRow), f.phase = .apply → f.park = none → f.todo = r :: rest →
      f.tabs.find? (fun t => t.num = r.table) = none → exec (.entryApply i rd) s = .next (s.withBlk (s.blk.holdRow f r false))) ∧
    (∀ (table row : Nat) (w : FenceW), f.writes.find? (fun w => w.table = table && w.row = row) = some w → s.blk.passed w.ids = true →
      w.camp = none → ∃ b : Blk, exec (.fenceRowWriteAck i table row) s = .next (s.withBlk b) ∧
        b.fence i = some { f with writes := f.writes.erase w } ∧ { b with fences := s.blk.fences } = s.blk)

/-- The migrator (R256, R259, R261): a copy that lands in a camp nobody wrote meanwhile makes it LIVE; a write-back that lands frees a camp
nobody looks up; poison removes the camp, or leaves it stuck; a window takes its promotions and moves its scan; the sweep after a block
reset removes FILLING camps and makes every other LIVE, and tiered lookups are served once it is done. -/
def Obligations.CampsMoveThroughTheirStates : Prop :=
  ∀ (s : State) (home : Nat), s.blk.live = true →
    (∀ e : Camp, s.blk.camp home = some e → e.st = .filling → e.copying = true → e.discard = false → e.demote = false →
      (s.blk.campBadSrc e false = false → e.recopy = false → e.updates = 0 →
        ∃ b : Blk, exec (.campCopyLanded home false) s = .next (s.withBlk b) ∧ b.camp home = some { e with st := .live, copying := false } ∧
          b = (((s.blk.campCopy e false).setCamp { e with st := .live, copying := false }).migCnt 0)) ∧
      (exec (.campCopyLanded home true) s = .next (s.withBlk ((s.blk.campRemove e).migCnt 2)) ∧
        ∀ x ∈ ((s.blk.campRemove e).migCnt 2).mig.camps, x.home ≠ home)) ∧
    (∀ e : Camp, s.blk.camp home = some e → e.st = .draining → e.copying = true →
      (s.blk.campBadSrc e true = false → e.lookups = 0 →
        ∃ b : Blk, exec (.campWritebackLanded home false) s = .next (s.withBlk b) ∧ (∀ x ∈ b.mig.camps, x.home ≠ home) ∧
          (∀ x ∈ s.blk.mig.camps, x.home ≠ home → x ∈ b.mig.camps) ∧ b.mig.slots = s.blk.mig.slots.erase e.slot) ∧
      (exec (.campWritebackLanded home true) s = .next (s.withBlk
        (((s.blk.setCamp { e with st := .live, stuck := true, copying := false }).event 0x22 0 0 0 [BitVec.ofNat 64 home]).migCnt 7)))) ∧
    (s.blk.issues = true → s.blk.diren = true → s.blk.rb 0x30418 1 = true → s.blk.mig.recov = false →
      s.blk.mig.window ≤ s.blk.time.toNat / 1024 →
      ∃ b : Blk, exec .migratorWindow s = .next (s.withBlk b) ∧ b.mig.window = s.blk.time.toNat / 1024 + 1 ∧
        b.mig.cands = s.blk.mig.cands.drop (s.blk.rf 0x30418 16 16) ∧
        b.mig.scan = (s.blk.mig.scan % 2 ^ s.blk.cdlog + min (2 ^ s.blk.cdlog) (s.blk.rf 0x30418 32 16)) % 2 ^ s.blk.cdlog) ∧
    (s.blk.diren = true → s.blk.mig.recov = true → ∃ b : Blk, exec .directorySweep s = .next (s.withBlk b) ∧
      (∀ e ∈ b.mig.camps, e.st = .live) ∧ b.mig.recov = true) ∧
    (s.blk.mig.recov = true → (∀ e ∈ s.blk.mig.camps, e.st = .live) →
      exec .directorySweepDone s = .next (s.withBlk { s.blk with mig := { s.blk.mig with recov := false } }))

/-- The courier FIFOs and the queue resets (R364, R365, R367, R370, R372 to R374): entries leave CK_COUR_OUT oldest first with their
length in CK_COUR_OTAG; words enter CK_COUR_IN all or none; a message's slot takes its length at CLOSE; a waiting half leaves after
FLUSHTO; a queue reset empties its queue, is logged and tells of itself. -/
def Obligations.QueuesKeepOrderAndReset : Prop :=
  (∀ (s : State) (c : Fin 8), s.blk.resetting = false → s.blk.pwr.st ≠ .nap → s.blk.coreOk c = true →
    ((s.blk.qHeld 9 c c = true ∨ (s.blk.core c).couOut = []) → (s.blk.couPop c).2 = 0 ∧
      exec (.courierPop c) s = .next (s.withBlk (s.blk.setReg (couReg c 8) 0))) ∧
    (∀ v n l, s.blk.qHeld 9 c c = false → (s.blk.core c).couOut = (v, n) :: l → (s.blk.couPop c).2 = v ∧
      exec (.courierPop c) s = .next (s.withBlk ((s.blk.updCore c (fun k => { k with couOut := l })).setReg (couReg c 8)
        (BitVec.ofNat 64 (1 + n <<< 4)))))) ∧
  (∀ (s : State) (c : Fin 8) (h : Half) (v : W64) (ws : List W32), s.blk.regOpen (couReg c 24) = true →
    (h = .full → ws = [v.extractLsb' 0 32, v.extractLsb' 32 32]) → (h = .low → ws = [v.extractLsb' 0 32]) →
    (h = .high → exec (.courierInWrite c h v) s = .next s) ∧
    (h ≠ .high → s.blk.couFree c < ws.length → exec (.courierInWrite c h v) s = .next (s.withBlk (s.blk.setFld (couReg c 16) 48 1 1))) ∧
    (h ≠ .high → ws.length ≤ s.blk.couFree c → ∃ b : Blk, exec (.courierInWrite c h v) s = .next (s.withBlk b) ∧
      (b.core c).couIn = (s.blk.core c).couIn ++ ws.map some ∧
      (b.core c).couOpen = (s.blk.core c).couOpen.map (fun n => n + ws.length) ∧
      { b.core c with couIn := (s.blk.core c).couIn, couOpen := (s.blk.core c).couOpen } = s.blk.core c ∧
      (∀ d, d ≠ c.val → b.core d = s.blk.core d) ∧ { b with cores := s.blk.cores } = s.blk)) ∧
  (∀ (s : State) (c : Fin 8), s.blk.regOpen (couReg c 32) = true →
    ((s.blk.core c).couOpen = none → s.blk.couFree c = 0 →
      exec (.openMsg c) s = .next (s.withBlk (s.blk.setFld (couReg c 16) 48 1 1))) ∧
    ((s.blk.core c).couOpen = none → s.blk.couFree c ≠ 0 → exec (.openMsg c) s = .next (s.withBlk (s.blk.updCore c (fun k =>
      { k with couIn := k.couIn ++ [none], couOpen := some 0 })))) ∧
    (∀ n, (s.blk.core c).couOpen = some n → exec (.openMsg c) s = .next (s.withBlk (s.blk.setFld (couReg c 16) 50 1 1)) ∧
      exec (.closeMsg c) s = .next (s.withBlk (s.blk.updCore c (fun k =>
        { k with couIn := k.couIn.map (fun x => some (x.getD (BitVec.ofNat 32 n))), couOpen := none })))) ∧
    ((s.blk.core c).couOpen = none → exec (.closeMsg c) s = .next (s.withBlk (s.blk.setFld (couReg c 16) 50 1 1)))) ∧
  (∀ (s : State) (c : Fin 8) (lo : W32) (n since : Nat), (s.blk.core c).couHalf = some (lo, n, since) → s.blk.live = true →
    s.blk.qHeld 9 c c = false →
    (since + max 16 (s.blk.rf (couReg c 40) 0 16) ≤ s.blk.time.toNat → exec (.courierFlush c) s =
      .next (s.withBlk (s.blk.updCore c (fun k => { k with couHalf := none, couOut := k.couOut ++ [(lo.setWidth 64, 4)] })))) ∧
    (s.blk.time.toNat < since + max 16 (s.blk.rf (couReg c 40) 0 16) → exec (.courierFlush c) s = .next s)) ∧
  (∀ (s : State) (cls : BitVec 8) (index : BitVec 16) (c : Fin 8) (kind : BitVec 2) (k : Nat), s.blk.live = true →
    s.blk.qExists cls.toNat index.toNat c = true → k = qCore cls.toNat index.toNat c →
    (kind ≠ 3 → s.blk.qHeld cls.toNat k index.toNat = false → ∃ b : Blk, exec (.queueReset cls index c kind) s = .next (s.withBlk b) ∧
      b.qHeld cls.toNat k index.toNat = true ∧
      b.qrst = s.blk.qrst ++ [{ cls := cls.toNat, index := index.toNat, core := k, kind := kind.toNat }] ∧
      { b with qrst := s.blk.qrst } = s.blk) ∧
    (∀ r, s.blk.qrst = [r] → r.cls = cls.toNat → r.core = k → r.index = index.toNat →
      ∃ b : Blk, exec (.queueResetDone cls index c) s = .next (s.withBlk (((b.log 0x1208 0 (BitVec.ofNat 64
          (r.kind <<< 2 + cls.toNat <<< 8 + index.toNat <<< 16 + k <<< 32))).inc 0x1210 1).event 0x42 0 k 0
          [BitVec.ofNat 64 (cls.toNat + index.toNat <<< 8)])) ∧
        (cls = 2 → (b.sq k index.toNat).st = .free) ∧ (cls = 3 → (b.core k).tq = []) ∧
        (cls = 4 → (b.core k).iq = [] ∧ (b.core k).feed = []) ∧ (cls = 6 → (b.core k).workq = []) ∧ (cls = 8 → b.evPath = []) ∧
        (cls = 9 → (b.core k).couOut = [] ∧ b.rf (couReg k 16) 16 1 = 0) ∧
        (cls = 10 → (b.core k).couIn = [] ∧ (b.core k).couOpen = none ∧ b.rf (couReg k 16) 48 1 = 0)))

/-- The states of a port (R381, R390 to R392, R411): what a write of CK_LX_PCTRL, lock and its loss, ADVERT, CONFIRM, RESYNC and the
timeouts do to it. -/
def Obligations.PortsChangeState : Prop :=
  ∀ (s : State) (p : Fin 8) (x : Port) (now : Nat), x = s.blk.port p → now = s.blk.time.toNat → s.blk.portOn p = true →
    (∀ (h : Half) (v : W64) (b1 : Blk), s.blk.regOpen (pctrl p) = true → h ≠ .high →
      b1 = (s.blk.fieldWrite (pctrl p) h v).setFld (pctrl p) 5 2 0 →
      (b1.portEn p = true → x.st = .down → x.oerst = true → ∃ b : Blk, exec (.linkEnable p h v) s = .next (s.withBlk b) ∧
        OnlyPort p { x with hold := false, oerst := false, oeSince := now } b1 b) ∧
      (b1.rb (pctrl p) 0 = false → x.st ≠ .down → x.quiet → ∃ b : Blk, exec (.linkEnable p h v) s = .next (s.withBlk b) ∧
        OnlyPort p { x.fall with hold := false, oerst := true } b1 b) ∧
      (b1.portEn p = true → x.st = .active → x.oerst = false → bit v 2 = true →
        ∃ b : Blk, exec (.retrain p h v) s = .next (s.withBlk b) ∧
          OnlyPort p (({ x with hold := false } : Port).retraining now) (b1.inc (pcnt p 6) 1) b)) ∧
    (x.st = .down → s.blk.portEn p = true → x.hold = false → x.oerst = false →
      (x.oeSince + 25000 ≤ now → ∃ b : Blk, exec (.oeResetRelease p) s = .next (s.withBlk b) ∧ OnlyPort p (x.training now) s.blk b) ∧
      (now < x.oeSince + 25000 → exec (.oeResetRelease p) s = .next s)) ∧
    (x.lol = true → exec (.laneLock p) s = .next s) ∧
    (x.lol = false → x.st = .train → x.since ≤ now → ∃ b : Blk, exec (.laneLock p) s = .next (s.withBlk b) ∧
      OnlyPort p { x with st := .negotiate, since := now, confSent := none } s.blk b) ∧
    (x.lol = false → x.st = .retrain → ∃ b : Blk, exec (.laneLock p) s = .next (s.withBlk b) ∧
      OnlyPort p { x with locked := true } s.blk b) ∧
    (x.st = .train → x.since + 2500000 ≤ now → ∃ b : Blk, exec (.trainTimeout p) s = .next (s.withBlk b) ∧
      OnlyPort p { x with err := 1, since := now + 250000 } (s.blk.inc (pcnt p 10) 1) b) ∧
    (x.st = .negotiate →
      (x.since + 250000 ≤ now → ∃ b : Blk, exec (.negotiateTimeout p) s = .next (s.withBlk b) ∧ OnlyPort p (x.training now) s.blk b) ∧
      (∀ (vm : BitVec 3) (enc : Bool) (node : BitVec 16) (port : BitVec 3) (free : List (BitVec 16)),
        (node ≠ 0xFFFF → vm.getLsbD 0 = true → ∃ b : Blk, exec (.advert p vm enc node port free) s = .next (s.withBlk b) ∧
          OnlyPort p { x with confSent := some 1, pnode := node.toNat, pport := port.toNat, penc := enc,
                              pfree := free.map (fun n => n.toNat) } s.blk b) ∧
        (node ≠ 0xFFFF → vm.getLsbD 0 = false → x.quiet → ∃ b : Blk, exec (.advert p vm enc node port free) s = .next (s.withBlk b) ∧
          OnlyPort p { x.fall with err := 2, hold := true } s.blk b) ∧
        (node = 0xFFFF → x.quiet → s.blk.portEn p = true → ∃ b : Blk, exec (.advert p vm enc node port free) s = .next (s.withBlk b) ∧
          OnlyPort p (({ x.fall with err := 3 } : Port).training now) s.blk b)) ∧
      (∀ vsel : BitVec 3,
        (vsel ≠ 1 → x.quiet → ∃ b : Blk, exec (.confirm p vsel) s = .next (s.withBlk b) ∧
          OnlyPort p { x.fall with err := 2, hold := true } s.blk b) ∧
        (vsel = 1 → x.confSent = none → exec (.confirm p vsel) s = .next s) ∧
        (∀ ver, vsel = 1 → x.confSent = some ver → ∃ b : Blk, exec (.confirm p vsel) s = .next (s.withBlk (b.pumpAll p)) ∧
          OnlyPort p { x with
            st := .active, since := now, ver := ver, credit := (List.range 5).map (fun i => x.pfree.getD i 0), txSeq := 0, rxSeq := 0
            nak := false, sinceAck := 0, progress := now } s.blk b))) ∧
    (∃ b : Blk, exec (.lossOfLight p) s = .next (s.withBlk b) ∧
      (x.st = .train → OnlyPort p { x with lol := true, err := 6, since := now + 250000 } (s.blk.inc (pcnt p 10) 1) b) ∧
      (x.st = .active → OnlyPort p (({ x with lol := true } : Port).retraining now) (s.blk.inc (pcnt p 6) 1) b) ∧
      (x.st ≠ .train → x.st ≠ .active → OnlyPort p { x with lol := true } s.blk b)) ∧
    (∃ b : Blk, exec (.lossOfLightCleared p) s = .next (s.withBlk b) ∧ OnlyPort p { x with lol := false } s.blk b) ∧
    (x.st = .active → ∃ b : Blk, exec (.lossOfFecLock p) s = .next (s.withBlk b) ∧
      OnlyPort p (x.retraining now) (s.blk.inc (pcnt p 6) 1) b) ∧
    (x.st = .retrain →
      (x.since + 500000 ≤ now → x.quiet → s.blk.portEn p = true → ∃ b : Blk, exec (.retrainTimeout p) s = .next (s.withBlk b) ∧
        OnlyPort p (({ x.fall with err := 4 } : Port).training now) s.blk b) ∧
      (∀ (node : BitVec 16) (port : BitVec 3) (free : List (BitVec 16)) (last : BitVec 16), x.locked = true →
        ((node.toNat ≠ x.pnode ∨ port.toNat ≠ x.pport) → x.quiet → s.blk.portEn p = true →
          ∃ b : Blk, exec (.resync p node port free last) s = .next (s.withBlk b) ∧
            OnlyPort p (({ x.fall with err := 3 } : Port).training now) s.blk b) ∧
        (∀ (a : Blk) (y : Port), node.toNat = x.pnode → port.toNat = x.pport → a = s.blk.ackTo p last.toNat → y = a.port p →
          ∃ b : Blk, exec (.resync p node port free last) s = .next (s.withBlk (b.pumpAll p)) ∧
            OnlyPort p { y with
              st := .active, since := now, nak := false, progress := now
              credit := (List.range 5).map (fun i => if i = 4 then y.credit.getD 4 0 else (free.getD i 0).toNat)
              replayBuf := y.replayBuf.map (fun f => { f with sends := 1 }), resend := y.replayBuf.map (fun f => f.seq) } a b ∧
            (∀ i, x.replayBuf.findIdx? (fun f => f.seq = last.toNat) = some i → y.replayBuf = x.replayBuf.drop (i + 1)) ∧
            ((∀ f ∈ x.replayBuf, f.seq ≠ last.toNat) → y = x))))

/-- Flits in both directions (R383 to R389, R404, R405, R407): what a received flit does by its codewords, CRC, sequence number and type;
acknowledgement, replay and the loss of a request; a message leaves in flits as credits allow, moves to the escape pool, or passes on
toward its node. -/
def Obligations.FlitsCarryMessages : Prop :=
  ∀ (s : State) (p : Fin 8) (x : Port) (now : Nat), x = s.blk.port p → now = s.blk.time.toNat → s.blk.portOn p = true →
    (∀ (f : Flit) (a : Blk) (h : W64) (pool : Nat), a = s.blk.inc (pcnt p 2) f.corrected → h = f.bits.extractLsb' 0 64 →
      (x.st = .down ∨ x.st = .train → exec (.flitReceive p f) s = .next s) ∧
      (∀ (fw : List Nat) (y : Port), x.st = .active → f.badFec = true →
        fw = now :: x.fecWin.filter (fun t => decide (now < t + 250000)) →
        y = (if fld h 0 2 = 1 then ({ x with fecWin := fw } : Port).discard (flitPool h) else { x with fecWin := fw }) →
        ∃ b : Blk, exec (.flitReceive p f) s = .next (s.withBlk b) ∧
          (fw.length ≤ 64 → OnlyPort p y (a.inc (pcnt p 3) 1) b) ∧
          (64 < fw.length → OnlyPort p (y.retraining now) ((a.inc (pcnt p 3) 1).inc (pcnt p 6) 1) b)) ∧
      (x.st = .active → f.badFec = false → crc32 (Flit.bytes f.bits 0 252) ≠ f.bits.extractLsb' 2016 32 → fld h 0 2 = 1 →
        ∃ b : Blk, exec (.flitReceive p f) s = .next (s.withBlk b) ∧ OnlyPort p (x.discard (flitPool h)) (a.inc (pcnt p 4) 1) b) ∧
      (x.st = .active → f.badFec = false → crc32 (Flit.bytes f.bits 0 252) = f.bits.extractLsb' 2016 32 →
        (fld h 0 2 = 1 → flitPool h = some pool →
          (fld h 8 16 ≠ x.rxSeq → ∃ b : Blk, exec (.flitReceive p f) s = .next (s.withBlk (b.flitFields p h)) ∧
            OnlyPort p (x.discard (some pool)) a b) ∧
          (fld h 8 16 = x.rxSeq → x.openFlit h f.bits = none → ∃ b : Blk, exec (.flitReceive p f) s = .next (s.withBlk b) ∧
            OnlyPort p (x.discard (some pool)) (a.inc (pcnt p 7) 1) b) ∧
          (∀ l : List Byte, fld h 8 16 = x.rxSeq → x.openFlit h f.bits = some l →
            ∃ b : Blk, exec (.flitReceive p f) s = .next (s.withBlk (b.flitFields p h)) ∧
              (b.port p).rxSeq = (x.rxSeq + 1) % 65536 ∧ (b.port p).nak = false ∧ (b.port p).st = x.st ∧
              (∀ (m : LMsg) (n : Nat), x.rx = [] → x.rxBytes = [] →
                cutMsgs (bit h 5) 32 ([], false) l [] 0 = ([m], ([], false), n, 0) → m.fits pool = true → m.serving = none →
                (b.port p).rx = [(pool, m)]))) ∧
        (∀ (b1 : Blk) (i : Nat), fld h 0 2 = 0 → b1 = (if bit h 40 then a.ackTo p (fld h 24 16) else a) →
          (fld h 42 2 = 0 ∧ i = fld h 44 1 ∨ fld h 42 2 = 1 ∧ i = 2 + fld h 44 1 ∨ fld h 42 2 = 2 ∧ i = 4) →
          ∃ b : Blk, exec (.flitReceive p f) s = .next (s.withBlk (if bit h 41 then b.replay p else b.pumpAll p)) ∧
            OnlyPort p { b1.port p with credit := (List.range 5).map (fun k =>
              (b1.port p).credit.getD k 0 + if k = i then fld h 45 12 else 0) } b1 b)) ∧
      (x.st = .negotiate → f.badFec = false → crc32 (Flit.bytes f.bits 0 252) = f.bits.extractLsb' 2016 32 → fld h 0 2 = 2 →
        (Flit.bytes f.bits 8 24).take 1 = [2] → exec (.flitReceive p f) s =
          .next (s.withBlk (a.confirm p (leNat (((Flit.bytes f.bits 8 24).drop 1).take 1) % 8))))) ∧
    (x.st = .active → ∃ b : Blk, exec (.ackTimer p) s = .next (s.withBlk b) ∧ OnlyPort p { x with sinceAck := 0, owed := [] } s.blk b) ∧
    (x.st = .active → x.progress + s.blk.rf 0x70010 32 16 ≤ now →
      (x.replayBuf = [] → exec (.replayTimeout p) s = .next s) ∧
      ((∃ f ∈ x.replayBuf, 9 ≤ f.sends) → ∃ b : Blk, exec (.replayTimeout p) s = .next (s.withBlk b) ∧
        OnlyPort p (({ x with err := 5 } : Port).retraining now) (s.blk.inc (pcnt p 6) 1) b) ∧
      (x.replayBuf ≠ [] → (∀ f ∈ x.replayBuf, f.sends < 9) →
        ∃ b : Blk, exec (.replayTimeout p) s = .next (s.withBlk (b.pumpAll p)) ∧
          OnlyPort p { x with resend := x.replayBuf.map (fun f => f.seq), progress := now } (s.blk.inc (pcnt p 5) 1) b)) ∧
    (∀ m : TxMsg, x.st = .active → x.resend = [] → x.tx = [m] → x.credit.getD m.pool 0 = 1 → m.conf = false → x.replayBuf.length < 4096 →
      OnlyPort p { x with
        tx := if m.bytes.length ≤ 242 then [] else [{ m with bytes := m.bytes.drop 242, part := true }]
        txSeq := (x.txSeq + 1) % 65536, progress := if x.replayBuf.isEmpty then now else x.progress
        replayBuf := x.replayBuf ++ [{ seq := x.txSeq, pool := m.pool, enc := none, bytes := m.bytes.take 242,
                                       last := if m.bytes.length ≤ 242 then m.mc else none, req := m.req }]
        credit := x.credit.set m.pool 0 } (s.blk.inc (pcnt p 0) 1) (s.blk.pumpAll p)) ∧
    (∀ (tag : Nat) (r : LReq) (b : Blk), s.blk.lx.reqs.find? (fun r => r.tag = tag) = some r →
      b = (({ s.blk with lx := { s.blk.lx with reqs := s.blk.lx.reqs.erase r } } : Blk).inc 0x70100 1) →
      (now < r.sentAt + s.blk.rf 0x70010 0 32 → exec (.requestTimeout tag) s = .next s) ∧
      (r.sentAt + s.blk.rf 0x70010 0 32 ≤ now → exec (.requestTimeout tag) s = .next (s.withBlk (b.lxFail r 0x60)) ∧
        (∀ id, r.cmd = some id → r.kind = .write (some id) → b.lxFail r 0x60 = b.failCmd id 0x60))) ∧
    (∀ (resp : Bool) (k q : Nat) (m : TxMsg), k = (if resp then 1 else 0) → x.tx.find? (fun m => m.pool = k) = some m →
      q = fld (Tab.get 0 s.blk.lx.rt m.dst) 8 3 → x.st = .active → x.credit.getD k 0 = 0 → m.part = false → m.mc = none → m.bytes.headD 0 ≠ 6 →
      bit (Tab.get 0 s.blk.lx.rt m.dst) 11 = true → m.conf = false → q ≠ p.val →
      ∃ b : Blk, exec (.escapeTimeout p resp) s = .next (s.withBlk (b.pumpAll q)) ∧ b.port p = { x with tx := x.tx.erase m } ∧
        b.port q = { s.blk.port q with tx := (s.blk.port q).tx ++ [{ m with pool := k + 2 }] } ∧
        (∀ d, d ≠ p.val → d ≠ q → b.port d = s.blk.port d) ∧
        { b with lx := { b.lx with ports := s.blk.lx.ports } } = s.blk.inc (pcnt p 8) 1) ∧
    (∀ (i : Nat) (m : LMsg), HeadIs s.blk p i m → i < 4 → m.ty ≠ 6 → m.dst ≠ s.blk.node → m.conf = false →
      (∀ k y, k < i → x.head k = some y → y.ty = 6 ∨ y.dst = s.blk.node) →
      (m.hops = 0 ∨ s.blk.hop m i = none → exec (.transitForward p) s = .next (s.withBlk ((s.blk.inc (pcnt p 9) 1).consume p i))) ∧
      (∀ q j, m.hops ≠ 0 → s.blk.hop m i = some (q, j) → exec (.transitForward p) s = .next (s.withBlk
        ((s.blk.consume p i).lxPush q j (m.words.set 0 (putFld (qw m.words 0) 9 6 (m.hops - 1))) false none none))))

/-- The link tables and the management bus (R382, R403): a write of CK_LX_TADDR loads the addressed entry into CK_LX_TDATA0 and 1, a write
of CK_LX_TDATA1 commits both words without their reserved bits, no table has entries beyond its last; GO starts a transaction, whose end
clears BUSY with the byte read or with NACK. -/
def Obligations.LinkTablesAreAddressed : Prop :=
  ∀ (s : State) (h : Half) (v : W64) (a : Blk) (t i : Nat),
    (s.blk.regOpen 0x70020 = false → exec (.ckLxTaddrWrite h v) s = .next s) ∧
    (s.blk.regOpen 0x70020 = true → a = s.blk.fieldWrite 0x70020 h v → t = a.rf 0x70020 16 3 → i = a.rf 0x70020 0 16 →
      (t = 0 → i < 3840 → exec (.ckLxTaddrWrite h v) s =
        .next (s.withBlk ((a.setReg 0x70028 (Tab.get 0 a.lx.wrt i)).setReg 0x70030 0))) ∧
      (t = 1 → i < 4096 → exec (.ckLxTaddrWrite h v) s =
        .next (s.withBlk ((a.setReg 0x70028 (Tab.get 0 a.lx.rwt0 i)).setReg 0x70030 (Tab.get 0 a.lx.rwt1 i)))) ∧
      (t = 2 → exec (.ckLxTaddrWrite h v) s = .next (s.withBlk ((a.setReg 0x70028 (Tab.get 0 a.lx.rt i)).setReg 0x70030 0))) ∧
      (t = 3 → i < 1024 → exec (.ckLxTaddrWrite h v) s =
        .next (s.withBlk ((a.setReg 0x70028 (Tab.get 0 a.lx.mc i)).setReg 0x70030 0))) ∧
      (t = 0 ∧ 3840 ≤ i ∨ t = 1 ∧ 4096 ≤ i ∨ t = 3 ∧ 1024 ≤ i ∨ 4 ≤ t → exec (.ckLxTaddrWrite h v) s =
        .next (s.withBlk ((a.setReg 0x70028 0).setReg 0x70030 0)))) ∧
    (s.blk.regOpen 0x70030 = true → a = s.blk.fieldWrite 0x70030 h v → t = s.blk.rf 0x70020 16 3 → i = s.blk.rf 0x70020 0 16 →
      (t = 0 → i < 3840 → exec (.ckLxTdata1Write h v) s = .next (s.withBlk { a with lx := { a.lx with
        wrt := Tab.set 0 a.lx.wrt i (s.blk.reg 0x70028 &&& 0x00000FFFFFFF0001) } })) ∧
      (t = 1 → i < 4096 → exec (.ckLxTdata1Write h v) s = .next (s.withBlk { a with lx := { a.lx with
        rwt0 := Tab.set 0 a.lx.rwt0 i (s.blk.reg 0x70028 &&& 0x00003FFFFFFFFF1F)
        rwt1 := Tab.set 0 a.lx.rwt1 i (a.reg 0x70030 &&& 0xFFFF003F001FFFFF) } })) ∧
      (t = 2 → exec (.ckLxTdata1Write h v) s = .next (s.withBlk { a with lx := { a.lx with
        rt := Tab.set 0 a.lx.rt i (s.blk.reg 0x70028 &&& 0xFFF) } })) ∧
      (t = 3 → i < 1024 → exec (.ckLxTdata1Write h v) s = .next (s.withBlk { a with lx := { a.lx with
        mc := Tab.set 0 a.lx.mc i (s.blk.reg 0x70028 &&& 0x3FF) } })) ∧
      (t = 0 ∧ 3840 ≤ i ∨ t = 1 ∧ 4096 ≤ i ∨ t = 3 ∧ 1024 ≤ i ∨ 4 ≤ t → exec (.ckLxTdata1Write h v) s = .next (s.withBlk a))) ∧
    (s.blk.regOpen 0x70040 = true → a = s.blk.fieldWrite 0x70040 h v →
      (wrOne h v 24 = true → exec (.goWrite h v) s = .next (s.withBlk { a with lx := { a.lx with mgmtBusy := true } })) ∧
      (wrOne h v 24 = false → exec (.goWrite h v) s = .next (s.withBlk a))) ∧
    (∀ (nack : Bool) (data : Byte) (b : Blk), s.blk.live = true → b = { s.blk with lx := { s.blk.lx with mgmtBusy := false } } →
      (s.blk.lx.mgmtBusy = false → exec (.mgmtTransactionDone nack data) s = .next s) ∧
      (s.blk.lx.mgmtBusy = true → nack = true → exec (.mgmtTransactionDone nack data) s = .next (s.withBlk (b.setFld 0x70040 26 1 1))) ∧
      (s.blk.lx.mgmtBusy = true → nack = false → s.blk.rb 0x70040 7 = true →
        exec (.mgmtTransactionDone nack data) s = .next (s.withBlk (b.setFld 0x70040 16 8 data.toNat))) ∧
      (s.blk.lx.mgmtBusy = true → nack = false → s.blk.rb 0x70040 7 = false →
        exec (.mgmtTransactionDone nack data) s = .next (s.withBlk b)))

/-- Requests of partner chips (R394 to R402, R406, R408): RD and WR checked against their receive window and answered, a remote signal, a
multicast delivered and forwarded, an RPOOL or RGRAD queued as a served command, its start and its response, and an echo. -/
def Obligations.PartnerRequestsAreServed : Prop :=
  ∀ (s : State) (p : Fin 8) (i : Nat) (m : LMsg) (b1 : Blk), b1 = s.blk.consume p i →
    (∀ (w off n cr pa : Nat), w = m.hi 0 12 → off = fld (qw m.words 2) 0 32 → n = fld (qw m.words 2) 32 13 →
      cr = fld (b1.rwt w).1 8 4 →
      (RequestIs s.blk p i 1 m →
        (∀ poison, m.len ≠ 24 ∨ rwBad off n = true →
          exec (.rdMsg p poison) s = .next (s.withBlk (b1.lxRespond m.src 0x81 m.tag 0x51 [] false))) ∧
        (∀ poison, m.len = 24 → rwBad off n = false → bit (b1.rwt w).1 0 = false →
          exec (.rdMsg p poison) s = .next (s.withBlk ((b1.inc 0x70110 1).lxRespond m.src 0x81 m.tag 0x33 [] false))) ∧
        (∀ poison, m.len = 24 → rwBad off n = false → bit (b1.rwt w).1 0 = true → bit (b1.rwt w).1 1 = false →
          exec (.rdMsg p poison) s = .next (s.withBlk (b1.lxRespond m.src 0x81 m.tag 0x32 [] false))) ∧
        (m.len = 24 → rwBad off n = false → b1.rwtAddr w 1 off n m.enc = (0, pa) →
          exec (.rdMsg p true) s = .next (s.withBlk (b1.lxRespond m.src 0x81 m.tag 0x40 [] false)) ∧
          (b1.devBad pa n = false → cr = 0 → exec (.rdMsg p false) s =
            .next (s.withBlk (b1.lxRespond m.src 0x81 m.tag 0 (bytesWords n (b1.devRead 0 pa n)) false))))) ∧
      (RequestIs s.blk p i 2 m →
        (m.len ≠ 24 + n ∨ rwBad off n = true →
          exec (.wrMsg p) s = .next (s.withBlk (b1.lxRespond m.src 0x82 m.tag 0x51 [] false))) ∧
        (m.len = 24 + n → rwBad off n = false → b1.rwtAddr w 2 off n m.enc = (0, pa) → exec (.wrMsg p) s =
          .next (s.withBlk ((b1.passWrite cr pa (wordBytes (m.words.drop 3))).lxRespond m.src 0x82 m.tag 0 [] false))))) ∧
    (∀ (e : W64 × W64) (w off n : Nat) (pm : Nat), e = b1.rwt w → bit e.1 0 = true → bit e.1 pm = true → fld e.1 8 4 = 0 →
      (fld e.2 0 21 * 4096 < off + n → b1.rwtAddr w pm off n m.enc = (0x32, 0)) ∧
      (off + n ≤ fld e.2 0 21 * 4096 → b1.paRange (fld e.1 12 34 * 4096 + off) n = true →
        b1.rwtAddr w pm off n m.enc = (0, fld e.1 12 34 * 4096 + off))) ∧
    (RequestIs s.blk p i 5 m → m.len = 24 → m.hi 15 2 < 2 → exec (.remoteAsig p) s = .next (s.withBlk
      ((b1.signal (m.hi 0 15) (m.hi 15 2 = 1) (fld (qw m.words 2) 0 48)).lxRespond m.src 0x85 m.tag 0 [] false))) ∧
    (∀ e : W64, RequestIs s.blk p i 6 m → e = Tab.get 0 b1.lx.mc (m.hi 0 10) →
      (bit e 9 = false → exec (.mcast p) s = .next (s.withBlk (b1.inc 0x70118 1))) ∧
      (∀ pa, bit e 9 = true → bit e 8 = true → (∀ q, q < 8 → q ≠ p.val → bit e q = false) → m.hi 10 2 = 0 →
        b1.rwtAddr (fld (qw m.words 2) 0 12) 2 (fld (qw m.words 3) 0 32) (fld (qw m.words 3) 32 13) m.enc = (0, pa) →
        exec (.mcast p) s = .next (s.withBlk ((b1.passWrite (fld (b1.rwt (fld (qw m.words 2) 0 12)).1 8 4) pa
          ((wordBytes (m.words.drop 4)).take (fld (qw m.words 3) 32 13))).inc 0x70220 1))) ∧
      (∀ q, bit e 9 = true → bit e 8 = false → q < 8 → q ≠ p.val → (∀ d, d < 8 → d ≠ p.val → (bit e d = true ↔ d = q)) →
        (m.hops = 0 → exec (.mcast p) s = .next (s.withBlk (b1.inc 0x70118 1))) ∧
        (m.hops ≠ 0 → b1.portActive q = true → m.conf = false → exec (.mcast p) s =
          .next (s.withBlk (b1.lxPush q i (m.words.set 0 (putFld (qw m.words 0) 9 6 (m.hops - 1))) false none none))))) ∧
    (∀ (isPool : Bool) (rd : View) (ev : Instr) (ty : Nat), ev = (if isPool then .rpool p rd else .rgrad p rd) →
      ty = (if isPool then 3 else 4) →
      (RequestIs s.blk p i ty m → s.blk.poolWindow m ≠ 0 →
        exec ev s = .next (s.withBlk ((b1.refuse m (s.blk.poolWindow m)).servedAll p isPool rd))) ∧
      (∀ (x : Served) (y : Cmd) (c : Nat) (b2 : Blk), RequestIs s.blk p i ty m → s.blk.poolWindow m = 0 →
        x = { port := p, src := m.src, tag := m.tag, isPool := isPool, words := m.words,
              table := fld (s.blk.rwt (m.hi 0 12)).2 48 16, conf := fld (s.blk.rwt (m.hi 0 12)).1 8 4 ≠ 0 } →
        y.id = s.blk.nextCmd → y.served = some x → y.ring = fld (s.blk.rwt (m.hi 0 12)).2 32 6 → y.cd = [0x800000000] →
        y = { id := y.id, ring := y.ring, cd := y.cd, served := some x, dbase := (s.blk.ring y.ring).dbase,
              dcount := (s.blk.ring y.ring).dcount } →
        s.blk.chooseCore y = some c →
        b2 = (if isPool then b1.inc 0x70208 1 else s.blk.updPort p (fun z => { z with rx := z.rx.map (fun e =>
          if e.1 = i && e.2 = m then (e.1, { e.2 with serving := some y.id }) else e) })) →
        exec ev s = .next (s.withBlk ((({ b2 with cmds := b2.cmds ++ [y], nextCmd := s.blk.nextCmd + 1
                                                  sec := { b2.sec with zero := false } } : Blk).enqueue y.id c false).servedAll p isPool rd))) ∧
      (∀ (id c t : Nat) (y : Cmd) (x : Served) (b : Blk) (tab : TableCopy), s.blk.issues = true → s.blk.portOn p = true →
        (s.blk.port p).rx = [] → s.blk.cmd id = some y → s.blk.cmds.filter (fun z => z.served.isSome) = [y] →
        y.served = some x → y.begun = false → y.ending = false → y.park = none → y.held = some (c, t) → s.blk.coreUp c = true →
        s.blk.dbgHalted c = false → (s.blk.task c t).st = .running → x.port = p.val → x.isPool = isPool →
        s.blk.servedTable id rd x.table = (b, .ok tab) →
        (x.bad b tab = none → exec ev s = .next (s.withBlk
          ((b.updCmd id (fun z => { z with begun := true })).servedBind y x c t tab))) ∧
        (∀ st, x.bad b tab = some st → exec ev s = .next (s.withBlk (b.failCmd id st))))) ∧
    (∀ (id : Nat) (y z : Cmd) (x : Served) (b : Blk), s.blk.cmd id = some y → y.served = some x → s.blk.live = true →
      (∀ c t, y.held = some (c, t) → s.blk.coreRst c = false) → s.blk.writesDone id = true →
      s.blk.hasPass y (fun q => q.owner = id) = false → (y.begun = true ∨ y.ending = true) → (y.park = none ∨ y.ending = true) →
      s.blk.addTotals y = (b, true) → b.cmd id = some z →
      ∃ a b2 : Blk, exec (.servedResponseSend id) s = .next (s.withBlk (b2.sweepPort ((b2.port x.port).rx.length) x.port)) ∧
        b2 = { a.release z with cmds := (a.release z).cmds.filter (fun y => y.id ≠ id) } ∧
        (z.ending = true → a = b.lxRespond x.src (if x.isPool then 0x83 else 0x84) x.tag (z.fail.getD 0x7F) [] false) ∧
        (z.ending = false → x.isPool = false → a = b.lxRespond x.src 0x84 x.tag 0 [BitVec.ofNat 64 z.applied] false) ∧
        (z.ending = false → x.isPool = true → x.conf = false → a = b.lxRespond x.src 0x83 x.tag 0 (z.poolReply x) false)) ∧
    (HeadIs s.blk p 4 m → m.hi 0 8 = 1 → i = 4 → exec (.echo p) s = .next (s.withBlk
      (b1.lxPush p 4 (msgHead 0xF0 (b1.rf 0x70008 0 6) 24 b1.node 0xFFFF m.tag 2 false ++ [qw m.words 2]) false none none)))

/-- Responses (R394, R397, R407, R418, R227): the response to an open request is taken once and gives its data, its partial sums, its count
or its tag to what waits for it; one with a status ends the request's command with the link status; one that answers no open request is
counted and dropped. -/
def Obligations.ResponsesReachTheirRequests : Prop :=
  ∀ (s : State) (p : Fin 8) (i : Nat) (m : LMsg),
    (∀ (ev : Instr) (ty : Nat), (ev, ty) ∈ [(Instr.rdResp p, 0x81), (.wrAck p, 0x82), (.rpoolResp p, 0x83), (.rgradAck p, 0x84), (.asigAck p, 0x85)] →
      (HeadIs s.blk p i m → m.ty = ty → m.dst = s.blk.node → i = 1 → (∀ r ∈ (s.blk.consume p i).lx.reqs, r.tag ≠ m.tag) →
        exec ev s = .next (s.withBlk ((s.blk.consume p i).inc 0x70108 1))) ∧
      (∀ (r : LReq) (b : Blk) (st : Nat), ResponseIs s.blk p i ty m r b → st = m.hi 0 8 → st ≠ 0 → (st ≠ 0x40 ∨ ty ≠ 0x81) →
        exec ev s = .next (s.withBlk (b.lxFail r (if st = 0x32 ∨ st = 0x33 ∨ st = 0x51 then st else 0x61))))) ∧
    (∀ (r : LReq) (b : Blk) (c j k : Nat) (t : TSlot) (x : Piece) (l : List Byte), ResponseIs s.blk p i 0x81 m r b → r.kind = .read c j k →
      (b.core c).slot j = some t → t.pieces[k]? = some x →
      (m.hi 0 8 = 0 → l = ((wordBytes m.body).drop (x.pa % 8)).take x.len → l.length = x.len → exec (.rdResp p) s =
        .next (s.withBlk (b.updSlot c j (fun t => { t with pieces := t.pieces.set k { x with byte := some l, bad := [] } })))) ∧
      (m.hi 0 8 = 0 → l = ((wordBytes m.body).drop (x.pa % 8)).take x.len → l.length ≠ x.len →
        exec (.rdResp p) s = .next (s.withBlk (b.lxFail r 0x61))) ∧
      (m.hi 0 8 = 0x40 → exec (.rdResp p) s = .next (s.withBlk (b.updSlot c j (fun t => { t with
        pieces := t.pieces.set k { x with byte := some (List.replicate x.len 0), bad := sectorsOf x.pa x.len } }))))) ∧
    (∀ (r : LReq) (b : Blk), ResponseIs s.blk p i 0x82 m r b → m.hi 0 8 = 0 → exec (.wrAck p) s = .next (s.withBlk b)) ∧
    (∀ (r : LReq) (b : Blk) (c q : Nat) (bags : List (Nat × List Nat)) (l : List Byte) (ords : List Nat), ResponseIs s.blk p i 0x83 m r b →
      m.hi 0 8 = 0 → r.kind = .rpool c q bags → l = wordBytes (m.body.drop 1) → ords = bags.flatMap (fun g => g.2) →
      ((b.sq c q).ended = true → exec (.rpoolResp p) s = .next (s.withBlk ((b.freeRemote c q true ords).finishPass c q))) ∧
      ((b.sq c q).ended = false → (b.sq c q).st = .active → r.cmd = some (b.sq c q).owner →
        (l.length ≠ (8 + upTo 8 (b.sq c q).laneBytes) * bags.length → exec (.rpoolResp p) s = .next (s.withBlk (b.lxFail r 0x61))) ∧
        (∀ (k : Nat) (a : Blk), bags = [(k, ords)] → l.length = 8 + upTo 8 (b.sq c q).laneBytes →
          a = (b.freeRemote c q false ords).updCmd (b.sq c q).owner (fun x => x.addCounts (qw m.body 0)) →
          exec (.rpoolResp p) s = .next (s.withBlk (a.joinRec c q k ords l)) ∧
          ((a.sq c q).hasFailed k = false → leNat ((l.drop 4).take 1) = 0x40 →
            a.joinRec c q k ords l = ords.foldl (fun b e => b.deliver c q e k none) (a.failBag c q k 0x40 0xFFFFFFFFFFFFFFFF)) ∧
          ((a.sq c q).hasFailed k = true →
            a.joinRec c q k ords l = ords.foldl (fun b e => b.deliver c q e k none) a)))) ∧
    (∀ (r : LReq) (b a : Blk) (c q node n : Nat) (ords : List (Nat × Nat)), ResponseIs s.blk p i 0x84 m r b → m.hi 0 8 = 0 →
      r.kind = .rgrad c q node n ords → a = b.updSq c q (fun x => { x with nulls := x.nulls + n }) →
      ((b.sq c q).ended = true → exec (.rgradAck p) s = .next (s.withBlk b)) ∧
      ((b.sq c q).ended = false → (b.sq c q).st = .active → r.cmd = some (b.sq c q).owner →
        (ords = [] → exec (.rgradAck p) s = .next (s.withBlk (a.scatEnd c q { blocks := [] }))) ∧
        (∀ o u x, ords = [(o, u)] → (b.sq c q).elemMode = false → (b.sq c q).flight.find? (fun y => y.ord = o) = some x →
          exec (.rgradAck p) s = .next (s.withBlk
            (((a.updSq c q (fun y => y)).scatSettled c q x (((a.sq c q).bagOf o).getD 0)).scatEnd c q { blocks := [] }))))) ∧
    (∀ (r : LReq) (b : Blk), ResponseIs s.blk p i 0x85 m r b → m.hi 0 8 = 0 →
      (∀ c t tag a, r.kind = .asig c t tag → (b.task c t).cmd = r.cmd → a ∈ (b.task c t).asigs → a.tag = tag → a.sent = true →
        exec (.asigAck p) s = .next (s.withBlk ((b.updTask c t (fun x => { x with
          asigs := x.asigs.filter (fun a => !(a.tag = tag && a.sent)) })).endTag c t (some tag)))) ∧
      (∀ c t tag, r.kind = .asig c t tag → (b.task c t).cmd ≠ r.cmd → exec (.asigAck p) s = .next (s.withBlk b)) ∧
      (∀ id, r.kind = .rsig id → exec (.asigAck p) s = .next (s.withBlk b))) ∧
    (HeadIs s.blk p 4 m → m.hi 0 8 = 2 → exec (.echoReply p) s = .next (s.withBlk (s.blk.consume p 4)))

/-- Power, clocks and time (R6, R16, R429 to R436, R444): the timebase counts in every state but Off and a power-on reset; an idle
island's clock is gated until work arrives, the K-island's never; a request of Doze, Nap or Run starts the change of state or is refused with the first reason that
holds; the entry ends when the block is quiet; a brown-out hold starts, is counted and ends; PM_FAIL_N resets; without supply the block is Off. -/
def Obligations.PowerStatesChange : Prop :=
  ∀ (s : State) (ev : Half → W64 → Instr) (h : Half) (v : W64) (b : Blk) (r : Nat),
    ev ∈ [Instr.dozeRequest, .napRequest, .runRequest] →
    (s.blk.regOpen 0x2000 = false → exec (ev h v) s = .next s) ∧
    (s.blk.regOpen 0x2000 = true → b = s.blk.fieldWrite 0x2000 h v → r = fld v 0 2 →
      (h = .high ∨ r = 0 → exec (ev h v) s = .next (s.withBlk b)) ∧
      (h ≠ .high → r ≠ 0 → b.cmdsOpen = true ∨ (r ≠ 3 ∧ b.anyHalt = true) → exec (ev h v) s = .next (s.withBlk (b.pwrRefuse 1))) ∧
      (h ≠ .high → b.cmdsOpen = false → (r = 3 ∨ b.anyHalt = false) →
        (r = 2 → b.coOpen = true → exec (ev h v) s = .next (s.withBlk (b.pwrRefuse 2))) ∧
        (r = 1 ∨ (r = 2 ∧ b.coOpen = false) → s.blk.pwr.hold = true → exec (ev h v) s = .next (s.withBlk (b.pwrRefuse 3))) ∧
        (r = 1 → s.blk.pwr.hold = false →
          (s.blk.pwr.st = .run → exec (ev h v) s = .next (s.withBlk { b with pwr := { b.pwr with st := .dozeIn } })) ∧
          (s.blk.pwr.st ≠ .run → exec (ev h v) s = .next (s.withBlk (b.pwrRefuse 4)))) ∧
        (r = 2 → b.coOpen = false → s.blk.pwr.hold = false →
          (s.blk.pwr.st = .run ∨ s.blk.pwr.st = .doze → exec (ev h v) s = .next (s.withBlk { b with pwr := { b.pwr with st := .napIn } })) ∧
          (s.blk.pwr.st ≠ .run → s.blk.pwr.st ≠ .doze → exec (ev h v) s = .next (s.withBlk (b.pwrRefuse 4)))) ∧
        (r = 3 →
          (s.blk.pwr.st = .doze ∨ s.blk.pwr.st = .nap → s.blk.pwr.hold = false →
            exec (ev h v) s = .next (s.withBlk { b with pwr := { b.pwr with st := .resume } })) ∧
          (s.blk.pwr.st = .doze ∨ s.blk.pwr.st = .nap → s.blk.pwr.hold = true →
            exec (ev h v) s = .next (s.withBlk { b with pwr := { b.pwr with wantRun := true } })) ∧
          (s.blk.pwr.st ≠ .doze → s.blk.pwr.st ≠ .nap → exec (ev h v) s = .next (s.withBlk (b.pwrRefuse 4)))))) ∧
    (s.blk.live = true →
      (s.blk.entryQuiet = false ∨ s.blk.pwr.st = .run → exec .lowPowerEntryDone s = .next s) ∧
      (s.blk.entryQuiet = true → s.blk.pwr.st = .dozeIn → ∃ b : Blk, exec .lowPowerEntryDone s = .next (s.withBlk b) ∧
        b.regs = keepRegs (fun _ => true) (fun f => f.d) s.blk.portsDown.regs ∧ b.sec.kdata = [] ∧
        (s.blk.portsDown.pwr.dbWake = true → b.pwr.st = .resume) ∧ (s.blk.portsDown.pwr.dbWake = false → b.pwr.st = .doze) ∧
        { b with regs := s.blk.portsDown.regs, sec := s.blk.portsDown.sec, pwr := s.blk.portsDown.pwr } = s.blk.portsDown) ∧
      (s.blk.entryQuiet = true → s.blk.pwr.st = .napIn → ∃ b : Blk, exec .lowPowerEntryDone s = .next (s.withBlk b.portsDrop) ∧
        b.regs = keepRegs (fun _ => true) (fun f => f.nap) s.blk.portsDown.regs ∧ b.sec.kdata = [] ∧ b.pwr.st = .nap ∧ b.dev = s.blk.portsDown.dev ∧
        b.anc = s.blk.portsDown.anc ∧ b.l2 = [] ∧ b.walks = [] ∧ b.dcache = [] ∧ b.rc = {} ∧ b.lx.reqs = [])) ∧
    (s.blk.resetting = false → s.blk.pwr.halt = false → s.blk.pwr.hold = false → s.blk.pwr.st = .resume →
      ∃ b : Blk, exec .resumeDone s = .next (s.withBlk b.goOn) ∧
        b.pwr = { s.blk.pwr with st := .run, wantRun := false, dbWake := false } ∧
        (∀ c, c < s.blk.build.cores → b.dbgHalted c = s.blk.rb (0x90100 + 8 * c) 0) ∧
        (∀ p : Fin 8, p < s.blk.build.litha → (s.blk.port p).rst = false → s.blk.portEn p = true →
          b.port p = (s.blk.port p).training s.blk.time.toNat) ∧ b.cmds = s.blk.cmds ∧ b.dev = s.blk.dev) ∧
    (s.blk.resetting = false →
      (s.blk.pwr.hold = true → exec .pmWarn s = .next s) ∧
      (s.blk.pwr.hold = false → exec .pmWarn s =
        .next (s.withBlk { s.blk.setFld 0x2010 0 16 (min 65535 (s.blk.rf 0x2010 0 16 + 1)) with pwr := { s.blk.pwr with hold := true } })) ∧
      (s.blk.pwr.hold = true → s.blk.pwr.heldCore = [] → s.blk.pwr.heldLink = [] → ∃ b : Blk,
        exec .holdEnd s = .next (s.withBlk b.goOn) ∧ b.pwr.hold = false ∧ b.pwr.wantRun = false ∧
        (b.pwr.st = if s.blk.pwr.wantRun = true ∧ (s.blk.pwr.st = .doze ∨ s.blk.pwr.st = .nap) then .resume else s.blk.pwr.st) ∧
        { b with pwr := s.blk.pwr } = s.blk.setFld 0x2010 16 16 (min 65535 (s.blk.rf 0x2010 16 16 + 1)))) ∧
    (s.blk.pwr.st ≠ .off → s.blk.pwr.rst ≠ .por → exec .pmFail s =
      .next (s.withBlk ((s.blk.setFld 0x2010 32 16 (min 65535 (s.blk.rf 0x2010 32 16 + 1))).blkReset 3))) ∧
    (exec .supplyRemoved s = .next { s with blk := { build := s.blk.build, free := s.blk.free, host := s.blk.host, msgs := s.blk.msgs
                                                     lx := { nextTag := s.blk.lx.nextTag }, pwr := { st := .off } } }) ∧
    (s.blk.pwr.st ≠ .off → s.blk.pwr.rst ≠ .por → exec .timebaseTick s = .next { s with blk := { s.blk with time := s.blk.time + 1 } }) ∧
    ((s.blk.pwr.st = .off ∨ s.blk.pwr.rst = .por) → exec .timebaseTick s = .next s) ∧
    (∀ isl : Fin 20,
      (s.blk.live = true → s.blk.islandIdle isl = true → isl.val ∉ s.blk.pwr.gated →
        exec (.islandGate isl) s = .next (s.withBlk { s.blk with pwr := { s.blk.pwr with gated := isl.val :: s.blk.pwr.gated } })) ∧
      (isl = 2 → exec (.islandGate isl) s = .next s) ∧
      (s.blk.resetting = false →
        exec (.islandWake isl) s = .next (s.withBlk { s.blk with pwr := { s.blk.pwr with gated := s.blk.pwr.gated.erase isl } })))

/-- The resets (R437 to R442, R446, R488): a power-on reset keeps nothing and ends with the build that the fuses tell; a block reset keeps
device memory, the timebase, the camp directory and the fields marked so, and nothing else; a core reset and a link reset start, are held
back or refused, and end. -/
def Obligations.ResetsLeaveWhatTheyKeep : Prop :=
  ∀ (s : State),
    (exec .powerOnReset s = .next { s with blk := { build := s.blk.build, free := s.blk.free, host := s.blk.host, msgs := s.blk.msgs
                                                    lx := { nextTag := s.blk.lx.nextTag }, pwr := { rst := .por } } }) ∧
    (∀ (n : Fin 64) (step : BitVec 4),
      (s.blk.pwr.rst = .por → exec (.powerOnResetDone n step) s = .next { s with blk := { s.blk with
        build := buildOf n step.toNat, pwr := { s.blk.pwr with rst := .none } } }) ∧
      (s.blk.pwr.rst ≠ .por → exec (.powerOnResetDone n step) s = .next s) ∧
      (buildOf n step.toNat).cores = 2 ^ (n.val % 4) ∧ (buildOf n step.toNat).far = n.val.testBit 2 ∧
      (buildOf n step.toNat).litha = (if n.val % 4 = 0 then (if n.val.testBit 4 then 2 else 0) else 2 ^ (n.val % 4))) ∧
    (∀ (v : W64), s.blk.regOpen 0x2018 = true →
      (bit v 0 = true → fld v 56 8 = 0xB1 → exec (.blockReset .full v) s = .next (s.withBlk (s.blk.blkReset 2))) ∧
      (∀ h, h ≠ .full ∨ bit v 0 = false ∨ fld v 56 8 ≠ 0xB1 → h = .high ∨ fld v 8 16 = 0 → exec (.blockReset h v) s = .next s)) ∧
    (exec .blockResetPin s = .next (s.withBlk (s.blk.blkReset 1))) ∧
    (∀ cause, (s.blk.pwr.st = .off ∨ s.blk.pwr.rst = .por → s.blk.blkReset cause = s.blk) ∧
      (s.blk.pwr.st ≠ .off → s.blk.pwr.rst ≠ .por →
        s.blk.blkReset cause = { build := s.blk.build, time := s.blk.time, free := s.blk.free, host := s.blk.host, msgs := s.blk.msgs
                                 dev := s.blk.dev, bad := s.blk.bad, dbg := s.blk.dbg
                                 regs := keepRegs (fun _ => true) (fun f => f.b) (s.blk.setFld 0x2020 cause 1 1).regs
                                 lx := { nextTag := s.blk.lx.nextTag }
                                 mig := { camps := s.blk.mig.camps.map Camp.still, slots := s.blk.mig.slots
                                          recov := (s.blk.setFld 0x2020 cause 1 1).diren }
                                 sec := { zero := s.blk.sec.zero || !s.blk.sec.keys.isEmpty }, pwr := { rst := .blk } })) ∧
    (s.blk.pwr.rst = .blk → exec .blockResetDone s = .next (s.withBlk { s.blk with pwr := { s.blk.pwr with rst := .none } })) ∧
    (s.blk.pwr.rst ≠ .blk → exec .blockResetDone s = .next s) ∧
    (∀ c : Fin 8, s.blk.regOpen 0x2018 = true → s.blk.coreOk c = true →
      (s.blk.pwr.st ≠ .run → exec (.coreReset c) s = .next (s.withBlk (s.blk.pwrRefuse 4))) ∧
      (s.blk.pwr.st = .run → s.blk.pwr.hold = true → exec (.coreReset c) s =
        .next (s.withBlk { s.blk with pwr := { s.blk.pwr with heldCore := c.val :: s.blk.pwr.heldCore.erase c } })) ∧
      (s.blk.pwr.st = .run → s.blk.pwr.hold = false →
        (s.blk.coreRst c = true → exec (.coreReset c) s = .next s) ∧
        (s.blk.coreRst c = false → (∀ m ∈ s.blk.cmds, m.onCore ≠ some c.val) → ∃ b : Blk, exec (.coreReset c) s = .next (s.withBlk b) ∧
          b.core c = { s.blk.core c with rst := true, rstList := [], waits := []
                                         trk := (s.blk.core c).trk.map (fun t => { t with late := true, faulted := false }) } ∧
          (∀ d, d ≠ c.val → b.core d = s.blk.core d) ∧ { b with cores := s.blk.cores } = s.blk))) ∧
    (∀ c : Fin 8, s.blk.live = true → s.blk.coreRst c = true →
      (s.blk.coreDrained c = false → exec (.coreResetDone c) s = .next s) ∧
      (s.blk.coreDrained c = true → ∃ b : Blk, exec (.coreResetDone c) s = .next (s.withBlk b) ∧ b.coreRst c = false ∧
        (∀ t, b.task c t = {}) ∧ (∀ q, b.sq c q = {}) ∧ (b.core c).couIn = [] ∧ (b.core c).trk = [] ∧ (b.core c).workq = [] ∧
        (∀ m ∈ b.cmds, m.onCore ≠ some c.val) ∧ Tab.get [] b.l1 c = [])) ∧
    (∀ (p : Fin 8) (x : Port), x = s.blk.port p →
      (s.blk.regOpen 0x2018 = true → p < s.blk.build.litha →
        (s.blk.pwr.st ≠ .run → exec (.linkReset p) s = .next (s.withBlk (s.blk.pwrRefuse 4))) ∧
        (s.blk.pwr.st = .run → s.blk.pwr.hold = true → exec (.linkReset p) s =
          .next (s.withBlk { s.blk with pwr := { s.blk.pwr with heldLink := p.val :: s.blk.pwr.heldLink.erase p } })) ∧
        (s.blk.pwr.st = .run → s.blk.pwr.hold = false → x.rst = true → exec (.linkReset p) s = .next s) ∧
        (s.blk.pwr.st = .run → s.blk.pwr.hold = false → x.rst = false → x.quiet → ∃ b : Blk, exec (.linkReset p) s = .next (s.withBlk b) ∧
          OnlyPort p { oerst := x.oerst, oeSince := x.oeSince, lol := x.lol, rst := true }
            (iter 11 (fun k b => b.setReg (pcnt p k) 0) s.blk) b)) ∧
      (s.blk.live = true →
        (x.rst = false → exec (.linkResetDone p) s = .next s) ∧
        (x.rst = true → s.blk.portEn p = false → ∃ b : Blk, exec (.linkResetDone p) s = .next (s.withBlk b) ∧
          OnlyPort p { x with rst := false } s.blk b) ∧
        (x.rst = true → s.blk.portEn p = true → p < s.blk.build.litha → x.st = .down → x.hold = false → x.oerst = false →
          x.oeSince + 25000 ≤ s.blk.time.toNat → ∃ b : Blk, exec (.linkResetDone p) s = .next (s.withBlk b) ∧
            OnlyPort p (({ x with rst := false } : Port).training s.blk.time.toNat) s.blk b)))

/-- Keys and scrubs (R448, R449, R455, R457, R458): a commit through CK_SEC_KCMD loads or clears the key of a region or of a link's slot, or
is refused and sets KERR; the data words are gone after it; the end of a clear and of a scrub. -/
def Obligations.KeysAreCommitted : Prop :=
  ∀ (s : State) (v : W64) (r : Nat) (p : Nat) (sl : Bool) (a : Blk), r = fld v 4 4 → p = fld v 8 3 → sl = bit v 11 →
    a = { s.blk.setFld 0x80000 18 1 1 with sec := { s.blk.sec with kdata := [] } } →
    (∀ ev : W64 → Instr, ev ∈ [Instr.keyLoadRegion, .keyClearRegion, .keyLoadLink, .keyClearLink] →
      (s.blk.regOpen 0x80008 = false ∨ s.blk.sec.busy = true ∨ fld v 0 2 = 0 ∨ fld v 0 2 = 3 → exec (ev v) s = .next s) ∧
      (s.blk.regOpen 0x80008 = true → s.blk.sec.busy = false →
        (fld v 0 2 = 1 → bit v 2 = false →
          (r = 0 ∨ s.blk.active r = true ∨ s.blk.kdataNat 0 4 = s.blk.kdataNat 4 4 → exec (ev v) s = .next (s.withBlk a)) ∧
          (r ≠ 0 → s.blk.active r = false → s.blk.kdataNat 0 4 ≠ s.blk.kdataNat 4 4 → exec (ev v) s = .next (s.withBlk { s.blk with sec := {
            s.blk.sec with keys := Tab.set 0 s.blk.sec.keys r (BitVec.ofNat 512 (s.blk.kdataNat 0 8)), kdata := [] } }))) ∧
        (∀ last : Bool, fld v 0 2 = 2 → bit v 2 = false → (last = true ↔ ∀ e ∈ s.blk.sec.keys, e.1 = r) →
          (s.blk.active r = false ∨ s.blk.cmdsOpen = true ∨ (last = true ∧ s.blk.coOpen = true) → exec (ev v) s = .next (s.withBlk a)) ∧
          (s.blk.active r = true → s.blk.cmdsOpen = false → (last = false ∨ s.blk.coOpen = false) →
            ∃ b : Blk, exec (ev v) s = .next (s.withBlk b) ∧ b.active r = false ∧ (∀ t ∈ b.l2, t.cr ≠ r) ∧ b.rc.inv = true ∧
              b.sec = { s.blk.sec with keys := Tab.del s.blk.sec.keys r, busy := true, scrub := last, kdata := [] } ∧
              { b with sec := s.blk.sec, l2 := s.blk.l2, l1 := s.blk.l1, rc := s.blk.rc } = s.blk)) ∧
        (fld v 0 2 = 1 → bit v 2 = true →
          (s.blk.build.litha ≤ p ∨ ((s.blk.port p).key sl).isSome = true ∨ s.blk.kdataNat 4 4 ≠ 0 → exec (ev v) s = .next (s.withBlk a)) ∧
          (p < s.blk.build.litha → ((s.blk.port p).key sl).isSome = false → s.blk.kdataNat 4 4 = 0 →
            ∃ b : Blk, exec (ev v) s = .next (s.withBlk b) ∧ (b.port p).key sl = some { key := BitVec.ofNat 256 (s.blk.kdataNat 0 4) } ∧
              (b.port p).key (!sl) = (s.blk.port p).key (!sl) ∧ (∀ q, q ≠ p → b.port q = s.blk.port q) ∧ b.sec.kdata = [] ∧
              { b with lx := s.blk.lx, sec := s.blk.sec } = s.blk)) ∧
        (fld v 0 2 = 2 → bit v 2 = true →
          (s.blk.build.litha ≤ p ∨ (s.blk.port p).key sl = none ∨ (sl = s.blk.txSlot p ∧ (s.blk.port p).st = .active) →
            exec (ev v) s = .next (s.withBlk a)) ∧
          (p < s.blk.build.litha → ((s.blk.port p).key sl).isSome = true → (sl ≠ s.blk.txSlot p ∨ (s.blk.port p).st ≠ .active) →
            ∃ b : Blk, exec (ev v) s = .next (s.withBlk b) ∧ (b.port p).key sl = none ∧
              (b.port p).key (!sl) = (s.blk.port p).key (!sl) ∧ (∀ q, q ≠ p → b.port q = s.blk.port q) ∧ b.sec.kdata = [] ∧
              { b with lx := s.blk.lx, sec := s.blk.sec } = s.blk)))) ∧
    (s.blk.live = true →
      (s.blk.sec.busy = true → s.blk.rc.inv = false → s.blk.sec.scrub = false →
        exec .keyClearDone s = .next (s.withBlk { s.blk with sec := { s.blk.sec with busy := false } })) ∧
      (s.blk.sec.busy = false ∨ s.blk.rc.inv = true ∨ s.blk.sec.scrub = true → exec .keyClearDone s = .next s) ∧
      (s.blk.sec.scrub = false → exec .scrubDone s = .next s) ∧
      (s.blk.sec.scrub = true → ∃ b : Blk, exec .scrubDone s = .next (s.withBlk b) ∧ b.sec = { s.blk.sec with scrub := false, zero := true } ∧
        b.rc.lines = [] ∧ b.rc.vict = [] ∧ b.co = [] ∧ b.dev = s.blk.dev ∧ b.anc = s.blk.anc ∧
        (∀ e ∈ s.blk.cores, (Tab.get {} b.cores e.1).couIn = []) ∧
        (∀ q : Fin 8, q < s.blk.build.litha → (b.port q).replayBuf = [] ∧ (b.port q).rx = [] ∧ (b.port q).rxBytes = [])))

/-- The test access port and debug (R459 to R464, R467, R487): each TAP instruction selects its register while there is power; a debug-bus
request is answered by space, attachment, clock and guard; ATTACH, WAKE, HALTREQ and STEP take effect through their registers. -/
def Obligations.DebugPortActs : Prop :=
  ∀ (s : State),
    (s.blk.pwr.st = .off → ∀ ev ∈ [Instr.bypass, .idcode, .dbgTrst], exec ev s = .next s) ∧
    (s.blk.pwr.st ≠ .off →
      exec .bypass s = .next (s.withBlk { s.blk with dbg := { s.blk.dbg with ir := .bypass, dr := 0 } }) ∧
      exec .idcode s = .next (s.withBlk { s.blk with dbg := { s.blk.dbg with ir := .idcode, dr := Config.idcode.toNat } }) ∧
      exec .dbgTrst s = .next (s.withBlk { s.blk.setReg 0x90000 0 with dbg := { s.blk.dbg with ir := .idcode } }) ∧
      (∀ l, exec (.samplePreload l) s = .next (s.withBlk { s.blk with dbg := { s.blk.dbg with ir := .sample, cells := l } })) ∧
      (∀ l, exec (.extest l) s = .next (s.withBlk { s.blk with dbg := { s.blk.dbg with ir := .extest, cells := l } })) ∧
      (∀ (req : BitVec 105) (addr space core off : Nat) (wr : Bool) (v : W64) (ans : W64 → Nat → Blk → Debug),
        addr = fld req 0 40 → space = addr / 2 ^ 36 → core = addr / 2 ^ 33 % 8 → off = addr % 2 ^ 33 → wr = bit req 40 →
        v = req.extractLsb' 41 64 →
        ans = (fun d t (_ : Blk) => { s.blk.dbg with ir := .dabacc, dr := s.blk.dbg.respData.toNat + s.blk.dbg.respTag <<< 64
                                                     respData := d, respTag := t }) →
        (s.blk.rb 0x90000 0 = false → ¬ (space = 0 ∧ wr = true ∧ off = 0x90000) →
          exec (.dabacc req) s = .next (s.withBlk { s.blk with dbg := ans 0 3 s.blk })) ∧
        (s.blk.rb 0x90000 0 = true →
          (space = 0 → off % 8 = 0 → off < 0x200000 →
            (wr = true → s.blk.guarded = true → isDbg off = false →
              exec (.dabacc req) s = .next (s.withBlk { s.blk with dbg := ans 0 1 s.blk })) ∧
            (wr = true → s.blk.guarded = false ∨ isDbg off = true → ∃ b : Blk, b = s.blk.regWrite off .full v true ∧
              (b.dbg = s.blk.dbg → exec (.dabacc req) s = .next (s.withBlk { b with dbg := ans 0 0 b }))) ∧
            (wr = false → off < 0xA0000 ∨ 0xA0200 ≤ off →
              exec (.dabacc req) s = .next (s.withBlk { s.blk with dbg := ans (s.blk.regRead off) 0 s.blk })) ∧
            (wr = false → 0xA0000 ≤ off → off < 0xA0200 → off % 64 = 0 → s.blk.guarded = true → s.blk.regPresent off = true →
              s.blk.resetting = false → exec (.dabacc req) s = .next (s.withBlk { s.blk with dbg := ans 0 1 s.blk }))) ∧
          (5 < space ∨ ((space = 2 ∨ space = 3 ∨ space = 4) ∧ s.blk.coreOk core = false) →
            exec (.dabacc req) s = .next (s.withBlk { s.blk with dbg := ans 0 3 s.blk })) ∧
          (1 ≤ space → space ≤ 5 → (space = 1 ∨ space = 5 ∨ s.blk.coreOk core = true) →
            (s.blk.clocked = false → exec (.dabacc req) s = .next (s.withBlk { s.blk with dbg := ans 0 2 s.blk })) ∧
            (s.blk.clocked = true →
              (s.blk.guarded = true → (wr = true ∨ space ≠ 4 ∨ Config.dabOpen off = false) →
                exec (.dabacc req) s = .next (s.withBlk { s.blk with dbg := ans 0 1 s.blk })) ∧
              (s.blk.guarded = false → wr = false → s.blk.sec.zero = true →
                exec (.dabacc req) s = .next (s.withBlk { s.blk with dbg := ans 0 0 s.blk })) ∧
              (s.blk.guarded = false → wr = false → s.blk.sec.zero = false → exec (.dabacc req) s = .next (s.withBlk
                { s.blk with free := s.blk.free + 1, dbg := ans (Config.freeWord s.blk.free) 0 s.blk })) ∧
              (s.blk.guarded = false → wr = true → exec (.dabacc req) s = .refused .debugStore)))))) ∧
    (∀ (v : W64) (b : Blk), s.blk.resetting = false → b = s.blk.fieldWrite 0x90000 .full v →
      exec (.attach v) s = .next (s.withBlk (if bit v 1 then b.pwrRequest 3 else b))) ∧
    (∀ (h : Half) (v : W64), s.blk.regOpen 0x90000 = true →
      exec (.wake h v) s = .next (s.withBlk (if h ≠ .high ∧ bit v 1 = true then s.blk.pwrRequest 3 else s.blk))) ∧
    (∀ (c : Fin 8) (h : Half) (v : W64) (b : Blk) (t : Nat) (ev : Fin 8 → Half → W64 → Instr), ev ∈ [Instr.haltreq, .dbgStep] →
      s.blk.regOpen (0x90100 + 8 * c) = true → b = s.blk.fieldWrite (0x90100 + 8 * c) h v → s.blk.live = true →
      (wrOne h v 1 = false → b.rb (0x90100 + 8 * c) 0 = true →
        exec (ev c h v) s = .next (s.withBlk (b.setFld (0x90100 + 8 * c) 4 1 1))) ∧
      (wrOne h v 1 = false → b.rb (0x90100 + 8 * c) 0 = false → exec (ev c h v) s =
        .next (s.withBlk ((b.setFld (0x90100 + 8 * c) 4 1 0).updCore c (fun k => { k with stepOne := none })))) ∧
      (wrOne h v 1 = true → b.rb (0x90100 + 8 * c) 0 = true → t = (b.setFld (0x90100 + 8 * c) 4 1 1).rf (0x90100 + 8 * c) 2 2 →
        (∀ u, u < 4 → u ≠ t → (s.blk.task c u).st ≠ .running) → ∀ a : Blk, a = b.setFld (0x90100 + 8 * c) 4 1 1 →
        ((s.blk.task c t).st = .free → exec (ev c h v) s = .next (s.withBlk a)) ∧
        ((s.blk.task c t).st = .running ∨ (s.blk.task c t).st = .waiting →
          exec (ev c h v) s = .next (s.withBlk (a.updCore c (fun k => { k with stepOne := some t })))) ∧
        ((s.blk.task c t).st = .ready → s.blk.issues = true → s.blk.coreUp c = true → exec (ev c h v) s =
          .next (s.withBlk ((a.updCore c (fun k => { k with stepOne := some t })).switchIn c t)))))

/-- A step carries out the command at the front of the queue with the rest of the queue, and idles where none waits (the idling is the
model's choice, log entry 11); no table word spells a command. -/
def Obligations.StepRunsTheFrontCommand : Prop :=
  (∀ (c : Instr) (s : State), step { s with pending := c :: s.pending } = exec c s) ∧
  (∀ s : State, s.pending = [] → step s = .next s) ∧
  (∀ (s : State) (nbits w : Nat), decodeTableWord nbits w = none ∧ s.withFetchWord nbits w = s)

/-- Every step keeps the build legal, takes exactly the front command from the queue, never faults, refuses a debug-bus write of a unit's
store only, and moves the timebase by nothing but its own tick, a power-on reset and the loss of supply (R6, R488). -/
def Obligations.StepsKeepBuildQueueAndTime : Prop :=
  ∀ s : State, s.blk.legal →
    (∃ t : State, step s = .next t ∧ t.blk.legal ∧ t.pending = s.pending.tail ∧
      (t.blk.time = s.blk.time ∨ (s.pending.head? = some .timebaseTick ∧ t.blk.time = s.blk.time + 1) ∨
       ((s.pending.head? = some .powerOnReset ∨ s.pending.head? = some .supplyRemoved) ∧ t.blk.time = 0))) ∨
    (step s = .refused .debugStore ∧ ∃ req, s.pending.head? = some (.dabacc req))

/-- The machine right after reset (R14, R89, R149, R250, R262, R350, R375, R442, R447): a legal build (which one is the model's choice, log
entry 1), an empty queue, every register at its reset value, no tier populated, anchors at 0, no key, Run. -/
def Obligations.ResetStateIsLegal : Prop :=
  State.reset.blk.legal ∧ State.reset.pending = [] ∧ State.reset.blk.regsOnce ∧ State.reset.blk.time = 0 ∧
  (∀ o, State.reset.blk.reg o = regReset o) ∧ (∀ k, State.reset.blk.anchor k = 0) ∧ (∀ pa, State.reset.blk.paExists pa = false) ∧
  State.reset.blk.guarded = false ∧ State.reset.blk.issues = true ∧ (∀ c t, (State.reset.blk.task c t).st = .free) ∧
  (∀ p, (State.reset.blk.port p).st = .down) ∧
  State.reset.blk.reg 0x2020 = 1 ∧ State.reset.blk.reg 0x20800 = 8 ∧ State.reset.blk.reg 0x100408 = 0x40000 ∧
  State.reset.blk.reg 0x30400 = 16 ∧ State.reset.blk.reg 0x60000 = 20 ∧ State.reset.blk.reg 0x50040 = 0

/-- CK_RST_CAUSE at 2020h (R447): POR set by a power-on reset, PIN, REG and PMFAIL by the three causes of a block reset; each bit is kept
across every other event, and a write clears exactly the bits that it writes as 1. -/
def Obligations.ResetCausesAreKept : Prop :=
  (∀ s : State, ∃ s', exec .powerOnReset s = .next s' ∧ s'.blk.reg 0x2020 = 1) ∧
  (∀ s : State, s.blk.regsOnce → s.blk.pwr.st ≠ .off → s.blk.pwr.rst ≠ .por →
    (∃ s', exec .blockResetPin s = .next s' ∧ s'.blk.reg 0x2020 = (s.blk.reg 0x2020 ||| 2) &&& 15) ∧
    (∃ s', exec .pmFail s = .next s' ∧ s'.blk.reg 0x2020 = (s.blk.reg 0x2020 ||| 8) &&& 15) ∧
    (∀ v : W64, s.blk.regOpen 0x2018 = true → bit v 0 = true → fld v 56 8 = 0xB1 →
      ∃ s', exec (.blockReset .full v) s = .next s' ∧ s'.blk.reg 0x2020 = (s.blk.reg 0x2020 ||| 4) &&& 15)) ∧
  (∀ (s : State) (v : W64), s.blk.regOpen 0x2020 = true → ∃ s', exec (.registerWrite 0x2020 8 v) s = .next s' ∧
    s'.blk.reg 0x2020 = s.blk.reg 0x2020 &&& ~~~(v &&& 15) ∧ (∀ o, o ≠ 0x2020 → s'.blk.reg o = s.blk.reg o)) ∧
  (∀ v : W64, keepReg (fun f => f.b) 0x2020 v = v &&& 15 ∧ keepReg (fun f => f.c) 0x2020 v = v &&& 15 ∧
    keepReg (fun f => f.d) 0x2020 v = v &&& 15 ∧ keepReg (fun f => f.nap) 0x2020 v = v &&& 15)

/-- Device and host memory (R44, R80): a write under a region that is not encrypted leaves exactly its bytes changed, they read back, and
the sectors that it covers whole are free of poison; a write of host memory changes exactly its bytes. -/
def Obligations.MemoryReadsBackWhatIsWritten : Prop :=
  (∀ (b : Blk) (cr pa : Nat) (l : List Byte), (∀ sec ∈ sectorsOf pa l.length, b.enc cr (64 * sec) = false) →
    (∀ a, (b.devWrite cr pa l).devByte a = if pa ≤ a ∧ a < pa + l.length then l.getD (a - pa) 0 else b.devByte a) ∧
    (b.devWrite cr pa l).devRead cr pa l.length = l ∧
    (∀ sec, sec ∈ (b.devWrite cr pa l).bad ↔ sec ∈ b.bad ∧ ¬ (pa ≤ 64 * sec ∧ 64 * sec + 64 ≤ pa + l.length)) ∧
    { b.devWrite cr pa l with dev := b.dev, bad := b.bad } = b) ∧
  (∀ (b : Blk) (pa : Nat) (l : List Byte),
    (∀ a, (b.hostWrite pa l).hostByte a = if pa ≤ a ∧ a < pa + l.length then l.getD (a - pa) 0 else b.hostByte a) ∧
    { b.hostWrite pa l with host := b.host } = b)

end
end

