-- ==== Sys2Proof/Laws/Tab.lean ====
section
/-! SUPPORT. Reading back what a table write stored, and the canonical form that every table operation keeps. -/
namespace Sys2Proof

theorem Tab.get_del_same {α : Type} (d : α) (t : Tab α) (k : Nat) : Tab.get d (Tab.del t k) k = d := by
  induction t with
  | nil => rfl
  | cons p t ih =>
    obtain ⟨a, v⟩ := p
    by_cases h : k = a
    · simp [Tab.del, h] at ih ⊢; exact h ▸ ih
    · simp [Tab.del, Tab.get, h, ih]

theorem Tab.get_del_other {α : Type} (d : α) (t : Tab α) {k j : Nat} (hj : j ≠ k) :
    Tab.get d (Tab.del t k) j = Tab.get d t j := by
  induction t with
  | nil => rfl
  | cons p t ih =>
    obtain ⟨a, v⟩ := p
    by_cases h : k = a
    · subst h; simp [Tab.del, Tab.get, hj, ih]
    · by_cases h2 : j = a
      · simp [Tab.del, h, Tab.get, h2]
      · simp [Tab.del, h, Tab.get, h2, ih]

theorem Tab.get_ins_same {α : Type} (d : α) (t : Tab α) (k : Nat) (v : α) (h : ∀ p ∈ t, p.1 ≠ k) :
    Tab.get d (Tab.ins t k v) k = v := by
  induction t with
  | nil => simp [Tab.ins, Tab.get]
  | cons p t ih =>
    obtain ⟨a, w⟩ := p
    have ha : k ≠ a := fun e => h (a, w) (by simp) e.symm
    by_cases hk : k < a
    · simp [Tab.ins, hk, Tab.get]
    · simp [Tab.ins, hk, Tab.get, ha]
      exact ih (fun p hp => h p (by simp [hp]))

theorem Tab.get_ins_other {α : Type} (d : α) (t : Tab α) {k j : Nat} (v : α) (hj : j ≠ k) :
    Tab.get d (Tab.ins t k v) j = Tab.get d t j := by
  induction t with
  | nil => simp [Tab.ins, Tab.get, hj]
  | cons p t ih =>
    obtain ⟨a, w⟩ := p
    by_cases hk : k < a
    · simp [Tab.ins, hk, Tab.get, hj]
    · simp [Tab.ins, hk, Tab.get, ih]

theorem Tab.del_keys {α : Type} (t : Tab α) (k : Nat) : ∀ p ∈ Tab.del t k, p.1 ≠ k := by
  induction t with
  | nil => simp [Tab.del]
  | cons q t ih =>
    obtain ⟨a, w⟩ := q
    by_cases h : k = a
    · subst h; simp only [Tab.del, if_true]; exact ih
    · intro p hp
      simp [Tab.del, h] at hp
      rcases hp with rfl | hp
      · exact fun e => h e.symm
      · exact ih p hp

/-- A read after a write of the same key gives the value written. -/
@[simp] theorem Tab.get_set_same {α : Type} [DecidableEq α] (d : α) (t : Tab α) (k : Nat) (v : α) :
    Tab.get d (Tab.set d t k v) k = v := by
  unfold Tab.set
  split
  · next h => rw [h]; exact Tab.get_del_same d t k
  · exact Tab.get_ins_same d _ k v (Tab.del_keys t k)

/-- A write leaves every other key alone, whatever each key's default is. -/
theorem Tab.get_set_other {α : Type} [DecidableEq α] (d e : α) (t : Tab α) {k j : Nat} (v : α) (hj : j ≠ k) :
    Tab.get d (Tab.set e t k v) j = Tab.get d t j := by
  unfold Tab.set
  split
  · exact Tab.get_del_other d t hj
  · rw [Tab.get_ins_other d _ v hj, Tab.get_del_other d t hj]

theorem Tab.get_set {α : Type} [DecidableEq α] (d : α) (t : Tab α) (k j : Nat) (v : α) :
    Tab.get d (Tab.set d t k v) j = if j = k then v else Tab.get d t j := by
  by_cases h : j = k
  · simp [h]
  · simp [h, Tab.get_set_other d d t v h]

theorem Tab.rising_weaken {α : Type} (t : Tab α) {lo : Nat} {m : Option Nat} (h : Tab.rising (some lo) t = true)
    (hm : ∀ l, m = some l → l ≤ lo) : Tab.rising m t = true := by
  cases t with
  | nil => cases m <;> rfl
  | cons p t =>
    obtain ⟨a, v⟩ := p
    simp only [Tab.rising, Bool.and_eq_true, decide_eq_true_eq] at h
    cases m with
    | none => simp [Tab.rising, h.2]
    | some l => have := hm l rfl; simp [Tab.rising, h.2]; omega

theorem Tab.rising_del {α : Type} (t : Tab α) (k : Nat) (lo : Option Nat) (h : Tab.rising lo t = true) :
    Tab.rising lo (Tab.del t k) = true := by
  induction t generalizing lo with
  | nil => exact h
  | cons p t ih =>
    obtain ⟨a, v⟩ := p
    simp only [Tab.rising, Bool.and_eq_true] at h
    by_cases hk : k = a
    · simp only [Tab.del, hk, if_true]
      have := ih (some a) h.2
      rw [hk] at this
      refine Tab.rising_weaken _ this ?_
      intro l hl
      subst hl
      have := h.1
      simp at this; omega
    · simp only [Tab.del, hk, if_false, Tab.rising, Bool.and_eq_true]
      exact ⟨h.1, ih _ h.2⟩

theorem Tab.rising_ins {α : Type} (t : Tab α) (k : Nat) (v : α) (lo : Option Nat) (h : Tab.rising lo t = true)
    (hlo : ∀ l, lo = some l → l < k) (hk : ∀ p ∈ t, p.1 ≠ k) : Tab.rising lo (Tab.ins t k v) = true := by
  induction t generalizing lo with
  | nil =>
    cases lo with
    | none => simp [Tab.ins, Tab.rising]
    | some l => have := hlo l rfl; simp [Tab.ins, Tab.rising, this]
  | cons p t ih =>
    obtain ⟨a, w⟩ := p
    simp only [Tab.rising, Bool.and_eq_true] at h
    by_cases hka : k < a
    · cases lo with
      | none => simp [Tab.ins, hka, Tab.rising, h.2]
      | some l => have := hlo l rfl; simp [Tab.ins, hka, Tab.rising, h.2, this]
    · have hne : a ≠ k := hk (a, w) (by simp)
      simp only [Tab.ins, hka, if_false, Tab.rising, Bool.and_eq_true]
      refine ⟨h.1, ih (some a) h.2 ?_ (fun p hp => hk p (by simp [hp]))⟩
      intro l hl
      simp at hl
      omega

theorem Tab.mem_del {α : Type} (t : Tab α) (k : Nat) (p : Nat × α) (h : p ∈ Tab.del t k) : p ∈ t := by
  induction t with
  | nil => simp [Tab.del] at h
  | cons q t ih =>
    obtain ⟨a, w⟩ := q
    by_cases hk : k = a
    · simp [Tab.del, hk] at h; rw [← hk] at h; simp [ih h]
    · simp [Tab.del, hk] at h
      rcases h with rfl | h
      · simp
      · simp [ih h]

theorem Tab.mem_ins {α : Type} (t : Tab α) (k : Nat) (v : α) (p : Nat × α) (h : p ∈ Tab.ins t k v) : p = (k, v) ∨ p ∈ t := by
  induction t with
  | nil => simp [Tab.ins] at h; simp [h]
  | cons q t ih =>
    obtain ⟨a, w⟩ := q
    by_cases hk : k < a
    · simpa [Tab.ins, hk] using h
    · simp [Tab.ins, hk] at h
      rcases h with rfl | h
      · simp
      · rcases ih h with h | h <;> simp [h]

/-- A write keeps the canonical form, where the value that an unlisted key reads as may differ from key to key. -/
theorem Tab.wf_set {α : Type} [DecidableEq α] (d : Nat → α) (t : Tab α) (k : Nat) (v : α) (h : Tab.wf d t = true) :
    Tab.wf d (Tab.set (d k) t k v) = true := by
  simp only [Tab.wf, Bool.and_eq_true, List.all_eq_true, decide_eq_true_eq] at h ⊢
  have hd : Tab.rising none (Tab.del t k) = true := Tab.rising_del t k none h.1
  unfold Tab.set
  split
  · exact ⟨hd, fun p hp => h.2 p (Tab.mem_del t k p hp)⟩
  · next hv =>
    refine ⟨Tab.rising_ins _ k v none hd (by simp) (Tab.del_keys t k), ?_⟩
    intro p hp
    rcases Tab.mem_ins _ k v p hp with rfl | hp
    · exact hv
    · exact h.2 p (Tab.mem_del t k p hp)

end Sys2Proof
end

