-- ==== Sys2Proof/Laws/State.lean ====
section
/-! SUPPORT. What each update of the block leaves alone, one lemma per field per update, and what it reads back. -/
namespace Sys2Proof.Machine

section setReg
@[simp] theorem Blk.setReg_build (b : Blk) (o : Nat) (v : W64) : (b.setReg o v).build = b.build := rfl
@[simp] theorem Blk.setReg_locked (b : Blk) (o : Nat) (v : W64) : (b.setReg o v).locked = b.locked := rfl
@[simp] theorem Blk.setReg_time (b : Blk) (o : Nat) (v : W64) : (b.setReg o v).time = b.time := rfl
@[simp] theorem Blk.setReg_free (b : Blk) (o : Nat) (v : W64) : (b.setReg o v).free = b.free := rfl
@[simp] theorem Blk.setReg_dev (b : Blk) (o : Nat) (v : W64) : (b.setReg o v).dev = b.dev := rfl
@[simp] theorem Blk.setReg_bad (b : Blk) (o : Nat) (v : W64) : (b.setReg o v).bad = b.bad := rfl
@[simp] theorem Blk.setReg_host (b : Blk) (o : Nat) (v : W64) : (b.setReg o v).host = b.host := rfl
@[simp] theorem Blk.setReg_wq (b : Blk) (o : Nat) (v : W64) : (b.setReg o v).wq = b.wq := rfl
@[simp] theorem Blk.setReg_nextWr (b : Blk) (o : Nat) (v : W64) : (b.setReg o v).nextWr = b.nextWr := rfl
@[simp] theorem Blk.setReg_inletQ (b : Blk) (o : Nat) (v : W64) : (b.setReg o v).inletQ = b.inletQ := rfl
@[simp] theorem Blk.setReg_rings (b : Blk) (o : Nat) (v : W64) : (b.setReg o v).rings = b.rings := rfl
@[simp] theorem Blk.setReg_cmds (b : Blk) (o : Nat) (v : W64) : (b.setReg o v).cmds = b.cmds := rfl
@[simp] theorem Blk.setReg_nextCmd (b : Blk) (o : Nat) (v : W64) : (b.setReg o v).nextCmd = b.nextCmd := rfl
@[simp] theorem Blk.setReg_dcache (b : Blk) (o : Nat) (v : W64) : (b.setReg o v).dcache = b.dcache := rfl
@[simp] theorem Blk.setReg_fringLog (b : Blk) (o : Nat) (v : W64) : (b.setReg o v).fringLog = b.fringLog := rfl
@[simp] theorem Blk.setReg_fringBase (b : Blk) (o : Nat) (v : W64) : (b.setReg o v).fringBase = b.fringBase := rfl
@[simp] theorem Blk.setReg_eringLog (b : Blk) (o : Nat) (v : W64) : (b.setReg o v).eringLog = b.eringLog := rfl
@[simp] theorem Blk.setReg_eringBase (b : Blk) (o : Nat) (v : W64) : (b.setReg o v).eringBase = b.eringBase := rfl
@[simp] theorem Blk.setReg_evPath (b : Blk) (o : Nat) (v : W64) : (b.setReg o v).evPath = b.evPath := rfl
@[simp] theorem Blk.setReg_faultPath (b : Blk) (o : Nat) (v : W64) : (b.setReg o v).faultPath = b.faultPath := rfl
@[simp] theorem Blk.setReg_msgs (b : Blk) (o : Nat) (v : W64) : (b.setReg o v).msgs = b.msgs := rfl
@[simp] theorem Blk.setReg_copies (b : Blk) (o : Nat) (v : W64) : (b.setReg o v).copies = b.copies := rfl
@[simp] theorem Blk.setReg_advs (b : Blk) (o : Nat) (v : W64) : (b.setReg o v).advs = b.advs := rfl
@[simp] theorem Blk.setReg_nextCopy (b : Blk) (o : Nat) (v : W64) : (b.setReg o v).nextCopy = b.nextCopy := rfl
@[simp] theorem Blk.setReg_l2 (b : Blk) (o : Nat) (v : W64) : (b.setReg o v).l2 = b.l2 := rfl
@[simp] theorem Blk.setReg_l1 (b : Blk) (o : Nat) (v : W64) : (b.setReg o v).l1 = b.l1 := rfl
@[simp] theorem Blk.setReg_wcache (b : Blk) (o : Nat) (v : W64) : (b.setReg o v).wcache = b.wcache := rfl
@[simp] theorem Blk.setReg_walks (b : Blk) (o : Nat) (v : W64) : (b.setReg o v).walks = b.walks := rfl
@[simp] theorem Blk.setReg_xbad (b : Blk) (o : Nat) (v : W64) : (b.setReg o v).xbad = b.xbad := rfl
@[simp] theorem Blk.setReg_ft (b : Blk) (o : Nat) (v : W64) : (b.setReg o v).ft = b.ft := rfl
@[simp] theorem Blk.setReg_ftWait (b : Blk) (o : Nat) (v : W64) : (b.setReg o v).ftWait = b.ftWait := rfl
@[simp] theorem Blk.setReg_invals (b : Blk) (o : Nat) (v : W64) : (b.setReg o v).invals = b.invals := rfl
@[simp] theorem Blk.setReg_belay (b : Blk) (o : Nat) (v : W64) : (b.setReg o v).belay = b.belay := rfl
@[simp] theorem Blk.setReg_belayed (b : Blk) (o : Nat) (v : W64) : (b.setReg o v).belayed = b.belayed := rfl
@[simp] theorem Blk.setReg_rc (b : Blk) (o : Nat) (v : W64) : (b.setReg o v).rc = b.rc := rfl
@[simp] theorem Blk.setReg_co (b : Blk) (o : Nat) (v : W64) : (b.setReg o v).co = b.co := rfl
@[simp] theorem Blk.setReg_nulls (b : Blk) (o : Nat) (v : W64) : (b.setReg o v).nulls = b.nulls := rfl
@[simp] theorem Blk.setReg_stalled (b : Blk) (o : Nat) (v : W64) : (b.setReg o v).stalled = b.stalled := rfl
@[simp] theorem Blk.setReg_fences (b : Blk) (o : Nat) (v : W64) : (b.setReg o v).fences = b.fences := rfl
@[simp] theorem Blk.setReg_nextFence (b : Blk) (o : Nat) (v : W64) : (b.setReg o v).nextFence = b.nextFence := rfl
@[simp] theorem Blk.setReg_mig (b : Blk) (o : Nat) (v : W64) : (b.setReg o v).mig = b.mig := rfl
@[simp] theorem Blk.setReg_cores (b : Blk) (o : Nat) (v : W64) : (b.setReg o v).cores = b.cores := rfl
@[simp] theorem Blk.setReg_lx (b : Blk) (o : Nat) (v : W64) : (b.setReg o v).lx = b.lx := rfl
@[simp] theorem Blk.setReg_anc (b : Blk) (o : Nat) (v : W64) : (b.setReg o v).anc = b.anc := rfl
@[simp] theorem Blk.setReg_waiters (b : Blk) (o : Nat) (v : W64) : (b.setReg o v).waiters = b.waiters := rfl
@[simp] theorem Blk.setReg_flags (b : Blk) (o : Nat) (v : W64) : (b.setReg o v).flags = b.flags := rfl
@[simp] theorem Blk.setReg_pwr (b : Blk) (o : Nat) (v : W64) : (b.setReg o v).pwr = b.pwr := rfl
@[simp] theorem Blk.setReg_sec (b : Blk) (o : Nat) (v : W64) : (b.setReg o v).sec = b.sec := rfl
@[simp] theorem Blk.setReg_dbg (b : Blk) (o : Nat) (v : W64) : (b.setReg o v).dbg = b.dbg := rfl
@[simp] theorem Blk.setReg_qrst (b : Blk) (o : Nat) (v : W64) : (b.setReg o v).qrst = b.qrst := rfl
end setReg

section setFld
@[simp] theorem Blk.setFld_build (b : Blk) (o lo n v : Nat) : (b.setFld o lo n v).build = b.build := rfl
@[simp] theorem Blk.setFld_locked (b : Blk) (o lo n v : Nat) : (b.setFld o lo n v).locked = b.locked := rfl
@[simp] theorem Blk.setFld_time (b : Blk) (o lo n v : Nat) : (b.setFld o lo n v).time = b.time := rfl
@[simp] theorem Blk.setFld_free (b : Blk) (o lo n v : Nat) : (b.setFld o lo n v).free = b.free := rfl
@[simp] theorem Blk.setFld_dev (b : Blk) (o lo n v : Nat) : (b.setFld o lo n v).dev = b.dev := rfl
@[simp] theorem Blk.setFld_bad (b : Blk) (o lo n v : Nat) : (b.setFld o lo n v).bad = b.bad := rfl
@[simp] theorem Blk.setFld_host (b : Blk) (o lo n v : Nat) : (b.setFld o lo n v).host = b.host := rfl
@[simp] theorem Blk.setFld_wq (b : Blk) (o lo n v : Nat) : (b.setFld o lo n v).wq = b.wq := rfl
@[simp] theorem Blk.setFld_nextWr (b : Blk) (o lo n v : Nat) : (b.setFld o lo n v).nextWr = b.nextWr := rfl
@[simp] theorem Blk.setFld_inletQ (b : Blk) (o lo n v : Nat) : (b.setFld o lo n v).inletQ = b.inletQ := rfl
@[simp] theorem Blk.setFld_rings (b : Blk) (o lo n v : Nat) : (b.setFld o lo n v).rings = b.rings := rfl
@[simp] theorem Blk.setFld_cmds (b : Blk) (o lo n v : Nat) : (b.setFld o lo n v).cmds = b.cmds := rfl
@[simp] theorem Blk.setFld_nextCmd (b : Blk) (o lo n v : Nat) : (b.setFld o lo n v).nextCmd = b.nextCmd := rfl
@[simp] theorem Blk.setFld_dcache (b : Blk) (o lo n v : Nat) : (b.setFld o lo n v).dcache = b.dcache := rfl
@[simp] theorem Blk.setFld_fringLog (b : Blk) (o lo n v : Nat) : (b.setFld o lo n v).fringLog = b.fringLog := rfl
@[simp] theorem Blk.setFld_fringBase (b : Blk) (o lo n v : Nat) : (b.setFld o lo n v).fringBase = b.fringBase := rfl
@[simp] theorem Blk.setFld_eringLog (b : Blk) (o lo n v : Nat) : (b.setFld o lo n v).eringLog = b.eringLog := rfl
@[simp] theorem Blk.setFld_eringBase (b : Blk) (o lo n v : Nat) : (b.setFld o lo n v).eringBase = b.eringBase := rfl
@[simp] theorem Blk.setFld_evPath (b : Blk) (o lo n v : Nat) : (b.setFld o lo n v).evPath = b.evPath := rfl
@[simp] theorem Blk.setFld_faultPath (b : Blk) (o lo n v : Nat) : (b.setFld o lo n v).faultPath = b.faultPath := rfl
@[simp] theorem Blk.setFld_msgs (b : Blk) (o lo n v : Nat) : (b.setFld o lo n v).msgs = b.msgs := rfl
@[simp] theorem Blk.setFld_copies (b : Blk) (o lo n v : Nat) : (b.setFld o lo n v).copies = b.copies := rfl
@[simp] theorem Blk.setFld_advs (b : Blk) (o lo n v : Nat) : (b.setFld o lo n v).advs = b.advs := rfl
@[simp] theorem Blk.setFld_nextCopy (b : Blk) (o lo n v : Nat) : (b.setFld o lo n v).nextCopy = b.nextCopy := rfl
@[simp] theorem Blk.setFld_l2 (b : Blk) (o lo n v : Nat) : (b.setFld o lo n v).l2 = b.l2 := rfl
@[simp] theorem Blk.setFld_l1 (b : Blk) (o lo n v : Nat) : (b.setFld o lo n v).l1 = b.l1 := rfl
@[simp] theorem Blk.setFld_wcache (b : Blk) (o lo n v : Nat) : (b.setFld o lo n v).wcache = b.wcache := rfl
@[simp] theorem Blk.setFld_walks (b : Blk) (o lo n v : Nat) : (b.setFld o lo n v).walks = b.walks := rfl
@[simp] theorem Blk.setFld_xbad (b : Blk) (o lo n v : Nat) : (b.setFld o lo n v).xbad = b.xbad := rfl
@[simp] theorem Blk.setFld_ft (b : Blk) (o lo n v : Nat) : (b.setFld o lo n v).ft = b.ft := rfl
@[simp] theorem Blk.setFld_ftWait (b : Blk) (o lo n v : Nat) : (b.setFld o lo n v).ftWait = b.ftWait := rfl
@[simp] theorem Blk.setFld_invals (b : Blk) (o lo n v : Nat) : (b.setFld o lo n v).invals = b.invals := rfl
@[simp] theorem Blk.setFld_belay (b : Blk) (o lo n v : Nat) : (b.setFld o lo n v).belay = b.belay := rfl
@[simp] theorem Blk.setFld_belayed (b : Blk) (o lo n v : Nat) : (b.setFld o lo n v).belayed = b.belayed := rfl
@[simp] theorem Blk.setFld_rc (b : Blk) (o lo n v : Nat) : (b.setFld o lo n v).rc = b.rc := rfl
@[simp] theorem Blk.setFld_co (b : Blk) (o lo n v : Nat) : (b.setFld o lo n v).co = b.co := rfl
@[simp] theorem Blk.setFld_nulls (b : Blk) (o lo n v : Nat) : (b.setFld o lo n v).nulls = b.nulls := rfl
@[simp] theorem Blk.setFld_stalled (b : Blk) (o lo n v : Nat) : (b.setFld o lo n v).stalled = b.stalled := rfl
@[simp] theorem Blk.setFld_fences (b : Blk) (o lo n v : Nat) : (b.setFld o lo n v).fences = b.fences := rfl
@[simp] theorem Blk.setFld_nextFence (b : Blk) (o lo n v : Nat) : (b.setFld o lo n v).nextFence = b.nextFence := rfl
@[simp] theorem Blk.setFld_mig (b : Blk) (o lo n v : Nat) : (b.setFld o lo n v).mig = b.mig := rfl
@[simp] theorem Blk.setFld_cores (b : Blk) (o lo n v : Nat) : (b.setFld o lo n v).cores = b.cores := rfl
@[simp] theorem Blk.setFld_lx (b : Blk) (o lo n v : Nat) : (b.setFld o lo n v).lx = b.lx := rfl
@[simp] theorem Blk.setFld_anc (b : Blk) (o lo n v : Nat) : (b.setFld o lo n v).anc = b.anc := rfl
@[simp] theorem Blk.setFld_waiters (b : Blk) (o lo n v : Nat) : (b.setFld o lo n v).waiters = b.waiters := rfl
@[simp] theorem Blk.setFld_flags (b : Blk) (o lo n v : Nat) : (b.setFld o lo n v).flags = b.flags := rfl
@[simp] theorem Blk.setFld_pwr (b : Blk) (o lo n v : Nat) : (b.setFld o lo n v).pwr = b.pwr := rfl
@[simp] theorem Blk.setFld_sec (b : Blk) (o lo n v : Nat) : (b.setFld o lo n v).sec = b.sec := rfl
@[simp] theorem Blk.setFld_dbg (b : Blk) (o lo n v : Nat) : (b.setFld o lo n v).dbg = b.dbg := rfl
@[simp] theorem Blk.setFld_qrst (b : Blk) (o lo n v : Nat) : (b.setFld o lo n v).qrst = b.qrst := rfl
end setFld

section inc
@[simp] theorem Blk.inc_build (b : Blk) (o k : Nat) : (b.inc o k).build = b.build := rfl
@[simp] theorem Blk.inc_locked (b : Blk) (o k : Nat) : (b.inc o k).locked = b.locked := rfl
@[simp] theorem Blk.inc_time (b : Blk) (o k : Nat) : (b.inc o k).time = b.time := rfl
@[simp] theorem Blk.inc_free (b : Blk) (o k : Nat) : (b.inc o k).free = b.free := rfl
@[simp] theorem Blk.inc_dev (b : Blk) (o k : Nat) : (b.inc o k).dev = b.dev := rfl
@[simp] theorem Blk.inc_bad (b : Blk) (o k : Nat) : (b.inc o k).bad = b.bad := rfl
@[simp] theorem Blk.inc_host (b : Blk) (o k : Nat) : (b.inc o k).host = b.host := rfl
@[simp] theorem Blk.inc_wq (b : Blk) (o k : Nat) : (b.inc o k).wq = b.wq := rfl
@[simp] theorem Blk.inc_nextWr (b : Blk) (o k : Nat) : (b.inc o k).nextWr = b.nextWr := rfl
@[simp] theorem Blk.inc_inletQ (b : Blk) (o k : Nat) : (b.inc o k).inletQ = b.inletQ := rfl
@[simp] theorem Blk.inc_rings (b : Blk) (o k : Nat) : (b.inc o k).rings = b.rings := rfl
@[simp] theorem Blk.inc_cmds (b : Blk) (o k : Nat) : (b.inc o k).cmds = b.cmds := rfl
@[simp] theorem Blk.inc_nextCmd (b : Blk) (o k : Nat) : (b.inc o k).nextCmd = b.nextCmd := rfl
@[simp] theorem Blk.inc_dcache (b : Blk) (o k : Nat) : (b.inc o k).dcache = b.dcache := rfl
@[simp] theorem Blk.inc_fringLog (b : Blk) (o k : Nat) : (b.inc o k).fringLog = b.fringLog := rfl
@[simp] theorem Blk.inc_fringBase (b : Blk) (o k : Nat) : (b.inc o k).fringBase = b.fringBase := rfl
@[simp] theorem Blk.inc_eringLog (b : Blk) (o k : Nat) : (b.inc o k).eringLog = b.eringLog := rfl
@[simp] theorem Blk.inc_eringBase (b : Blk) (o k : Nat) : (b.inc o k).eringBase = b.eringBase := rfl
@[simp] theorem Blk.inc_evPath (b : Blk) (o k : Nat) : (b.inc o k).evPath = b.evPath := rfl
@[simp] theorem Blk.inc_faultPath (b : Blk) (o k : Nat) : (b.inc o k).faultPath = b.faultPath := rfl
@[simp] theorem Blk.inc_msgs (b : Blk) (o k : Nat) : (b.inc o k).msgs = b.msgs := rfl
@[simp] theorem Blk.inc_copies (b : Blk) (o k : Nat) : (b.inc o k).copies = b.copies := rfl
@[simp] theorem Blk.inc_advs (b : Blk) (o k : Nat) : (b.inc o k).advs = b.advs := rfl
@[simp] theorem Blk.inc_nextCopy (b : Blk) (o k : Nat) : (b.inc o k).nextCopy = b.nextCopy := rfl
@[simp] theorem Blk.inc_l2 (b : Blk) (o k : Nat) : (b.inc o k).l2 = b.l2 := rfl
@[simp] theorem Blk.inc_l1 (b : Blk) (o k : Nat) : (b.inc o k).l1 = b.l1 := rfl
@[simp] theorem Blk.inc_wcache (b : Blk) (o k : Nat) : (b.inc o k).wcache = b.wcache := rfl
@[simp] theorem Blk.inc_walks (b : Blk) (o k : Nat) : (b.inc o k).walks = b.walks := rfl
@[simp] theorem Blk.inc_xbad (b : Blk) (o k : Nat) : (b.inc o k).xbad = b.xbad := rfl
@[simp] theorem Blk.inc_ft (b : Blk) (o k : Nat) : (b.inc o k).ft = b.ft := rfl
@[simp] theorem Blk.inc_ftWait (b : Blk) (o k : Nat) : (b.inc o k).ftWait = b.ftWait := rfl
@[simp] theorem Blk.inc_invals (b : Blk) (o k : Nat) : (b.inc o k).invals = b.invals := rfl
@[simp] theorem Blk.inc_belay (b : Blk) (o k : Nat) : (b.inc o k).belay = b.belay := rfl
@[simp] theorem Blk.inc_belayed (b : Blk) (o k : Nat) : (b.inc o k).belayed = b.belayed := rfl
@[simp] theorem Blk.inc_rc (b : Blk) (o k : Nat) : (b.inc o k).rc = b.rc := rfl
@[simp] theorem Blk.inc_co (b : Blk) (o k : Nat) : (b.inc o k).co = b.co := rfl
@[simp] theorem Blk.inc_nulls (b : Blk) (o k : Nat) : (b.inc o k).nulls = b.nulls := rfl
@[simp] theorem Blk.inc_stalled (b : Blk) (o k : Nat) : (b.inc o k).stalled = b.stalled := rfl
@[simp] theorem Blk.inc_fences (b : Blk) (o k : Nat) : (b.inc o k).fences = b.fences := rfl
@[simp] theorem Blk.inc_nextFence (b : Blk) (o k : Nat) : (b.inc o k).nextFence = b.nextFence := rfl
@[simp] theorem Blk.inc_mig (b : Blk) (o k : Nat) : (b.inc o k).mig = b.mig := rfl
@[simp] theorem Blk.inc_cores (b : Blk) (o k : Nat) : (b.inc o k).cores = b.cores := rfl
@[simp] theorem Blk.inc_lx (b : Blk) (o k : Nat) : (b.inc o k).lx = b.lx := rfl
@[simp] theorem Blk.inc_anc (b : Blk) (o k : Nat) : (b.inc o k).anc = b.anc := rfl
@[simp] theorem Blk.inc_waiters (b : Blk) (o k : Nat) : (b.inc o k).waiters = b.waiters := rfl
@[simp] theorem Blk.inc_flags (b : Blk) (o k : Nat) : (b.inc o k).flags = b.flags := rfl
@[simp] theorem Blk.inc_pwr (b : Blk) (o k : Nat) : (b.inc o k).pwr = b.pwr := rfl
@[simp] theorem Blk.inc_sec (b : Blk) (o k : Nat) : (b.inc o k).sec = b.sec := rfl
@[simp] theorem Blk.inc_dbg (b : Blk) (o k : Nat) : (b.inc o k).dbg = b.dbg := rfl
@[simp] theorem Blk.inc_qrst (b : Blk) (o k : Nat) : (b.inc o k).qrst = b.qrst := rfl
end inc

section incSat
@[simp] theorem Blk.incSat_build (b : Blk) (o lo n k : Nat) : (b.incSat o lo n k).build = b.build := rfl
@[simp] theorem Blk.incSat_locked (b : Blk) (o lo n k : Nat) : (b.incSat o lo n k).locked = b.locked := rfl
@[simp] theorem Blk.incSat_time (b : Blk) (o lo n k : Nat) : (b.incSat o lo n k).time = b.time := rfl
@[simp] theorem Blk.incSat_free (b : Blk) (o lo n k : Nat) : (b.incSat o lo n k).free = b.free := rfl
@[simp] theorem Blk.incSat_dev (b : Blk) (o lo n k : Nat) : (b.incSat o lo n k).dev = b.dev := rfl
@[simp] theorem Blk.incSat_bad (b : Blk) (o lo n k : Nat) : (b.incSat o lo n k).bad = b.bad := rfl
@[simp] theorem Blk.incSat_host (b : Blk) (o lo n k : Nat) : (b.incSat o lo n k).host = b.host := rfl
@[simp] theorem Blk.incSat_wq (b : Blk) (o lo n k : Nat) : (b.incSat o lo n k).wq = b.wq := rfl
@[simp] theorem Blk.incSat_nextWr (b : Blk) (o lo n k : Nat) : (b.incSat o lo n k).nextWr = b.nextWr := rfl
@[simp] theorem Blk.incSat_inletQ (b : Blk) (o lo n k : Nat) : (b.incSat o lo n k).inletQ = b.inletQ := rfl
@[simp] theorem Blk.incSat_rings (b : Blk) (o lo n k : Nat) : (b.incSat o lo n k).rings = b.rings := rfl
@[simp] theorem Blk.incSat_cmds (b : Blk) (o lo n k : Nat) : (b.incSat o lo n k).cmds = b.cmds := rfl
@[simp] theorem Blk.incSat_nextCmd (b : Blk) (o lo n k : Nat) : (b.incSat o lo n k).nextCmd = b.nextCmd := rfl
@[simp] theorem Blk.incSat_dcache (b : Blk) (o lo n k : Nat) : (b.incSat o lo n k).dcache = b.dcache := rfl
@[simp] theorem Blk.incSat_fringLog (b : Blk) (o lo n k : Nat) : (b.incSat o lo n k).fringLog = b.fringLog := rfl
@[simp] theorem Blk.incSat_fringBase (b : Blk) (o lo n k : Nat) : (b.incSat o lo n k).fringBase = b.fringBase := rfl
@[simp] theorem Blk.incSat_eringLog (b : Blk) (o lo n k : Nat) : (b.incSat o lo n k).eringLog = b.eringLog := rfl
@[simp] theorem Blk.incSat_eringBase (b : Blk) (o lo n k : Nat) : (b.incSat o lo n k).eringBase = b.eringBase := rfl
@[simp] theorem Blk.incSat_evPath (b : Blk) (o lo n k : Nat) : (b.incSat o lo n k).evPath = b.evPath := rfl
@[simp] theorem Blk.incSat_faultPath (b : Blk) (o lo n k : Nat) : (b.incSat o lo n k).faultPath = b.faultPath := rfl
@[simp] theorem Blk.incSat_msgs (b : Blk) (o lo n k : Nat) : (b.incSat o lo n k).msgs = b.msgs := rfl
@[simp] theorem Blk.incSat_copies (b : Blk) (o lo n k : Nat) : (b.incSat o lo n k).copies = b.copies := rfl
@[simp] theorem Blk.incSat_advs (b : Blk) (o lo n k : Nat) : (b.incSat o lo n k).advs = b.advs := rfl
@[simp] theorem Blk.incSat_nextCopy (b : Blk) (o lo n k : Nat) : (b.incSat o lo n k).nextCopy = b.nextCopy := rfl
@[simp] theorem Blk.incSat_l2 (b : Blk) (o lo n k : Nat) : (b.incSat o lo n k).l2 = b.l2 := rfl
@[simp] theorem Blk.incSat_l1 (b : Blk) (o lo n k : Nat) : (b.incSat o lo n k).l1 = b.l1 := rfl
@[simp] theorem Blk.incSat_wcache (b : Blk) (o lo n k : Nat) : (b.incSat o lo n k).wcache = b.wcache := rfl
@[simp] theorem Blk.incSat_walks (b : Blk) (o lo n k : Nat) : (b.incSat o lo n k).walks = b.walks := rfl
@[simp] theorem Blk.incSat_xbad (b : Blk) (o lo n k : Nat) : (b.incSat o lo n k).xbad = b.xbad := rfl
@[simp] theorem Blk.incSat_ft (b : Blk) (o lo n k : Nat) : (b.incSat o lo n k).ft = b.ft := rfl
@[simp] theorem Blk.incSat_ftWait (b : Blk) (o lo n k : Nat) : (b.incSat o lo n k).ftWait = b.ftWait := rfl
@[simp] theorem Blk.incSat_invals (b : Blk) (o lo n k : Nat) : (b.incSat o lo n k).invals = b.invals := rfl
@[simp] theorem Blk.incSat_belay (b : Blk) (o lo n k : Nat) : (b.incSat o lo n k).belay = b.belay := rfl
@[simp] theorem Blk.incSat_belayed (b : Blk) (o lo n k : Nat) : (b.incSat o lo n k).belayed = b.belayed := rfl
@[simp] theorem Blk.incSat_rc (b : Blk) (o lo n k : Nat) : (b.incSat o lo n k).rc = b.rc := rfl
@[simp] theorem Blk.incSat_co (b : Blk) (o lo n k : Nat) : (b.incSat o lo n k).co = b.co := rfl
@[simp] theorem Blk.incSat_nulls (b : Blk) (o lo n k : Nat) : (b.incSat o lo n k).nulls = b.nulls := rfl
@[simp] theorem Blk.incSat_stalled (b : Blk) (o lo n k : Nat) : (b.incSat o lo n k).stalled = b.stalled := rfl
@[simp] theorem Blk.incSat_fences (b : Blk) (o lo n k : Nat) : (b.incSat o lo n k).fences = b.fences := rfl
@[simp] theorem Blk.incSat_nextFence (b : Blk) (o lo n k : Nat) : (b.incSat o lo n k).nextFence = b.nextFence := rfl
@[simp] theorem Blk.incSat_mig (b : Blk) (o lo n k : Nat) : (b.incSat o lo n k).mig = b.mig := rfl
@[simp] theorem Blk.incSat_cores (b : Blk) (o lo n k : Nat) : (b.incSat o lo n k).cores = b.cores := rfl
@[simp] theorem Blk.incSat_lx (b : Blk) (o lo n k : Nat) : (b.incSat o lo n k).lx = b.lx := rfl
@[simp] theorem Blk.incSat_anc (b : Blk) (o lo n k : Nat) : (b.incSat o lo n k).anc = b.anc := rfl
@[simp] theorem Blk.incSat_waiters (b : Blk) (o lo n k : Nat) : (b.incSat o lo n k).waiters = b.waiters := rfl
@[simp] theorem Blk.incSat_flags (b : Blk) (o lo n k : Nat) : (b.incSat o lo n k).flags = b.flags := rfl
@[simp] theorem Blk.incSat_pwr (b : Blk) (o lo n k : Nat) : (b.incSat o lo n k).pwr = b.pwr := rfl
@[simp] theorem Blk.incSat_sec (b : Blk) (o lo n k : Nat) : (b.incSat o lo n k).sec = b.sec := rfl
@[simp] theorem Blk.incSat_dbg (b : Blk) (o lo n k : Nat) : (b.incSat o lo n k).dbg = b.dbg := rfl
@[simp] theorem Blk.incSat_qrst (b : Blk) (o lo n k : Nat) : (b.incSat o lo n k).qrst = b.qrst := rfl
end incSat

section freed
@[simp] theorem Blk.freed_build (b : Blk) : (b.freed ).build = b.build := rfl
@[simp] theorem Blk.freed_regs (b : Blk) : (b.freed ).regs = b.regs := rfl
@[simp] theorem Blk.freed_locked (b : Blk) : (b.freed ).locked = b.locked := rfl
@[simp] theorem Blk.freed_time (b : Blk) : (b.freed ).time = b.time := rfl
@[simp] theorem Blk.freed_dev (b : Blk) : (b.freed ).dev = b.dev := rfl
@[simp] theorem Blk.freed_bad (b : Blk) : (b.freed ).bad = b.bad := rfl
@[simp] theorem Blk.freed_host (b : Blk) : (b.freed ).host = b.host := rfl
@[simp] theorem Blk.freed_wq (b : Blk) : (b.freed ).wq = b.wq := rfl
@[simp] theorem Blk.freed_nextWr (b : Blk) : (b.freed ).nextWr = b.nextWr := rfl
@[simp] theorem Blk.freed_inletQ (b : Blk) : (b.freed ).inletQ = b.inletQ := rfl
@[simp] theorem Blk.freed_rings (b : Blk) : (b.freed ).rings = b.rings := rfl
@[simp] theorem Blk.freed_cmds (b : Blk) : (b.freed ).cmds = b.cmds := rfl
@[simp] theorem Blk.freed_nextCmd (b : Blk) : (b.freed ).nextCmd = b.nextCmd := rfl
@[simp] theorem Blk.freed_dcache (b : Blk) : (b.freed ).dcache = b.dcache := rfl
@[simp] theorem Blk.freed_fringLog (b : Blk) : (b.freed ).fringLog = b.fringLog := rfl
@[simp] theorem Blk.freed_fringBase (b : Blk) : (b.freed ).fringBase = b.fringBase := rfl
@[simp] theorem Blk.freed_eringLog (b : Blk) : (b.freed ).eringLog = b.eringLog := rfl
@[simp] theorem Blk.freed_eringBase (b : Blk) : (b.freed ).eringBase = b.eringBase := rfl
@[simp] theorem Blk.freed_evPath (b : Blk) : (b.freed ).evPath = b.evPath := rfl
@[simp] theorem Blk.freed_faultPath (b : Blk) : (b.freed ).faultPath = b.faultPath := rfl
@[simp] theorem Blk.freed_msgs (b : Blk) : (b.freed ).msgs = b.msgs := rfl
@[simp] theorem Blk.freed_copies (b : Blk) : (b.freed ).copies = b.copies := rfl
@[simp] theorem Blk.freed_advs (b : Blk) : (b.freed ).advs = b.advs := rfl
@[simp] theorem Blk.freed_nextCopy (b : Blk) : (b.freed ).nextCopy = b.nextCopy := rfl
@[simp] theorem Blk.freed_l2 (b : Blk) : (b.freed ).l2 = b.l2 := rfl
@[simp] theorem Blk.freed_l1 (b : Blk) : (b.freed ).l1 = b.l1 := rfl
@[simp] theorem Blk.freed_wcache (b : Blk) : (b.freed ).wcache = b.wcache := rfl
@[simp] theorem Blk.freed_walks (b : Blk) : (b.freed ).walks = b.walks := rfl
@[simp] theorem Blk.freed_xbad (b : Blk) : (b.freed ).xbad = b.xbad := rfl
@[simp] theorem Blk.freed_ft (b : Blk) : (b.freed ).ft = b.ft := rfl
@[simp] theorem Blk.freed_ftWait (b : Blk) : (b.freed ).ftWait = b.ftWait := rfl
@[simp] theorem Blk.freed_invals (b : Blk) : (b.freed ).invals = b.invals := rfl
@[simp] theorem Blk.freed_belay (b : Blk) : (b.freed ).belay = b.belay := rfl
@[simp] theorem Blk.freed_belayed (b : Blk) : (b.freed ).belayed = b.belayed := rfl
@[simp] theorem Blk.freed_rc (b : Blk) : (b.freed ).rc = b.rc := rfl
@[simp] theorem Blk.freed_co (b : Blk) : (b.freed ).co = b.co := rfl
@[simp] theorem Blk.freed_nulls (b : Blk) : (b.freed ).nulls = b.nulls := rfl
@[simp] theorem Blk.freed_stalled (b : Blk) : (b.freed ).stalled = b.stalled := rfl
@[simp] theorem Blk.freed_fences (b : Blk) : (b.freed ).fences = b.fences := rfl
@[simp] theorem Blk.freed_nextFence (b : Blk) : (b.freed ).nextFence = b.nextFence := rfl
@[simp] theorem Blk.freed_mig (b : Blk) : (b.freed ).mig = b.mig := rfl
@[simp] theorem Blk.freed_cores (b : Blk) : (b.freed ).cores = b.cores := rfl
@[simp] theorem Blk.freed_lx (b : Blk) : (b.freed ).lx = b.lx := rfl
@[simp] theorem Blk.freed_anc (b : Blk) : (b.freed ).anc = b.anc := rfl
@[simp] theorem Blk.freed_waiters (b : Blk) : (b.freed ).waiters = b.waiters := rfl
@[simp] theorem Blk.freed_flags (b : Blk) : (b.freed ).flags = b.flags := rfl
@[simp] theorem Blk.freed_pwr (b : Blk) : (b.freed ).pwr = b.pwr := rfl
@[simp] theorem Blk.freed_sec (b : Blk) : (b.freed ).sec = b.sec := rfl
@[simp] theorem Blk.freed_dbg (b : Blk) : (b.freed ).dbg = b.dbg := rfl
@[simp] theorem Blk.freed_qrst (b : Blk) : (b.freed ).qrst = b.qrst := rfl
end freed

section updCore
@[simp] theorem Blk.updCore_build (b : Blk) (c : Nat) (f : Core → Core) : (b.updCore c f).build = b.build := rfl
@[simp] theorem Blk.updCore_regs (b : Blk) (c : Nat) (f : Core → Core) : (b.updCore c f).regs = b.regs := rfl
@[simp] theorem Blk.updCore_locked (b : Blk) (c : Nat) (f : Core → Core) : (b.updCore c f).locked = b.locked := rfl
@[simp] theorem Blk.updCore_time (b : Blk) (c : Nat) (f : Core → Core) : (b.updCore c f).time = b.time := rfl
@[simp] theorem Blk.updCore_free (b : Blk) (c : Nat) (f : Core → Core) : (b.updCore c f).free = b.free := rfl
@[simp] theorem Blk.updCore_dev (b : Blk) (c : Nat) (f : Core → Core) : (b.updCore c f).dev = b.dev := rfl
@[simp] theorem Blk.updCore_bad (b : Blk) (c : Nat) (f : Core → Core) : (b.updCore c f).bad = b.bad := rfl
@[simp] theorem Blk.updCore_host (b : Blk) (c : Nat) (f : Core → Core) : (b.updCore c f).host = b.host := rfl
@[simp] theorem Blk.updCore_wq (b : Blk) (c : Nat) (f : Core → Core) : (b.updCore c f).wq = b.wq := rfl
@[simp] theorem Blk.updCore_nextWr (b : Blk) (c : Nat) (f : Core → Core) : (b.updCore c f).nextWr = b.nextWr := rfl
@[simp] theorem Blk.updCore_inletQ (b : Blk) (c : Nat) (f : Core → Core) : (b.updCore c f).inletQ = b.inletQ := rfl
@[simp] theorem Blk.updCore_rings (b : Blk) (c : Nat) (f : Core → Core) : (b.updCore c f).rings = b.rings := rfl
@[simp] theorem Blk.updCore_cmds (b : Blk) (c : Nat) (f : Core → Core) : (b.updCore c f).cmds = b.cmds := rfl
@[simp] theorem Blk.updCore_nextCmd (b : Blk) (c : Nat) (f : Core → Core) : (b.updCore c f).nextCmd = b.nextCmd := rfl
@[simp] theorem Blk.updCore_dcache (b : Blk) (c : Nat) (f : Core → Core) : (b.updCore c f).dcache = b.dcache := rfl
@[simp] theorem Blk.updCore_fringLog (b : Blk) (c : Nat) (f : Core → Core) : (b.updCore c f).fringLog = b.fringLog := rfl
@[simp] theorem Blk.updCore_fringBase (b : Blk) (c : Nat) (f : Core → Core) : (b.updCore c f).fringBase = b.fringBase := rfl
@[simp] theorem Blk.updCore_eringLog (b : Blk) (c : Nat) (f : Core → Core) : (b.updCore c f).eringLog = b.eringLog := rfl
@[simp] theorem Blk.updCore_eringBase (b : Blk) (c : Nat) (f : Core → Core) : (b.updCore c f).eringBase = b.eringBase := rfl
@[simp] theorem Blk.updCore_evPath (b : Blk) (c : Nat) (f : Core → Core) : (b.updCore c f).evPath = b.evPath := rfl
@[simp] theorem Blk.updCore_faultPath (b : Blk) (c : Nat) (f : Core → Core) : (b.updCore c f).faultPath = b.faultPath := rfl
@[simp] theorem Blk.updCore_msgs (b : Blk) (c : Nat) (f : Core → Core) : (b.updCore c f).msgs = b.msgs := rfl
@[simp] theorem Blk.updCore_copies (b : Blk) (c : Nat) (f : Core → Core) : (b.updCore c f).copies = b.copies := rfl
@[simp] theorem Blk.updCore_advs (b : Blk) (c : Nat) (f : Core → Core) : (b.updCore c f).advs = b.advs := rfl
@[simp] theorem Blk.updCore_nextCopy (b : Blk) (c : Nat) (f : Core → Core) : (b.updCore c f).nextCopy = b.nextCopy := rfl
@[simp] theorem Blk.updCore_l2 (b : Blk) (c : Nat) (f : Core → Core) : (b.updCore c f).l2 = b.l2 := rfl
@[simp] theorem Blk.updCore_l1 (b : Blk) (c : Nat) (f : Core → Core) : (b.updCore c f).l1 = b.l1 := rfl
@[simp] theorem Blk.updCore_wcache (b : Blk) (c : Nat) (f : Core → Core) : (b.updCore c f).wcache = b.wcache := rfl
@[simp] theorem Blk.updCore_walks (b : Blk) (c : Nat) (f : Core → Core) : (b.updCore c f).walks = b.walks := rfl
@[simp] theorem Blk.updCore_xbad (b : Blk) (c : Nat) (f : Core → Core) : (b.updCore c f).xbad = b.xbad := rfl
@[simp] theorem Blk.updCore_ft (b : Blk) (c : Nat) (f : Core → Core) : (b.updCore c f).ft = b.ft := rfl
@[simp] theorem Blk.updCore_ftWait (b : Blk) (c : Nat) (f : Core → Core) : (b.updCore c f).ftWait = b.ftWait := rfl
@[simp] theorem Blk.updCore_invals (b : Blk) (c : Nat) (f : Core → Core) : (b.updCore c f).invals = b.invals := rfl
@[simp] theorem Blk.updCore_belay (b : Blk) (c : Nat) (f : Core → Core) : (b.updCore c f).belay = b.belay := rfl
@[simp] theorem Blk.updCore_belayed (b : Blk) (c : Nat) (f : Core → Core) : (b.updCore c f).belayed = b.belayed := rfl
@[simp] theorem Blk.updCore_rc (b : Blk) (c : Nat) (f : Core → Core) : (b.updCore c f).rc = b.rc := rfl
@[simp] theorem Blk.updCore_co (b : Blk) (c : Nat) (f : Core → Core) : (b.updCore c f).co = b.co := rfl
@[simp] theorem Blk.updCore_nulls (b : Blk) (c : Nat) (f : Core → Core) : (b.updCore c f).nulls = b.nulls := rfl
@[simp] theorem Blk.updCore_stalled (b : Blk) (c : Nat) (f : Core → Core) : (b.updCore c f).stalled = b.stalled := rfl
@[simp] theorem Blk.updCore_fences (b : Blk) (c : Nat) (f : Core → Core) : (b.updCore c f).fences = b.fences := rfl
@[simp] theorem Blk.updCore_nextFence (b : Blk) (c : Nat) (f : Core → Core) : (b.updCore c f).nextFence = b.nextFence := rfl
@[simp] theorem Blk.updCore_mig (b : Blk) (c : Nat) (f : Core → Core) : (b.updCore c f).mig = b.mig := rfl
@[simp] theorem Blk.updCore_lx (b : Blk) (c : Nat) (f : Core → Core) : (b.updCore c f).lx = b.lx := rfl
@[simp] theorem Blk.updCore_anc (b : Blk) (c : Nat) (f : Core → Core) : (b.updCore c f).anc = b.anc := rfl
@[simp] theorem Blk.updCore_waiters (b : Blk) (c : Nat) (f : Core → Core) : (b.updCore c f).waiters = b.waiters := rfl
@[simp] theorem Blk.updCore_flags (b : Blk) (c : Nat) (f : Core → Core) : (b.updCore c f).flags = b.flags := rfl
@[simp] theorem Blk.updCore_pwr (b : Blk) (c : Nat) (f : Core → Core) : (b.updCore c f).pwr = b.pwr := rfl
@[simp] theorem Blk.updCore_sec (b : Blk) (c : Nat) (f : Core → Core) : (b.updCore c f).sec = b.sec := rfl
@[simp] theorem Blk.updCore_dbg (b : Blk) (c : Nat) (f : Core → Core) : (b.updCore c f).dbg = b.dbg := rfl
@[simp] theorem Blk.updCore_qrst (b : Blk) (c : Nat) (f : Core → Core) : (b.updCore c f).qrst = b.qrst := rfl
end updCore

section updTask
@[simp] theorem Blk.updTask_build (b : Blk) (c t : Nat) (f : Task → Task) : (b.updTask c t f).build = b.build := rfl
@[simp] theorem Blk.updTask_regs (b : Blk) (c t : Nat) (f : Task → Task) : (b.updTask c t f).regs = b.regs := rfl
@[simp] theorem Blk.updTask_locked (b : Blk) (c t : Nat) (f : Task → Task) : (b.updTask c t f).locked = b.locked := rfl
@[simp] theorem Blk.updTask_time (b : Blk) (c t : Nat) (f : Task → Task) : (b.updTask c t f).time = b.time := rfl
@[simp] theorem Blk.updTask_free (b : Blk) (c t : Nat) (f : Task → Task) : (b.updTask c t f).free = b.free := rfl
@[simp] theorem Blk.updTask_dev (b : Blk) (c t : Nat) (f : Task → Task) : (b.updTask c t f).dev = b.dev := rfl
@[simp] theorem Blk.updTask_bad (b : Blk) (c t : Nat) (f : Task → Task) : (b.updTask c t f).bad = b.bad := rfl
@[simp] theorem Blk.updTask_host (b : Blk) (c t : Nat) (f : Task → Task) : (b.updTask c t f).host = b.host := rfl
@[simp] theorem Blk.updTask_wq (b : Blk) (c t : Nat) (f : Task → Task) : (b.updTask c t f).wq = b.wq := rfl
@[simp] theorem Blk.updTask_nextWr (b : Blk) (c t : Nat) (f : Task → Task) : (b.updTask c t f).nextWr = b.nextWr := rfl
@[simp] theorem Blk.updTask_inletQ (b : Blk) (c t : Nat) (f : Task → Task) : (b.updTask c t f).inletQ = b.inletQ := rfl
@[simp] theorem Blk.updTask_rings (b : Blk) (c t : Nat) (f : Task → Task) : (b.updTask c t f).rings = b.rings := rfl
@[simp] theorem Blk.updTask_cmds (b : Blk) (c t : Nat) (f : Task → Task) : (b.updTask c t f).cmds = b.cmds := rfl
@[simp] theorem Blk.updTask_nextCmd (b : Blk) (c t : Nat) (f : Task → Task) : (b.updTask c t f).nextCmd = b.nextCmd := rfl
@[simp] theorem Blk.updTask_dcache (b : Blk) (c t : Nat) (f : Task → Task) : (b.updTask c t f).dcache = b.dcache := rfl
@[simp] theorem Blk.updTask_fringLog (b : Blk) (c t : Nat) (f : Task → Task) : (b.updTask c t f).fringLog = b.fringLog := rfl
@[simp] theorem Blk.updTask_fringBase (b : Blk) (c t : Nat) (f : Task → Task) : (b.updTask c t f).fringBase = b.fringBase := rfl
@[simp] theorem Blk.updTask_eringLog (b : Blk) (c t : Nat) (f : Task → Task) : (b.updTask c t f).eringLog = b.eringLog := rfl
@[simp] theorem Blk.updTask_eringBase (b : Blk) (c t : Nat) (f : Task → Task) : (b.updTask c t f).eringBase = b.eringBase := rfl
@[simp] theorem Blk.updTask_evPath (b : Blk) (c t : Nat) (f : Task → Task) : (b.updTask c t f).evPath = b.evPath := rfl
@[simp] theorem Blk.updTask_faultPath (b : Blk) (c t : Nat) (f : Task → Task) : (b.updTask c t f).faultPath = b.faultPath := rfl
@[simp] theorem Blk.updTask_msgs (b : Blk) (c t : Nat) (f : Task → Task) : (b.updTask c t f).msgs = b.msgs := rfl
@[simp] theorem Blk.updTask_copies (b : Blk) (c t : Nat) (f : Task → Task) : (b.updTask c t f).copies = b.copies := rfl
@[simp] theorem Blk.updTask_advs (b : Blk) (c t : Nat) (f : Task → Task) : (b.updTask c t f).advs = b.advs := rfl
@[simp] theorem Blk.updTask_nextCopy (b : Blk) (c t : Nat) (f : Task → Task) : (b.updTask c t f).nextCopy = b.nextCopy := rfl
@[simp] theorem Blk.updTask_l2 (b : Blk) (c t : Nat) (f : Task → Task) : (b.updTask c t f).l2 = b.l2 := rfl
@[simp] theorem Blk.updTask_l1 (b : Blk) (c t : Nat) (f : Task → Task) : (b.updTask c t f).l1 = b.l1 := rfl
@[simp] theorem Blk.updTask_wcache (b : Blk) (c t : Nat) (f : Task → Task) : (b.updTask c t f).wcache = b.wcache := rfl
@[simp] theorem Blk.updTask_walks (b : Blk) (c t : Nat) (f : Task → Task) : (b.updTask c t f).walks = b.walks := rfl
@[simp] theorem Blk.updTask_xbad (b : Blk) (c t : Nat) (f : Task → Task) : (b.updTask c t f).xbad = b.xbad := rfl
@[simp] theorem Blk.updTask_ft (b : Blk) (c t : Nat) (f : Task → Task) : (b.updTask c t f).ft = b.ft := rfl
@[simp] theorem Blk.updTask_ftWait (b : Blk) (c t : Nat) (f : Task → Task) : (b.updTask c t f).ftWait = b.ftWait := rfl
@[simp] theorem Blk.updTask_invals (b : Blk) (c t : Nat) (f : Task → Task) : (b.updTask c t f).invals = b.invals := rfl
@[simp] theorem Blk.updTask_belay (b : Blk) (c t : Nat) (f : Task → Task) : (b.updTask c t f).belay = b.belay := rfl
@[simp] theorem Blk.updTask_belayed (b : Blk) (c t : Nat) (f : Task → Task) : (b.updTask c t f).belayed = b.belayed := rfl
@[simp] theorem Blk.updTask_rc (b : Blk) (c t : Nat) (f : Task → Task) : (b.updTask c t f).rc = b.rc := rfl
@[simp] theorem Blk.updTask_co (b : Blk) (c t : Nat) (f : Task → Task) : (b.updTask c t f).co = b.co := rfl
@[simp] theorem Blk.updTask_nulls (b : Blk) (c t : Nat) (f : Task → Task) : (b.updTask c t f).nulls = b.nulls := rfl
@[simp] theorem Blk.updTask_stalled (b : Blk) (c t : Nat) (f : Task → Task) : (b.updTask c t f).stalled = b.stalled := rfl
@[simp] theorem Blk.updTask_fences (b : Blk) (c t : Nat) (f : Task → Task) : (b.updTask c t f).fences = b.fences := rfl
@[simp] theorem Blk.updTask_nextFence (b : Blk) (c t : Nat) (f : Task → Task) : (b.updTask c t f).nextFence = b.nextFence := rfl
@[simp] theorem Blk.updTask_mig (b : Blk) (c t : Nat) (f : Task → Task) : (b.updTask c t f).mig = b.mig := rfl
@[simp] theorem Blk.updTask_lx (b : Blk) (c t : Nat) (f : Task → Task) : (b.updTask c t f).lx = b.lx := rfl
@[simp] theorem Blk.updTask_anc (b : Blk) (c t : Nat) (f : Task → Task) : (b.updTask c t f).anc = b.anc := rfl
@[simp] theorem Blk.updTask_waiters (b : Blk) (c t : Nat) (f : Task → Task) : (b.updTask c t f).waiters = b.waiters := rfl
@[simp] theorem Blk.updTask_flags (b : Blk) (c t : Nat) (f : Task → Task) : (b.updTask c t f).flags = b.flags := rfl
@[simp] theorem Blk.updTask_pwr (b : Blk) (c t : Nat) (f : Task → Task) : (b.updTask c t f).pwr = b.pwr := rfl
@[simp] theorem Blk.updTask_sec (b : Blk) (c t : Nat) (f : Task → Task) : (b.updTask c t f).sec = b.sec := rfl
@[simp] theorem Blk.updTask_dbg (b : Blk) (c t : Nat) (f : Task → Task) : (b.updTask c t f).dbg = b.dbg := rfl
@[simp] theorem Blk.updTask_qrst (b : Blk) (c t : Nat) (f : Task → Task) : (b.updTask c t f).qrst = b.qrst := rfl
end updTask

section updSq
@[simp] theorem Blk.updSq_build (b : Blk) (c q : Nat) (f : SQ → SQ) : (b.updSq c q f).build = b.build := rfl
@[simp] theorem Blk.updSq_regs (b : Blk) (c q : Nat) (f : SQ → SQ) : (b.updSq c q f).regs = b.regs := rfl
@[simp] theorem Blk.updSq_locked (b : Blk) (c q : Nat) (f : SQ → SQ) : (b.updSq c q f).locked = b.locked := rfl
@[simp] theorem Blk.updSq_time (b : Blk) (c q : Nat) (f : SQ → SQ) : (b.updSq c q f).time = b.time := rfl
@[simp] theorem Blk.updSq_free (b : Blk) (c q : Nat) (f : SQ → SQ) : (b.updSq c q f).free = b.free := rfl
@[simp] theorem Blk.updSq_dev (b : Blk) (c q : Nat) (f : SQ → SQ) : (b.updSq c q f).dev = b.dev := rfl
@[simp] theorem Blk.updSq_bad (b : Blk) (c q : Nat) (f : SQ → SQ) : (b.updSq c q f).bad = b.bad := rfl
@[simp] theorem Blk.updSq_host (b : Blk) (c q : Nat) (f : SQ → SQ) : (b.updSq c q f).host = b.host := rfl
@[simp] theorem Blk.updSq_wq (b : Blk) (c q : Nat) (f : SQ → SQ) : (b.updSq c q f).wq = b.wq := rfl
@[simp] theorem Blk.updSq_nextWr (b : Blk) (c q : Nat) (f : SQ → SQ) : (b.updSq c q f).nextWr = b.nextWr := rfl
@[simp] theorem Blk.updSq_inletQ (b : Blk) (c q : Nat) (f : SQ → SQ) : (b.updSq c q f).inletQ = b.inletQ := rfl
@[simp] theorem Blk.updSq_rings (b : Blk) (c q : Nat) (f : SQ → SQ) : (b.updSq c q f).rings = b.rings := rfl
@[simp] theorem Blk.updSq_cmds (b : Blk) (c q : Nat) (f : SQ → SQ) : (b.updSq c q f).cmds = b.cmds := rfl
@[simp] theorem Blk.updSq_nextCmd (b : Blk) (c q : Nat) (f : SQ → SQ) : (b.updSq c q f).nextCmd = b.nextCmd := rfl
@[simp] theorem Blk.updSq_dcache (b : Blk) (c q : Nat) (f : SQ → SQ) : (b.updSq c q f).dcache = b.dcache := rfl
@[simp] theorem Blk.updSq_fringLog (b : Blk) (c q : Nat) (f : SQ → SQ) : (b.updSq c q f).fringLog = b.fringLog := rfl
@[simp] theorem Blk.updSq_fringBase (b : Blk) (c q : Nat) (f : SQ → SQ) : (b.updSq c q f).fringBase = b.fringBase := rfl
@[simp] theorem Blk.updSq_eringLog (b : Blk) (c q : Nat) (f : SQ → SQ) : (b.updSq c q f).eringLog = b.eringLog := rfl
@[simp] theorem Blk.updSq_eringBase (b : Blk) (c q : Nat) (f : SQ → SQ) : (b.updSq c q f).eringBase = b.eringBase := rfl
@[simp] theorem Blk.updSq_evPath (b : Blk) (c q : Nat) (f : SQ → SQ) : (b.updSq c q f).evPath = b.evPath := rfl
@[simp] theorem Blk.updSq_faultPath (b : Blk) (c q : Nat) (f : SQ → SQ) : (b.updSq c q f).faultPath = b.faultPath := rfl
@[simp] theorem Blk.updSq_msgs (b : Blk) (c q : Nat) (f : SQ → SQ) : (b.updSq c q f).msgs = b.msgs := rfl
@[simp] theorem Blk.updSq_copies (b : Blk) (c q : Nat) (f : SQ → SQ) : (b.updSq c q f).copies = b.copies := rfl
@[simp] theorem Blk.updSq_advs (b : Blk) (c q : Nat) (f : SQ → SQ) : (b.updSq c q f).advs = b.advs := rfl
@[simp] theorem Blk.updSq_nextCopy (b : Blk) (c q : Nat) (f : SQ → SQ) : (b.updSq c q f).nextCopy = b.nextCopy := rfl
@[simp] theorem Blk.updSq_l2 (b : Blk) (c q : Nat) (f : SQ → SQ) : (b.updSq c q f).l2 = b.l2 := rfl
@[simp] theorem Blk.updSq_l1 (b : Blk) (c q : Nat) (f : SQ → SQ) : (b.updSq c q f).l1 = b.l1 := rfl
@[simp] theorem Blk.updSq_wcache (b : Blk) (c q : Nat) (f : SQ → SQ) : (b.updSq c q f).wcache = b.wcache := rfl
@[simp] theorem Blk.updSq_walks (b : Blk) (c q : Nat) (f : SQ → SQ) : (b.updSq c q f).walks = b.walks := rfl
@[simp] theorem Blk.updSq_xbad (b : Blk) (c q : Nat) (f : SQ → SQ) : (b.updSq c q f).xbad = b.xbad := rfl
@[simp] theorem Blk.updSq_ft (b : Blk) (c q : Nat) (f : SQ → SQ) : (b.updSq c q f).ft = b.ft := rfl
@[simp] theorem Blk.updSq_ftWait (b : Blk) (c q : Nat) (f : SQ → SQ) : (b.updSq c q f).ftWait = b.ftWait := rfl
@[simp] theorem Blk.updSq_invals (b : Blk) (c q : Nat) (f : SQ → SQ) : (b.updSq c q f).invals = b.invals := rfl
@[simp] theorem Blk.updSq_belay (b : Blk) (c q : Nat) (f : SQ → SQ) : (b.updSq c q f).belay = b.belay := rfl
@[simp] theorem Blk.updSq_belayed (b : Blk) (c q : Nat) (f : SQ → SQ) : (b.updSq c q f).belayed = b.belayed := rfl
@[simp] theorem Blk.updSq_rc (b : Blk) (c q : Nat) (f : SQ → SQ) : (b.updSq c q f).rc = b.rc := rfl
@[simp] theorem Blk.updSq_co (b : Blk) (c q : Nat) (f : SQ → SQ) : (b.updSq c q f).co = b.co := rfl
@[simp] theorem Blk.updSq_nulls (b : Blk) (c q : Nat) (f : SQ → SQ) : (b.updSq c q f).nulls = b.nulls := rfl
@[simp] theorem Blk.updSq_stalled (b : Blk) (c q : Nat) (f : SQ → SQ) : (b.updSq c q f).stalled = b.stalled := rfl
@[simp] theorem Blk.updSq_fences (b : Blk) (c q : Nat) (f : SQ → SQ) : (b.updSq c q f).fences = b.fences := rfl
@[simp] theorem Blk.updSq_nextFence (b : Blk) (c q : Nat) (f : SQ → SQ) : (b.updSq c q f).nextFence = b.nextFence := rfl
@[simp] theorem Blk.updSq_mig (b : Blk) (c q : Nat) (f : SQ → SQ) : (b.updSq c q f).mig = b.mig := rfl
@[simp] theorem Blk.updSq_lx (b : Blk) (c q : Nat) (f : SQ → SQ) : (b.updSq c q f).lx = b.lx := rfl
@[simp] theorem Blk.updSq_anc (b : Blk) (c q : Nat) (f : SQ → SQ) : (b.updSq c q f).anc = b.anc := rfl
@[simp] theorem Blk.updSq_waiters (b : Blk) (c q : Nat) (f : SQ → SQ) : (b.updSq c q f).waiters = b.waiters := rfl
@[simp] theorem Blk.updSq_flags (b : Blk) (c q : Nat) (f : SQ → SQ) : (b.updSq c q f).flags = b.flags := rfl
@[simp] theorem Blk.updSq_pwr (b : Blk) (c q : Nat) (f : SQ → SQ) : (b.updSq c q f).pwr = b.pwr := rfl
@[simp] theorem Blk.updSq_sec (b : Blk) (c q : Nat) (f : SQ → SQ) : (b.updSq c q f).sec = b.sec := rfl
@[simp] theorem Blk.updSq_dbg (b : Blk) (c q : Nat) (f : SQ → SQ) : (b.updSq c q f).dbg = b.dbg := rfl
@[simp] theorem Blk.updSq_qrst (b : Blk) (c q : Nat) (f : SQ → SQ) : (b.updSq c q f).qrst = b.qrst := rfl
end updSq

section updCmd
@[simp] theorem Blk.updCmd_build (b : Blk) (id : Nat) (f : Cmd → Cmd) : (b.updCmd id f).build = b.build := rfl
@[simp] theorem Blk.updCmd_regs (b : Blk) (id : Nat) (f : Cmd → Cmd) : (b.updCmd id f).regs = b.regs := rfl
@[simp] theorem Blk.updCmd_locked (b : Blk) (id : Nat) (f : Cmd → Cmd) : (b.updCmd id f).locked = b.locked := rfl
@[simp] theorem Blk.updCmd_time (b : Blk) (id : Nat) (f : Cmd → Cmd) : (b.updCmd id f).time = b.time := rfl
@[simp] theorem Blk.updCmd_free (b : Blk) (id : Nat) (f : Cmd → Cmd) : (b.updCmd id f).free = b.free := rfl
@[simp] theorem Blk.updCmd_dev (b : Blk) (id : Nat) (f : Cmd → Cmd) : (b.updCmd id f).dev = b.dev := rfl
@[simp] theorem Blk.updCmd_bad (b : Blk) (id : Nat) (f : Cmd → Cmd) : (b.updCmd id f).bad = b.bad := rfl
@[simp] theorem Blk.updCmd_host (b : Blk) (id : Nat) (f : Cmd → Cmd) : (b.updCmd id f).host = b.host := rfl
@[simp] theorem Blk.updCmd_wq (b : Blk) (id : Nat) (f : Cmd → Cmd) : (b.updCmd id f).wq = b.wq := rfl
@[simp] theorem Blk.updCmd_nextWr (b : Blk) (id : Nat) (f : Cmd → Cmd) : (b.updCmd id f).nextWr = b.nextWr := rfl
@[simp] theorem Blk.updCmd_inletQ (b : Blk) (id : Nat) (f : Cmd → Cmd) : (b.updCmd id f).inletQ = b.inletQ := rfl
@[simp] theorem Blk.updCmd_rings (b : Blk) (id : Nat) (f : Cmd → Cmd) : (b.updCmd id f).rings = b.rings := rfl
@[simp] theorem Blk.updCmd_nextCmd (b : Blk) (id : Nat) (f : Cmd → Cmd) : (b.updCmd id f).nextCmd = b.nextCmd := rfl
@[simp] theorem Blk.updCmd_dcache (b : Blk) (id : Nat) (f : Cmd → Cmd) : (b.updCmd id f).dcache = b.dcache := rfl
@[simp] theorem Blk.updCmd_fringLog (b : Blk) (id : Nat) (f : Cmd → Cmd) : (b.updCmd id f).fringLog = b.fringLog := rfl
@[simp] theorem Blk.updCmd_fringBase (b : Blk) (id : Nat) (f : Cmd → Cmd) : (b.updCmd id f).fringBase = b.fringBase := rfl
@[simp] theorem Blk.updCmd_eringLog (b : Blk) (id : Nat) (f : Cmd → Cmd) : (b.updCmd id f).eringLog = b.eringLog := rfl
@[simp] theorem Blk.updCmd_eringBase (b : Blk) (id : Nat) (f : Cmd → Cmd) : (b.updCmd id f).eringBase = b.eringBase := rfl
@[simp] theorem Blk.updCmd_evPath (b : Blk) (id : Nat) (f : Cmd → Cmd) : (b.updCmd id f).evPath = b.evPath := rfl
@[simp] theorem Blk.updCmd_faultPath (b : Blk) (id : Nat) (f : Cmd → Cmd) : (b.updCmd id f).faultPath = b.faultPath := rfl
@[simp] theorem Blk.updCmd_msgs (b : Blk) (id : Nat) (f : Cmd → Cmd) : (b.updCmd id f).msgs = b.msgs := rfl
@[simp] theorem Blk.updCmd_copies (b : Blk) (id : Nat) (f : Cmd → Cmd) : (b.updCmd id f).copies = b.copies := rfl
@[simp] theorem Blk.updCmd_advs (b : Blk) (id : Nat) (f : Cmd → Cmd) : (b.updCmd id f).advs = b.advs := rfl
@[simp] theorem Blk.updCmd_nextCopy (b : Blk) (id : Nat) (f : Cmd → Cmd) : (b.updCmd id f).nextCopy = b.nextCopy := rfl
@[simp] theorem Blk.updCmd_l2 (b : Blk) (id : Nat) (f : Cmd → Cmd) : (b.updCmd id f).l2 = b.l2 := rfl
@[simp] theorem Blk.updCmd_l1 (b : Blk) (id : Nat) (f : Cmd → Cmd) : (b.updCmd id f).l1 = b.l1 := rfl
@[simp] theorem Blk.updCmd_wcache (b : Blk) (id : Nat) (f : Cmd → Cmd) : (b.updCmd id f).wcache = b.wcache := rfl
@[simp] theorem Blk.updCmd_walks (b : Blk) (id : Nat) (f : Cmd → Cmd) : (b.updCmd id f).walks = b.walks := rfl
@[simp] theorem Blk.updCmd_xbad (b : Blk) (id : Nat) (f : Cmd → Cmd) : (b.updCmd id f).xbad = b.xbad := rfl
@[simp] theorem Blk.updCmd_ft (b : Blk) (id : Nat) (f : Cmd → Cmd) : (b.updCmd id f).ft = b.ft := rfl
@[simp] theorem Blk.updCmd_ftWait (b : Blk) (id : Nat) (f : Cmd → Cmd) : (b.updCmd id f).ftWait = b.ftWait := rfl
@[simp] theorem Blk.updCmd_invals (b : Blk) (id : Nat) (f : Cmd → Cmd) : (b.updCmd id f).invals = b.invals := rfl
@[simp] theorem Blk.updCmd_belay (b : Blk) (id : Nat) (f : Cmd → Cmd) : (b.updCmd id f).belay = b.belay := rfl
@[simp] theorem Blk.updCmd_belayed (b : Blk) (id : Nat) (f : Cmd → Cmd) : (b.updCmd id f).belayed = b.belayed := rfl
@[simp] theorem Blk.updCmd_rc (b : Blk) (id : Nat) (f : Cmd → Cmd) : (b.updCmd id f).rc = b.rc := rfl
@[simp] theorem Blk.updCmd_co (b : Blk) (id : Nat) (f : Cmd → Cmd) : (b.updCmd id f).co = b.co := rfl
@[simp] theorem Blk.updCmd_nulls (b : Blk) (id : Nat) (f : Cmd → Cmd) : (b.updCmd id f).nulls = b.nulls := rfl
@[simp] theorem Blk.updCmd_stalled (b : Blk) (id : Nat) (f : Cmd → Cmd) : (b.updCmd id f).stalled = b.stalled := rfl
@[simp] theorem Blk.updCmd_fences (b : Blk) (id : Nat) (f : Cmd → Cmd) : (b.updCmd id f).fences = b.fences := rfl
@[simp] theorem Blk.updCmd_nextFence (b : Blk) (id : Nat) (f : Cmd → Cmd) : (b.updCmd id f).nextFence = b.nextFence := rfl
@[simp] theorem Blk.updCmd_mig (b : Blk) (id : Nat) (f : Cmd → Cmd) : (b.updCmd id f).mig = b.mig := rfl
@[simp] theorem Blk.updCmd_cores (b : Blk) (id : Nat) (f : Cmd → Cmd) : (b.updCmd id f).cores = b.cores := rfl
@[simp] theorem Blk.updCmd_lx (b : Blk) (id : Nat) (f : Cmd → Cmd) : (b.updCmd id f).lx = b.lx := rfl
@[simp] theorem Blk.updCmd_anc (b : Blk) (id : Nat) (f : Cmd → Cmd) : (b.updCmd id f).anc = b.anc := rfl
@[simp] theorem Blk.updCmd_waiters (b : Blk) (id : Nat) (f : Cmd → Cmd) : (b.updCmd id f).waiters = b.waiters := rfl
@[simp] theorem Blk.updCmd_flags (b : Blk) (id : Nat) (f : Cmd → Cmd) : (b.updCmd id f).flags = b.flags := rfl
@[simp] theorem Blk.updCmd_pwr (b : Blk) (id : Nat) (f : Cmd → Cmd) : (b.updCmd id f).pwr = b.pwr := rfl
@[simp] theorem Blk.updCmd_sec (b : Blk) (id : Nat) (f : Cmd → Cmd) : (b.updCmd id f).sec = b.sec := rfl
@[simp] theorem Blk.updCmd_dbg (b : Blk) (id : Nat) (f : Cmd → Cmd) : (b.updCmd id f).dbg = b.dbg := rfl
@[simp] theorem Blk.updCmd_qrst (b : Blk) (id : Nat) (f : Cmd → Cmd) : (b.updCmd id f).qrst = b.qrst := rfl
end updCmd

section meet
@[simp] theorem Blk.meet_build (b : Blk) (id st : Nat) : (b.meet id st).build = b.build := rfl
@[simp] theorem Blk.meet_regs (b : Blk) (id st : Nat) : (b.meet id st).regs = b.regs := rfl
@[simp] theorem Blk.meet_locked (b : Blk) (id st : Nat) : (b.meet id st).locked = b.locked := rfl
@[simp] theorem Blk.meet_time (b : Blk) (id st : Nat) : (b.meet id st).time = b.time := rfl
@[simp] theorem Blk.meet_free (b : Blk) (id st : Nat) : (b.meet id st).free = b.free := rfl
@[simp] theorem Blk.meet_dev (b : Blk) (id st : Nat) : (b.meet id st).dev = b.dev := rfl
@[simp] theorem Blk.meet_bad (b : Blk) (id st : Nat) : (b.meet id st).bad = b.bad := rfl
@[simp] theorem Blk.meet_host (b : Blk) (id st : Nat) : (b.meet id st).host = b.host := rfl
@[simp] theorem Blk.meet_wq (b : Blk) (id st : Nat) : (b.meet id st).wq = b.wq := rfl
@[simp] theorem Blk.meet_nextWr (b : Blk) (id st : Nat) : (b.meet id st).nextWr = b.nextWr := rfl
@[simp] theorem Blk.meet_inletQ (b : Blk) (id st : Nat) : (b.meet id st).inletQ = b.inletQ := rfl
@[simp] theorem Blk.meet_rings (b : Blk) (id st : Nat) : (b.meet id st).rings = b.rings := rfl
@[simp] theorem Blk.meet_nextCmd (b : Blk) (id st : Nat) : (b.meet id st).nextCmd = b.nextCmd := rfl
@[simp] theorem Blk.meet_dcache (b : Blk) (id st : Nat) : (b.meet id st).dcache = b.dcache := rfl
@[simp] theorem Blk.meet_fringLog (b : Blk) (id st : Nat) : (b.meet id st).fringLog = b.fringLog := rfl
@[simp] theorem Blk.meet_fringBase (b : Blk) (id st : Nat) : (b.meet id st).fringBase = b.fringBase := rfl
@[simp] theorem Blk.meet_eringLog (b : Blk) (id st : Nat) : (b.meet id st).eringLog = b.eringLog := rfl
@[simp] theorem Blk.meet_eringBase (b : Blk) (id st : Nat) : (b.meet id st).eringBase = b.eringBase := rfl
@[simp] theorem Blk.meet_evPath (b : Blk) (id st : Nat) : (b.meet id st).evPath = b.evPath := rfl
@[simp] theorem Blk.meet_faultPath (b : Blk) (id st : Nat) : (b.meet id st).faultPath = b.faultPath := rfl
@[simp] theorem Blk.meet_msgs (b : Blk) (id st : Nat) : (b.meet id st).msgs = b.msgs := rfl
@[simp] theorem Blk.meet_copies (b : Blk) (id st : Nat) : (b.meet id st).copies = b.copies := rfl
@[simp] theorem Blk.meet_advs (b : Blk) (id st : Nat) : (b.meet id st).advs = b.advs := rfl
@[simp] theorem Blk.meet_nextCopy (b : Blk) (id st : Nat) : (b.meet id st).nextCopy = b.nextCopy := rfl
@[simp] theorem Blk.meet_l2 (b : Blk) (id st : Nat) : (b.meet id st).l2 = b.l2 := rfl
@[simp] theorem Blk.meet_l1 (b : Blk) (id st : Nat) : (b.meet id st).l1 = b.l1 := rfl
@[simp] theorem Blk.meet_wcache (b : Blk) (id st : Nat) : (b.meet id st).wcache = b.wcache := rfl
@[simp] theorem Blk.meet_walks (b : Blk) (id st : Nat) : (b.meet id st).walks = b.walks := rfl
@[simp] theorem Blk.meet_xbad (b : Blk) (id st : Nat) : (b.meet id st).xbad = b.xbad := rfl
@[simp] theorem Blk.meet_ft (b : Blk) (id st : Nat) : (b.meet id st).ft = b.ft := rfl
@[simp] theorem Blk.meet_ftWait (b : Blk) (id st : Nat) : (b.meet id st).ftWait = b.ftWait := rfl
@[simp] theorem Blk.meet_invals (b : Blk) (id st : Nat) : (b.meet id st).invals = b.invals := rfl
@[simp] theorem Blk.meet_belay (b : Blk) (id st : Nat) : (b.meet id st).belay = b.belay := rfl
@[simp] theorem Blk.meet_belayed (b : Blk) (id st : Nat) : (b.meet id st).belayed = b.belayed := rfl
@[simp] theorem Blk.meet_rc (b : Blk) (id st : Nat) : (b.meet id st).rc = b.rc := rfl
@[simp] theorem Blk.meet_co (b : Blk) (id st : Nat) : (b.meet id st).co = b.co := rfl
@[simp] theorem Blk.meet_nulls (b : Blk) (id st : Nat) : (b.meet id st).nulls = b.nulls := rfl
@[simp] theorem Blk.meet_stalled (b : Blk) (id st : Nat) : (b.meet id st).stalled = b.stalled := rfl
@[simp] theorem Blk.meet_fences (b : Blk) (id st : Nat) : (b.meet id st).fences = b.fences := rfl
@[simp] theorem Blk.meet_nextFence (b : Blk) (id st : Nat) : (b.meet id st).nextFence = b.nextFence := rfl
@[simp] theorem Blk.meet_mig (b : Blk) (id st : Nat) : (b.meet id st).mig = b.mig := rfl
@[simp] theorem Blk.meet_cores (b : Blk) (id st : Nat) : (b.meet id st).cores = b.cores := rfl
@[simp] theorem Blk.meet_lx (b : Blk) (id st : Nat) : (b.meet id st).lx = b.lx := rfl
@[simp] theorem Blk.meet_anc (b : Blk) (id st : Nat) : (b.meet id st).anc = b.anc := rfl
@[simp] theorem Blk.meet_waiters (b : Blk) (id st : Nat) : (b.meet id st).waiters = b.waiters := rfl
@[simp] theorem Blk.meet_flags (b : Blk) (id st : Nat) : (b.meet id st).flags = b.flags := rfl
@[simp] theorem Blk.meet_pwr (b : Blk) (id st : Nat) : (b.meet id st).pwr = b.pwr := rfl
@[simp] theorem Blk.meet_sec (b : Blk) (id st : Nat) : (b.meet id st).sec = b.sec := rfl
@[simp] theorem Blk.meet_dbg (b : Blk) (id st : Nat) : (b.meet id st).dbg = b.dbg := rfl
@[simp] theorem Blk.meet_qrst (b : Blk) (id st : Nat) : (b.meet id st).qrst = b.qrst := rfl
end meet

section updRing
@[simp] theorem Blk.updRing_build (b : Blk) (n : Nat) (f : Ring → Ring) : (b.updRing n f).build = b.build := rfl
@[simp] theorem Blk.updRing_regs (b : Blk) (n : Nat) (f : Ring → Ring) : (b.updRing n f).regs = b.regs := rfl
@[simp] theorem Blk.updRing_locked (b : Blk) (n : Nat) (f : Ring → Ring) : (b.updRing n f).locked = b.locked := rfl
@[simp] theorem Blk.updRing_time (b : Blk) (n : Nat) (f : Ring → Ring) : (b.updRing n f).time = b.time := rfl
@[simp] theorem Blk.updRing_free (b : Blk) (n : Nat) (f : Ring → Ring) : (b.updRing n f).free = b.free := rfl
@[simp] theorem Blk.updRing_dev (b : Blk) (n : Nat) (f : Ring → Ring) : (b.updRing n f).dev = b.dev := rfl
@[simp] theorem Blk.updRing_bad (b : Blk) (n : Nat) (f : Ring → Ring) : (b.updRing n f).bad = b.bad := rfl
@[simp] theorem Blk.updRing_host (b : Blk) (n : Nat) (f : Ring → Ring) : (b.updRing n f).host = b.host := rfl
@[simp] theorem Blk.updRing_wq (b : Blk) (n : Nat) (f : Ring → Ring) : (b.updRing n f).wq = b.wq := rfl
@[simp] theorem Blk.updRing_nextWr (b : Blk) (n : Nat) (f : Ring → Ring) : (b.updRing n f).nextWr = b.nextWr := rfl
@[simp] theorem Blk.updRing_inletQ (b : Blk) (n : Nat) (f : Ring → Ring) : (b.updRing n f).inletQ = b.inletQ := rfl
@[simp] theorem Blk.updRing_cmds (b : Blk) (n : Nat) (f : Ring → Ring) : (b.updRing n f).cmds = b.cmds := rfl
@[simp] theorem Blk.updRing_nextCmd (b : Blk) (n : Nat) (f : Ring → Ring) : (b.updRing n f).nextCmd = b.nextCmd := rfl
@[simp] theorem Blk.updRing_dcache (b : Blk) (n : Nat) (f : Ring → Ring) : (b.updRing n f).dcache = b.dcache := rfl
@[simp] theorem Blk.updRing_fringLog (b : Blk) (n : Nat) (f : Ring → Ring) : (b.updRing n f).fringLog = b.fringLog := rfl
@[simp] theorem Blk.updRing_fringBase (b : Blk) (n : Nat) (f : Ring → Ring) : (b.updRing n f).fringBase = b.fringBase := rfl
@[simp] theorem Blk.updRing_eringLog (b : Blk) (n : Nat) (f : Ring → Ring) : (b.updRing n f).eringLog = b.eringLog := rfl
@[simp] theorem Blk.updRing_eringBase (b : Blk) (n : Nat) (f : Ring → Ring) : (b.updRing n f).eringBase = b.eringBase := rfl
@[simp] theorem Blk.updRing_evPath (b : Blk) (n : Nat) (f : Ring → Ring) : (b.updRing n f).evPath = b.evPath := rfl
@[simp] theorem Blk.updRing_faultPath (b : Blk) (n : Nat) (f : Ring → Ring) : (b.updRing n f).faultPath = b.faultPath := rfl
@[simp] theorem Blk.updRing_msgs (b : Blk) (n : Nat) (f : Ring → Ring) : (b.updRing n f).msgs = b.msgs := rfl
@[simp] theorem Blk.updRing_copies (b : Blk) (n : Nat) (f : Ring → Ring) : (b.updRing n f).copies = b.copies := rfl
@[simp] theorem Blk.updRing_advs (b : Blk) (n : Nat) (f : Ring → Ring) : (b.updRing n f).advs = b.advs := rfl
@[simp] theorem Blk.updRing_nextCopy (b : Blk) (n : Nat) (f : Ring → Ring) : (b.updRing n f).nextCopy = b.nextCopy := rfl
@[simp] theorem Blk.updRing_l2 (b : Blk) (n : Nat) (f : Ring → Ring) : (b.updRing n f).l2 = b.l2 := rfl
@[simp] theorem Blk.updRing_l1 (b : Blk) (n : Nat) (f : Ring → Ring) : (b.updRing n f).l1 = b.l1 := rfl
@[simp] theorem Blk.updRing_wcache (b : Blk) (n : Nat) (f : Ring → Ring) : (b.updRing n f).wcache = b.wcache := rfl
@[simp] theorem Blk.updRing_walks (b : Blk) (n : Nat) (f : Ring → Ring) : (b.updRing n f).walks = b.walks := rfl
@[simp] theorem Blk.updRing_xbad (b : Blk) (n : Nat) (f : Ring → Ring) : (b.updRing n f).xbad = b.xbad := rfl
@[simp] theorem Blk.updRing_ft (b : Blk) (n : Nat) (f : Ring → Ring) : (b.updRing n f).ft = b.ft := rfl
@[simp] theorem Blk.updRing_ftWait (b : Blk) (n : Nat) (f : Ring → Ring) : (b.updRing n f).ftWait = b.ftWait := rfl
@[simp] theorem Blk.updRing_invals (b : Blk) (n : Nat) (f : Ring → Ring) : (b.updRing n f).invals = b.invals := rfl
@[simp] theorem Blk.updRing_belay (b : Blk) (n : Nat) (f : Ring → Ring) : (b.updRing n f).belay = b.belay := rfl
@[simp] theorem Blk.updRing_belayed (b : Blk) (n : Nat) (f : Ring → Ring) : (b.updRing n f).belayed = b.belayed := rfl
@[simp] theorem Blk.updRing_rc (b : Blk) (n : Nat) (f : Ring → Ring) : (b.updRing n f).rc = b.rc := rfl
@[simp] theorem Blk.updRing_co (b : Blk) (n : Nat) (f : Ring → Ring) : (b.updRing n f).co = b.co := rfl
@[simp] theorem Blk.updRing_nulls (b : Blk) (n : Nat) (f : Ring → Ring) : (b.updRing n f).nulls = b.nulls := rfl
@[simp] theorem Blk.updRing_stalled (b : Blk) (n : Nat) (f : Ring → Ring) : (b.updRing n f).stalled = b.stalled := rfl
@[simp] theorem Blk.updRing_fences (b : Blk) (n : Nat) (f : Ring → Ring) : (b.updRing n f).fences = b.fences := rfl
@[simp] theorem Blk.updRing_nextFence (b : Blk) (n : Nat) (f : Ring → Ring) : (b.updRing n f).nextFence = b.nextFence := rfl
@[simp] theorem Blk.updRing_mig (b : Blk) (n : Nat) (f : Ring → Ring) : (b.updRing n f).mig = b.mig := rfl
@[simp] theorem Blk.updRing_cores (b : Blk) (n : Nat) (f : Ring → Ring) : (b.updRing n f).cores = b.cores := rfl
@[simp] theorem Blk.updRing_lx (b : Blk) (n : Nat) (f : Ring → Ring) : (b.updRing n f).lx = b.lx := rfl
@[simp] theorem Blk.updRing_anc (b : Blk) (n : Nat) (f : Ring → Ring) : (b.updRing n f).anc = b.anc := rfl
@[simp] theorem Blk.updRing_waiters (b : Blk) (n : Nat) (f : Ring → Ring) : (b.updRing n f).waiters = b.waiters := rfl
@[simp] theorem Blk.updRing_flags (b : Blk) (n : Nat) (f : Ring → Ring) : (b.updRing n f).flags = b.flags := rfl
@[simp] theorem Blk.updRing_pwr (b : Blk) (n : Nat) (f : Ring → Ring) : (b.updRing n f).pwr = b.pwr := rfl
@[simp] theorem Blk.updRing_sec (b : Blk) (n : Nat) (f : Ring → Ring) : (b.updRing n f).sec = b.sec := rfl
@[simp] theorem Blk.updRing_dbg (b : Blk) (n : Nat) (f : Ring → Ring) : (b.updRing n f).dbg = b.dbg := rfl
@[simp] theorem Blk.updRing_qrst (b : Blk) (n : Nat) (f : Ring → Ring) : (b.updRing n f).qrst = b.qrst := rfl
end updRing

section updPort
@[simp] theorem Blk.updPort_build (b : Blk) (p : Nat) (f : Port → Port) : (b.updPort p f).build = b.build := rfl
@[simp] theorem Blk.updPort_regs (b : Blk) (p : Nat) (f : Port → Port) : (b.updPort p f).regs = b.regs := rfl
@[simp] theorem Blk.updPort_locked (b : Blk) (p : Nat) (f : Port → Port) : (b.updPort p f).locked = b.locked := rfl
@[simp] theorem Blk.updPort_time (b : Blk) (p : Nat) (f : Port → Port) : (b.updPort p f).time = b.time := rfl
@[simp] theorem Blk.updPort_free (b : Blk) (p : Nat) (f : Port → Port) : (b.updPort p f).free = b.free := rfl
@[simp] theorem Blk.updPort_dev (b : Blk) (p : Nat) (f : Port → Port) : (b.updPort p f).dev = b.dev := rfl
@[simp] theorem Blk.updPort_bad (b : Blk) (p : Nat) (f : Port → Port) : (b.updPort p f).bad = b.bad := rfl
@[simp] theorem Blk.updPort_host (b : Blk) (p : Nat) (f : Port → Port) : (b.updPort p f).host = b.host := rfl
@[simp] theorem Blk.updPort_wq (b : Blk) (p : Nat) (f : Port → Port) : (b.updPort p f).wq = b.wq := rfl
@[simp] theorem Blk.updPort_nextWr (b : Blk) (p : Nat) (f : Port → Port) : (b.updPort p f).nextWr = b.nextWr := rfl
@[simp] theorem Blk.updPort_inletQ (b : Blk) (p : Nat) (f : Port → Port) : (b.updPort p f).inletQ = b.inletQ := rfl
@[simp] theorem Blk.updPort_rings (b : Blk) (p : Nat) (f : Port → Port) : (b.updPort p f).rings = b.rings := rfl
@[simp] theorem Blk.updPort_cmds (b : Blk) (p : Nat) (f : Port → Port) : (b.updPort p f).cmds = b.cmds := rfl
@[simp] theorem Blk.updPort_nextCmd (b : Blk) (p : Nat) (f : Port → Port) : (b.updPort p f).nextCmd = b.nextCmd := rfl
@[simp] theorem Blk.updPort_dcache (b : Blk) (p : Nat) (f : Port → Port) : (b.updPort p f).dcache = b.dcache := rfl
@[simp] theorem Blk.updPort_fringLog (b : Blk) (p : Nat) (f : Port → Port) : (b.updPort p f).fringLog = b.fringLog := rfl
@[simp] theorem Blk.updPort_fringBase (b : Blk) (p : Nat) (f : Port → Port) : (b.updPort p f).fringBase = b.fringBase := rfl
@[simp] theorem Blk.updPort_eringLog (b : Blk) (p : Nat) (f : Port → Port) : (b.updPort p f).eringLog = b.eringLog := rfl
@[simp] theorem Blk.updPort_eringBase (b : Blk) (p : Nat) (f : Port → Port) : (b.updPort p f).eringBase = b.eringBase := rfl
@[simp] theorem Blk.updPort_evPath (b : Blk) (p : Nat) (f : Port → Port) : (b.updPort p f).evPath = b.evPath := rfl
@[simp] theorem Blk.updPort_faultPath (b : Blk) (p : Nat) (f : Port → Port) : (b.updPort p f).faultPath = b.faultPath := rfl
@[simp] theorem Blk.updPort_msgs (b : Blk) (p : Nat) (f : Port → Port) : (b.updPort p f).msgs = b.msgs := rfl
@[simp] theorem Blk.updPort_copies (b : Blk) (p : Nat) (f : Port → Port) : (b.updPort p f).copies = b.copies := rfl
@[simp] theorem Blk.updPort_advs (b : Blk) (p : Nat) (f : Port → Port) : (b.updPort p f).advs = b.advs := rfl
@[simp] theorem Blk.updPort_nextCopy (b : Blk) (p : Nat) (f : Port → Port) : (b.updPort p f).nextCopy = b.nextCopy := rfl
@[simp] theorem Blk.updPort_l2 (b : Blk) (p : Nat) (f : Port → Port) : (b.updPort p f).l2 = b.l2 := rfl
@[simp] theorem Blk.updPort_l1 (b : Blk) (p : Nat) (f : Port → Port) : (b.updPort p f).l1 = b.l1 := rfl
@[simp] theorem Blk.updPort_wcache (b : Blk) (p : Nat) (f : Port → Port) : (b.updPort p f).wcache = b.wcache := rfl
@[simp] theorem Blk.updPort_walks (b : Blk) (p : Nat) (f : Port → Port) : (b.updPort p f).walks = b.walks := rfl
@[simp] theorem Blk.updPort_xbad (b : Blk) (p : Nat) (f : Port → Port) : (b.updPort p f).xbad = b.xbad := rfl
@[simp] theorem Blk.updPort_ft (b : Blk) (p : Nat) (f : Port → Port) : (b.updPort p f).ft = b.ft := rfl
@[simp] theorem Blk.updPort_ftWait (b : Blk) (p : Nat) (f : Port → Port) : (b.updPort p f).ftWait = b.ftWait := rfl
@[simp] theorem Blk.updPort_invals (b : Blk) (p : Nat) (f : Port → Port) : (b.updPort p f).invals = b.invals := rfl
@[simp] theorem Blk.updPort_belay (b : Blk) (p : Nat) (f : Port → Port) : (b.updPort p f).belay = b.belay := rfl
@[simp] theorem Blk.updPort_belayed (b : Blk) (p : Nat) (f : Port → Port) : (b.updPort p f).belayed = b.belayed := rfl
@[simp] theorem Blk.updPort_rc (b : Blk) (p : Nat) (f : Port → Port) : (b.updPort p f).rc = b.rc := rfl
@[simp] theorem Blk.updPort_co (b : Blk) (p : Nat) (f : Port → Port) : (b.updPort p f).co = b.co := rfl
@[simp] theorem Blk.updPort_nulls (b : Blk) (p : Nat) (f : Port → Port) : (b.updPort p f).nulls = b.nulls := rfl
@[simp] theorem Blk.updPort_stalled (b : Blk) (p : Nat) (f : Port → Port) : (b.updPort p f).stalled = b.stalled := rfl
@[simp] theorem Blk.updPort_fences (b : Blk) (p : Nat) (f : Port → Port) : (b.updPort p f).fences = b.fences := rfl
@[simp] theorem Blk.updPort_nextFence (b : Blk) (p : Nat) (f : Port → Port) : (b.updPort p f).nextFence = b.nextFence := rfl
@[simp] theorem Blk.updPort_mig (b : Blk) (p : Nat) (f : Port → Port) : (b.updPort p f).mig = b.mig := rfl
@[simp] theorem Blk.updPort_cores (b : Blk) (p : Nat) (f : Port → Port) : (b.updPort p f).cores = b.cores := rfl
@[simp] theorem Blk.updPort_anc (b : Blk) (p : Nat) (f : Port → Port) : (b.updPort p f).anc = b.anc := rfl
@[simp] theorem Blk.updPort_waiters (b : Blk) (p : Nat) (f : Port → Port) : (b.updPort p f).waiters = b.waiters := rfl
@[simp] theorem Blk.updPort_flags (b : Blk) (p : Nat) (f : Port → Port) : (b.updPort p f).flags = b.flags := rfl
@[simp] theorem Blk.updPort_pwr (b : Blk) (p : Nat) (f : Port → Port) : (b.updPort p f).pwr = b.pwr := rfl
@[simp] theorem Blk.updPort_sec (b : Blk) (p : Nat) (f : Port → Port) : (b.updPort p f).sec = b.sec := rfl
@[simp] theorem Blk.updPort_dbg (b : Blk) (p : Nat) (f : Port → Port) : (b.updPort p f).dbg = b.dbg := rfl
@[simp] theorem Blk.updPort_qrst (b : Blk) (p : Nat) (f : Port → Port) : (b.updPort p f).qrst = b.qrst := rfl
end updPort

section setAnchor
@[simp] theorem Blk.setAnchor_build (b : Blk) (k v : Nat) : (b.setAnchor k v).build = b.build := rfl
@[simp] theorem Blk.setAnchor_regs (b : Blk) (k v : Nat) : (b.setAnchor k v).regs = b.regs := rfl
@[simp] theorem Blk.setAnchor_locked (b : Blk) (k v : Nat) : (b.setAnchor k v).locked = b.locked := rfl
@[simp] theorem Blk.setAnchor_time (b : Blk) (k v : Nat) : (b.setAnchor k v).time = b.time := rfl
@[simp] theorem Blk.setAnchor_free (b : Blk) (k v : Nat) : (b.setAnchor k v).free = b.free := rfl
@[simp] theorem Blk.setAnchor_dev (b : Blk) (k v : Nat) : (b.setAnchor k v).dev = b.dev := rfl
@[simp] theorem Blk.setAnchor_bad (b : Blk) (k v : Nat) : (b.setAnchor k v).bad = b.bad := rfl
@[simp] theorem Blk.setAnchor_host (b : Blk) (k v : Nat) : (b.setAnchor k v).host = b.host := rfl
@[simp] theorem Blk.setAnchor_wq (b : Blk) (k v : Nat) : (b.setAnchor k v).wq = b.wq := rfl
@[simp] theorem Blk.setAnchor_nextWr (b : Blk) (k v : Nat) : (b.setAnchor k v).nextWr = b.nextWr := rfl
@[simp] theorem Blk.setAnchor_inletQ (b : Blk) (k v : Nat) : (b.setAnchor k v).inletQ = b.inletQ := rfl
@[simp] theorem Blk.setAnchor_rings (b : Blk) (k v : Nat) : (b.setAnchor k v).rings = b.rings := rfl
@[simp] theorem Blk.setAnchor_cmds (b : Blk) (k v : Nat) : (b.setAnchor k v).cmds = b.cmds := rfl
@[simp] theorem Blk.setAnchor_nextCmd (b : Blk) (k v : Nat) : (b.setAnchor k v).nextCmd = b.nextCmd := rfl
@[simp] theorem Blk.setAnchor_dcache (b : Blk) (k v : Nat) : (b.setAnchor k v).dcache = b.dcache := rfl
@[simp] theorem Blk.setAnchor_fringLog (b : Blk) (k v : Nat) : (b.setAnchor k v).fringLog = b.fringLog := rfl
@[simp] theorem Blk.setAnchor_fringBase (b : Blk) (k v : Nat) : (b.setAnchor k v).fringBase = b.fringBase := rfl
@[simp] theorem Blk.setAnchor_eringLog (b : Blk) (k v : Nat) : (b.setAnchor k v).eringLog = b.eringLog := rfl
@[simp] theorem Blk.setAnchor_eringBase (b : Blk) (k v : Nat) : (b.setAnchor k v).eringBase = b.eringBase := rfl
@[simp] theorem Blk.setAnchor_evPath (b : Blk) (k v : Nat) : (b.setAnchor k v).evPath = b.evPath := rfl
@[simp] theorem Blk.setAnchor_faultPath (b : Blk) (k v : Nat) : (b.setAnchor k v).faultPath = b.faultPath := rfl
@[simp] theorem Blk.setAnchor_msgs (b : Blk) (k v : Nat) : (b.setAnchor k v).msgs = b.msgs := rfl
@[simp] theorem Blk.setAnchor_copies (b : Blk) (k v : Nat) : (b.setAnchor k v).copies = b.copies := rfl
@[simp] theorem Blk.setAnchor_advs (b : Blk) (k v : Nat) : (b.setAnchor k v).advs = b.advs := rfl
@[simp] theorem Blk.setAnchor_nextCopy (b : Blk) (k v : Nat) : (b.setAnchor k v).nextCopy = b.nextCopy := rfl
@[simp] theorem Blk.setAnchor_l2 (b : Blk) (k v : Nat) : (b.setAnchor k v).l2 = b.l2 := rfl
@[simp] theorem Blk.setAnchor_l1 (b : Blk) (k v : Nat) : (b.setAnchor k v).l1 = b.l1 := rfl
@[simp] theorem Blk.setAnchor_wcache (b : Blk) (k v : Nat) : (b.setAnchor k v).wcache = b.wcache := rfl
@[simp] theorem Blk.setAnchor_walks (b : Blk) (k v : Nat) : (b.setAnchor k v).walks = b.walks := rfl
@[simp] theorem Blk.setAnchor_xbad (b : Blk) (k v : Nat) : (b.setAnchor k v).xbad = b.xbad := rfl
@[simp] theorem Blk.setAnchor_ft (b : Blk) (k v : Nat) : (b.setAnchor k v).ft = b.ft := rfl
@[simp] theorem Blk.setAnchor_ftWait (b : Blk) (k v : Nat) : (b.setAnchor k v).ftWait = b.ftWait := rfl
@[simp] theorem Blk.setAnchor_invals (b : Blk) (k v : Nat) : (b.setAnchor k v).invals = b.invals := rfl
@[simp] theorem Blk.setAnchor_belay (b : Blk) (k v : Nat) : (b.setAnchor k v).belay = b.belay := rfl
@[simp] theorem Blk.setAnchor_belayed (b : Blk) (k v : Nat) : (b.setAnchor k v).belayed = b.belayed := rfl
@[simp] theorem Blk.setAnchor_rc (b : Blk) (k v : Nat) : (b.setAnchor k v).rc = b.rc := rfl
@[simp] theorem Blk.setAnchor_co (b : Blk) (k v : Nat) : (b.setAnchor k v).co = b.co := rfl
@[simp] theorem Blk.setAnchor_nulls (b : Blk) (k v : Nat) : (b.setAnchor k v).nulls = b.nulls := rfl
@[simp] theorem Blk.setAnchor_stalled (b : Blk) (k v : Nat) : (b.setAnchor k v).stalled = b.stalled := rfl
@[simp] theorem Blk.setAnchor_fences (b : Blk) (k v : Nat) : (b.setAnchor k v).fences = b.fences := rfl
@[simp] theorem Blk.setAnchor_nextFence (b : Blk) (k v : Nat) : (b.setAnchor k v).nextFence = b.nextFence := rfl
@[simp] theorem Blk.setAnchor_mig (b : Blk) (k v : Nat) : (b.setAnchor k v).mig = b.mig := rfl
@[simp] theorem Blk.setAnchor_cores (b : Blk) (k v : Nat) : (b.setAnchor k v).cores = b.cores := rfl
@[simp] theorem Blk.setAnchor_lx (b : Blk) (k v : Nat) : (b.setAnchor k v).lx = b.lx := rfl
@[simp] theorem Blk.setAnchor_waiters (b : Blk) (k v : Nat) : (b.setAnchor k v).waiters = b.waiters := rfl
@[simp] theorem Blk.setAnchor_flags (b : Blk) (k v : Nat) : (b.setAnchor k v).flags = b.flags := rfl
@[simp] theorem Blk.setAnchor_pwr (b : Blk) (k v : Nat) : (b.setAnchor k v).pwr = b.pwr := rfl
@[simp] theorem Blk.setAnchor_sec (b : Blk) (k v : Nat) : (b.setAnchor k v).sec = b.sec := rfl
@[simp] theorem Blk.setAnchor_dbg (b : Blk) (k v : Nat) : (b.setAnchor k v).dbg = b.dbg := rfl
@[simp] theorem Blk.setAnchor_qrst (b : Blk) (k v : Nat) : (b.setAnchor k v).qrst = b.qrst := rfl
end setAnchor

section hostWrite
@[simp] theorem Blk.hostWrite_build (b : Blk) (pa : Nat) (l : List Byte) : (b.hostWrite pa l).build = b.build := rfl
@[simp] theorem Blk.hostWrite_regs (b : Blk) (pa : Nat) (l : List Byte) : (b.hostWrite pa l).regs = b.regs := rfl
@[simp] theorem Blk.hostWrite_locked (b : Blk) (pa : Nat) (l : List Byte) : (b.hostWrite pa l).locked = b.locked := rfl
@[simp] theorem Blk.hostWrite_time (b : Blk) (pa : Nat) (l : List Byte) : (b.hostWrite pa l).time = b.time := rfl
@[simp] theorem Blk.hostWrite_free (b : Blk) (pa : Nat) (l : List Byte) : (b.hostWrite pa l).free = b.free := rfl
@[simp] theorem Blk.hostWrite_dev (b : Blk) (pa : Nat) (l : List Byte) : (b.hostWrite pa l).dev = b.dev := rfl
@[simp] theorem Blk.hostWrite_bad (b : Blk) (pa : Nat) (l : List Byte) : (b.hostWrite pa l).bad = b.bad := rfl
@[simp] theorem Blk.hostWrite_wq (b : Blk) (pa : Nat) (l : List Byte) : (b.hostWrite pa l).wq = b.wq := rfl
@[simp] theorem Blk.hostWrite_nextWr (b : Blk) (pa : Nat) (l : List Byte) : (b.hostWrite pa l).nextWr = b.nextWr := rfl
@[simp] theorem Blk.hostWrite_inletQ (b : Blk) (pa : Nat) (l : List Byte) : (b.hostWrite pa l).inletQ = b.inletQ := rfl
@[simp] theorem Blk.hostWrite_rings (b : Blk) (pa : Nat) (l : List Byte) : (b.hostWrite pa l).rings = b.rings := rfl
@[simp] theorem Blk.hostWrite_cmds (b : Blk) (pa : Nat) (l : List Byte) : (b.hostWrite pa l).cmds = b.cmds := rfl
@[simp] theorem Blk.hostWrite_nextCmd (b : Blk) (pa : Nat) (l : List Byte) : (b.hostWrite pa l).nextCmd = b.nextCmd := rfl
@[simp] theorem Blk.hostWrite_dcache (b : Blk) (pa : Nat) (l : List Byte) : (b.hostWrite pa l).dcache = b.dcache := rfl
@[simp] theorem Blk.hostWrite_fringLog (b : Blk) (pa : Nat) (l : List Byte) : (b.hostWrite pa l).fringLog = b.fringLog := rfl
@[simp] theorem Blk.hostWrite_fringBase (b : Blk) (pa : Nat) (l : List Byte) : (b.hostWrite pa l).fringBase = b.fringBase := rfl
@[simp] theorem Blk.hostWrite_eringLog (b : Blk) (pa : Nat) (l : List Byte) : (b.hostWrite pa l).eringLog = b.eringLog := rfl
@[simp] theorem Blk.hostWrite_eringBase (b : Blk) (pa : Nat) (l : List Byte) : (b.hostWrite pa l).eringBase = b.eringBase := rfl
@[simp] theorem Blk.hostWrite_evPath (b : Blk) (pa : Nat) (l : List Byte) : (b.hostWrite pa l).evPath = b.evPath := rfl
@[simp] theorem Blk.hostWrite_faultPath (b : Blk) (pa : Nat) (l : List Byte) : (b.hostWrite pa l).faultPath = b.faultPath := rfl
@[simp] theorem Blk.hostWrite_msgs (b : Blk) (pa : Nat) (l : List Byte) : (b.hostWrite pa l).msgs = b.msgs := rfl
@[simp] theorem Blk.hostWrite_copies (b : Blk) (pa : Nat) (l : List Byte) : (b.hostWrite pa l).copies = b.copies := rfl
@[simp] theorem Blk.hostWrite_advs (b : Blk) (pa : Nat) (l : List Byte) : (b.hostWrite pa l).advs = b.advs := rfl
@[simp] theorem Blk.hostWrite_nextCopy (b : Blk) (pa : Nat) (l : List Byte) : (b.hostWrite pa l).nextCopy = b.nextCopy := rfl
@[simp] theorem Blk.hostWrite_l2 (b : Blk) (pa : Nat) (l : List Byte) : (b.hostWrite pa l).l2 = b.l2 := rfl
@[simp] theorem Blk.hostWrite_l1 (b : Blk) (pa : Nat) (l : List Byte) : (b.hostWrite pa l).l1 = b.l1 := rfl
@[simp] theorem Blk.hostWrite_wcache (b : Blk) (pa : Nat) (l : List Byte) : (b.hostWrite pa l).wcache = b.wcache := rfl
@[simp] theorem Blk.hostWrite_walks (b : Blk) (pa : Nat) (l : List Byte) : (b.hostWrite pa l).walks = b.walks := rfl
@[simp] theorem Blk.hostWrite_xbad (b : Blk) (pa : Nat) (l : List Byte) : (b.hostWrite pa l).xbad = b.xbad := rfl
@[simp] theorem Blk.hostWrite_ft (b : Blk) (pa : Nat) (l : List Byte) : (b.hostWrite pa l).ft = b.ft := rfl
@[simp] theorem Blk.hostWrite_ftWait (b : Blk) (pa : Nat) (l : List Byte) : (b.hostWrite pa l).ftWait = b.ftWait := rfl
@[simp] theorem Blk.hostWrite_invals (b : Blk) (pa : Nat) (l : List Byte) : (b.hostWrite pa l).invals = b.invals := rfl
@[simp] theorem Blk.hostWrite_belay (b : Blk) (pa : Nat) (l : List Byte) : (b.hostWrite pa l).belay = b.belay := rfl
@[simp] theorem Blk.hostWrite_belayed (b : Blk) (pa : Nat) (l : List Byte) : (b.hostWrite pa l).belayed = b.belayed := rfl
@[simp] theorem Blk.hostWrite_rc (b : Blk) (pa : Nat) (l : List Byte) : (b.hostWrite pa l).rc = b.rc := rfl
@[simp] theorem Blk.hostWrite_co (b : Blk) (pa : Nat) (l : List Byte) : (b.hostWrite pa l).co = b.co := rfl
@[simp] theorem Blk.hostWrite_nulls (b : Blk) (pa : Nat) (l : List Byte) : (b.hostWrite pa l).nulls = b.nulls := rfl
@[simp] theorem Blk.hostWrite_stalled (b : Blk) (pa : Nat) (l : List Byte) : (b.hostWrite pa l).stalled = b.stalled := rfl
@[simp] theorem Blk.hostWrite_fences (b : Blk) (pa : Nat) (l : List Byte) : (b.hostWrite pa l).fences = b.fences := rfl
@[simp] theorem Blk.hostWrite_nextFence (b : Blk) (pa : Nat) (l : List Byte) : (b.hostWrite pa l).nextFence = b.nextFence := rfl
@[simp] theorem Blk.hostWrite_mig (b : Blk) (pa : Nat) (l : List Byte) : (b.hostWrite pa l).mig = b.mig := rfl
@[simp] theorem Blk.hostWrite_cores (b : Blk) (pa : Nat) (l : List Byte) : (b.hostWrite pa l).cores = b.cores := rfl
@[simp] theorem Blk.hostWrite_lx (b : Blk) (pa : Nat) (l : List Byte) : (b.hostWrite pa l).lx = b.lx := rfl
@[simp] theorem Blk.hostWrite_anc (b : Blk) (pa : Nat) (l : List Byte) : (b.hostWrite pa l).anc = b.anc := rfl
@[simp] theorem Blk.hostWrite_waiters (b : Blk) (pa : Nat) (l : List Byte) : (b.hostWrite pa l).waiters = b.waiters := rfl
@[simp] theorem Blk.hostWrite_flags (b : Blk) (pa : Nat) (l : List Byte) : (b.hostWrite pa l).flags = b.flags := rfl
@[simp] theorem Blk.hostWrite_pwr (b : Blk) (pa : Nat) (l : List Byte) : (b.hostWrite pa l).pwr = b.pwr := rfl
@[simp] theorem Blk.hostWrite_sec (b : Blk) (pa : Nat) (l : List Byte) : (b.hostWrite pa l).sec = b.sec := rfl
@[simp] theorem Blk.hostWrite_dbg (b : Blk) (pa : Nat) (l : List Byte) : (b.hostWrite pa l).dbg = b.dbg := rfl
@[simp] theorem Blk.hostWrite_qrst (b : Blk) (pa : Nat) (l : List Byte) : (b.hostWrite pa l).qrst = b.qrst := rfl
end hostWrite

section updTask
@[simp] theorem Core.updTask_last (b : Core) (t : Nat) (f : Task → Task) : (b.updTask t f).last = b.last := rfl
@[simp] theorem Core.updTask_workq (b : Core) (t : Nat) (f : Task → Task) : (b.updTask t f).workq = b.workq := rfl
@[simp] theorem Core.updTask_fatal (b : Core) (t : Nat) (f : Task → Task) : (b.updTask t f).fatal = b.fatal := rfl
@[simp] theorem Core.updTask_ic (b : Core) (t : Nat) (f : Task → Task) : (b.updTask t f).ic = b.ic := rfl
@[simp] theorem Core.updTask_dc (b : Core) (t : Nat) (f : Task → Task) : (b.updTask t f).dc = b.dc := rfl
@[simp] theorem Core.updTask_flags (b : Core) (t : Nat) (f : Task → Task) : (b.updTask t f).flags = b.flags := rfl
@[simp] theorem Core.updTask_qs (b : Core) (t : Nat) (f : Task → Task) : (b.updTask t f).qs = b.qs := rfl
@[simp] theorem Core.updTask_trk (b : Core) (t : Nat) (f : Task → Task) : (b.updTask t f).trk = b.trk := rfl
@[simp] theorem Core.updTask_waits (b : Core) (t : Nat) (f : Task → Task) : (b.updTask t f).waits = b.waits := rfl
@[simp] theorem Core.updTask_nextSlot (b : Core) (t : Nat) (f : Task → Task) : (b.updTask t f).nextSlot = b.nextSlot := rfl
@[simp] theorem Core.updTask_rr (b : Core) (t : Nat) (f : Task → Task) : (b.updTask t f).rr = b.rr := rfl
@[simp] theorem Core.updTask_cur (b : Core) (t : Nat) (f : Task → Task) : (b.updTask t f).cur = b.cur := rfl
@[simp] theorem Core.updTask_bagUsed (b : Core) (t : Nat) (f : Task → Task) : (b.updTask t f).bagUsed = b.bagUsed := rfl
@[simp] theorem Core.updTask_l1 (b : Core) (t : Nat) (f : Task → Task) : (b.updTask t f).l1 = b.l1 := rfl
@[simp] theorem Core.updTask_planes (b : Core) (t : Nat) (f : Task → Task) : (b.updTask t f).planes = b.planes := rfl
@[simp] theorem Core.updTask_lastPlane (b : Core) (t : Nat) (f : Task → Task) : (b.updTask t f).lastPlane = b.lastPlane := rfl
@[simp] theorem Core.updTask_iq (b : Core) (t : Nat) (f : Task → Task) : (b.updTask t f).iq = b.iq := rfl
@[simp] theorem Core.updTask_feed (b : Core) (t : Nat) (f : Task → Task) : (b.updTask t f).feed = b.feed := rfl
@[simp] theorem Core.updTask_feedFrom (b : Core) (t : Nat) (f : Task → Task) : (b.updTask t f).feedFrom = b.feedFrom := rfl
@[simp] theorem Core.updTask_flush (b : Core) (t : Nat) (f : Task → Task) : (b.updTask t f).flush = b.flush := rfl
@[simp] theorem Core.updTask_lastCmd (b : Core) (t : Nat) (f : Task → Task) : (b.updTask t f).lastCmd = b.lastCmd := rfl
@[simp] theorem Core.updTask_ramp (b : Core) (t : Nat) (f : Task → Task) : (b.updTask t f).ramp = b.ramp := rfl
@[simp] theorem Core.updTask_duty (b : Core) (t : Nat) (f : Task → Task) : (b.updTask t f).duty = b.duty := rfl
@[simp] theorem Core.updTask_tiles (b : Core) (t : Nat) (f : Task → Task) : (b.updTask t f).tiles = b.tiles := rfl
@[simp] theorem Core.updTask_tq (b : Core) (t : Nat) (f : Task → Task) : (b.updTask t f).tq = b.tq := rfl
@[simp] theorem Core.updTask_ch (b : Core) (t : Nat) (f : Task → Task) : (b.updTask t f).ch = b.ch := rfl
@[simp] theorem Core.updTask_chRR (b : Core) (t : Nat) (f : Task → Task) : (b.updTask t f).chRR = b.chRR := rfl
@[simp] theorem Core.updTask_plan (b : Core) (t : Nat) (f : Task → Task) : (b.updTask t f).plan = b.plan := rfl
@[simp] theorem Core.updTask_planTabs (b : Core) (t : Nat) (f : Task → Task) : (b.updTask t f).planTabs = b.planTabs := rfl
@[simp] theorem Core.updTask_nextKey (b : Core) (t : Nat) (f : Task → Task) : (b.updTask t f).nextKey = b.nextKey := rfl
@[simp] theorem Core.updTask_xres (b : Core) (t : Nat) (f : Task → Task) : (b.updTask t f).xres = b.xres := rfl
@[simp] theorem Core.updTask_shc (b : Core) (t : Nat) (f : Task → Task) : (b.updTask t f).shc = b.shc := rfl
@[simp] theorem Core.updTask_couOut (b : Core) (t : Nat) (f : Task → Task) : (b.updTask t f).couOut = b.couOut := rfl
@[simp] theorem Core.updTask_couHalf (b : Core) (t : Nat) (f : Task → Task) : (b.updTask t f).couHalf = b.couHalf := rfl
@[simp] theorem Core.updTask_couTag (b : Core) (t : Nat) (f : Task → Task) : (b.updTask t f).couTag = b.couTag := rfl
@[simp] theorem Core.updTask_couIn (b : Core) (t : Nat) (f : Task → Task) : (b.updTask t f).couIn = b.couIn := rfl
@[simp] theorem Core.updTask_couOpen (b : Core) (t : Nat) (f : Task → Task) : (b.updTask t f).couOpen = b.couOpen := rfl
@[simp] theorem Core.updTask_rst (b : Core) (t : Nat) (f : Task → Task) : (b.updTask t f).rst = b.rst := rfl
@[simp] theorem Core.updTask_rstList (b : Core) (t : Nat) (f : Task → Task) : (b.updTask t f).rstList = b.rstList := rfl
@[simp] theorem Core.updTask_stepOne (b : Core) (t : Nat) (f : Task → Task) : (b.updTask t f).stepOne = b.stepOne := rfl
end updTask

section updSq
@[simp] theorem Core.updSq_tasks (b : Core) (q : Nat) (f : SQ → SQ) : (b.updSq q f).tasks = b.tasks := rfl
@[simp] theorem Core.updSq_last (b : Core) (q : Nat) (f : SQ → SQ) : (b.updSq q f).last = b.last := rfl
@[simp] theorem Core.updSq_workq (b : Core) (q : Nat) (f : SQ → SQ) : (b.updSq q f).workq = b.workq := rfl
@[simp] theorem Core.updSq_fatal (b : Core) (q : Nat) (f : SQ → SQ) : (b.updSq q f).fatal = b.fatal := rfl
@[simp] theorem Core.updSq_ic (b : Core) (q : Nat) (f : SQ → SQ) : (b.updSq q f).ic = b.ic := rfl
@[simp] theorem Core.updSq_dc (b : Core) (q : Nat) (f : SQ → SQ) : (b.updSq q f).dc = b.dc := rfl
@[simp] theorem Core.updSq_flags (b : Core) (q : Nat) (f : SQ → SQ) : (b.updSq q f).flags = b.flags := rfl
@[simp] theorem Core.updSq_trk (b : Core) (q : Nat) (f : SQ → SQ) : (b.updSq q f).trk = b.trk := rfl
@[simp] theorem Core.updSq_waits (b : Core) (q : Nat) (f : SQ → SQ) : (b.updSq q f).waits = b.waits := rfl
@[simp] theorem Core.updSq_nextSlot (b : Core) (q : Nat) (f : SQ → SQ) : (b.updSq q f).nextSlot = b.nextSlot := rfl
@[simp] theorem Core.updSq_rr (b : Core) (q : Nat) (f : SQ → SQ) : (b.updSq q f).rr = b.rr := rfl
@[simp] theorem Core.updSq_cur (b : Core) (q : Nat) (f : SQ → SQ) : (b.updSq q f).cur = b.cur := rfl
@[simp] theorem Core.updSq_bagUsed (b : Core) (q : Nat) (f : SQ → SQ) : (b.updSq q f).bagUsed = b.bagUsed := rfl
@[simp] theorem Core.updSq_l1 (b : Core) (q : Nat) (f : SQ → SQ) : (b.updSq q f).l1 = b.l1 := rfl
@[simp] theorem Core.updSq_planes (b : Core) (q : Nat) (f : SQ → SQ) : (b.updSq q f).planes = b.planes := rfl
@[simp] theorem Core.updSq_lastPlane (b : Core) (q : Nat) (f : SQ → SQ) : (b.updSq q f).lastPlane = b.lastPlane := rfl
@[simp] theorem Core.updSq_iq (b : Core) (q : Nat) (f : SQ → SQ) : (b.updSq q f).iq = b.iq := rfl
@[simp] theorem Core.updSq_feed (b : Core) (q : Nat) (f : SQ → SQ) : (b.updSq q f).feed = b.feed := rfl
@[simp] theorem Core.updSq_feedFrom (b : Core) (q : Nat) (f : SQ → SQ) : (b.updSq q f).feedFrom = b.feedFrom := rfl
@[simp] theorem Core.updSq_flush (b : Core) (q : Nat) (f : SQ → SQ) : (b.updSq q f).flush = b.flush := rfl
@[simp] theorem Core.updSq_lastCmd (b : Core) (q : Nat) (f : SQ → SQ) : (b.updSq q f).lastCmd = b.lastCmd := rfl
@[simp] theorem Core.updSq_ramp (b : Core) (q : Nat) (f : SQ → SQ) : (b.updSq q f).ramp = b.ramp := rfl
@[simp] theorem Core.updSq_duty (b : Core) (q : Nat) (f : SQ → SQ) : (b.updSq q f).duty = b.duty := rfl
@[simp] theorem Core.updSq_tiles (b : Core) (q : Nat) (f : SQ → SQ) : (b.updSq q f).tiles = b.tiles := rfl
@[simp] theorem Core.updSq_tq (b : Core) (q : Nat) (f : SQ → SQ) : (b.updSq q f).tq = b.tq := rfl
@[simp] theorem Core.updSq_ch (b : Core) (q : Nat) (f : SQ → SQ) : (b.updSq q f).ch = b.ch := rfl
@[simp] theorem Core.updSq_chRR (b : Core) (q : Nat) (f : SQ → SQ) : (b.updSq q f).chRR = b.chRR := rfl
@[simp] theorem Core.updSq_plan (b : Core) (q : Nat) (f : SQ → SQ) : (b.updSq q f).plan = b.plan := rfl
@[simp] theorem Core.updSq_planTabs (b : Core) (q : Nat) (f : SQ → SQ) : (b.updSq q f).planTabs = b.planTabs := rfl
@[simp] theorem Core.updSq_nextKey (b : Core) (q : Nat) (f : SQ → SQ) : (b.updSq q f).nextKey = b.nextKey := rfl
@[simp] theorem Core.updSq_xres (b : Core) (q : Nat) (f : SQ → SQ) : (b.updSq q f).xres = b.xres := rfl
@[simp] theorem Core.updSq_shc (b : Core) (q : Nat) (f : SQ → SQ) : (b.updSq q f).shc = b.shc := rfl
@[simp] theorem Core.updSq_couOut (b : Core) (q : Nat) (f : SQ → SQ) : (b.updSq q f).couOut = b.couOut := rfl
@[simp] theorem Core.updSq_couHalf (b : Core) (q : Nat) (f : SQ → SQ) : (b.updSq q f).couHalf = b.couHalf := rfl
@[simp] theorem Core.updSq_couTag (b : Core) (q : Nat) (f : SQ → SQ) : (b.updSq q f).couTag = b.couTag := rfl
@[simp] theorem Core.updSq_couIn (b : Core) (q : Nat) (f : SQ → SQ) : (b.updSq q f).couIn = b.couIn := rfl
@[simp] theorem Core.updSq_couOpen (b : Core) (q : Nat) (f : SQ → SQ) : (b.updSq q f).couOpen = b.couOpen := rfl
@[simp] theorem Core.updSq_rst (b : Core) (q : Nat) (f : SQ → SQ) : (b.updSq q f).rst = b.rst := rfl
@[simp] theorem Core.updSq_rstList (b : Core) (q : Nat) (f : SQ → SQ) : (b.updSq q f).rstList = b.rstList := rfl
@[simp] theorem Core.updSq_stepOne (b : Core) (q : Nat) (f : SQ → SQ) : (b.updSq q f).stepOne = b.stepOne := rfl
end updSq

/-! ### Views that an update leaves alone -/
@[simp] theorem Blk.core_setReg (b : Blk) (o : Nat) (v : W64) (x : Nat) : (b.setReg o v).core x = b.core x := rfl
@[simp] theorem Blk.task_setReg (b : Blk) (o : Nat) (v : W64) (x y : Nat) : (b.setReg o v).task x y = b.task x y := rfl
@[simp] theorem Blk.sq_setReg (b : Blk) (o : Nat) (v : W64) (x y : Nat) : (b.setReg o v).sq x y = b.sq x y := rfl
@[simp] theorem Blk.cmd_setReg (b : Blk) (o : Nat) (v : W64) (x : Nat) : (b.setReg o v).cmd x = b.cmd x := rfl
@[simp] theorem Blk.ring_setReg (b : Blk) (o : Nat) (v : W64) (x : Nat) : (b.setReg o v).ring x = b.ring x := rfl
@[simp] theorem Blk.port_setReg (b : Blk) (o : Nat) (v : W64) (x : Nat) : (b.setReg o v).port x = b.port x := rfl
@[simp] theorem Blk.anchor_setReg (b : Blk) (o : Nat) (v : W64) (x : Nat) : (b.setReg o v).anchor x = b.anchor x := rfl
@[simp] theorem Blk.core_setFld (b : Blk) (o lo n v : Nat) (x : Nat) : (b.setFld o lo n v).core x = b.core x := rfl
@[simp] theorem Blk.task_setFld (b : Blk) (o lo n v : Nat) (x y : Nat) : (b.setFld o lo n v).task x y = b.task x y := rfl
@[simp] theorem Blk.sq_setFld (b : Blk) (o lo n v : Nat) (x y : Nat) : (b.setFld o lo n v).sq x y = b.sq x y := rfl
@[simp] theorem Blk.cmd_setFld (b : Blk) (o lo n v : Nat) (x : Nat) : (b.setFld o lo n v).cmd x = b.cmd x := rfl
@[simp] theorem Blk.ring_setFld (b : Blk) (o lo n v : Nat) (x : Nat) : (b.setFld o lo n v).ring x = b.ring x := rfl
@[simp] theorem Blk.port_setFld (b : Blk) (o lo n v : Nat) (x : Nat) : (b.setFld o lo n v).port x = b.port x := rfl
@[simp] theorem Blk.anchor_setFld (b : Blk) (o lo n v : Nat) (x : Nat) : (b.setFld o lo n v).anchor x = b.anchor x := rfl
@[simp] theorem Blk.core_inc (b : Blk) (o k : Nat) (x : Nat) : (b.inc o k).core x = b.core x := rfl
@[simp] theorem Blk.task_inc (b : Blk) (o k : Nat) (x y : Nat) : (b.inc o k).task x y = b.task x y := rfl
@[simp] theorem Blk.sq_inc (b : Blk) (o k : Nat) (x y : Nat) : (b.inc o k).sq x y = b.sq x y := rfl
@[simp] theorem Blk.cmd_inc (b : Blk) (o k : Nat) (x : Nat) : (b.inc o k).cmd x = b.cmd x := rfl
@[simp] theorem Blk.ring_inc (b : Blk) (o k : Nat) (x : Nat) : (b.inc o k).ring x = b.ring x := rfl
@[simp] theorem Blk.port_inc (b : Blk) (o k : Nat) (x : Nat) : (b.inc o k).port x = b.port x := rfl
@[simp] theorem Blk.anchor_inc (b : Blk) (o k : Nat) (x : Nat) : (b.inc o k).anchor x = b.anchor x := rfl
@[simp] theorem Blk.core_incSat (b : Blk) (o lo n k : Nat) (x : Nat) : (b.incSat o lo n k).core x = b.core x := rfl
@[simp] theorem Blk.task_incSat (b : Blk) (o lo n k : Nat) (x y : Nat) : (b.incSat o lo n k).task x y = b.task x y := rfl
@[simp] theorem Blk.sq_incSat (b : Blk) (o lo n k : Nat) (x y : Nat) : (b.incSat o lo n k).sq x y = b.sq x y := rfl
@[simp] theorem Blk.cmd_incSat (b : Blk) (o lo n k : Nat) (x : Nat) : (b.incSat o lo n k).cmd x = b.cmd x := rfl
@[simp] theorem Blk.ring_incSat (b : Blk) (o lo n k : Nat) (x : Nat) : (b.incSat o lo n k).ring x = b.ring x := rfl
@[simp] theorem Blk.port_incSat (b : Blk) (o lo n k : Nat) (x : Nat) : (b.incSat o lo n k).port x = b.port x := rfl
@[simp] theorem Blk.anchor_incSat (b : Blk) (o lo n k : Nat) (x : Nat) : (b.incSat o lo n k).anchor x = b.anchor x := rfl
@[simp] theorem Blk.core_freed (b : Blk)  (x : Nat) : (b.freed ).core x = b.core x := rfl
@[simp] theorem Blk.task_freed (b : Blk)  (x y : Nat) : (b.freed ).task x y = b.task x y := rfl
@[simp] theorem Blk.sq_freed (b : Blk)  (x y : Nat) : (b.freed ).sq x y = b.sq x y := rfl
@[simp] theorem Blk.cmd_freed (b : Blk)  (x : Nat) : (b.freed ).cmd x = b.cmd x := rfl
@[simp] theorem Blk.ring_freed (b : Blk)  (x : Nat) : (b.freed ).ring x = b.ring x := rfl
@[simp] theorem Blk.port_freed (b : Blk)  (x : Nat) : (b.freed ).port x = b.port x := rfl
@[simp] theorem Blk.anchor_freed (b : Blk)  (x : Nat) : (b.freed ).anchor x = b.anchor x := rfl
@[simp] theorem Blk.reg_freed (b : Blk)  (x : Nat) : (b.freed ).reg x = b.reg x := rfl
@[simp] theorem Blk.rf_freed (b : Blk)  (x y z : Nat) : (b.freed ).rf x y z = b.rf x y z := rfl
@[simp] theorem Blk.rb_freed (b : Blk)  (x y : Nat) : (b.freed ).rb x y = b.rb x y := rfl
@[simp] theorem Blk.cmd_updCore (b : Blk) (c : Nat) (f : Core → Core) (x : Nat) : (b.updCore c f).cmd x = b.cmd x := rfl
@[simp] theorem Blk.ring_updCore (b : Blk) (c : Nat) (f : Core → Core) (x : Nat) : (b.updCore c f).ring x = b.ring x := rfl
@[simp] theorem Blk.port_updCore (b : Blk) (c : Nat) (f : Core → Core) (x : Nat) : (b.updCore c f).port x = b.port x := rfl
@[simp] theorem Blk.anchor_updCore (b : Blk) (c : Nat) (f : Core → Core) (x : Nat) : (b.updCore c f).anchor x = b.anchor x := rfl
@[simp] theorem Blk.reg_updCore (b : Blk) (c : Nat) (f : Core → Core) (x : Nat) : (b.updCore c f).reg x = b.reg x := rfl
@[simp] theorem Blk.rf_updCore (b : Blk) (c : Nat) (f : Core → Core) (x y z : Nat) : (b.updCore c f).rf x y z = b.rf x y z := rfl
@[simp] theorem Blk.rb_updCore (b : Blk) (c : Nat) (f : Core → Core) (x y : Nat) : (b.updCore c f).rb x y = b.rb x y := rfl
@[simp] theorem Blk.cmd_updTask (b : Blk) (c t : Nat) (f : Task → Task) (x : Nat) : (b.updTask c t f).cmd x = b.cmd x := rfl
@[simp] theorem Blk.ring_updTask (b : Blk) (c t : Nat) (f : Task → Task) (x : Nat) : (b.updTask c t f).ring x = b.ring x := rfl
@[simp] theorem Blk.port_updTask (b : Blk) (c t : Nat) (f : Task → Task) (x : Nat) : (b.updTask c t f).port x = b.port x := rfl
@[simp] theorem Blk.anchor_updTask (b : Blk) (c t : Nat) (f : Task → Task) (x : Nat) : (b.updTask c t f).anchor x = b.anchor x := rfl
@[simp] theorem Blk.reg_updTask (b : Blk) (c t : Nat) (f : Task → Task) (x : Nat) : (b.updTask c t f).reg x = b.reg x := rfl
@[simp] theorem Blk.rf_updTask (b : Blk) (c t : Nat) (f : Task → Task) (x y z : Nat) : (b.updTask c t f).rf x y z = b.rf x y z := rfl
@[simp] theorem Blk.rb_updTask (b : Blk) (c t : Nat) (f : Task → Task) (x y : Nat) : (b.updTask c t f).rb x y = b.rb x y := rfl
@[simp] theorem Blk.cmd_updSq (b : Blk) (c q : Nat) (f : SQ → SQ) (x : Nat) : (b.updSq c q f).cmd x = b.cmd x := rfl
@[simp] theorem Blk.ring_updSq (b : Blk) (c q : Nat) (f : SQ → SQ) (x : Nat) : (b.updSq c q f).ring x = b.ring x := rfl
@[simp] theorem Blk.port_updSq (b : Blk) (c q : Nat) (f : SQ → SQ) (x : Nat) : (b.updSq c q f).port x = b.port x := rfl
@[simp] theorem Blk.anchor_updSq (b : Blk) (c q : Nat) (f : SQ → SQ) (x : Nat) : (b.updSq c q f).anchor x = b.anchor x := rfl
@[simp] theorem Blk.reg_updSq (b : Blk) (c q : Nat) (f : SQ → SQ) (x : Nat) : (b.updSq c q f).reg x = b.reg x := rfl
@[simp] theorem Blk.rf_updSq (b : Blk) (c q : Nat) (f : SQ → SQ) (x y z : Nat) : (b.updSq c q f).rf x y z = b.rf x y z := rfl
@[simp] theorem Blk.rb_updSq (b : Blk) (c q : Nat) (f : SQ → SQ) (x y : Nat) : (b.updSq c q f).rb x y = b.rb x y := rfl
@[simp] theorem Blk.core_updCmd (b : Blk) (id : Nat) (f : Cmd → Cmd) (x : Nat) : (b.updCmd id f).core x = b.core x := rfl
@[simp] theorem Blk.task_updCmd (b : Blk) (id : Nat) (f : Cmd → Cmd) (x y : Nat) : (b.updCmd id f).task x y = b.task x y := rfl
@[simp] theorem Blk.sq_updCmd (b : Blk) (id : Nat) (f : Cmd → Cmd) (x y : Nat) : (b.updCmd id f).sq x y = b.sq x y := rfl
@[simp] theorem Blk.ring_updCmd (b : Blk) (id : Nat) (f : Cmd → Cmd) (x : Nat) : (b.updCmd id f).ring x = b.ring x := rfl
@[simp] theorem Blk.port_updCmd (b : Blk) (id : Nat) (f : Cmd → Cmd) (x : Nat) : (b.updCmd id f).port x = b.port x := rfl
@[simp] theorem Blk.anchor_updCmd (b : Blk) (id : Nat) (f : Cmd → Cmd) (x : Nat) : (b.updCmd id f).anchor x = b.anchor x := rfl
@[simp] theorem Blk.reg_updCmd (b : Blk) (id : Nat) (f : Cmd → Cmd) (x : Nat) : (b.updCmd id f).reg x = b.reg x := rfl
@[simp] theorem Blk.rf_updCmd (b : Blk) (id : Nat) (f : Cmd → Cmd) (x y z : Nat) : (b.updCmd id f).rf x y z = b.rf x y z := rfl
@[simp] theorem Blk.rb_updCmd (b : Blk) (id : Nat) (f : Cmd → Cmd) (x y : Nat) : (b.updCmd id f).rb x y = b.rb x y := rfl
@[simp] theorem Blk.core_meet (b : Blk) (id st : Nat) (x : Nat) : (b.meet id st).core x = b.core x := rfl
@[simp] theorem Blk.task_meet (b : Blk) (id st : Nat) (x y : Nat) : (b.meet id st).task x y = b.task x y := rfl
@[simp] theorem Blk.sq_meet (b : Blk) (id st : Nat) (x y : Nat) : (b.meet id st).sq x y = b.sq x y := rfl
@[simp] theorem Blk.ring_meet (b : Blk) (id st : Nat) (x : Nat) : (b.meet id st).ring x = b.ring x := rfl
@[simp] theorem Blk.port_meet (b : Blk) (id st : Nat) (x : Nat) : (b.meet id st).port x = b.port x := rfl
@[simp] theorem Blk.anchor_meet (b : Blk) (id st : Nat) (x : Nat) : (b.meet id st).anchor x = b.anchor x := rfl
@[simp] theorem Blk.reg_meet (b : Blk) (id st : Nat) (x : Nat) : (b.meet id st).reg x = b.reg x := rfl
@[simp] theorem Blk.rf_meet (b : Blk) (id st : Nat) (x y z : Nat) : (b.meet id st).rf x y z = b.rf x y z := rfl
@[simp] theorem Blk.rb_meet (b : Blk) (id st : Nat) (x y : Nat) : (b.meet id st).rb x y = b.rb x y := rfl
@[simp] theorem Blk.core_updRing (b : Blk) (n : Nat) (f : Ring → Ring) (x : Nat) : (b.updRing n f).core x = b.core x := rfl
@[simp] theorem Blk.task_updRing (b : Blk) (n : Nat) (f : Ring → Ring) (x y : Nat) : (b.updRing n f).task x y = b.task x y := rfl
@[simp] theorem Blk.sq_updRing (b : Blk) (n : Nat) (f : Ring → Ring) (x y : Nat) : (b.updRing n f).sq x y = b.sq x y := rfl
@[simp] theorem Blk.cmd_updRing (b : Blk) (n : Nat) (f : Ring → Ring) (x : Nat) : (b.updRing n f).cmd x = b.cmd x := rfl
@[simp] theorem Blk.port_updRing (b : Blk) (n : Nat) (f : Ring → Ring) (x : Nat) : (b.updRing n f).port x = b.port x := rfl
@[simp] theorem Blk.anchor_updRing (b : Blk) (n : Nat) (f : Ring → Ring) (x : Nat) : (b.updRing n f).anchor x = b.anchor x := rfl
@[simp] theorem Blk.reg_updRing (b : Blk) (n : Nat) (f : Ring → Ring) (x : Nat) : (b.updRing n f).reg x = b.reg x := rfl
@[simp] theorem Blk.rf_updRing (b : Blk) (n : Nat) (f : Ring → Ring) (x y z : Nat) : (b.updRing n f).rf x y z = b.rf x y z := rfl
@[simp] theorem Blk.rb_updRing (b : Blk) (n : Nat) (f : Ring → Ring) (x y : Nat) : (b.updRing n f).rb x y = b.rb x y := rfl
@[simp] theorem Blk.core_updPort (b : Blk) (p : Nat) (f : Port → Port) (x : Nat) : (b.updPort p f).core x = b.core x := rfl
@[simp] theorem Blk.task_updPort (b : Blk) (p : Nat) (f : Port → Port) (x y : Nat) : (b.updPort p f).task x y = b.task x y := rfl
@[simp] theorem Blk.sq_updPort (b : Blk) (p : Nat) (f : Port → Port) (x y : Nat) : (b.updPort p f).sq x y = b.sq x y := rfl
@[simp] theorem Blk.cmd_updPort (b : Blk) (p : Nat) (f : Port → Port) (x : Nat) : (b.updPort p f).cmd x = b.cmd x := rfl
@[simp] theorem Blk.ring_updPort (b : Blk) (p : Nat) (f : Port → Port) (x : Nat) : (b.updPort p f).ring x = b.ring x := rfl
@[simp] theorem Blk.anchor_updPort (b : Blk) (p : Nat) (f : Port → Port) (x : Nat) : (b.updPort p f).anchor x = b.anchor x := rfl
@[simp] theorem Blk.reg_updPort (b : Blk) (p : Nat) (f : Port → Port) (x : Nat) : (b.updPort p f).reg x = b.reg x := rfl
@[simp] theorem Blk.rf_updPort (b : Blk) (p : Nat) (f : Port → Port) (x y z : Nat) : (b.updPort p f).rf x y z = b.rf x y z := rfl
@[simp] theorem Blk.rb_updPort (b : Blk) (p : Nat) (f : Port → Port) (x y : Nat) : (b.updPort p f).rb x y = b.rb x y := rfl
@[simp] theorem Blk.core_setAnchor (b : Blk) (k v : Nat) (x : Nat) : (b.setAnchor k v).core x = b.core x := rfl
@[simp] theorem Blk.task_setAnchor (b : Blk) (k v : Nat) (x y : Nat) : (b.setAnchor k v).task x y = b.task x y := rfl
@[simp] theorem Blk.sq_setAnchor (b : Blk) (k v : Nat) (x y : Nat) : (b.setAnchor k v).sq x y = b.sq x y := rfl
@[simp] theorem Blk.cmd_setAnchor (b : Blk) (k v : Nat) (x : Nat) : (b.setAnchor k v).cmd x = b.cmd x := rfl
@[simp] theorem Blk.ring_setAnchor (b : Blk) (k v : Nat) (x : Nat) : (b.setAnchor k v).ring x = b.ring x := rfl
@[simp] theorem Blk.port_setAnchor (b : Blk) (k v : Nat) (x : Nat) : (b.setAnchor k v).port x = b.port x := rfl
@[simp] theorem Blk.reg_setAnchor (b : Blk) (k v : Nat) (x : Nat) : (b.setAnchor k v).reg x = b.reg x := rfl
@[simp] theorem Blk.rf_setAnchor (b : Blk) (k v : Nat) (x y z : Nat) : (b.setAnchor k v).rf x y z = b.rf x y z := rfl
@[simp] theorem Blk.rb_setAnchor (b : Blk) (k v : Nat) (x y : Nat) : (b.setAnchor k v).rb x y = b.rb x y := rfl
@[simp] theorem Blk.core_hostWrite (b : Blk) (pa : Nat) (l : List Byte) (x : Nat) : (b.hostWrite pa l).core x = b.core x := rfl
@[simp] theorem Blk.task_hostWrite (b : Blk) (pa : Nat) (l : List Byte) (x y : Nat) : (b.hostWrite pa l).task x y = b.task x y := rfl
@[simp] theorem Blk.sq_hostWrite (b : Blk) (pa : Nat) (l : List Byte) (x y : Nat) : (b.hostWrite pa l).sq x y = b.sq x y := rfl
@[simp] theorem Blk.cmd_hostWrite (b : Blk) (pa : Nat) (l : List Byte) (x : Nat) : (b.hostWrite pa l).cmd x = b.cmd x := rfl
@[simp] theorem Blk.ring_hostWrite (b : Blk) (pa : Nat) (l : List Byte) (x : Nat) : (b.hostWrite pa l).ring x = b.ring x := rfl
@[simp] theorem Blk.port_hostWrite (b : Blk) (pa : Nat) (l : List Byte) (x : Nat) : (b.hostWrite pa l).port x = b.port x := rfl
@[simp] theorem Blk.anchor_hostWrite (b : Blk) (pa : Nat) (l : List Byte) (x : Nat) : (b.hostWrite pa l).anchor x = b.anchor x := rfl
@[simp] theorem Blk.reg_hostWrite (b : Blk) (pa : Nat) (l : List Byte) (x : Nat) : (b.hostWrite pa l).reg x = b.reg x := rfl
@[simp] theorem Blk.rf_hostWrite (b : Blk) (pa : Nat) (l : List Byte) (x y z : Nat) : (b.hostWrite pa l).rf x y z = b.rf x y z := rfl
@[simp] theorem Blk.rb_hostWrite (b : Blk) (pa : Nat) (l : List Byte) (x y : Nat) : (b.hostWrite pa l).rb x y = b.rb x y := rfl

section log
@[simp] theorem Blk.log_build (b : Blk) (o : Nat) (k v : W64) : (b.log o k v).build = b.build := by
  unfold Blk.log; split <;> rfl
@[simp] theorem Blk.log_locked (b : Blk) (o : Nat) (k v : W64) : (b.log o k v).locked = b.locked := by
  unfold Blk.log; split <;> rfl
@[simp] theorem Blk.log_time (b : Blk) (o : Nat) (k v : W64) : (b.log o k v).time = b.time := by
  unfold Blk.log; split <;> rfl
@[simp] theorem Blk.log_free (b : Blk) (o : Nat) (k v : W64) : (b.log o k v).free = b.free := by
  unfold Blk.log; split <;> rfl
@[simp] theorem Blk.log_dev (b : Blk) (o : Nat) (k v : W64) : (b.log o k v).dev = b.dev := by
  unfold Blk.log; split <;> rfl
@[simp] theorem Blk.log_bad (b : Blk) (o : Nat) (k v : W64) : (b.log o k v).bad = b.bad := by
  unfold Blk.log; split <;> rfl
@[simp] theorem Blk.log_host (b : Blk) (o : Nat) (k v : W64) : (b.log o k v).host = b.host := by
  unfold Blk.log; split <;> rfl
@[simp] theorem Blk.log_wq (b : Blk) (o : Nat) (k v : W64) : (b.log o k v).wq = b.wq := by
  unfold Blk.log; split <;> rfl
@[simp] theorem Blk.log_nextWr (b : Blk) (o : Nat) (k v : W64) : (b.log o k v).nextWr = b.nextWr := by
  unfold Blk.log; split <;> rfl
@[simp] theorem Blk.log_inletQ (b : Blk) (o : Nat) (k v : W64) : (b.log o k v).inletQ = b.inletQ := by
  unfold Blk.log; split <;> rfl
@[simp] theorem Blk.log_rings (b : Blk) (o : Nat) (k v : W64) : (b.log o k v).rings = b.rings := by
  unfold Blk.log; split <;> rfl
@[simp] theorem Blk.log_cmds (b : Blk) (o : Nat) (k v : W64) : (b.log o k v).cmds = b.cmds := by
  unfold Blk.log; split <;> rfl
@[simp] theorem Blk.log_nextCmd (b : Blk) (o : Nat) (k v : W64) : (b.log o k v).nextCmd = b.nextCmd := by
  unfold Blk.log; split <;> rfl
@[simp] theorem Blk.log_dcache (b : Blk) (o : Nat) (k v : W64) : (b.log o k v).dcache = b.dcache := by
  unfold Blk.log; split <;> rfl
@[simp] theorem Blk.log_fringLog (b : Blk) (o : Nat) (k v : W64) : (b.log o k v).fringLog = b.fringLog := by
  unfold Blk.log; split <;> rfl
@[simp] theorem Blk.log_fringBase (b : Blk) (o : Nat) (k v : W64) : (b.log o k v).fringBase = b.fringBase := by
  unfold Blk.log; split <;> rfl
@[simp] theorem Blk.log_eringLog (b : Blk) (o : Nat) (k v : W64) : (b.log o k v).eringLog = b.eringLog := by
  unfold Blk.log; split <;> rfl
@[simp] theorem Blk.log_eringBase (b : Blk) (o : Nat) (k v : W64) : (b.log o k v).eringBase = b.eringBase := by
  unfold Blk.log; split <;> rfl
@[simp] theorem Blk.log_evPath (b : Blk) (o : Nat) (k v : W64) : (b.log o k v).evPath = b.evPath := by
  unfold Blk.log; split <;> rfl
@[simp] theorem Blk.log_faultPath (b : Blk) (o : Nat) (k v : W64) : (b.log o k v).faultPath = b.faultPath := by
  unfold Blk.log; split <;> rfl
@[simp] theorem Blk.log_msgs (b : Blk) (o : Nat) (k v : W64) : (b.log o k v).msgs = b.msgs := by
  unfold Blk.log; split <;> rfl
@[simp] theorem Blk.log_copies (b : Blk) (o : Nat) (k v : W64) : (b.log o k v).copies = b.copies := by
  unfold Blk.log; split <;> rfl
@[simp] theorem Blk.log_advs (b : Blk) (o : Nat) (k v : W64) : (b.log o k v).advs = b.advs := by
  unfold Blk.log; split <;> rfl
@[simp] theorem Blk.log_nextCopy (b : Blk) (o : Nat) (k v : W64) : (b.log o k v).nextCopy = b.nextCopy := by
  unfold Blk.log; split <;> rfl
@[simp] theorem Blk.log_l2 (b : Blk) (o : Nat) (k v : W64) : (b.log o k v).l2 = b.l2 := by
  unfold Blk.log; split <;> rfl
@[simp] theorem Blk.log_l1 (b : Blk) (o : Nat) (k v : W64) : (b.log o k v).l1 = b.l1 := by
  unfold Blk.log; split <;> rfl
@[simp] theorem Blk.log_wcache (b : Blk) (o : Nat) (k v : W64) : (b.log o k v).wcache = b.wcache := by
  unfold Blk.log; split <;> rfl
@[simp] theorem Blk.log_walks (b : Blk) (o : Nat) (k v : W64) : (b.log o k v).walks = b.walks := by
  unfold Blk.log; split <;> rfl
@[simp] theorem Blk.log_xbad (b : Blk) (o : Nat) (k v : W64) : (b.log o k v).xbad = b.xbad := by
  unfold Blk.log; split <;> rfl
@[simp] theorem Blk.log_ft (b : Blk) (o : Nat) (k v : W64) : (b.log o k v).ft = b.ft := by
  unfold Blk.log; split <;> rfl
@[simp] theorem Blk.log_ftWait (b : Blk) (o : Nat) (k v : W64) : (b.log o k v).ftWait = b.ftWait := by
  unfold Blk.log; split <;> rfl
@[simp] theorem Blk.log_invals (b : Blk) (o : Nat) (k v : W64) : (b.log o k v).invals = b.invals := by
  unfold Blk.log; split <;> rfl
@[simp] theorem Blk.log_belay (b : Blk) (o : Nat) (k v : W64) : (b.log o k v).belay = b.belay := by
  unfold Blk.log; split <;> rfl
@[simp] theorem Blk.log_belayed (b : Blk) (o : Nat) (k v : W64) : (b.log o k v).belayed = b.belayed := by
  unfold Blk.log; split <;> rfl
@[simp] theorem Blk.log_rc (b : Blk) (o : Nat) (k v : W64) : (b.log o k v).rc = b.rc := by
  unfold Blk.log; split <;> rfl
@[simp] theorem Blk.log_co (b : Blk) (o : Nat) (k v : W64) : (b.log o k v).co = b.co := by
  unfold Blk.log; split <;> rfl
@[simp] theorem Blk.log_nulls (b : Blk) (o : Nat) (k v : W64) : (b.log o k v).nulls = b.nulls := by
  unfold Blk.log; split <;> rfl
@[simp] theorem Blk.log_stalled (b : Blk) (o : Nat) (k v : W64) : (b.log o k v).stalled = b.stalled := by
  unfold Blk.log; split <;> rfl
@[simp] theorem Blk.log_fences (b : Blk) (o : Nat) (k v : W64) : (b.log o k v).fences = b.fences := by
  unfold Blk.log; split <;> rfl
@[simp] theorem Blk.log_nextFence (b : Blk) (o : Nat) (k v : W64) : (b.log o k v).nextFence = b.nextFence := by
  unfold Blk.log; split <;> rfl
@[simp] theorem Blk.log_mig (b : Blk) (o : Nat) (k v : W64) : (b.log o k v).mig = b.mig := by
  unfold Blk.log; split <;> rfl
@[simp] theorem Blk.log_cores (b : Blk) (o : Nat) (k v : W64) : (b.log o k v).cores = b.cores := by
  unfold Blk.log; split <;> rfl
@[simp] theorem Blk.log_lx (b : Blk) (o : Nat) (k v : W64) : (b.log o k v).lx = b.lx := by
  unfold Blk.log; split <;> rfl
@[simp] theorem Blk.log_anc (b : Blk) (o : Nat) (k v : W64) : (b.log o k v).anc = b.anc := by
  unfold Blk.log; split <;> rfl
@[simp] theorem Blk.log_waiters (b : Blk) (o : Nat) (k v : W64) : (b.log o k v).waiters = b.waiters := by
  unfold Blk.log; split <;> rfl
@[simp] theorem Blk.log_flags (b : Blk) (o : Nat) (k v : W64) : (b.log o k v).flags = b.flags := by
  unfold Blk.log; split <;> rfl
@[simp] theorem Blk.log_pwr (b : Blk) (o : Nat) (k v : W64) : (b.log o k v).pwr = b.pwr := by
  unfold Blk.log; split <;> rfl
@[simp] theorem Blk.log_sec (b : Blk) (o : Nat) (k v : W64) : (b.log o k v).sec = b.sec := by
  unfold Blk.log; split <;> rfl
@[simp] theorem Blk.log_dbg (b : Blk) (o : Nat) (k v : W64) : (b.log o k v).dbg = b.dbg := by
  unfold Blk.log; split <;> rfl
@[simp] theorem Blk.log_qrst (b : Blk) (o : Nat) (k v : W64) : (b.log o k v).qrst = b.qrst := by
  unfold Blk.log; split <;> rfl
end log

/-! ### Reading back -/

@[simp] theorem Blk.reg_setReg_same (b : Blk) (o : Nat) (v : W64) : (b.setReg o v).reg o = v :=
  Tab.get_set_same _ _ _ _

theorem Blk.reg_setReg_other (b : Blk) {o p : Nat} (v : W64) (h : p ≠ o) : (b.setReg o v).reg p = b.reg p :=
  Tab.get_set_other _ _ _ v h

theorem Blk.reg_setReg (b : Blk) (o p : Nat) (v : W64) : (b.setReg o v).reg p = if p = o then v else b.reg p := by
  by_cases h : p = o
  · subst h; simp
  · simp [h, Blk.reg_setReg_other b v h]

theorem Blk.reg_inc (b : Blk) (o p k : Nat) :
    (b.inc o k).reg p = if p = o then b.reg p + BitVec.ofNat 64 k else b.reg p := by
  unfold Blk.inc
  rw [Blk.reg_setReg]
  by_cases h : p = o <;> simp [h]

theorem Blk.reg_setFld (b : Blk) (o p lo n v : Nat) :
    (b.setFld o lo n v).reg p = if p = o then putFld (b.reg p) lo n v else b.reg p := by
  unfold Blk.setFld
  rw [Blk.reg_setReg]
  by_cases h : p = o <;> simp [h]

theorem Blk.reg_log_other (b : Blk) {o p : Nat} (k v : W64) (h : p ≠ o) : (b.log o k v).reg p = b.reg p := by
  unfold Blk.log; split <;> exact Blk.reg_setReg_other b _ h

@[simp] theorem Blk.core_updCore_same (b : Blk) (c : Nat) (f : Core → Core) : (b.updCore c f).core c = f (b.core c) :=
  Tab.get_set_same _ _ _ _

theorem Blk.core_updCore_other (b : Blk) {c d : Nat} (f : Core → Core) (h : d ≠ c) : (b.updCore c f).core d = b.core d :=
  Tab.get_set_other _ _ _ _ h

theorem Blk.core_updCore (b : Blk) (c d : Nat) (f : Core → Core) :
    (b.updCore c f).core d = if d = c then f (b.core d) else b.core d := by
  by_cases h : d = c
  · subst h; simp
  · simp [h, Blk.core_updCore_other b f h]

@[simp] theorem Core.task_updTask_same (k : Core) (t : Nat) (f : Task → Task) : (k.updTask t f).task t = f (k.task t) :=
  Tab.get_set_same _ _ _ _

theorem Core.task_updTask_other (k : Core) {t u : Nat} (f : Task → Task) (h : u ≠ t) : (k.updTask t f).task u = k.task u :=
  Tab.get_set_other _ _ _ _ h

@[simp] theorem Core.task_updSq (k : Core) (q t : Nat) (f : SQ → SQ) : (k.updSq q f).task t = k.task t := rfl

@[simp] theorem Core.sq_updSq_same (k : Core) (q : Nat) (f : SQ → SQ) : (k.updSq q f).sq q = f (k.sq q) :=
  Tab.get_set_same _ _ _ _

theorem Core.sq_updSq_other (k : Core) {q r : Nat} (f : SQ → SQ) (h : r ≠ q) : (k.updSq q f).sq r = k.sq r :=
  Tab.get_set_other _ _ _ _ h

@[simp] theorem Core.sq_updTask (k : Core) (t q : Nat) (f : Task → Task) : (k.updTask t f).sq q = k.sq q := rfl

@[simp] theorem Blk.core_updTask_same (b : Blk) (c t : Nat) (f : Task → Task) :
    (b.updTask c t f).core c = (b.core c).updTask t f := Blk.core_updCore_same _ _ _

theorem Blk.core_updTask_other (b : Blk) {c d : Nat} (t : Nat) (f : Task → Task) (h : d ≠ c) :
    (b.updTask c t f).core d = b.core d := Blk.core_updCore_other _ _ h

@[simp] theorem Blk.task_updTask_same (b : Blk) (c t : Nat) (f : Task → Task) : (b.updTask c t f).task c t = f (b.task c t) := by
  simp [Blk.task]

theorem Blk.task_updTask_other (b : Blk) (c : Nat) {t u : Nat} (f : Task → Task) (h : u ≠ t) :
    (b.updTask c t f).task c u = b.task c u := by
  simp [Blk.task, Core.task_updTask_other _ f h]

@[simp] theorem Blk.core_updSq_same (b : Blk) (c q : Nat) (f : SQ → SQ) :
    (b.updSq c q f).core c = (b.core c).updSq q f := Blk.core_updCore_same _ _ _

theorem Blk.core_updSq_other (b : Blk) {c d : Nat} (q : Nat) (f : SQ → SQ) (h : d ≠ c) :
    (b.updSq c q f).core d = b.core d := Blk.core_updCore_other _ _ h

@[simp] theorem Blk.sq_updSq_same (b : Blk) (c q : Nat) (f : SQ → SQ) : (b.updSq c q f).sq c q = f (b.sq c q) := by
  simp [Blk.sq]

@[simp] theorem Blk.ring_updRing_same (b : Blk) (n : Nat) (f : Ring → Ring) : (b.updRing n f).ring n = f (b.ring n) :=
  Tab.get_set_same _ _ _ _

theorem Blk.ring_updRing_other (b : Blk) {n m : Nat} (f : Ring → Ring) (h : m ≠ n) : (b.updRing n f).ring m = b.ring m :=
  Tab.get_set_other _ _ _ _ h

@[simp] theorem Blk.port_updPort_same (b : Blk) (p : Nat) (f : Port → Port) : (b.updPort p f).port p = f (b.port p) :=
  Tab.get_set_same _ _ _ _

theorem Blk.port_updPort_other (b : Blk) {p q : Nat} (f : Port → Port) (h : q ≠ p) : (b.updPort p f).port q = b.port q :=
  Tab.get_set_other _ _ _ _ h

@[simp] theorem Blk.anchor_setAnchor_same (b : Blk) (k v : Nat) : (b.setAnchor k v).anchor k = v % 2 ^ 48 :=
  Tab.get_set_same _ _ _ _

theorem Blk.anchor_setAnchor_other (b : Blk) {k j : Nat} (v : Nat) (h : j ≠ k) : (b.setAnchor k v).anchor j = b.anchor j :=
  Tab.get_set_other _ _ _ _ h

/-- The command with a number, after a change of it that keeps its number. -/
theorem Blk.cmd_updCmd_same (b : Blk) (id : Nat) (f : Cmd → Cmd) (hf : ∀ c, (f c).id = c.id) :
    (b.updCmd id f).cmd id = (b.cmd id).map f := by
  unfold Blk.cmd Blk.updCmd
  simp only
  induction b.cmds with
  | nil => rfl
  | cons m l ih =>
    by_cases h : m.id = id
    · simp [h, hf]
    · simp [h]
      simpa using ih

/-- A change of one command leaves every other command alone. -/
theorem Blk.cmd_updCmd_other (b : Blk) {id j : Nat} (f : Cmd → Cmd) (hf : ∀ c, (f c).id = c.id) (h : j ≠ id) :
    (b.updCmd id f).cmd j = b.cmd j := by
  unfold Blk.cmd Blk.updCmd
  simp only
  induction b.cmds with
  | nil => rfl
  | cons m l ih =>
    by_cases hm : m.id = id
    · have : ¬ id = j := fun e => h e.symm
      simp [hm, hf, this]
      simpa using ih
    · by_cases hj : m.id = j
      · simp [hj, h]
      · simp only [List.map_cons, hm, if_false, List.find?_cons, beq_eq_false_iff_ne.mpr hj]
        exact ih

/-! ### The step's frame -/

/-- What a command that changes the block answers. -/
theorem upd_next (f : Blk → Blk) (s : State) :
    upd f s = .next { s with blk := { f s.blk with build := s.blk.build, time := s.blk.time } } := rfl

/-- A command whose guard fails changes nothing. -/
theorem upd_onlyIf_false (g : Bool) (f : Blk → Blk) (s : State) (h : g = false) : upd (fun b => onlyIf g f b) s = .next s := by
  simp [upd, onlyIf, h]

/-- The same for a guard that looks at the block. -/
theorem upd_id (f : Blk → Blk) (s : State) (h : f s.blk = s.blk) : upd f s = .next s := by
  simp [upd, h]

/-- Where a meaning leaves the build and the timebase alone, the answer is its block. -/
theorem upd_keeps (f : Blk → Blk) (s : State) (hb : (f s.blk).build = s.blk.build) (ht : (f s.blk).time = s.blk.time) :
    upd f s = .next { s with blk := f s.blk } := by
  rw [upd_next, ← hb, ← ht]

end Sys2Proof.Machine
end

