-- ==== Sys2Proof/Laws/Links.lean ====
section
/-! SUPPORT. What the shared operations of the ports do: a change of one port, a port that goes down with nothing unacknowledged, the
loss of lock, and a message of one flit or more that leaves. -/
namespace Sys2Proof.Machine

/-- The machine with its own block is the machine. -/
@[simp] theorem State.withBlk_self (s : State) : s.withBlk s.blk = s := rfl

/-- A change of one port. -/
theorem OnlyPort.updPort (b : Blk) (p : Nat) (f : Port → Port) : OnlyPort p (f (b.port p)) b (b.updPort p f) :=
  ⟨by simp, fun q hq => Blk.port_updPort_other b f hq, rfl⟩

/-- Two changes of one port, one after the other. -/
theorem OnlyPort.trans {p : Nat} {x y : Port} {a b c : Blk} (h : OnlyPort p x a b) (k : OnlyPort p y b c) : OnlyPort p y a c := by
  refine ⟨k.port, fun q hq => (k.others q hq).trans (h.others q hq), ?_⟩
  have e := congrArg (fun z : Blk => { z with lx := { z.lx with ports := a.lx.ports } }) k.block
  exact e.trans h.block

/-- A port that holds nothing for a response or a multicast falls, and nothing else happens. -/
theorem Blk.portDown_quiet (b : Blk) (p : Nat) (h : (b.port p).quiet) : b.portDown p = b.updPort p Port.fall := by
  have h1 : (b.port p).replayBuf.filterMap (fun f => f.req) = [] := by
    rw [List.filterMap_eq_nil_iff]; exact fun f hf => (h.1 f hf).1
  have h2 : (b.port p).tx.filterMap (fun m => m.req) = [] := by
    rw [List.filterMap_eq_nil_iff]; exact fun m hm => (h.2 m hm).1
  have h3 : (b.port p).replayBuf.filterMap (fun f => f.last) = [] := by
    rw [List.filterMap_eq_nil_iff]; exact fun f hf => (h.1 f hf).2
  have h4 : (b.port p).tx.filterMap (fun m => m.mc) = [] := by
    rw [List.filterMap_eq_nil_iff]; exact fun m hm => (h.2 m hm).2
  unfold Blk.portDown
  simp only [h1, h2, h3, h4]
  rfl

/-- An ACTIVE port that loses lock or light, or is told to, retrains; the event is counted. -/
theorem Blk.portRetrain_only (b : Blk) (p : Nat) :
    OnlyPort p ((b.port p).retraining b.time.toNat) (b.inc (pcnt p 6) 1) (b.portRetrain p) := by
  have h := OnlyPort.updPort (b.inc (pcnt p 6) 1) p (fun x => x.retraining b.time.toNat)
  rw [Blk.port_inc] at h
  exact h

end Sys2Proof.Machine
end

