-- ==== Sys2Proof/Laws/Mem.lean ====
section
/-! SUPPORT. The block's memories: what a byte reads as after a write, and the canonical form that every write keeps. -/
namespace Sys2Proof.Machine

/-- Every byte after a store of bytes. -/
theorem devStore_get (l : List Byte) (pa a : Nat) (m : Tab Byte) :
    Tab.get 0 (devStore pa l m) a = if pa ≤ a ∧ a < pa + l.length then l.getD (a - pa) 0 else Tab.get 0 m a := by
  induction l generalizing pa m with
  | nil => exact (if_neg (fun h => by have := h.2; simp only [List.length_nil] at this; omega)).symm
  | cons v l ih =>
    rw [devStore, ih]
    by_cases h1 : pa + 1 ≤ a ∧ a < pa + 1 + l.length
    · rw [if_pos h1, if_pos (by simp; omega)]
      obtain ⟨k, hk⟩ : ∃ k, a - pa = k + 1 := ⟨a - pa - 1, by omega⟩
      rw [hk, show a - (pa + 1) = k from by omega]; rfl
    · rw [if_neg h1, Tab.get_set]
      by_cases h2 : a = pa
      · subst h2; simp
      · rw [if_neg h2, if_neg (by simp; omega)]

/-- A store of bytes keeps the canonical form. -/
theorem devStore_wf (l : List Byte) (pa : Nat) (m : Tab Byte) (h : Tab.wf (fun _ => 0) m = true) :
    Tab.wf (fun _ => 0) (devStore pa l m) = true := by
  induction l generalizing pa m with
  | nil => exact h
  | cons v l ih => exact ih _ _ (Tab.wf_set (fun _ => 0) m pa v h)

theorem writeSector_wf (b : Blk) (cr s o : Nat) (p : List Byte) (h : Tab.wf (fun _ => 0) b.dev = true) :
    Tab.wf (fun _ => 0) (b.writeSector cr s o p).dev = true := by
  unfold Blk.writeSector
  split
  · split
    · exact h
    · dsimp only; generalize xtsSector _ _ _ _ = x; exact devStore_wf x _ _ h
  · dsimp only; exact devStore_wf p _ _ h

/-- A write of device memory keeps its canonical form. -/
theorem devWrite_wf (b : Blk) (cr pa : Nat) (l : List Byte) (h : Tab.wf (fun _ => 0) b.dev = true) :
    Tab.wf (fun _ => 0) (b.devWrite cr pa l).dev = true := by
  unfold Blk.devWrite
  generalize sectorsOf pa l.length = ss
  induction ss generalizing b with
  | nil => exact h
  | cons s ss ih => exact ih _ (writeSector_wf b cr s _ _ h)

/-- A write of host memory keeps the canonical form of the image. -/
theorem hostWrite_wf (b : Blk) (pa : Nat) (l : List Byte) (h : Tab.wf (fun _ => 0) b.host = true) :
    Tab.wf (fun _ => 0) (b.hostWrite pa l).host = true := devStore_wf l pa b.host h

/-- A sector write of a region that is not encrypted stores its bytes. -/
theorem writeSector_dev (b : Blk) (cr s o : Nat) (p : List Byte) (h : b.enc cr (64 * s) = false) :
    (b.writeSector cr s o p).dev = devStore (64 * s + o) p b.dev := by
  unfold Blk.writeSector; simp [h]

/-- The sectors of a range that lies in one. -/
theorem sectorsOf_one (pa n : Nat) (h0 : 0 < n) (h : pa % 64 + n ≤ 64) : sectorsOf pa n = [pa / 64] := by
  unfold sectorsOf
  rw [if_neg (by omega), show (pa + n - 1) / 64 + 1 - pa / 64 = 1 from by omega]
  rfl

/-- A write inside one sector of a region that is not encrypted. -/
theorem devWrite_one (b : Blk) (cr pa : Nat) (l : List Byte) (h0 : 0 < l.length) (h : pa % 64 + l.length ≤ 64)
    (he : b.enc cr (64 * (pa / 64)) = false) : (b.devWrite cr pa l).dev = devStore pa l b.dev := by
  unfold Blk.devWrite
  rw [sectorsOf_one pa l.length h0 h]
  simp only [List.foldl_cons, List.foldl_nil]
  rw [writeSector_dev _ _ _ _ _ he]
  unfold sectorPart
  simp only [show max pa (64 * (pa / 64)) = pa from by omega, show min (pa + l.length) (64 * (pa / 64) + 64) = pa + l.length from by omega]
  rw [show 64 * (pa / 64) + (pa - 64 * (pa / 64)) = pa from by omega]
  simp

end Sys2Proof.Machine
end

