-- ==== Sys2Proof/WellFormed.lean ====
section
/-! DEFINITION. Which commands can reach the block: what the signal groups and formats of the spec rule out about an operand
that its type does not. The meanings do not depend on it. -/
namespace Sys2Proof

/-- A value written to half a register has 32 bits (R11). -/
def halfOk (h : Half) (v : W64) : Bool := h = .full || decide (v.toNat < 2 ^ 32)

/-- The five free counts of a port's advertisement (R391). -/
def freeOk (l : List (BitVec 16)) : Bool := l.length == 5

/-- Blocks of a view are listed once. -/
def viewOk (v : View) : Bool := decide ((v.blocks.map (·.1)).Nodup)

/-- The command can reach the block. -/
def Instr.wellFormed (i : Instr) : Bool :=
  match i with
  | .inletWrite off bytes => !bytes.isEmpty && decide (off + bytes.length ≤ 2 ^ 46)
  | .adapterWrite _ _ bytes => !bytes.isEmpty && decide (bytes.length ≤ 4096)
  | .doorbell _ h v => halfOk h v
  | .ringEnable _ h v => halfOk h v
  | .ringDisable _ h v => halfOk h v
  | .cheadWrite _ h v => halfOk h v
  | .faultRingEnable h v => halfOk h v
  | .eventRingEnable h v => halfOk h v
  | .msiWrite _ _ h x => halfOk h x
  | .inval h v => halfOk h v
  | .rcEnWrite h v => halfOk h v
  | .clrcnt h v => halfOk h v
  | .waydisWrite _ h v => halfOk h v
  | .courierInWrite _ h v => halfOk h v
  | .iinv _ h v => halfOk h v
  | .dinv _ h v => halfOk h v
  | .seqCacheEnable _ h v => halfOk h v
  | .linkEnable _ h v => halfOk h v
  | .retrain _ h v => halfOk h v
  | .ckLxTaddrWrite h v => halfOk h v
  | .ckLxTdata1Write h v => halfOk h v
  | .goWrite h v => halfOk h v
  | .dozeRequest h v => halfOk h v
  | .napRequest h v => halfOk h v
  | .runRequest h v => halfOk h v
  | .blockReset h v => halfOk h v
  | .haltreq _ h v => halfOk h v
  | .dbgStep _ h v => halfOk h v
  | .wake h v => halfOk h v
  | .advert _ _ _ _ _ free => freeOk free
  | .resync _ _ _ free _ => freeOk free
  | .walkComplete _ _ descs _ => decide (descs.length ≤ 3)
  | .lookupPool _ rd => viewOk rd
  | .commandStart _ rd => viewOk rd
  | .chainStart _ rd => viewOk rd
  | .entryApply _ rd => viewOk rd
  | _ => true

end Sys2Proof
end

