-- ==== Sys2Proof/Laws/PerInstr.lean ====
section
/-! SUPPORT. A statement about every command as syntax: a well-formed command that writes half a register carries a value of 32 bits
(R11). One lemma for each constructor. -/
namespace Sys2Proof

/-- The half of a register that a command writes, with the value it carries. -/
def Instr.halfWrite (i : Instr) : Option (Half × W64) :=
  match i with
  | .doorbell _ h v => some (h, v)
  | .ringEnable _ h v => some (h, v)
  | .ringDisable _ h v => some (h, v)
  | .cheadWrite _ h v => some (h, v)
  | .faultRingEnable h v => some (h, v)
  | .eventRingEnable h v => some (h, v)
  | .msiWrite _ _ h x => some (h, x)
  | .inval h v => some (h, v)
  | .rcEnWrite h v => some (h, v)
  | .clrcnt h v => some (h, v)
  | .waydisWrite _ h v => some (h, v)
  | .courierInWrite _ h v => some (h, v)
  | .iinv _ h v => some (h, v)
  | .dinv _ h v => some (h, v)
  | .seqCacheEnable _ h v => some (h, v)
  | .linkEnable _ h v => some (h, v)
  | .retrain _ h v => some (h, v)
  | .ckLxTaddrWrite h v => some (h, v)
  | .ckLxTdata1Write h v => some (h, v)
  | .goWrite h v => some (h, v)
  | .dozeRequest h v => some (h, v)
  | .napRequest h v => some (h, v)
  | .runRequest h v => some (h, v)
  | .blockReset h v => some (h, v)
  | .haltreq _ h v => some (h, v)
  | .dbgStep _ h v => some (h, v)
  | .wake h v => some (h, v)
  | _ => none

/-- A well-formed command that writes half a register carries a value of 32 bits. -/
def Laws.HalfWrites.Statement (i : Instr) : Prop :=
  i.wellFormed = true → ∀ h v, i.halfWrite = some (h, v) → h ≠ .full → v.toNat < 2 ^ 32

/-- A command that writes no half of a register. -/
theorem Laws.HalfWrites.of_none {i : Instr} (e : i.halfWrite = none) : Laws.HalfWrites.Statement i := by
  intro _ h v e'; rw [e] at e'; cases e'

/-- A command whose well-formedness is that of the half it writes. -/
theorem Laws.HalfWrites.of_half {i : Instr} {h : Half} {v : W64} (e : i.halfWrite = some (h, v)) (w : i.wellFormed = halfOk h v) :
    Laws.HalfWrites.Statement i := by
  intro k h' v' e' n
  rw [e] at e'; cases e'
  rw [w] at k
  simpa [halfOk, n] using k

theorem Laws.HalfWrites.nopCommand (id : Nat) : Laws.HalfWrites.Statement (.nopCommand id) := Laws.HalfWrites.of_none rfl
theorem Laws.HalfWrites.run (id : Nat) : Laws.HalfWrites.Statement (.run id) := Laws.HalfWrites.of_none rfl
theorem Laws.HalfWrites.lookupPool (id : Nat) (rd : View) : Laws.HalfWrites.Statement (.lookupPool id rd) := Laws.HalfWrites.of_none rfl
theorem Laws.HalfWrites.interact (id : Nat) (rd : View) : Laws.HalfWrites.Statement (.interact id rd) := Laws.HalfWrites.of_none rfl
theorem Laws.HalfWrites.backInteract (id : Nat) (rd : View) : Laws.HalfWrites.Statement (.backInteract id rd) := Laws.HalfWrites.of_none rfl
theorem Laws.HalfWrites.scatter (id : Nat) (rd : View) : Laws.HalfWrites.Statement (.scatter id rd) := Laws.HalfWrites.of_none rfl
theorem Laws.HalfWrites.fenceCommand (id : Nat) (rd : View) : Laws.HalfWrites.Statement (.fenceCommand id rd) := Laws.HalfWrites.of_none rfl
theorem Laws.HalfWrites.copy (id : Nat) (rd : View) : Laws.HalfWrites.Statement (.copy id rd) := Laws.HalfWrites.of_none rfl
theorem Laws.HalfWrites.advise (id : Nat) (rd : View) : Laws.HalfWrites.Statement (.advise id rd) := Laws.HalfWrites.of_none rfl
theorem Laws.HalfWrites.xltInval (id : Nat) : Laws.HalfWrites.Statement (.xltInval id) := Laws.HalfWrites.of_none rfl
theorem Laws.HalfWrites.xltInvalComplete (id : Nat) : Laws.HalfWrites.Statement (.xltInvalComplete id) := Laws.HalfWrites.of_none rfl
theorem Laws.HalfWrites.resume (id : Nat) : Laws.HalfWrites.Statement (.resume id) := Laws.HalfWrites.of_none rfl
theorem Laws.HalfWrites.dcInval (id : Nat) : Laws.HalfWrites.Statement (.dcInval id) := Laws.HalfWrites.of_none rfl
theorem Laws.HalfWrites.abort (id : Nat) : Laws.HalfWrites.Statement (.abort id) := Laws.HalfWrites.of_none rfl
theorem Laws.HalfWrites.anchor (id : Nat) : Laws.HalfWrites.Statement (.anchor id) := Laws.HalfWrites.of_none rfl
theorem Laws.HalfWrites.anchorWait (id : Nat) : Laws.HalfWrites.Statement (.anchorWait id) := Laws.HalfWrites.of_none rfl
theorem Laws.HalfWrites.doorbell (n : Fin 64) (h : Half) (v : W64) : Laws.HalfWrites.Statement (.doorbell n h v) := Laws.HalfWrites.of_half rfl rfl
theorem Laws.HalfWrites.ringEntryRead (n : Fin 64) (r : Resp) : Laws.HalfWrites.Statement (.ringEntryRead n r) := Laws.HalfWrites.of_none rfl
theorem Laws.HalfWrites.doorbellRetry (n : Fin 64) : Laws.HalfWrites.Statement (.doorbellRetry n) := Laws.HalfWrites.of_none rfl
theorem Laws.HalfWrites.commandStart (id : Nat) (rd : View) : Laws.HalfWrites.Statement (.commandStart id rd) := Laws.HalfWrites.of_none rfl
theorem Laws.HalfWrites.commandComplete (id : Nat) : Laws.HalfWrites.Statement (.commandComplete id) := Laws.HalfWrites.of_none rfl
theorem Laws.HalfWrites.completionRecordAck (n : Fin 64) : Laws.HalfWrites.Statement (.completionRecordAck n) := Laws.HalfWrites.of_none rfl
theorem Laws.HalfWrites.completionWordAck (n : Fin 64) : Laws.HalfWrites.Statement (.completionWordAck n) := Laws.HalfWrites.of_none rfl
theorem Laws.HalfWrites.completionWriteRefused (n : Fin 64) (poison : Bool) : Laws.HalfWrites.Statement (.completionWriteRefused n poison) := Laws.HalfWrites.of_none rfl
theorem Laws.HalfWrites.ringEnable (n : Fin 64) (h : Half) (v : W64) : Laws.HalfWrites.Statement (.ringEnable n h v) := Laws.HalfWrites.of_half rfl rfl
theorem Laws.HalfWrites.ringDisable (n : Fin 64) (h : Half) (v : W64) : Laws.HalfWrites.Statement (.ringDisable n h v) := Laws.HalfWrites.of_half rfl rfl
theorem Laws.HalfWrites.cheadWrite (n : Fin 64) (h : Half) (v : W64) : Laws.HalfWrites.Statement (.cheadWrite n h v) := Laws.HalfWrites.of_half rfl rfl
theorem Laws.HalfWrites.faultRingEnable (h : Half) (v : W64) : Laws.HalfWrites.Statement (.faultRingEnable h v) := Laws.HalfWrites.of_half rfl rfl
theorem Laws.HalfWrites.eventRingEnable (h : Half) (v : W64) : Laws.HalfWrites.Statement (.eventRingEnable h v) := Laws.HalfWrites.of_half rfl rfl
theorem Laws.HalfWrites.msiWrite (v : Fin 66) (word1 : Bool) (h : Half) (x : W64) : Laws.HalfWrites.Statement (.msiWrite v word1 h x) := Laws.HalfWrites.of_half rfl rfl
theorem Laws.HalfWrites.inletWrite (off : Nat) (bytes : List Byte) : Laws.HalfWrites.Statement (.inletWrite off bytes) := Laws.HalfWrites.of_none rfl
theorem Laws.HalfWrites.inletWriteAck (refused : Bool) : Laws.HalfWrites.Statement (.inletWriteAck refused) := Laws.HalfWrites.of_none rfl
theorem Laws.HalfWrites.adapterWrite (adapter : BitVec 16) (pa : BitVec 46) (bytes : List Byte) : Laws.HalfWrites.Statement (.adapterWrite adapter pa bytes) := Laws.HalfWrites.of_none rfl
theorem Laws.HalfWrites.registerWrite (off : Nat) (size : Nat) (v : W64) : Laws.HalfWrites.Statement (.registerWrite off size v) := Laws.HalfWrites.of_none rfl
theorem Laws.HalfWrites.nop (s : Slot) : Laws.HalfWrites.Statement (.nop s) := Laws.HalfWrites.of_none rfl
theorem Laws.HalfWrites.add (s : Slot) (rd ra rb : Greg) : Laws.HalfWrites.Statement (.add s rd ra rb) := Laws.HalfWrites.of_none rfl
theorem Laws.HalfWrites.sub (s : Slot) (rd ra rb : Greg) : Laws.HalfWrites.Statement (.sub s rd ra rb) := Laws.HalfWrites.of_none rfl
theorem Laws.HalfWrites.andOp (s : Slot) (rd ra rb : Greg) : Laws.HalfWrites.Statement (.andOp s rd ra rb) := Laws.HalfWrites.of_none rfl
theorem Laws.HalfWrites.orOp (s : Slot) (rd ra rb : Greg) : Laws.HalfWrites.Statement (.orOp s rd ra rb) := Laws.HalfWrites.of_none rfl
theorem Laws.HalfWrites.xorOp (s : Slot) (rd ra rb : Greg) : Laws.HalfWrites.Statement (.xorOp s rd ra rb) := Laws.HalfWrites.of_none rfl
theorem Laws.HalfWrites.andn (s : Slot) (rd ra rb : Greg) : Laws.HalfWrites.Statement (.andn s rd ra rb) := Laws.HalfWrites.of_none rfl
theorem Laws.HalfWrites.sll (s : Slot) (rd ra rb : Greg) : Laws.HalfWrites.Statement (.sll s rd ra rb) := Laws.HalfWrites.of_none rfl
theorem Laws.HalfWrites.srl (s : Slot) (rd ra rb : Greg) : Laws.HalfWrites.Statement (.srl s rd ra rb) := Laws.HalfWrites.of_none rfl
theorem Laws.HalfWrites.sra (s : Slot) (rd ra rb : Greg) : Laws.HalfWrites.Statement (.sra s rd ra rb) := Laws.HalfWrites.of_none rfl
theorem Laws.HalfWrites.rol (s : Slot) (rd ra rb : Greg) : Laws.HalfWrites.Statement (.rol s rd ra rb) := Laws.HalfWrites.of_none rfl
theorem Laws.HalfWrites.seqOp (s : Slot) (rd ra rb : Greg) : Laws.HalfWrites.Statement (.seqOp s rd ra rb) := Laws.HalfWrites.of_none rfl
theorem Laws.HalfWrites.slt (s : Slot) (rd ra rb : Greg) : Laws.HalfWrites.Statement (.slt s rd ra rb) := Laws.HalfWrites.of_none rfl
theorem Laws.HalfWrites.sltu (s : Slot) (rd ra rb : Greg) : Laws.HalfWrites.Statement (.sltu s rd ra rb) := Laws.HalfWrites.of_none rfl
theorem Laws.HalfWrites.mul (s : Slot) (ra rb : Greg) : Laws.HalfWrites.Statement (.mul s ra rb) := Laws.HalfWrites.of_none rfl
theorem Laws.HalfWrites.mulh (s : Slot) (ra rb : Greg) : Laws.HalfWrites.Statement (.mulh s ra rb) := Laws.HalfWrites.of_none rfl
theorem Laws.HalfWrites.productLand (x : Ctx) : Laws.HalfWrites.Statement (.productLand x) := Laws.HalfWrites.of_none rfl
theorem Laws.HalfWrites.addi (s : Slot) (rd ra : Greg) (imm : BitVec 43) : Laws.HalfWrites.Statement (.addi s rd ra imm) := Laws.HalfWrites.of_none rfl
theorem Laws.HalfWrites.andi (s : Slot) (rd ra : Greg) (imm : BitVec 43) : Laws.HalfWrites.Statement (.andi s rd ra imm) := Laws.HalfWrites.of_none rfl
theorem Laws.HalfWrites.ori (s : Slot) (rd ra : Greg) (imm : BitVec 43) : Laws.HalfWrites.Statement (.ori s rd ra imm) := Laws.HalfWrites.of_none rfl
theorem Laws.HalfWrites.xori (s : Slot) (rd ra : Greg) (imm : BitVec 43) : Laws.HalfWrites.Statement (.xori s rd ra imm) := Laws.HalfWrites.of_none rfl
theorem Laws.HalfWrites.slli (s : Slot) (rd ra : Greg) (sh : BitVec 6) : Laws.HalfWrites.Statement (.slli s rd ra sh) := Laws.HalfWrites.of_none rfl
theorem Laws.HalfWrites.srli (s : Slot) (rd ra : Greg) (sh : BitVec 6) : Laws.HalfWrites.Statement (.srli s rd ra sh) := Laws.HalfWrites.of_none rfl
theorem Laws.HalfWrites.srai (s : Slot) (rd ra : Greg) (sh : BitVec 6) : Laws.HalfWrites.Statement (.srai s rd ra sh) := Laws.HalfWrites.of_none rfl
theorem Laws.HalfWrites.roli (s : Slot) (rd ra : Greg) (sh : BitVec 6) : Laws.HalfWrites.Statement (.roli s rd ra sh) := Laws.HalfWrites.of_none rfl
theorem Laws.HalfWrites.seqi (s : Slot) (rd ra : Greg) (imm : BitVec 43) : Laws.HalfWrites.Statement (.seqi s rd ra imm) := Laws.HalfWrites.of_none rfl
theorem Laws.HalfWrites.slti (s : Slot) (rd ra : Greg) (imm : BitVec 43) : Laws.HalfWrites.Statement (.slti s rd ra imm) := Laws.HalfWrites.of_none rfl
theorem Laws.HalfWrites.sltiu (s : Slot) (rd ra : Greg) (imm : BitVec 43) : Laws.HalfWrites.Statement (.sltiu s rd ra imm) := Laws.HalfWrites.of_none rfl
theorem Laws.HalfWrites.movi (s : Slot) (rd : Greg) (imm : BitVec 49) : Laws.HalfWrites.Statement (.movi s rd imm) := Laws.HalfWrites.of_none rfl
theorem Laws.HalfWrites.movi64 (x : Ctx) (rd : Greg) (imm : W64) : Laws.HalfWrites.Statement (.movi64 x rd imm) := Laws.HalfWrites.of_none rfl
theorem Laws.HalfWrites.mfs (s : Slot) (rd : Greg) (sr : BitVec 6) : Laws.HalfWrites.Statement (.mfs s rd sr) := Laws.HalfWrites.of_none rfl
theorem Laws.HalfWrites.mts (s : Slot) (sr : BitVec 6) (ra : Greg) : Laws.HalfWrites.Statement (.mts s sr ra) := Laws.HalfWrites.of_none rfl
theorem Laws.HalfWrites.ldb (s : Slot) (rd ra : Greg) (imm : BitVec 43) (par : SeqParity) : Laws.HalfWrites.Statement (.ldb s rd ra imm par) := Laws.HalfWrites.of_none rfl
theorem Laws.HalfWrites.ldbu (s : Slot) (rd ra : Greg) (imm : BitVec 43) (par : SeqParity) : Laws.HalfWrites.Statement (.ldbu s rd ra imm par) := Laws.HalfWrites.of_none rfl
theorem Laws.HalfWrites.ldh (s : Slot) (rd ra : Greg) (imm : BitVec 43) (par : SeqParity) : Laws.HalfWrites.Statement (.ldh s rd ra imm par) := Laws.HalfWrites.of_none rfl
theorem Laws.HalfWrites.ldhu (s : Slot) (rd ra : Greg) (imm : BitVec 43) (par : SeqParity) : Laws.HalfWrites.Statement (.ldhu s rd ra imm par) := Laws.HalfWrites.of_none rfl
theorem Laws.HalfWrites.ldw (s : Slot) (rd ra : Greg) (imm : BitVec 43) (par : SeqParity) : Laws.HalfWrites.Statement (.ldw s rd ra imm par) := Laws.HalfWrites.of_none rfl
theorem Laws.HalfWrites.ldwu (s : Slot) (rd ra : Greg) (imm : BitVec 43) (par : SeqParity) : Laws.HalfWrites.Statement (.ldwu s rd ra imm par) := Laws.HalfWrites.of_none rfl
theorem Laws.HalfWrites.ldd (s : Slot) (rd ra : Greg) (imm : BitVec 43) (par : SeqParity) : Laws.HalfWrites.Statement (.ldd s rd ra imm par) := Laws.HalfWrites.of_none rfl
theorem Laws.HalfWrites.loadMissReturn (x : Ctx) (r : Resp) (par : SeqParity) : Laws.HalfWrites.Statement (.loadMissReturn x r par) := Laws.HalfWrites.of_none rfl
theorem Laws.HalfWrites.stb (s : Slot) (rd ra : Greg) (imm : BitVec 43) (par : SeqParity) : Laws.HalfWrites.Statement (.stb s rd ra imm par) := Laws.HalfWrites.of_none rfl
theorem Laws.HalfWrites.sth (s : Slot) (rd ra : Greg) (imm : BitVec 43) (par : SeqParity) : Laws.HalfWrites.Statement (.sth s rd ra imm par) := Laws.HalfWrites.of_none rfl
theorem Laws.HalfWrites.stw (s : Slot) (rd ra : Greg) (imm : BitVec 43) (par : SeqParity) : Laws.HalfWrites.Statement (.stw s rd ra imm par) := Laws.HalfWrites.of_none rfl
theorem Laws.HalfWrites.std (s : Slot) (rd ra : Greg) (imm : BitVec 43) (par : SeqParity) : Laws.HalfWrites.Statement (.std s rd ra imm par) := Laws.HalfWrites.of_none rfl
theorem Laws.HalfWrites.beq (s : Slot) (ra rb : Greg) (off : BitVec 43) : Laws.HalfWrites.Statement (.beq s ra rb off) := Laws.HalfWrites.of_none rfl
theorem Laws.HalfWrites.bne (s : Slot) (ra rb : Greg) (off : BitVec 43) : Laws.HalfWrites.Statement (.bne s ra rb off) := Laws.HalfWrites.of_none rfl
theorem Laws.HalfWrites.blt (s : Slot) (ra rb : Greg) (off : BitVec 43) : Laws.HalfWrites.Statement (.blt s ra rb off) := Laws.HalfWrites.of_none rfl
theorem Laws.HalfWrites.bge (s : Slot) (ra rb : Greg) (off : BitVec 43) : Laws.HalfWrites.Statement (.bge s ra rb off) := Laws.HalfWrites.of_none rfl
theorem Laws.HalfWrites.bltu (s : Slot) (ra rb : Greg) (off : BitVec 43) : Laws.HalfWrites.Statement (.bltu s ra rb off) := Laws.HalfWrites.of_none rfl
theorem Laws.HalfWrites.bgeu (s : Slot) (ra rb : Greg) (off : BitVec 43) : Laws.HalfWrites.Statement (.bgeu s ra rb off) := Laws.HalfWrites.of_none rfl
theorem Laws.HalfWrites.bf1 (s : Slot) (fa : Flag) (off : BitVec 39) : Laws.HalfWrites.Statement (.bf1 s fa off) := Laws.HalfWrites.of_none rfl
theorem Laws.HalfWrites.bf0 (s : Slot) (fa : Flag) (off : BitVec 39) : Laws.HalfWrites.Statement (.bf0 s fa off) := Laws.HalfWrites.of_none rfl
theorem Laws.HalfWrites.jal (s : Slot) (rd : Greg) (off : BitVec 49) : Laws.HalfWrites.Statement (.jal s rd off) := Laws.HalfWrites.of_none rfl
theorem Laws.HalfWrites.jalr (s : Slot) (rd ra : Greg) (imm : BitVec 43) : Laws.HalfWrites.Statement (.jalr s rd ra imm) := Laws.HalfWrites.of_none rfl
theorem Laws.HalfWrites.eret (s : Slot) : Laws.HalfWrites.Statement (.eret s) := Laws.HalfWrites.of_none rfl
theorem Laws.HalfWrites.fset (s : Slot) (fd : Flag) : Laws.HalfWrites.Statement (.fset s fd) := Laws.HalfWrites.of_none rfl
theorem Laws.HalfWrites.fclr (s : Slot) (fd : Flag) : Laws.HalfWrites.Statement (.fclr s fd) := Laws.HalfWrites.of_none rfl
theorem Laws.HalfWrites.ftgl (s : Slot) (fd : Flag) : Laws.HalfWrites.Statement (.ftgl s fd) := Laws.HalfWrites.of_none rfl
theorem Laws.HalfWrites.fand (s : Slot) (fd fa fb : Flag) : Laws.HalfWrites.Statement (.fand s fd fa fb) := Laws.HalfWrites.of_none rfl
theorem Laws.HalfWrites.forOp (s : Slot) (fd fa fb : Flag) : Laws.HalfWrites.Statement (.forOp s fd fa fb) := Laws.HalfWrites.of_none rfl
theorem Laws.HalfWrites.fxor (s : Slot) (fd fa fb : Flag) : Laws.HalfWrites.Statement (.fxor s fd fa fb) := Laws.HalfWrites.of_none rfl
theorem Laws.HalfWrites.fandn (s : Slot) (fd fa fb : Flag) : Laws.HalfWrites.Statement (.fandn s fd fa fb) := Laws.HalfWrites.of_none rfl
theorem Laws.HalfWrites.frd (s : Slot) (rg : Greg) (fb : Flag) : Laws.HalfWrites.Statement (.frd s rg fb) := Laws.HalfWrites.of_none rfl
theorem Laws.HalfWrites.fwr (s : Slot) (rg : Greg) (fb : Flag) : Laws.HalfWrites.Statement (.fwr s rg fb) := Laws.HalfWrites.of_none rfl
theorem Laws.HalfWrites.ftas (s : Slot) (rg : Greg) (fb : Flag) : Laws.HalfWrites.Statement (.ftas s rg fb) := Laws.HalfWrites.of_none rfl
theorem Laws.HalfWrites.dcinv (s : Slot) (ra rb : Greg) : Laws.HalfWrites.Statement (.dcinv s ra rb) := Laws.HalfWrites.of_none rfl
theorem Laws.HalfWrites.dcclean (s : Slot) (ra rb : Greg) : Laws.HalfWrites.Statement (.dcclean s ra rb) := Laws.HalfWrites.of_none rfl
theorem Laws.HalfWrites.icinv (s : Slot) (ra rb : Greg) : Laws.HalfWrites.Statement (.icinv s ra rb) := Laws.HalfWrites.of_none rfl
theorem Laws.HalfWrites.send (s : Slot) (ra : Greg) (w : Bool) : Laws.HalfWrites.Statement (.send s ra w) := Laws.HalfWrites.of_none rfl
theorem Laws.HalfWrites.recv (s : Slot) (rd : Greg) (w : Bool) : Laws.HalfWrites.Statement (.recv s rd w) := Laws.HalfWrites.of_none rfl
theorem Laws.HalfWrites.await (s : Slot) (ra rb : Greg) (anc : BitVec 15) : Laws.HalfWrites.Statement (.await s ra rb anc) := Laws.HalfWrites.of_none rfl
theorem Laws.HalfWrites.waitd (s : Slot) (mask : BitVec 16) : Laws.HalfWrites.Statement (.waitd s mask) := Laws.HalfWrites.of_none rfl
theorem Laws.HalfWrites.halt (s : Slot) : Laws.HalfWrites.Statement (.halt s) := Laws.HalfWrites.of_none rfl
theorem Laws.HalfWrites.reservedOp (x : Ctx) (w : W128) : Laws.HalfWrites.Statement (.reservedOp x w) := Laws.HalfWrites.of_none rfl
theorem Laws.HalfWrites.gather (x : Ctx) (rd ra : Greg) (imm : W64) (v : View) : Laws.HalfWrites.Statement (.gather x rd ra imm v) := Laws.HalfWrites.of_none rfl
theorem Laws.HalfWrites.rearm (x : Ctx) (ra rb : Greg) (q : Fin 16) (release : Bool) : Laws.HalfWrites.Statement (.rearm x ra rb q release) := Laws.HalfWrites.of_none rfl
theorem Laws.HalfWrites.pool (x : Ctx) (rd ra : Greg) (imm : W64) (v : View) : Laws.HalfWrites.Statement (.pool x rd ra imm v) := Laws.HalfWrites.of_none rfl
theorem Laws.HalfWrites.expand (x : Ctx) (ra : Greg) (imm : W64) (v : View) : Laws.HalfWrites.Statement (.expand x ra imm v) := Laws.HalfWrites.of_none rfl
theorem Laws.HalfWrites.matx (x : Ctx) (rd ra : Greg) (imm : W64) (v : View) : Laws.HalfWrites.Statement (.matx x rd ra imm v) := Laws.HalfWrites.of_none rfl
theorem Laws.HalfWrites.chain (x : Ctx) (rd ra : Greg) (imm : W64) (v : View) : Laws.HalfWrites.Statement (.chain x rd ra imm v) := Laws.HalfWrites.of_none rfl
theorem Laws.HalfWrites.scat (x : Ctx) (rd ra : Greg) (imm : W64) (v : View) : Laws.HalfWrites.Statement (.scat x rd ra imm v) := Laws.HalfWrites.of_none rfl
theorem Laws.HalfWrites.fence (x : Ctx) (rd ra : Greg) (imm : W64) (v : View) : Laws.HalfWrites.Statement (.fence x rd ra imm v) := Laws.HalfWrites.of_none rfl
theorem Laws.HalfWrites.migr (x : Ctx) (rd ra : Greg) (imm : W64) (advice : Bool) (v : View) : Laws.HalfWrites.Statement (.migr x rd ra imm advice v) := Laws.HalfWrites.of_none rfl
theorem Laws.HalfWrites.asig (x : Ctx) (rd ra rb rc : Greg) (anc : BitVec 15) (op : BitVec 2) (rmt : Bool) (imm : W64) : Laws.HalfWrites.Statement (.asig x rd ra rb rc anc op rmt imm) := Laws.HalfWrites.of_none rfl
theorem Laws.HalfWrites.asigEffect (x : Ctx) (tag : Fin 16) (parity : Bool) : Laws.HalfWrites.Statement (.asigEffect x tag parity) := Laws.HalfWrites.of_none rfl
theorem Laws.HalfWrites.taskSwitchIn (c : Fin 8) : Laws.HalfWrites.Statement (.taskSwitchIn c) := Laws.HalfWrites.of_none rfl
theorem Laws.HalfWrites.gxSwitchOut (c : Fin 8) : Laws.HalfWrites.Statement (.gxSwitchOut c) := Laws.HalfWrites.of_none rfl
theorem Laws.HalfWrites.gxModeChange (c : Fin 8) : Laws.HalfWrites.Statement (.gxModeChange c) := Laws.HalfWrites.of_none rfl
theorem Laws.HalfWrites.indexSectorReturn (c : Fin 8) (q : Fin 20) (kind : SecKind) (k : Nat) (r : Resp) (rd : View) : Laws.HalfWrites.Statement (.indexSectorReturn c q kind k r rd) := Laws.HalfWrites.of_none rfl
theorem Laws.HalfWrites.boundarySectorReturn (c : Fin 8) (q : Fin 20) (k : Nat) (r : Resp) : Laws.HalfWrites.Statement (.boundarySectorReturn c q k r) := Laws.HalfWrites.of_none rfl
theorem Laws.HalfWrites.rowRequestIssue (c : Fin 8) : Laws.HalfWrites.Statement (.rowRequestIssue c) := Laws.HalfWrites.of_none rfl
theorem Laws.HalfWrites.rowCacheLookup (c : Fin 8) (slot : Nat) (line : Nat) (par : RcParity) : Laws.HalfWrites.Statement (.rowCacheLookup c slot line par) := Laws.HalfWrites.of_none rfl
theorem Laws.HalfWrites.fillReturn (fill : Nat) (poison : Bool) : Laws.HalfWrites.Statement (.fillReturn fill poison) := Laws.HalfWrites.of_none rfl
theorem Laws.HalfWrites.inval (h : Half) (v : W64) : Laws.HalfWrites.Statement (.inval h v) := Laws.HalfWrites.of_half rfl rfl
theorem Laws.HalfWrites.rcEnWrite (h : Half) (v : W64) : Laws.HalfWrites.Statement (.rcEnWrite h v) := Laws.HalfWrites.of_half rfl rfl
theorem Laws.HalfWrites.clrcnt (h : Half) (v : W64) : Laws.HalfWrites.Statement (.clrcnt h v) := Laws.HalfWrites.of_half rfl rfl
theorem Laws.HalfWrites.waydisWrite (s : Fin 16) (h : Half) (v : W64) : Laws.HalfWrites.Statement (.waydisWrite s h v) := Laws.HalfWrites.of_half rfl rfl
theorem Laws.HalfWrites.waydisInvalDone (s : Fin 16) : Laws.HalfWrites.Statement (.waydisInvalDone s) := Laws.HalfWrites.of_none rfl
theorem Laws.HalfWrites.rowReturn (c : Fin 8) (slot : Nat) (rd : View) (f : RowFault) : Laws.HalfWrites.Statement (.rowReturn c slot rd f) := Laws.HalfWrites.of_none rfl
theorem Laws.HalfWrites.bagOutputAck (c : Fin 8) (q : Fin 20) (bag : Nat) : Laws.HalfWrites.Statement (.bagOutputAck c q bag) := Laws.HalfWrites.of_none rfl
theorem Laws.HalfWrites.walkComplete (ctx : Fin 64) (gran : BitVec 27) (descs : List DescRead) (parity : Bool) : Laws.HalfWrites.Statement (.walkComplete ctx gran descs parity) := Laws.HalfWrites.of_none rfl
theorem Laws.HalfWrites.belayRecordWrite (slot : Fin 160) : Laws.HalfWrites.Statement (.belayRecordWrite slot) := Laws.HalfWrites.of_none rfl
theorem Laws.HalfWrites.copyBlockLanded (id : Nat) (blk : Nat) (rd : View) : Laws.HalfWrites.Statement (.copyBlockLanded id blk rd) := Laws.HalfWrites.of_none rfl
theorem Laws.HalfWrites.planeLoadDone (c : Fin 8) (plane : Fin 2) (rd : View) : Laws.HalfWrites.Statement (.planeLoadDone c plane rd) := Laws.HalfWrites.of_none rfl
theorem Laws.HalfWrites.tileLockGrant (c : Fin 8) (tb : Fin 6) : Laws.HalfWrites.Statement (.tileLockGrant c tb) := Laws.HalfWrites.of_none rfl
theorem Laws.HalfWrites.arrayInstructionIssue (c : Fin 8) (rd : View) : Laws.HalfWrites.Statement (.arrayInstructionIssue c rd) := Laws.HalfWrites.of_none rfl
theorem Laws.HalfWrites.wavefrontCommit (c : Fin 8) (m : Mismatch) : Laws.HalfWrites.Statement (.wavefrontCommit c m) := Laws.HalfWrites.of_none rfl
theorem Laws.HalfWrites.dummyWavefront (c : Fin 8) : Laws.HalfWrites.Statement (.dummyWavefront c) := Laws.HalfWrites.of_none rfl
theorem Laws.HalfWrites.rampDown (c : Fin 8) : Laws.HalfWrites.Statement (.rampDown c) := Laws.HalfWrites.of_none rfl
theorem Laws.HalfWrites.feederTailFlush (c : Fin 8) : Laws.HalfWrites.Statement (.feederTailFlush c) := Laws.HalfWrites.of_none rfl
theorem Laws.HalfWrites.stalemate (c : Fin 8) (tb : Fin 6) : Laws.HalfWrites.Statement (.stalemate c tb) := Laws.HalfWrites.of_none rfl
theorem Laws.HalfWrites.chainStart (c : Fin 8) (rd : View) : Laws.HalfWrites.Statement (.chainStart c rd) := Laws.HalfWrites.of_none rfl
theorem Laws.HalfWrites.chainPass1End (c : Fin 8) (rd : View) : Laws.HalfWrites.Statement (.chainPass1End c rd) := Laws.HalfWrites.of_none rfl
theorem Laws.HalfWrites.chainEnd (c : Fin 8) : Laws.HalfWrites.Statement (.chainEnd c) := Laws.HalfWrites.of_none rfl
theorem Laws.HalfWrites.deadlineReached (id : Nat) (rd : View) : Laws.HalfWrites.Statement (.deadlineReached id rd) := Laws.HalfWrites.of_none rfl
theorem Laws.HalfWrites.contributionMerge (c : Fin 8) (q : Fin 20) (parity : Bool) (rd : View) : Laws.HalfWrites.Statement (.contributionMerge c q parity rd) := Laws.HalfWrites.of_none rfl
theorem Laws.HalfWrites.fenceSeal (fid : Nat) : Laws.HalfWrites.Statement (.fenceSeal fid) := Laws.HalfWrites.of_none rfl
theorem Laws.HalfWrites.fenceApplyStart (fid : Nat) : Laws.HalfWrites.Statement (.fenceApplyStart fid) := Laws.HalfWrites.of_none rfl
theorem Laws.HalfWrites.entryApply (fid : Nat) (rd : View) : Laws.HalfWrites.Statement (.entryApply fid rd) := Laws.HalfWrites.of_none rfl
theorem Laws.HalfWrites.fenceApplyEnd (fid : Nat) (rd : View) : Laws.HalfWrites.Statement (.fenceApplyEnd fid rd) := Laws.HalfWrites.of_none rfl
theorem Laws.HalfWrites.fenceDone (fid : Nat) : Laws.HalfWrites.Statement (.fenceDone fid) := Laws.HalfWrites.of_none rfl
theorem Laws.HalfWrites.campCopyLanded (home : Nat) (poison : Bool) : Laws.HalfWrites.Statement (.campCopyLanded home poison) := Laws.HalfWrites.of_none rfl
theorem Laws.HalfWrites.campWritebackLanded (home : Nat) (poison : Bool) : Laws.HalfWrites.Statement (.campWritebackLanded home poison) := Laws.HalfWrites.of_none rfl
theorem Laws.HalfWrites.queueReset (cls : BitVec 8) (index : BitVec 16) (c : Fin 8) (kind : BitVec 2) : Laws.HalfWrites.Statement (.queueReset cls index c kind) := Laws.HalfWrites.of_none rfl
theorem Laws.HalfWrites.queueResetDone (cls : BitVec 8) (index : BitVec 16) (c : Fin 8) : Laws.HalfWrites.Statement (.queueResetDone cls index c) := Laws.HalfWrites.of_none rfl
theorem Laws.HalfWrites.courierPop (c : Fin 8) : Laws.HalfWrites.Statement (.courierPop c) := Laws.HalfWrites.of_none rfl
theorem Laws.HalfWrites.courierInWrite (c : Fin 8) (h : Half) (v : W64) : Laws.HalfWrites.Statement (.courierInWrite c h v) := Laws.HalfWrites.of_half rfl rfl
theorem Laws.HalfWrites.openMsg (c : Fin 8) : Laws.HalfWrites.Statement (.openMsg c) := Laws.HalfWrites.of_none rfl
theorem Laws.HalfWrites.closeMsg (c : Fin 8) : Laws.HalfWrites.Statement (.closeMsg c) := Laws.HalfWrites.of_none rfl
theorem Laws.HalfWrites.courierFlush (c : Fin 8) : Laws.HalfWrites.Statement (.courierFlush c) := Laws.HalfWrites.of_none rfl
theorem Laws.HalfWrites.islandGate (isl : Fin 20) : Laws.HalfWrites.Statement (.islandGate isl) := Laws.HalfWrites.of_none rfl
theorem Laws.HalfWrites.islandWake (isl : Fin 20) : Laws.HalfWrites.Statement (.islandWake isl) := Laws.HalfWrites.of_none rfl
theorem Laws.HalfWrites.iinv (c : Fin 8) (h : Half) (v : W64) : Laws.HalfWrites.Statement (.iinv c h v) := Laws.HalfWrites.of_half rfl rfl
theorem Laws.HalfWrites.dinv (c : Fin 8) (h : Half) (v : W64) : Laws.HalfWrites.Statement (.dinv c h v) := Laws.HalfWrites.of_half rfl rfl
theorem Laws.HalfWrites.seqCacheInvalDone (c : Fin 8) : Laws.HalfWrites.Statement (.seqCacheInvalDone c) := Laws.HalfWrites.of_none rfl
theorem Laws.HalfWrites.seqCacheEnable (c : Fin 8) (h : Half) (v : W64) : Laws.HalfWrites.Statement (.seqCacheEnable c h v) := Laws.HalfWrites.of_half rfl rfl
theorem Laws.HalfWrites.linkEnable (p : Fin 8) (h : Half) (v : W64) : Laws.HalfWrites.Statement (.linkEnable p h v) := Laws.HalfWrites.of_half rfl rfl
theorem Laws.HalfWrites.oeResetRelease (p : Fin 8) : Laws.HalfWrites.Statement (.oeResetRelease p) := Laws.HalfWrites.of_none rfl
theorem Laws.HalfWrites.laneLock (p : Fin 8) : Laws.HalfWrites.Statement (.laneLock p) := Laws.HalfWrites.of_none rfl
theorem Laws.HalfWrites.trainTimeout (p : Fin 8) : Laws.HalfWrites.Statement (.trainTimeout p) := Laws.HalfWrites.of_none rfl
theorem Laws.HalfWrites.advert (p : Fin 8) (vmask : BitVec 3) (enc : Bool) (node : BitVec 16) (port : BitVec 3) (free : List (BitVec 16)) : Laws.HalfWrites.Statement (.advert p vmask enc node port free) := Laws.HalfWrites.of_none rfl
theorem Laws.HalfWrites.confirm (p : Fin 8) (vsel : BitVec 3) : Laws.HalfWrites.Statement (.confirm p vsel) := Laws.HalfWrites.of_none rfl
theorem Laws.HalfWrites.negotiateTimeout (p : Fin 8) : Laws.HalfWrites.Statement (.negotiateTimeout p) := Laws.HalfWrites.of_none rfl
theorem Laws.HalfWrites.lossOfLight (p : Fin 8) : Laws.HalfWrites.Statement (.lossOfLight p) := Laws.HalfWrites.of_none rfl
theorem Laws.HalfWrites.retrain (p : Fin 8) (h : Half) (v : W64) : Laws.HalfWrites.Statement (.retrain p h v) := Laws.HalfWrites.of_half rfl rfl
theorem Laws.HalfWrites.resync (p : Fin 8) (node : BitVec 16) (port : BitVec 3) (free : List (BitVec 16)) (lastSeq : BitVec 16) : Laws.HalfWrites.Statement (.resync p node port free lastSeq) := Laws.HalfWrites.of_none rfl
theorem Laws.HalfWrites.retrainTimeout (p : Fin 8) : Laws.HalfWrites.Statement (.retrainTimeout p) := Laws.HalfWrites.of_none rfl
theorem Laws.HalfWrites.flitReceive (p : Fin 8) (f : Flit) : Laws.HalfWrites.Statement (.flitReceive p f) := Laws.HalfWrites.of_none rfl
theorem Laws.HalfWrites.ackTimer (p : Fin 8) : Laws.HalfWrites.Statement (.ackTimer p) := Laws.HalfWrites.of_none rfl
theorem Laws.HalfWrites.replayTimeout (p : Fin 8) : Laws.HalfWrites.Statement (.replayTimeout p) := Laws.HalfWrites.of_none rfl
theorem Laws.HalfWrites.rdMsg (p : Fin 8) (poison : Bool) : Laws.HalfWrites.Statement (.rdMsg p poison) := Laws.HalfWrites.of_none rfl
theorem Laws.HalfWrites.wrMsg (p : Fin 8) : Laws.HalfWrites.Statement (.wrMsg p) := Laws.HalfWrites.of_none rfl
theorem Laws.HalfWrites.rpool (p : Fin 8) (rd : View) : Laws.HalfWrites.Statement (.rpool p rd) := Laws.HalfWrites.of_none rfl
theorem Laws.HalfWrites.rgrad (p : Fin 8) (rd : View) : Laws.HalfWrites.Statement (.rgrad p rd) := Laws.HalfWrites.of_none rfl
theorem Laws.HalfWrites.remoteAsig (p : Fin 8) : Laws.HalfWrites.Statement (.remoteAsig p) := Laws.HalfWrites.of_none rfl
theorem Laws.HalfWrites.mcast (p : Fin 8) : Laws.HalfWrites.Statement (.mcast p) := Laws.HalfWrites.of_none rfl
theorem Laws.HalfWrites.rdResp (p : Fin 8) : Laws.HalfWrites.Statement (.rdResp p) := Laws.HalfWrites.of_none rfl
theorem Laws.HalfWrites.wrAck (p : Fin 8) : Laws.HalfWrites.Statement (.wrAck p) := Laws.HalfWrites.of_none rfl
theorem Laws.HalfWrites.rpoolResp (p : Fin 8) : Laws.HalfWrites.Statement (.rpoolResp p) := Laws.HalfWrites.of_none rfl
theorem Laws.HalfWrites.rgradAck (p : Fin 8) : Laws.HalfWrites.Statement (.rgradAck p) := Laws.HalfWrites.of_none rfl
theorem Laws.HalfWrites.asigAck (p : Fin 8) : Laws.HalfWrites.Statement (.asigAck p) := Laws.HalfWrites.of_none rfl
theorem Laws.HalfWrites.echo (p : Fin 8) : Laws.HalfWrites.Statement (.echo p) := Laws.HalfWrites.of_none rfl
theorem Laws.HalfWrites.echoReply (p : Fin 8) : Laws.HalfWrites.Statement (.echoReply p) := Laws.HalfWrites.of_none rfl
theorem Laws.HalfWrites.servedResponseSend (id : Nat) : Laws.HalfWrites.Statement (.servedResponseSend id) := Laws.HalfWrites.of_none rfl
theorem Laws.HalfWrites.requestTimeout (tag : Nat) : Laws.HalfWrites.Statement (.requestTimeout tag) := Laws.HalfWrites.of_none rfl
theorem Laws.HalfWrites.escapeTimeout (p : Fin 8) (resp : Bool) : Laws.HalfWrites.Statement (.escapeTimeout p resp) := Laws.HalfWrites.of_none rfl
theorem Laws.HalfWrites.transitForward (p : Fin 8) : Laws.HalfWrites.Statement (.transitForward p) := Laws.HalfWrites.of_none rfl
theorem Laws.HalfWrites.rpoolBatchTimer (c : Fin 8) (q : Fin 20) (node : BitVec 16) : Laws.HalfWrites.Statement (.rpoolBatchTimer c q node) := Laws.HalfWrites.of_none rfl
theorem Laws.HalfWrites.replicaReread (c : Fin 8) (slot : Nat) (rd : View) : Laws.HalfWrites.Statement (.replicaReread c slot rd) := Laws.HalfWrites.of_none rfl
theorem Laws.HalfWrites.replicaWaitmax (c : Fin 8) (slot : Nat) : Laws.HalfWrites.Statement (.replicaWaitmax c slot) := Laws.HalfWrites.of_none rfl
theorem Laws.HalfWrites.ewaitTimeout (c : Fin 8) : Laws.HalfWrites.Statement (.ewaitTimeout c) := Laws.HalfWrites.of_none rfl
theorem Laws.HalfWrites.ckLxTaddrWrite (h : Half) (v : W64) : Laws.HalfWrites.Statement (.ckLxTaddrWrite h v) := Laws.HalfWrites.of_half rfl rfl
theorem Laws.HalfWrites.ckLxTdata1Write (h : Half) (v : W64) : Laws.HalfWrites.Statement (.ckLxTdata1Write h v) := Laws.HalfWrites.of_half rfl rfl
theorem Laws.HalfWrites.goWrite (h : Half) (v : W64) : Laws.HalfWrites.Statement (.goWrite h v) := Laws.HalfWrites.of_half rfl rfl
theorem Laws.HalfWrites.mgmtTransactionDone (nack : Bool) (data : Byte) : Laws.HalfWrites.Statement (.mgmtTransactionDone nack data) := Laws.HalfWrites.of_none rfl
theorem Laws.HalfWrites.dozeRequest (h : Half) (v : W64) : Laws.HalfWrites.Statement (.dozeRequest h v) := Laws.HalfWrites.of_half rfl rfl
theorem Laws.HalfWrites.napRequest (h : Half) (v : W64) : Laws.HalfWrites.Statement (.napRequest h v) := Laws.HalfWrites.of_half rfl rfl
theorem Laws.HalfWrites.runRequest (h : Half) (v : W64) : Laws.HalfWrites.Statement (.runRequest h v) := Laws.HalfWrites.of_half rfl rfl
theorem Laws.HalfWrites.powerOnResetDone (build : Fin 64) (step : BitVec 4) : Laws.HalfWrites.Statement (.powerOnResetDone build step) := Laws.HalfWrites.of_none rfl
theorem Laws.HalfWrites.blockReset (h : Half) (v : W64) : Laws.HalfWrites.Statement (.blockReset h v) := Laws.HalfWrites.of_half rfl rfl
theorem Laws.HalfWrites.coreReset (c : Fin 8) : Laws.HalfWrites.Statement (.coreReset c) := Laws.HalfWrites.of_none rfl
theorem Laws.HalfWrites.coreResetDone (c : Fin 8) : Laws.HalfWrites.Statement (.coreResetDone c) := Laws.HalfWrites.of_none rfl
theorem Laws.HalfWrites.linkReset (p : Fin 8) : Laws.HalfWrites.Statement (.linkReset p) := Laws.HalfWrites.of_none rfl
theorem Laws.HalfWrites.linkResetDone (p : Fin 8) : Laws.HalfWrites.Statement (.linkResetDone p) := Laws.HalfWrites.of_none rfl
theorem Laws.HalfWrites.keyLoadRegion (v : W64) : Laws.HalfWrites.Statement (.keyLoadRegion v) := Laws.HalfWrites.of_none rfl
theorem Laws.HalfWrites.keyClearRegion (v : W64) : Laws.HalfWrites.Statement (.keyClearRegion v) := Laws.HalfWrites.of_none rfl
theorem Laws.HalfWrites.keyLoadLink (v : W64) : Laws.HalfWrites.Statement (.keyLoadLink v) := Laws.HalfWrites.of_none rfl
theorem Laws.HalfWrites.keyClearLink (v : W64) : Laws.HalfWrites.Statement (.keyClearLink v) := Laws.HalfWrites.of_none rfl
theorem Laws.HalfWrites.samplePreload (pins : List Bool) : Laws.HalfWrites.Statement (.samplePreload pins) := Laws.HalfWrites.of_none rfl
theorem Laws.HalfWrites.extest (cells : List Bool) : Laws.HalfWrites.Statement (.extest cells) := Laws.HalfWrites.of_none rfl
theorem Laws.HalfWrites.dabacc (req : BitVec 105) : Laws.HalfWrites.Statement (.dabacc req) := Laws.HalfWrites.of_none rfl
theorem Laws.HalfWrites.attach (v : W64) : Laws.HalfWrites.Statement (.attach v) := Laws.HalfWrites.of_none rfl
theorem Laws.HalfWrites.haltreq (c : Fin 8) (h : Half) (v : W64) : Laws.HalfWrites.Statement (.haltreq c h v) := Laws.HalfWrites.of_half rfl rfl
theorem Laws.HalfWrites.dbgStep (c : Fin 8) (h : Half) (v : W64) : Laws.HalfWrites.Statement (.dbgStep c h v) := Laws.HalfWrites.of_half rfl rfl
theorem Laws.HalfWrites.wake (h : Half) (v : W64) : Laws.HalfWrites.Statement (.wake h v) := Laws.HalfWrites.of_half rfl rfl
theorem Laws.HalfWrites.lossOfFecLock (p : Fin 8) : Laws.HalfWrites.Statement (.lossOfFecLock p) := Laws.HalfWrites.of_none rfl
theorem Laws.HalfWrites.lossOfLightCleared (p : Fin 8) : Laws.HalfWrites.Statement (.lossOfLightCleared p) := Laws.HalfWrites.of_none rfl
theorem Laws.HalfWrites.fenceRowWriteAck (fid : Nat) (table : Nat) (row : Nat) : Laws.HalfWrites.Statement (.fenceRowWriteAck fid table row) := Laws.HalfWrites.of_none rfl
theorem Laws.HalfWrites.instructionFetchReturn (x : Ctx) (r : Resp) (par : SeqParity) : Laws.HalfWrites.Statement (.instructionFetchReturn x r par) := Laws.HalfWrites.of_none rfl
theorem Laws.HalfWrites.cacheWritePass : Laws.HalfWrites.Statement .cacheWritePass := Laws.HalfWrites.of_none rfl
theorem Laws.HalfWrites.sketchHalving : Laws.HalfWrites.Statement .sketchHalving := Laws.HalfWrites.of_none rfl
theorem Laws.HalfWrites.sketchHalvingDone : Laws.HalfWrites.Statement .sketchHalvingDone := Laws.HalfWrites.of_none rfl
theorem Laws.HalfWrites.rcInvalDone : Laws.HalfWrites.Statement .rcInvalDone := Laws.HalfWrites.of_none rfl
theorem Laws.HalfWrites.migratorWindow : Laws.HalfWrites.Statement .migratorWindow := Laws.HalfWrites.of_none rfl
theorem Laws.HalfWrites.directorySweep : Laws.HalfWrites.Statement .directorySweep := Laws.HalfWrites.of_none rfl
theorem Laws.HalfWrites.directorySweepDone : Laws.HalfWrites.Statement .directorySweepDone := Laws.HalfWrites.of_none rfl
theorem Laws.HalfWrites.timebaseTick : Laws.HalfWrites.Statement .timebaseTick := Laws.HalfWrites.of_none rfl
theorem Laws.HalfWrites.lowPowerEntryDone : Laws.HalfWrites.Statement .lowPowerEntryDone := Laws.HalfWrites.of_none rfl
theorem Laws.HalfWrites.resumeDone : Laws.HalfWrites.Statement .resumeDone := Laws.HalfWrites.of_none rfl
theorem Laws.HalfWrites.pmWarn : Laws.HalfWrites.Statement .pmWarn := Laws.HalfWrites.of_none rfl
theorem Laws.HalfWrites.holdEnd : Laws.HalfWrites.Statement .holdEnd := Laws.HalfWrites.of_none rfl
theorem Laws.HalfWrites.pmFail : Laws.HalfWrites.Statement .pmFail := Laws.HalfWrites.of_none rfl
theorem Laws.HalfWrites.powerOnReset : Laws.HalfWrites.Statement .powerOnReset := Laws.HalfWrites.of_none rfl
theorem Laws.HalfWrites.blockResetPin : Laws.HalfWrites.Statement .blockResetPin := Laws.HalfWrites.of_none rfl
theorem Laws.HalfWrites.blockResetDone : Laws.HalfWrites.Statement .blockResetDone := Laws.HalfWrites.of_none rfl
theorem Laws.HalfWrites.keyClearDone : Laws.HalfWrites.Statement .keyClearDone := Laws.HalfWrites.of_none rfl
theorem Laws.HalfWrites.scrubDone : Laws.HalfWrites.Statement .scrubDone := Laws.HalfWrites.of_none rfl
theorem Laws.HalfWrites.bypass : Laws.HalfWrites.Statement .bypass := Laws.HalfWrites.of_none rfl
theorem Laws.HalfWrites.idcode : Laws.HalfWrites.Statement .idcode := Laws.HalfWrites.of_none rfl
theorem Laws.HalfWrites.dbgTrst : Laws.HalfWrites.Statement .dbgTrst := Laws.HalfWrites.of_none rfl
theorem Laws.HalfWrites.supplyRemoved : Laws.HalfWrites.Statement .supplyRemoved := Laws.HalfWrites.of_none rfl

end Sys2Proof
end

