-- ==== Sys2Proof/Laws/Seq.lean ====
section
/-! SUPPORT. What the shared operations of the sequencer do: the general registers, the retirement of a word, and the issue of a
word whose slots both evaluate. -/
namespace Sys2Proof.Machine

/-- A general register after a write: g0 stays zero. -/
theorem Task.gr_setGr (x : Task) (i j : Nat) (v : W64) : (x.setGr i v).gr j = if j = i ∧ j ≠ 0 then v else x.gr j := by
  unfold Task.setGr Task.gr
  by_cases hi : i = 0
  · by_cases hj : j = 0 <;> simp [hi, hj]
  · by_cases hj : j = 0
    · simp [hj]
    · simp [hi, hj, Tab.get_set]

/-- A write of a general register changes the registers alone. -/
theorem Task.setGr_rest (x : Task) (i : Nat) (v : W64) : { x.setGr i v with g := x.g } = x := by
  unfold Task.setGr; split <;> rfl

@[simp] theorem Core.task_stepOne (k : Core) (o : Option Nat) (u : Nat) : ({ k with stepOne := o } : Core).task u = k.task u := rfl

/-- What the retirement of a word leaves alone. -/
theorem Blk.retire_frame (b : Blk) (c t : Nat) (pc : W64) : WordFrame c t b (b.retire c t pc) := by
  unfold Blk.retire
  refine ⟨by simp, ?_, ?_, ?_, ?_, ?_⟩
  · intro d hd
    rw [Blk.core_inc, Blk.core_updCore_other _ _ hd, Blk.core_updTask_other _ _ _ hd]
  · rw [Blk.core_inc, Blk.core_updCore_same, Blk.core_updTask_same]; split <;> rfl
  · intro u hu
    simp only [Blk.task, Blk.core_inc, Blk.core_updCore_same, Blk.core_updTask_same]
    split
    · rw [Core.task_stepOne, Core.task_updTask_other _ _ hu]
    · rw [Core.task_updTask_other _ _ hu]
  · intro o ho
    rw [Blk.reg_inc, if_neg ho]; simp
  · rw [Blk.reg_inc, if_pos rfl]; simp

/-- The task context of a word that retires. -/
theorem Blk.task_retire (b : Blk) (c t : Nat) (pc : W64) : (b.retire c t pc).task c t = (b.task c t).issued pc := by
  unfold Blk.retire
  simp only [Blk.task, Blk.core_inc, Blk.core_updCore_same, Blk.core_updTask_same]
  split
  · rw [Core.task_stepOne, Core.task_updTask_same]; rfl
  · rw [Core.task_updTask_same]; rfl

/-- A change of the task context before the word retires is inside the frame of the word. -/
theorem WordFrame.updTask {b b' : Blk} {c t : Nat} (f : Task → Task) (h : WordFrame c t (b.updTask c t f) b') : WordFrame c t b b' := by
  obtain ⟨h1, h2, h3, h4, h5, h6⟩ := h
  refine ⟨?_, ?_, ?_, ?_, ?_, ?_⟩
  · have := congrArg (fun x : Blk => { x with cores := b.cores }) h1
    refine Eq.trans ?_ (this.trans ?_) <;> simp
  · intro d hd; rw [h2 d hd, Blk.core_updTask_other _ _ _ hd]
  · have := congrArg (fun x : Core => { x with tasks := (b.core c).tasks }) h3
    refine Eq.trans ?_ (this.trans ?_) <;> simp
  · intro u hu; rw [h4 u hu, Blk.task_updTask_other _ _ _ hu]
  · intro o ho; rw [h5 o ho]; simp
  · rw [h6]; simp

/-- A slot whose evaluation answers an effect is not reserved. -/
theorem Blk.reservedOp_of_ok (b b' : Blk) (c t m n : Nat) (op : SOp) (e : Eff) (h : b.evalOp c t m n op = (b', .ok e)) :
    b.reservedOp c t op = false := by
  cases op <;> simp only [Blk.evalOp, Blk.reservedOp] at h ⊢
  · split at h <;> simp_all
  · split at h <;> simp_all

/-- Slot B ends a word whose slot A holds NOP, where its evaluation answers an effect and changes nothing. -/
theorem Blk.slotOp_ends (b : Blk) (c : Fin 8) (t : Fin 4) (op : SOp) (e : Eff) (h : b.slotBEnds c t)
    (he : b.evalOp c t 0 0 op = (b, .ok e)) :
    b.slotOp ⟨c, t, .b⟩ op = ((b.doEff c t {}).doEff c t e).retire c t (nextPc (b.task c t).pc {} e) := by
  obtain ⟨h1, h2, h3⟩ := h
  have hn : b.evalOp c t 0 0 .nop = (b, .ok {}) := rfl
  have r1 : b.reservedOp c t .nop = false := rfl
  have r2 := Blk.reservedOp_of_ok b b c t 0 0 op e he
  simp [Blk.slotOp, h1, h2, h3, Blk.issueWord, hn, he, Ev.stops, r1, r2]

/-- An effect on a general register alone, or none, is a change of the task context. -/
theorem Blk.doEff_g (b : Blk) (c t : Nat) (g : Option (Nat × W64)) (j : Option W64) :
    b.doEff c t { g := g, jump := j } = b.updTask c t (fun x => match g with | some (i, v) => x.setGr i v | none => x) := by
  cases g with
  | none => simp [Blk.doEff]
  | some p => simp only [Blk.doEff]; congr 1; funext x; unfold Task.setGr; split <;> simp

/-- A word that writes one general register. -/
theorem Blk.wroteG (b : Blk) (c t rd : Nat) (v pc : W64) (j : Option W64) :
    WroteG c t rd v pc b (((b.doEff c t {}).doEff c t { g := some (rd, v), jump := j }).retire c t pc) := by
  rw [Blk.doEff_g, show b.doEff c t {} = _ from Blk.doEff_g b c t none none]
  refine ⟨((Blk.retire_frame _ _ _ _).updTask _).updTask _, ?_, ?_, ?_⟩
  · simp only [Blk.task_retire, Blk.task_updTask_same]
    show ((b.task c t).setGr rd v).gr rd = _
    rw [Task.gr_setGr]; by_cases h : rd = 0 <;> simp [h, Task.gr]
  · intro r hr
    simp only [Blk.task_retire, Blk.task_updTask_same]
    show ((b.task c t).setGr rd v).gr r = _
    rw [Task.gr_setGr]; simp [hr]
  · simp only [Blk.task_retire, Blk.task_updTask_same]
    exact congrArg (fun x => x.issued pc) (Task.setGr_rest (b.task c t) rd v)

end Sys2Proof.Machine
end

