-- ==== Sys2Proof/Tests/Slice0.lean ====
section
/-! SUPPORT. Tests: the form checks refuse an ill-formed command each, small values worked out from the spec, and for every statement
with hypotheses a concrete state that meets them. -/
namespace Sys2Proof.Tests
set_option Elab.async false
open Sys2Proof Sys2Proof.Machine

/-! ### Commands that cannot reach the block -/

theorem test_wf_inletEmpty : (Instr.inletWrite 0 []).wellFormed = false := by decide
theorem test_wf_inletEnd : (Instr.inletWrite (2 ^ 46 - 1) [1, 2]).wellFormed = false := by decide
theorem test_wf_adapterEmpty : (Instr.adapterWrite 0 0 []).wellFormed = false := by decide
theorem test_wf_adapterLong : (Instr.adapterWrite 0 0 (List.replicate 4097 0)).wellFormed = false := by decide +kernel
theorem test_wf_half : (Instr.doorbell 0 .low (2 ^ 32)).wellFormed = false ∧ (Instr.doorbell 0 .high (2 ^ 32)).wellFormed = false ∧
    (Instr.doorbell 0 .full (2 ^ 32)).wellFormed = true ∧ (Instr.doorbell 0 .low (2 ^ 32 - 1)).wellFormed = true := by decide
theorem test_wf_halves : [Instr.ringEnable 0 .low (2 ^ 32), .ringDisable 0 .low (2 ^ 32), .cheadWrite 0 .low (2 ^ 32),
    .faultRingEnable .low (2 ^ 32), .eventRingEnable .low (2 ^ 32), .msiWrite 0 false .low (2 ^ 32), .inval .low (2 ^ 32),
    .rcEnWrite .low (2 ^ 32), .clrcnt .low (2 ^ 32), .waydisWrite 0 .low (2 ^ 32), .courierInWrite 0 .low (2 ^ 32), .iinv 0 .low (2 ^ 32),
    .dinv 0 .low (2 ^ 32), .seqCacheEnable 0 .low (2 ^ 32), .linkEnable 0 .low (2 ^ 32), .retrain 0 .low (2 ^ 32),
    .ckLxTaddrWrite .low (2 ^ 32), .ckLxTdata1Write .low (2 ^ 32), .goWrite .low (2 ^ 32), .dozeRequest .low (2 ^ 32),
    .napRequest .low (2 ^ 32), .runRequest .low (2 ^ 32), .blockReset .low (2 ^ 32), .haltreq 0 .low (2 ^ 32), .dbgStep 0 .low (2 ^ 32),
    .wake .low (2 ^ 32)].all (fun i => !i.wellFormed) = true := by decide
theorem test_wf_free : (Instr.advert 0 1 false 0 0 [1, 2, 3, 4]).wellFormed = false ∧
    (Instr.resync 0 0 0 [1, 2, 3, 4, 5, 6] 0).wellFormed = false := by decide
theorem test_wf_walk : (Instr.walkComplete 0 0 [.poison, .poison, .poison, .poison] false).wellFormed = false := by decide
theorem test_wf_view : [Instr.lookupPool 0 { blocks := [(1, .error), (1, .poison)] }, .commandStart 0 { blocks := [(1, .error), (1, .poison)] },
    .chainStart 0 { blocks := [(1, .error), (1, .poison)] }, .entryApply 0 { blocks := [(1, .error), (1, .poison)] }].all
      (fun i => !i.wellFormed) = true := by decide

/-! ### States to test on -/

/-- A machine with a block and an empty queue. -/
def st (b : Blk) : State := { blk := b, pending := [] }

/-- The block a step leaves, the reset block where it stops. -/
def after (o : Out) : Blk :=
  match o with
  | .next s => s.blk
  | _ => {}

/-- A running task context whose word's slot A holds NOP. -/
def task0 : Task :=
  { st := .running, cmd := some 7, prog := true, slotA := some .nop, pc := 0x40
    g := [(1, 5), (2, 0xFFFFFFFFFFFFFFFF), (3, 0x8000000000000000), (4, 0x1000)] }

/-- A block whose core 0 runs a task context for command 7 of ring 3. -/
def seqBlk (x : Task) : Blk :=
  { cores := [(0, { tasks := [(0, x)] })], cmds := [{ id := 7, ring := 3, phase := .held 0 0 }] }

/-- A translation of the first GiB of context 3, to device memory or to the host's. -/
def page (dev : Bool) : Tlb := { ctx := 3, gran := 0, big := false, pa := 0, dev := dev, memtype := 0, cr := 0, w := true, d := true }

/-- The same block with context 3 enabled and its first GiB translated; the attached memory has 4 GiB. -/
def memBlk (x : Task) (dev : Bool) : Blk := (({ seqBlk x with l2 := [page dev] } : Blk).setReg 0x40018 1).setReg 0x30040 4

/-! ### Sequencer -/

/-- g1 = 5, g2 = −1, g3 = −2^63. -/
theorem test_add_wraps : ((after (exec (.add ⟨0, 0, .b⟩ 5 1 2) (st (seqBlk task0)))).task 0 0).gr 5 = 4 := by decide +kernel
theorem test_sra_sign : ((after (exec (.sra ⟨0, 0, .b⟩ 5 3 1) (st (seqBlk task0)))).task 0 0).gr 5 = 0xFC00000000000000 := by decide +kernel
theorem test_slt_signed : ((after (exec (.slt ⟨0, 0, .b⟩ 5 2 1) (st (seqBlk task0)))).task 0 0).gr 5 = 1 ∧
    ((after (exec (.sltu ⟨0, 0, .b⟩ 5 2 1) (st (seqBlk task0)))).task 0 0).gr 5 = 0 := by decide +kernel
theorem test_mul_signed : ((after (exec (.mul ⟨0, 0, .b⟩ 2 1) (st (seqBlk task0)))).task 0 0).prods = [0xFFFFFFFFFFFFFFFFFFFFFFFFFFFFFFFB] := by
  decide +kernel
theorem test_jal_link : ((after (exec (.jal ⟨0, 0, .b⟩ 5 (-1)) (st (seqBlk task0)))).task 0 0).pc = 0x30 ∧
    ((after (exec (.jal ⟨0, 0, .b⟩ 5 (-1)) (st (seqBlk task0)))).task 0 0).gr 5 = 0x50 := by decide +kernel

/-- IntegerOperations, ProductsLandInOrder, ControlTransfers, FlagOperations, WaitsMetAndHalt: a word ends by its slot B. -/
theorem test_hyp_slotBEnds : (seqBlk task0).slotBEnds 0 0 := ⟨by decide +kernel, by decide +kernel, by decide +kernel⟩
/-- IntegerOperations: a long word can issue. -/
theorem test_hyp_canLong : (seqBlk { task0 with slotA := none }).canLong 0 0 = true := by decide +kernel
/-- ProductsLandInOrder: a product is in flight. -/
theorem test_hyp_productLand : (seqBlk { task0 with prods := [6] }).coreLive 0 = true ∧
    ((seqBlk { task0 with prods := [6] }).task 0 0).prods = 6 :: [] := by decide +kernel
/-- ControlTransfers: a flag that does not wait, an aligned target at the end of the address space, a task context in the handler. -/
theorem test_hyp_control : task0.flagWaits 5 = false ∧ (task0.gr 4 + (0 : BitVec 43).signExtend 64).toNat % 16 = 0 ∧
    (task0.gr 4 + (0 : BitVec 43).signExtend 64).toNat < 2 ^ 57 ∧ ({ task0 with emu := true } : Task).emu = true ∧
    (seqBlk { task0 with emu := true }).canIssue 0 0 = true := by decide +kernel
/-- SpecialRegisters: TSK of command 7 of ring 3 in task context 0 of core 0. -/
theorem test_hyp_special : ∃ (v : W64) (m : Cmd), task0.cmd.bind (seqBlk task0).cmd = some m ∧ m.ring < 64 ∧ fld v 0 3 = 0 ∧
    fld v 3 2 = 0 ∧ fld v 5 6 = m.ring ∧ bit v 11 = (seqBlk task0).flag 0 0 2 ∧ fld v 12 52 = 0 ∧ (8 - 8) ∉ task0.sPend :=
  ⟨0x60, { id := 7, ring := 3, phase := .held 0 0 }, by decide +kernel⟩
/-- WaitsMetAndHalt and AwaitEntersTheWaiters: a target that is met, and one that is not. -/
theorem test_hyp_await : fld (task0.gr 0) 0 48 ≤ (seqBlk task0).anchor ((fld (task0.gr 0) 0 15 + 32767) % 32768) ∧
    (seqBlk task0).anchor ((fld (task0.gr 0) 0 15 + 32767) % 32768) < fld (task0.gr 1) 0 48 ∧ ((32767, 5) : Nat × Nat) ∉ task0.awok := by
  decide +kernel
/-- LoadsReadMemory and the first clause of StoresWriteMemory: the page is translated and the line is in the cache. -/
def lineBlk : Blk :=
  let b := memBlk task0 true
  (b.updCore 0 (fun k => { k with dc := { lines := [(256, { valid := true, line := 64, data := 0x8877665544332211 })] } })).setReg (coreReg 0 0) 3
theorem test_hyp_loads : lineBlk.slotBEnds 0 0 ∧ (∃ b1 b2 d, lineBlk.xl (.seqData 0 0) (lineBlk.taskCtx 0 0) 0x1000 true = (b1, .ok (page true) 0x1000) ∧
    b1.rb (coreReg 0 0) 1 = true ∧ b1.dataLine 0 0 (!(page true).dev) (0x1000 / 64) 0 .none = (b2, .data d) ∧
    (b2.core 0).dc.find (!(page true).dev) (0x1000 / 64) = some 0) :=
  ⟨⟨by decide +kernel, by decide +kernel, by decide +kernel⟩, _, _, _, rfl, by decide +kernel, rfl, by decide +kernel⟩
/-- A load of a byte sign-extends, one of a half word does not where it is unsigned. -/
theorem test_ldb_sign : ((after (exec (.ldb ⟨0, 0, .b⟩ 5 4 7 .none) (st lineBlk))).task 0 0).gr 5 = 0xFFFFFFFFFFFFFF88 ∧
    ((after (exec (.ldhu ⟨0, 0, .b⟩ 5 4 6 .none) (st lineBlk))).task 0 0).gr 5 = 0x8877 := by decide +kernel

/-! ### Memory of the sequencer, courier, paired words -/

/-- StoresWriteMemory, second and third clause: the data cache is off and the page is the host's, or device memory's. -/
theorem test_hyp_storeHost : ∃ b1, (memBlk task0 false).xl (.seqData 0 0) ((memBlk task0 false).taskCtx 0 0) 0x1000 true =
    (b1, .ok (page false) 0x1000) ∧ b1.rb (coreReg 0 0) 1 = false ∧ (memBlk task0 false).slotBEnds 0 0 :=
  ⟨_, rfl, by decide +kernel, by decide +kernel, by decide +kernel, by decide +kernel⟩
theorem test_hyp_storeDevice : ∃ b1, (memBlk task0 true).xl (.seqData 0 0) ((memBlk task0 true).taskCtx 0 0) 0x1000 true =
    (b1, .ok (page true) 0x1000) ∧ b1.rb (coreReg 0 0) 1 = false ∧ tierOf 0x1000 < 3 ∧ b1.paRange 0x1000 8 = true ∧
    b1.enc 0 (64 * (0x1000 / 64)) = false ∧ (memBlk task0 true).slotBEnds 0 0 :=
  ⟨_, rfl, by decide +kernel, by decide +kernel, by decide +kernel, by decide +kernel, by decide +kernel, by decide +kernel, by decide +kernel⟩
/-- StoresWriteMemory, first clause: the line is in the cache. -/
theorem test_hyp_storeCache : ∃ b1 b2 d, lineBlk.xl (.seqData 0 0) (lineBlk.taskCtx 0 0) 0x1000 true = (b1, .ok (page true) 0x1000) ∧
    b1.rb (coreReg 0 0) 1 = true ∧ b1.dataLine 0 0 (!(page true).dev) (0x1000 / 64) 0 .none = (b2, .data d) ∧
    (b2.core 0).dc.find (!(page true).dev) (0x1000 / 64) = some 0 := ⟨_, _, _, rfl, by decide +kernel, rfl, by decide +kernel⟩
/-- A store of a half word puts its two low bytes at the address, the least significant one first. -/
theorem test_sth_bytes : (after (exec (.sth ⟨0, 0, .b⟩ 1 4 0 .none) (st (memBlk task0 true)))).devByte 0x1000 = 5 ∧
    (after (exec (.sth ⟨0, 0, .b⟩ 1 4 0 .none) (st (memBlk task0 true)))).devByte 0x1001 = 0 := by decide +kernel
/-- A read's answer is this value. -/
def isOk (r : Except Nat Sect) (d : Sect) : Bool :=
  match r with
  | .ok e => e = d
  | _ => false
theorem ok_of {r : Except Nat Sect} {d : Sect} (h : isOk r d = true) : r = .ok d := by
  cases r <;> simp_all [isOk]
/-- SequencerMissesFill: a data line that is wanted, and a word that is not in the instruction cache. -/
def missBlk : Blk := (memBlk { task0 with want := some (false, 64, 0), slotA := none } true).setReg (coreReg 0 0) 3
theorem test_hyp_missData : missBlk.coreLive 0 = true ∧ (missBlk.core 0).fatal = false ∧ (missBlk.task 0 0).want = some (false, 64, 0) ∧
    missBlk.shutAt 0 true (64 * 64) = false ∧ (missBlk.core 0).dc.find false 64 = none ∧ missBlk.rb (coreReg 0 0) 1 = true ∧
    missBlk.lineData false 64 0 (.data 0) = .ok 0 :=
  ⟨by decide +kernel, by decide +kernel, by decide +kernel, by decide +kernel, by decide +kernel, by decide +kernel, ok_of (by decide +kernel)⟩
theorem test_hyp_missFetch : ∃ b1, missBlk.seqIssues 0 = true ∧ (missBlk.task 0 0).prog = true ∧ (missBlk.task 0 0).stop = false ∧
    (missBlk.task 0 0).cmd.bind missBlk.cmd = some { id := 7, ring := 3, phase := .held 0 0 } ∧
    missBlk.xl (.seqFetch 0 0) 3 (missBlk.task 0 0).pc.toNat false = (b1, .ok (page true) 0x40) ∧ b1.rb (coreReg 0 0) 0 = true ∧
    (b1.core 0).ic.find (!(page true).dev) 1 = none ∧ b1.shutAt 0 true 0x40 = false ∧
    (b1.inc (coreReg 0 0x90) 1).lineData false 1 0 (.data 0) = .ok 0 :=
  ⟨_, by decide +kernel, by decide +kernel, by decide +kernel, by decide +kernel, rfl, by decide +kernel, by decide +kernel, by decide +kernel, ok_of (by decide +kernel)⟩
/-- CacheRangeOperations: a range of one page, and an empty one. -/
theorem test_hyp_range : ∃ b1 l, lineBlk.ranges 0 0 (lineBlk.taskCtx 0 0) (((lineBlk.task 0 0).gr 1).toNat / 2 ^ 30 + 2)
    ((lineBlk.task 0 0).gr 4).toNat ((lineBlk.task 0 0).gr 1).toNat = (b1, .ok {}, l) ∧ l.any (touches (Tab.get {} (b1.core 0).dc.lines 256)) = true :=
  ⟨_, _, rfl, by decide +kernel⟩
theorem test_hyp_rangeEmpty : ∃ b1 l, lineBlk.ranges 0 0 (lineBlk.taskCtx 0 0) (((lineBlk.task 0 0).gr 0).toNat / 2 ^ 30 + 2)
    ((lineBlk.task 0 0).gr 4).toNat ((lineBlk.task 0 0).gr 0).toNat = (b1, .ok {}, l) := ⟨_, _, rfl⟩
/-- CourierWords: room in the outgoing buffer, a half that waits, a word that has come, and one that is not valid. -/
def courBlk (w : Option W32) : Blk :=
  (seqBlk task0).updCore 0 (fun k => { k with couHalf := some (0x11111111, 7, 0), couIn := [w] })
theorem test_hyp_courier : (courBlk (some 9)).qHeld 9 0 0 = false ∧ ((courBlk (some 9)).core 0).couOut.length < 2048 ∧
    (courBlk (some 9)).qHeld 10 0 0 = false ∧ ((courBlk (some 9)).core 0).couIn = some 9 :: [] ∧
    ((courBlk none).core 0).couIn = none :: [] ∧ (courBlk none).slotBEnds 0 0 :=
  ⟨by decide +kernel, by decide +kernel, by decide +kernel, by decide +kernel, by decide +kernel, by decide +kernel, by decide +kernel, by decide +kernel⟩
/-- SEND makes the high half of the entry whose low half waits. -/
theorem test_send_high : ((after (exec (.send ⟨0, 0, .b⟩ 1 true) (st (courBlk none)))).core 0).couOut = [(0x0000000511111111, 8)] := by
  decide +kernel
/-- ReservedWordsTrap: format 0 with slot A opcode 30h, and a vector that is set. -/
theorem test_hyp_trap : ((seqBlk { task0 with slotA := none }).setReg (coreReg 0 0x10) 0x8000).canIssue 0 0 = true ∧
    ((seqBlk { task0 with slotA := none }).setReg (coreReg 0 0x10) 0x8000).reg (coreReg 0 0x10) ≠ 0 ∧
    wordCause (3 : W128).toNat ≠ 0 := by decide +kernel
/-- PairedWordReadsBeforeItWrites: slot A holds an ADD. -/
theorem test_hyp_pair : (seqBlk { task0 with slotA := some (.alu .add 5 1 2) }).canIssue 0 0 = true ∧
    ((seqBlk { task0 with slotA := some (.alu .add 5 1 2) }).task 0 0).word = none := by decide +kernel
/-- Both slots write g5: slot B's value remains; slot B reads g5 as it was before slot A. -/
theorem test_pair_order : ((after (exec (.sub ⟨0, 0, .b⟩ 5 1 5) (st (seqBlk { task0 with slotA := some (.alu .add 5 1 2) })))).task 0 0).gr 5 = 5 := by
  decide +kernel

/-! ### Tasks, streams, rows -/

/-- TaskSwitches: an idle sequencer with a READY task context, and one whose task has waited for an element. -/
def readyCore : Core := { tasks := [(0, { task0 with st := .ready, slotA := none })] }
theorem test_hyp_switchIn : ({ cores := [(0, readyCore)] } : Blk).seqIssues 0 = true ∧ readyCore.idle = true ∧
    readyCore.nextReady (fun t => !({ cores := [(0, readyCore)] } : Blk).dbgHalted 0 || readyCore.stepOne = some t) = some 0 ∧
    (readyCore.task 0).word = none ∧ (readyCore.task 0).prog = true := by decide +kernel
def gxCore : Core := { tasks := [(0, { task0 with st := .ready, slotA := none }), (1, { st := .running, cmd := some 8, waitFrom := some 5 })] }
def gxBlk : Blk := { cores := [(0, gxCore)], regs := [(coreReg 0 0x700, 3)], time := 30 }
theorem test_hyp_switchOut : (List.range 4).find? (fun t => (gxCore.task t).st = .running) = some 1 ∧ (gxCore.task 1).waitFrom = some 5 ∧
    gxBlk.issues = true ∧ gxBlk.coreUp 0 = true ∧ gxBlk.rb (coreReg 0 0x700) 1 = true ∧
    5 + max 16 (gxBlk.rf (coreReg 0 0x700) 16 32) ≤ gxBlk.time.toNat ∧ gxCore.nextReady (fun _ => true) = some 0 ∧
    (gxCore.task 0).word = none ∧ (gxCore.task 0).prog = true := by decide +kernel
/-- SequencerCacheControl: at reset every clause's register is open, no task context holds a command and no cache is clean. -/
theorem test_hyp_cacheControl : ({} : Blk).regOpen (coreReg 0 0) = true ∧ ({} : Core).holds = false ∧ ({} : Blk).rb (coreReg 0 0) 0 = false ∧
    ({} : Blk).rb (coreReg 0 0) 1 = false ∧ bit (4 : W64) 2 = true ∧ bit (8 : W64) 3 = true ∧ bit (1 : W64) 0 = true ∧
    ({} : Core).ic.clean = false ∧ ({ clean := true } : SCache).busy = false ∧ ({} : Blk).live = true ∧ ({} : Blk).coreOk 0 = true := by
  decide +kernel

/-- An fp32 table of 100 rows of 4 elements at 10000h, CACHE = 1, as command 7 holds it. -/
def fpTab : TableCopy := { num := 5, ctx := 3, td := [0x20000000361, 100, 0x10000, 0, 0, 0, 0, 0] }
/-- A stream of 16 indices at 1000h with weights at 2000h. -/
def sd0 : List W64 := [0x200050811, 0x1000, 0x2000, 16, 0, 0x400000000, 0, 0]
/-- A weighted POOL of two bags with boundaries at 3000h and outputs at 4000h. -/
def pd0 : List W64 := [0x1020021, 0x3000, 0x4000, 16, 0, 0, 0, 0]
/-- Queue 2 in a pass of that stream. -/
def sq0 : SQ := { st := .active, cmd := 7, task := 0, ctx := 3, sd := sd0, tab := fpTab, cons := .pool pd0 7 0 none, pass := 1 }
def strBlk (x : SQ) : Blk := (memBlk task0 true).updSq 0 2 (fun _ => x)
/-- StreamSectorsAreKept: the sector of an index, of a weight and of a boundary entry. -/
theorem test_hyp_indexSector : ∃ b1 l, (strBlk sq0).reads 0 2 = true ∧ (0 ∈ sq0.window ∧ sdIdxAddr sd0 0 / 64 = 64) ∧ sq0.sec 0 64 = none ∧
    (strBlk sq0).vread (.idx 0 2 64) 3 { blocks := [(64, .data 0)] } (64 * 64) 64 = (b1, .bytes l) :=
  ⟨_, _, by decide +kernel, by decide +kernel, by decide +kernel, rfl⟩
theorem test_hyp_weightSector : ∃ b1 l, sq0.wread = true ∧ sq0.winl = none ∧ 0 ∈ sq0.window ∧
    (sdWbase sd0 + wsize (sdWfmt sd0) * 0) / 64 = 128 ∧ sq0.sec 1 128 = none ∧
    (strBlk sq0).vread (.wgt 0 2 128) 3 { blocks := [(128, .data 0)] } (64 * 128) 64 = (b1, .bytes l) :=
  ⟨_, _, by decide +kernel, by decide +kernel, by decide +kernel, by decide +kernel, by decide +kernel, rfl⟩
theorem test_hyp_boundarySector : ∃ b1 l, sq0.cons ≠ .none ∧ (pdBbase sq0.cons.d + pdBw sq0.cons.d * sq0.entries) / 64 ≤ 192 ∧
    64 * 192 < pdBbase sq0.cons.d + pdBw sq0.cons.d * sq0.nent ∧ sq0.sec 2 192 = none ∧
    (strBlk sq0).vread (.bnd 0 2 192) 3 { blocks := [(192, .data 0)] } (64 * 192) 64 = (b1, .bytes l) :=
  ⟨_, _, by decide +kernel, by decide +kernel, by decide +kernel, by decide +kernel, rfl⟩
/-- NextReadyQueueIssues: queue 2 has a resolved row of bag 0. -/
def issueBlk : Blk := strBlk { sq0 with nextRes := 1, buf := [{ ord := 0, kind := .row 1, wt := 0x3F800000 }], ends := [2] }
theorem test_hyp_issue : issueBlk.unitIssues 0 = true ∧
    (let b1 := iter 20 (fun q b => if (b.sq 0 q).st = .active && !(b.sq 0 q).ended then b.pass 0 q { blocks := [] } else b) issueBlk
     (List.range 4).find? (fun t => b1.canBurst 0 (16 + t)) = none ∧
     ((List.range 16).map (fun i => ((b1.core 0).rr + 1 + i) % 16)).find? (fun q => b1.canIssueElem 0 q) = some 2 ∧
     (b1.sq 0 2).head = some { ord := 0, kind := .row 1, wt := 0x3F800000 }) := by decide +kernel
/-- RowCacheLookups: row 1 of the table, whose sector is in the cache, or not. -/
def piece0 : Piece := { va := 0x10010, pa := 0x10010, len := 16, off := 0, dev := true, cr := 0, home := 512 }
def slot0 (p : Piece) : TSlot := { id := 9, q := 2, ord := 0, row := 1, pieces := [p], consulted := true }
def rowBlk (l : List (Nat × RcLine)) (p : Piece) : Blk :=
  let b := issueBlk.updCore 0 (fun k => { k with trk := [slot0 p], nextSlot := 10 })
  ({ b with rc := { clean := true, lines := l } } : Blk).setReg 0x50000 0x1
def rcl : RcLine := { line := 512, v0 := true, age := 2, s0 := 0x77 }
theorem test_hyp_hit : (rowBlk [((rowBlk [] piece0).rcKey 512 0, rcl)] piece0).rcFind 512 = some 0 ∧
    (rowBlk [((rowBlk [] piece0).rcKey 512 0, rcl)] piece0).rcWay 512 0 = rcl ∧
    needs piece0.pa piece0.len = (true, false) ∧ (rowBlk [] piece0).tieredSlot ((rowBlk [] piece0).sq 0 2) (slot0 piece0) = false ∧
    (rowBlk [] piece0).looksUp ((rowBlk [] piece0).sq 0 2) (slot0 piece0) piece0 = true := by decide +kernel
theorem test_hyp_miss : (rowBlk [] piece0).coreLive 0 = true ∧ ((rowBlk [] piece0).core 0).trk.find? (fun t => t.id == 9) = some (slot0 piece0) ∧
    (slot0 piece0).pieces.find? (fun p => p.pa / 128 = 512 && p.byte.isNone && p.fill.isNone && !p.looked) = some piece0 ∧
    (rowBlk [] piece0).rcFind 512 = none ∧ (rowBlk [] piece0).fillsIn 512 < 512 ∧ (rowBlk [] piece0).pieceShut 0 2 piece0 = false := by decide +kernel
/-- FillsInstallLines: the fill of that sector. -/
def fillBlk : Blk := let b := rowBlk [] { piece0 with fill := some 4 }
  { b with rc := { b.rc with fills := [{ id := 4, line := 512, f0 := true, f1 := false, s0 := 5, s1 := 0, cr := 0, install := true, stream := false }] } }
theorem test_hyp_fill : fillBlk.live = true ∧ fillBlk.rc.fills.find? (fun f => f.id = 4) =
      some { id := 4, line := 512, f0 := true, f1 := false, s0 := 5, s1 := 0, cr := 0, install := true, stream := false } ∧
    fillBlk.rcOn = true ∧ fillBlk.rcFind 512 = none ∧
    ((List.range 16).filter (fun w => !fillBlk.wayOff 512 w)).find? (fun w => !(fillBlk.rcWay 512 w).valid) = some 0 := by decide +kernel
/-- RowCacheControl: every clause's register is open at reset, the cache is neither clean nor in a sweep; a sketch that is due. -/
theorem test_hyp_rcControl : ({} : Blk).regOpen 0x50000 = true ∧ ({} : Blk).rb 0x50000 0 = false ∧ ({} : Blk).rc.clean = false ∧
    ({} : Blk).regOpen (0x50040 + 8 * 15) = true ∧ 2 ^ ({} : Blk).agep ≤ 2 ^ 30 ∧ bit (1 : W64) 0 = true ∧ bit (2 : W64) 1 = true ∧
    bit (4 : W64) 2 = true := by decide +kernel
/-- RowsReachTheirElements: the row's bytes have come; a stale replica record; a batch; an issued output write. -/
def pieceIn : Piece := { piece0 with byte := some (List.replicate 16 0) }
theorem test_hyp_rowReturn : (slot0 pieceIn).stale = false ∧ (∀ p ∈ (slot0 pieceIn).pieces, pieceRefused { blocks := [] } p = false) ∧
    (rowBlk [] pieceIn).slotBytes ((rowBlk [] pieceIn).sq 0 2) (slot0 pieceIn) { blocks := [] } = some (List.replicate 16 0, List.replicate 16 false) := by
  decide +kernel
def staleSlot : TSlot := { slot0 pieceIn with kind := .replica, stale := true }
def staleBlk : Blk := { (rowBlk [] pieceIn).updCore 0 (fun k => { k with trk := [staleSlot] }) with time := 64 }
theorem test_hyp_stale : staleSlot.last + 64 ≤ staleBlk.time.toNat ∧ staleSlot.first + fld (qw fpTab.smd 6) 0 32 ≤ staleBlk.time.toNat ∧
    staleBlk.slotBytes (staleBlk.sq 0 2) staleSlot { blocks := [] } = some (List.replicate 16 0, List.replicate 16 false) := by decide +kernel
def outBlk : Blk := { strBlk { sq0 with batches := [{ node := 6, rwin := 1, first := 0, elems := [(0, 0, 4, 0)] }],
                                        out := [{ bag := 0, va := 0x4000, bytes := [], issued := true }] } with time := 64 }
theorem test_hyp_batch : (outBlk.sq 0 2).batches.find? (fun x => x.node = 6) = some { node := 6, rwin := 1, first := 0, elems := [(0, 0, 4, 0)] } ∧
    0 + 64 ≤ outBlk.time.toNat ∧ (outBlk.sq 0 2).out.find? (fun o => o.bag = 0) = some { bag := 0, va := 0x4000, bytes := [], issued := true } ∧
    (outBlk.sq 0 2).cons.tb = none ∧ outBlk.passed [] = true := by decide +kernel

/-! ### Engine operations -/

/-- A read that went through. -/
def isDs {α : Type} (x : Blk × Ds α) : Bool :=
  match x.2 with
  | .ok _ => true
  | _ => false
theorem ds_of {α : Type} {x : Blk × Ds α} (h : isDs x = true) : ∃ b a, x = (b, .ok a) := by
  obtain ⟨b, _ | _ | _ | _⟩ := x <;> simp_all [isDs]
/-- Descriptor blocks as the cache holds them, from block n of context 3 on. -/
def dcOf (n : Nat) (l : List W64) : List (Nat × Nat × Sect) :=
  (List.range ((l.length + 7) / 8)).map (fun i => (3, n + i, sectOf (wordBytes ((l.drop (8 * i)).take 8))))
/-- A training table, of number 0. -/
def trTab : TableCopy := { ctx := 3, td := [0x8402000000361, 100, 0x10000, 0, 0, 0, 0, 0x7000], tx := [1, 0, 0, 0, 0, 0, 0, 0x8000] }
/-- Its plain gradient descent. -/
def opb0 : List W64 := [1, 0x3F800000, 0, 0, 0, 0, 0, 0]
def cmd7 : Cmd := { id := 7, ring := 3, phase := .held 0 0, tabs := [fpTab, { trTab with td := trTab.td.set 0 0x840000000361 }] }
/-- Task context 0 of core 0 issues a long operation whose descriptor is at 1000h. -/
def engBlk (d : List W64) (x : SQ) : Blk :=
  ({ memBlk { task0 with slotA := none } true with cmds := [cmd7], dcache := dcOf 64 d ++ dcOf 512 opb0 } : Blk).updSq 0 2 (fun _ => x)
/-- LongReady holds there; the descriptor is in the cache. -/
theorem test_hyp_longReady : LongReady (engBlk sd0 {}) 0 0 4 0 { blocks := [] } cmd7 0 sd0 ((engBlk sd0 {}).cleanAll 0) :=
  ⟨by decide +kernel, by decide +kernel, by decide +kernel, by decide +kernel, by decide +kernel, by decide +kernel⟩
/-- StreamOperationsIssue: GATHER finds queue 2 free, POOL and SCAT find a pass without a consumer, REARM an idle and a busy queue. -/
theorem test_hyp_gather : (∃ b2 t, ((engBlk sd0 {}).cleanAll 0).sdCheck cmd7 { blocks := [] } sd0 false = (b2, .ok t)) ∧
    ((((engBlk sd0 {}).cleanAll 0).sdCheck cmd7 { blocks := [] } sd0 false).1.sq 0 (sdQueue sd0)).st = .free ∧
    (((engBlk sd0 {}).cleanAll 0).sdCheck cmd7 { blocks := [] } sd0 false).1.qHeld 2 0 (sdQueue sd0) = false :=
  ⟨ds_of (by decide +kernel), by decide +kernel, by decide +kernel⟩
theorem test_hyp_pool : ((engBlk pd0 { sq0 with cons := .none }).cleanAll 0).pdCheck 0 pd0 = none ∧
    (((engBlk pd0 { sq0 with cons := .none }).cleanAll 0).bindCons 0 (pdQueue pd0) (.pool pd0 7 0 (some 0))).2 = true := by decide +kernel
def scd0 : List W64 := [0x20001, 0x3000, 0x4000, 16, 0, 0, 0, 0]
def scSq : SQ := { sq0 with cons := .none, tab := { trTab with td := trTab.td.set 0 0x840000000361 } }
theorem test_hyp_scat : (∃ b2 o, ((engBlk scd0 scSq).cleanAll 0).scCheck cmd7 0 { blocks := [] } scd0 = (b2, .ok o)) ∧
    ((((engBlk scd0 scSq).cleanAll 0).scCheck cmd7 0 { blocks := [] } scd0).1.bindCons 0 (pdQueue scd0) (.scat scd0 7 0 (some 0))).2 = true :=
  ⟨ds_of (by decide +kernel), by decide +kernel⟩
theorem test_hyp_rearm : (let b := engBlk sd0 { sq0 with cons := .none, st := .armedIdle, sd := sd0.set 0 0x911 }
    b.canLong 0 0 = true ∧ ((b.cleanAll 0).sq 0 2).st = .armedIdle ∧
    sdBaseBad ((((b.cleanAll 0).sq 0 2).sd.set 1 ((b.task 0 0).gr 4)).set 2 ((b.task 0 0).gr 4)) = false) ∧
    ((engBlk sd0 sq0).taskCmd 0 0 = some cmd7 ∧ (((engBlk sd0 sq0).cleanAll 0).sq 0 2).st = .active ∧
      (((engBlk sd0 sq0).cleanAll 0).sq 0 2).shadow = none) := by decide +kernel
/-- EngineOperationsIssue: an AD, an FD, a CPD, an AVD, a VD, a plan and the release of one. -/
def ad0 : List W64 := [BitVec.ofNat 64 (1 + 6 <<< 36 + 6 <<< 39), 0x1000, 64, 0x2000, 64, 0, 0x4000, 1024]
theorem test_hyp_matx : (engBlk ad0 {}).build.arrays = true ∧ ((engBlk ad0 {}).core 0).iqUsed < 16 ∧ (engBlk ad0 {}).qHeld 4 0 0 = false := by
  decide +kernel
theorem test_hyp_matxAd : adBad ad0 = none := by decide +kernel
def fd0 : List W64 := [1, 0, 0x5000, 0, 0, 0, 0, 0]
theorem test_hyp_fence : (∃ b2 y, (engBlk fd0 {}).fenceCheck cmd7 { blocks := [] } fd0 = (b2, .ok y)) ∧ fdNsend fd0 = 0 :=
  ⟨ds_of (by decide +kernel), by decide +kernel⟩
def cpd0 : List W64 := [1, 0x1000, 0x2000, 0x1000, 0, 0, 0, 0]
def avd0 : List W64 := [0x50001, 3, 2, 0, 0, 0, 0, 0]
def tierBlk : Blk := ({ engBlk avd0 {} with cmds := [{ cmd7 with tabs := [{ fpTab with td := fpTab.td.set 0 0x40000000361 }] }] } : Blk).setReg 0x30418 1
theorem test_hyp_migr : cpBad cpd0 = none ∧ (∃ b2 t, tierBlk.avCheck cmd7 { blocks := [] } avd0 = (b2, .ok t)) :=
  ⟨by decide +kernel, ds_of (by decide +kernel)⟩
def vd0 : List W64 := [0x1000011, 0xF00000001, 0x1000, 0x4000000040, 0x2000, 0, 0, 0, 0x700000102] ++ List.replicate 15 0
theorem test_hyp_chain : (engBlk vd0 {}).canLong 0 0 = true ∧ (∀ o ∈ ((engBlk vd0 {}).core 0).ch, o.task = 0 → o.running = true) ∧
    ∃ b1 y, ((engBlk vd0 {}).cleanAll 0).chainCheck cmd7 { blocks := [] } 0x1000 = (b1, .ok y) :=
  ⟨by decide +kernel, by decide +kernel, ds_of (by decide +kernel)⟩
def xp0 : List W64 := [1, 0, 0, 0, 0, 0, 0, 0]
theorem test_hyp_expand : (∀ p, ((engBlk xp0 {}).core 0).plan = some p → p.1 = 0) ∧ xpBad xp0 = none ∧
    (((engBlk xp0 {}).task 0 0).gr 0 + 0) = (0 : W64) ∧
    (∃ b1 d, ((engBlk xp0 {}).cleanAll 0).desc (.desc 7) 3 { blocks := [] } 0x1000 = (b1, .ok d)) ∧
    (∃ b2 l, Blk.xpTabs 7 { blocks := [] } xp0 (xpTables xp0) ((engBlk xp0 {}).cleanAll 0) = (b2, .ok l)) :=
  ⟨(by rw [show ((engBlk xp0 {}).core 0).plan = none by decide +kernel]; intro p h; cases h), by decide +kernel, by decide +kernel, ds_of (by decide +kernel), ds_of (by decide +kernel)⟩
/-- SignalsTakeEffectAtAnchors: a signal that nothing delays. -/
def asig0 : ASig := { tag := 3, anchor := 5, isSet := false, value := 2, node := none }
def sigBlk : Blk := ({ engBlk sd0 {} with anc := [(5, 2 ^ 48 - 1)] } : Blk).updTask 0 0 (fun x => { x with asigs := [asig0], tags := [3] })
theorem test_hyp_asig : (sigBlk.task 0 0).asigs.find? (fun a => a.tag = 3) = some asig0 ∧ sigBlk.taskCmd 0 0 = some cmd7 ∧
    sigBlk.coreLive 0 = true ∧ sigBlk.asigFree 0 7 asig0 = true ∧ (sigBlk.task 0 0).freeTag = some 0 ∧ sigBlk.canLong 0 0 = true := by decide +kernel
/-- An addition wraps at 2^48. -/
theorem test_asig_wraps : (after (exec (.asigEffect ⟨0, 0⟩ 3 false) (st sigBlk))).anchor 5 = 1 := by decide +kernel

/-! ### Routines and dispatcher commands -/

/-- A command of opcode op with its payload, held by task context 0 of core 0. -/
def rtCmd (op : Nat) (ext : List W64) : Cmd := { cmd7 with cd := [BitVec.ofNat 64 (op <<< 8), 0, 0, 0, 0, 0, 0, 0], ext := ext }
def rtBlk (m : Cmd) (dc : List (Nat × Nat × Sect)) : Blk := { engBlk sd0 {} with cmds := [m], dcache := dc ++ dcOf 512 opb0 }
/-- HostRoutinesBegin: the routine of each opcode is ready. -/
theorem test_hyp_routine : RoutineReady (rtBlk (rtCmd 0x01 []) []) 7 0x01 (rtCmd 0x01 []) 0 0 :=
  ⟨⟨by decide +kernel, by decide +kernel, by decide +kernel, by decide +kernel, by decide +kernel, by decide +kernel, by decide +kernel,
    by decide +kernel, by decide +kernel⟩, by decide +kernel, by decide +kernel⟩
def pb1 : List W64 := [1, 0x1000, 0, 0, 0, 0, 0, 0]
def ixd0 : List W64 := [0x7C010001, 0x1000, 32, 64, 0, 0x4000, 16, 0]
def bxd0 : List W64 := [1, 0x2000, 0x3000, 16, 0x4000, 256, 128, 0]
theorem test_hyp_oneDesc : (∃ b1 d, (rtBlk (rtCmd 0x11 pb1) (dcOf 64 ixd0)).oneDesc (rtCmd 0x11 pb1) { blocks := [] } = (b1, .ok d)) ∧
    ixBad ixd0 = none ∧ (rtBlk (rtCmd 0x11 pb1) (dcOf 64 ixd0)).build.arrays = true ∧ cpBad cpd0 = none :=
  ⟨ds_of (by decide +kernel), by decide +kernel, by decide +kernel, by decide +kernel⟩
theorem test_hyp_bxd : bxBad bxd0 = none ∧ bxSmall bxd0 ixd0 = false ∧
    (∃ b2 x, (rtBlk (rtCmd 0x12 pb1) (dcOf 64 bxd0 ++ dcOf 128 ixd0)).desc (.desc 7) 3 { blocks := [] } (bxIxd bxd0) = (b2, .ok x)) :=
  ⟨by decide +kernel, by decide +kernel, ds_of (by decide +kernel)⟩
/-- The block of a LOOKUP_POOL of one pair, and of a SCATTER. -/
def pbLp : List W64 := [0x11, 0x1000, 0x1040, 0, 0, 0, 0, 0]
def pbSc : List W64 := [1, 0x1000, 0x1040, 0, 0, 0, 0, 0]
def sdTr : List W64 := sd0.set 0 0x200000811
theorem test_hyp_lookupPool : (∃ b1 p, (rtBlk (rtCmd 0x10 pbLp) (dcOf 64 (sd0 ++ pd0))).block (rtCmd 0x10 pbLp) { blocks := [] } (lpBad (rtCmd 0x10 pbLp)) = (b1, .ok p)) ∧
    (∃ b2 l, Blk.lpPairs (rtCmd 0x10 pbLp) { blocks := [] } pbLp (lpNp pbLp) 0 (rtBlk (rtCmd 0x10 pbLp) (dcOf 64 (sd0 ++ pd0))) = (b2, .ok l)) :=
  ⟨ds_of (by decide +kernel), ds_of (by decide +kernel)⟩
theorem test_hyp_scatter : (∃ b1 p, (rtBlk (rtCmd 0x13 pbSc) (dcOf 64 (sdTr ++ scd0))).block (rtCmd 0x13 pbSc) { blocks := [] } sbBad = (b1, .ok p)) ∧
    (∃ b2 l, (rtBlk (rtCmd 0x13 pbSc) (dcOf 64 (sdTr ++ scd0))).scPair (rtCmd 0x13 pbSc) { blocks := [] } pbSc = (b2, .ok l)) :=
  ⟨ds_of (by decide +kernel), ds_of (by decide +kernel)⟩
theorem test_hyp_fenceRoutine : (∃ b2 y, (rtBlk (rtCmd 0x14 pb1) (dcOf 64 fd0)).fenceCheck (rtCmd 0x14 pb1) { blocks := [] } fd0 = (b2, .ok y)) :=
  ds_of (by decide +kernel)
/-- A pair that waits for its queue, and one whose queue is free. -/
theorem test_hyp_pairs : ({ rtCmd 0x10 pbLp with begun := true, pairs := [(sd0, pd0, [])] } : Cmd).pairs[0]? = some (sd0, pd0, []) ∧
    (sq0.st ≠ .free ∧ sq0.st ≠ .armedIdle) ∧ ({} : SQ).st = .free ∧ ({} : SQ).nextCons = .none := by decide +kernel
/-- A deadline that has been reached. -/
theorem test_hyp_deadline : ({ (rtBlk (rtCmd 0x01 []) []) with time := 9 } : Blk).dlHit { rtCmd 0x01 [] with cd := [0x100, 9] } = true ∧
    (rtBlk (rtCmd 0x01 []) []).dlChecked 0 = true := by decide +kernel
/-- InvalidationsTakeEffect, DispatcherCommandsAct, DispatcherSlotsAreChecked: a slot that passes its checks, for each opcode. -/
def dspCmd (op : Nat) (ext : List W64) : Cmd := { id := 8, ring := 3, phase := .disp, cd := [BitVec.ofNat 64 (op <<< 8), 0], ext := ext }
def dspBlk (m : Cmd) : Blk := { memBlk task0 true with cmds := [m] }
theorem test_hyp_dispReady : DispReady (dspBlk (dspCmd 0x20 [0x21, 0, 0])) 8 0x20 (dspCmd 0x20 [0x21, 0, 0]) :=
  ⟨by decide +kernel, by decide +kernel, by decide +kernel, by decide +kernel, by decide +kernel, by decide +kernel, by decide +kernel⟩
theorem test_hyp_dispSlots : xiBad (dspCmd 0x20 [0x21, 0, 0]) = false ∧ rsBad (dspCmd 0x21 [1]) = false ∧ diBad (dspCmd 0x22 [0x21]) = false ∧
    abBad (dspCmd 0x23 [0x500030001]) = false ∧ anBad (dspCmd 0x24 [0x70001, 3]) = false ∧ (dspCmd 0x24 [0x70001, 3]).anOp = 0 ∧
    fld ((dspCmd 0x20 [0x21]).par 0) 0 4 = 1 ∧ (dspBlk (dspCmd 0x20 [0x21])).dlHit (dspCmd 0x20 [0x21]) = false ∧
    xiBad (dspCmd 0x20 [0x31]) = true ∧ fld ((dspCmd 0x20 [0x22]).par 0) 0 4 ≠ 1 := by decide +kernel
/-- The clauses of RESUME by the generation, of ABORT by the position, of ANCHOR_WAIT by the anchor; an open and a closed use. -/
theorem test_hyp_dispClauses : (Tab.get {} ({} : Blk).ft 0).valid = false ∧ ({ valid := true, gen := 0 } : FtSlot).gen = 0 ∧
    (dspCmd 0x23 [0x500030001]).target = (3, 5) ∧ ahead (({} : Blk).ringHead 3) 5 = 5 ∧ 5 ≤ (({} : Blk).ring 3).size ∧
    ahead (({} : Blk).ringHead 3) 131071 = 131071 ∧ (dspCmd 0x25 [0x70001, 3]).anVal = 3 ∧ ({} : Blk).anchor 7 < 3 ∧
    (dspCmd 0x25 [0x70001, 0]).anVal ≤ ({} : Blk).anchor 7 ∧
    ({ wq := [{ id := 4, pa := 0, bytes := [0], cr := 0 }] } : Blk).useOpen (0, 4) = true ∧ ({} : Blk).useOpen (0, 4) = false := by decide +kernel

/-! ### Rings and commands -/

/-- Ring 3 in use with a tail, its context on a host page; the ring and its registers. -/
def ringBlk (x : Ring) : Blk := (({ memBlk task0 false with rings := [(3, x)], cmds := [] } : Blk).setReg (ringReg 3 0) 1)
/-- A command of opcode NOP whose phase is that of the first lap. -/
def cd0 : List W64 := [0x111, 0, 0, 0, 0, 0, 0, 0]
/-- RingsAreRead: a good and a bad doorbell; an entry of either phase, before and after the last retry; a retry that is due. -/
theorem test_hyp_doorbell : (ringBlk {}).resetting = false ∧ (ringBlk {}).pwr.halt = false ∧ covers .low 0 = true ∧ covers .high 0 = false ∧
    (ringBlk {}).ringEn 3 = true ∧ (ringBlk {}).ctxEn 3 = true ∧ (ringBlk {}).dbBad 3 (fld (halfVal .low 64) 0 17) = false ∧
    (ringBlk {}).dbBad 3 (fld (halfVal .low 65) 0 17) = true := by decide +kernel
def entryRead : Blk × Ds (List W64) := (ringBlk { tail := 1 }).words (.ring 3) 3 { blocks := [(0, .data (sectOf (wordBytes cd0)))] } 0 8
theorem test_hyp_entry : entryRead = (entryRead.1, .ok cd0) ∧ (ringBlk { tail := 1 }).ringReads 3 = true ∧ entryRead.1.ring 3 = { tail := 1 } ∧
    entryRead.1.ringHead 3 = 0 ∧ bit (sectOf (wordBytes cd0)) 4 = phaseAt 6 0 ∧ fld (sectOf (wordBytes cd0)) 5 2 = 0 ∧ 1 ≤ ahead 0 1 := by
  decide +kernel
theorem test_hyp_stalePhase : bit (sectOf (wordBytes (cd0.set 0 0x101))) 4 ≠ phaseAt 6 0 ∧ ({} : Ring).tries < (entryRead.1.setReg 0x20800 4).rf 0x20800 0 8 ∧
    (entryRead.1.setReg 0x20800 0).rf 0x20800 0 8 ≤ ({} : Ring).tries := by decide +kernel
theorem test_hyp_retry : ({ again := some 0 } : Ring).again = some 0 ∧ (ringBlk {}).issues = true ∧
    0 + 64 ≤ ({ ringBlk {} with time := 64 } : Blk).time.toNat := by decide +kernel
/-- CommandsStart: a slot of another version, one with a reserved bit, an opcode that is not assigned, a dispatcher command, a NOP. -/
def newCmd (w : W64) : Cmd := { id := 9, ring := 3, cd := [w, 0, 0, 0, 0, 0, 0, 0] }
def newBlk (w : W64) : Blk := { ringBlk {} with cmds := [newCmd w] }
theorem test_hyp_startBad : (newBlk 0x102).issues = true ∧ (newBlk 0x102).cmd 9 = some (newCmd 0x102) ∧ (newCmd 0x102).phase = .copied ∧
    fld (qw (newCmd 0x102).cd 0) 0 4 ≠ 1 ∧ (newCmd 0x181).cdBad = true ∧ (newCmd 0x301).cdBad = false ∧ opAssigned (newCmd 0x301).op = false := by
  decide +kernel
theorem test_hyp_start : (newBlk 0x101).startBad (newCmd 0x101) = none ∧ (newBlk 0x101).dlHit (newCmd 0x101) = false ∧
    (newBlk 0x101).ringTurn (newCmd 0x101) = true ∧ (newBlk 0x101).startWaits (newCmd 0x101) = false ∧ (newCmd 0x101).isDisp = false ∧
    (newBlk 0x101).chooseCore (newCmd 0x101) = some 0 ∧ (newCmd 0x2021).isDisp = true ∧ (newBlk 0x2021).startBad (newCmd 0x2021) = none ∧
    (∃ b1 v, (newBlk 0x101).shortPath (newCmd 0x101) { blocks := [] } = (b1, .ok v)) :=
  ⟨by decide +kernel, by decide +kernel, by decide +kernel, by decide +kernel, by decide +kernel, by decide +kernel, by decide +kernel, by decide +kernel,
    ds_of (by decide +kernel)⟩
theorem test_hyp_startWaits : ({ newBlk 0x101 with cmds := [{ newCmd 0x101 with id := 8 }, newCmd 0x101] } : Blk).ringTurn (newCmd 0x101) = false ∧
    ({ newBlk 0x101 with time := 5 } : Blk).dlHit { newCmd 0x101 with cd := [0x101, 5] } = true := by decide +kernel
/-- CompletionsAreWritten: a NOP that is done; a record, and a completion word, that can be written to the host. -/
def doneCmd : Cmd := { newCmd 0x101 with phase := .held 0 0, begun := true }
def doneBlk : Blk := { ringBlk {} with cmds := [doneCmd] }
theorem test_hyp_done : doneBlk.live = true ∧ doneBlk.cmd 9 = some doneCmd ∧ doneCmd.served = none ∧ doneBlk.cmdDone doneCmd = true ∧
    doneCmd.park = none ∧ ((doneBlk.progClean doneCmd).addTotals doneCmd).2 = true ∧
    (((doneBlk.progClean doneCmd).addTotals doneCmd).1.cmd 9).isSome = true := by decide +kernel
def rec0 : Rec := { w := [1, 0, 0, 0], caddr := 0x2000, irq := true, cbase := 0x1000, clog := 6, pos := 0 }
def recBlk (l : List Rec) (k : List Rec) : Blk := ringBlk { recs := l, words := k }
theorem test_hyp_record : (∃ b1 ps, (recBlk [rec0] []).xlWrite (.compl 3) 3 (rec0.va 0) (wordBytes ((qw rec0.w 0 ||| 16) :: rec0.w.drop 1)) = (b1, .parts ps)) ∧
    ((recBlk [rec0] []).ring 3).recs = rec0 :: [] ∧ (recBlk [rec0] []).complOpen 3 = true ∧ rec0.caddr ≠ 0 ∧ ((recBlk [rec0] []).ring 3).words = [] :=
  ⟨⟨_, _, rfl⟩, by decide +kernel, by decide +kernel, by decide +kernel, by decide +kernel⟩
theorem test_hyp_word : (∃ b1 ps, (recBlk [] [rec0]).xlWrite (.cword 3) 3 rec0.caddr.toNat (wordBytes [rec0.q0]) = (b1, .parts ps)) ∧
    ((recBlk [] [rec0]).ring 3).words = rec0 :: [] ∧ (recBlk [] [rec0]).complOpen 3 = true ∧ (ringBlk {}).regOpen (ringReg 3 32) = true :=
  ⟨⟨_, _, rfl⟩, by decide +kernel, by decide +kernel, by decide +kernel⟩
/-- RingRegistersEnable: an idle ring, one in use, the fault and event rings off, and a message that is pending and may be sent, or may not. -/
theorem test_hyp_rings : ({} : Blk).regOpen (ringReg 3 0) = true ∧ ({} : Blk).ringEn 3 = false ∧ wrOne .full 1 0 = true ∧ ({} : Blk).ringBusy 3 = false ∧
    (ringBlk {}).ringEn 3 = true ∧ bit (halfVal .low 0) 0 = false ∧ ({} : Blk).regOpen 0x11000 = true ∧ ({} : Blk).rb 0x11000 0 = false ∧
    ({} : Blk).regOpen 0x11010 = true ∧ ({} : Blk).rb 0x11010 0 = false := by decide +kernel
theorem test_hyp_msi : let b := (({} : Blk).setReg (msi1 65) 0x100000000).setReg (msi0 65) 1
    b.regOpen (msi0 65) = true ∧ b.regOpen (msi1 65) = true ∧ (b.fieldWrite (msi0 65) .full 1).rb (msi1 65) 32 = true ∧
    (b.fieldWrite (msi0 65) .full 1).rb (msi0 65) 1 = false ∧ (b.fieldWrite (msi0 65) .full 1).rb (msi0 65) 0 = true ∧
    (b.fieldWrite (msi0 65) .full 2).rb (msi0 65) 0 = false := by decide +kernel

/-! ### Ports, copies, walks, deadlines -/

/-- PortWritesReachMemory: with memory attached the write goes in, without it is refused; a held port; writes on their way; a region. -/
def portBlk : Blk := (((({} : Blk).setReg 0x30040 4).setReg 0x31000 0x1).setReg 0x31008 0x0007000000000002)
theorem test_hyp_portTakes : portBlk.portsTake ∧ portBlk.portRefused 0 0 1 = false ∧ ({} : Blk).portRefused 0 0 1 = true ∧ ({} : Blk).portsTake :=
  ⟨⟨by decide +kernel, by decide +kernel⟩, by decide +kernel, by decide +kernel, ⟨by decide +kernel, by decide +kernel⟩⟩
theorem test_hyp_portHeld : let b : Blk := { pwr := { hold := true } }
    b.resetting = false ∧ b.pwr.st = .run ∧ b.portHeld = true := by decide +kernel
def wr0 : DevWrite := { id := 4, pa := 0, bytes := [7], cr := 0 }
theorem test_hyp_inletAck : ({ inletQ := [(4, 1)] } : Blk).live = true ∧ ({ inletQ := [(4, 1)] } : Blk).passed [4] = true ∧
    ({ inletQ := [(4, 1)], wq := [wr0] } : Blk).wq.find? (fun w => w.id = 4) = some wr0 := by decide +kernel
theorem test_hyp_adapter : portBlk.apRegion 7 0x1FFF 1 = some 0 ∧ portBlk.apRegion 7 0x1FFF 2 = none ∧ portBlk.apRegion 6 0 1 = none ∧
    portBlk.portRefused (portBlk.rf (0x31008 + 16 * 0) 36 4) 0x1FFF 1 = false := by decide +kernel
/-- CopyBlocksLand: a copy of one block inside device memory. -/
def copy0 : Copying := { id := 2, cmd := 7, ctx := 3, c := 0, task := 0, tag := none, src := 0x1000, dst := 0x2000, len := 64 }
def copyBlk : Blk := { memBlk task0 true with copies := [copy0] }
def cpRead := copyBlk.xl (.copy 2) 3 (copy0.lo 0) false
def cpWrite := cpRead.1.xlWrite (.copy 2) 3 (0x2000 + (copy0.lo 0 - 0x1000)) (List.replicate 64 0)
def cpParts : List WPart := [{ t := page true, pa := 0x2000, bytes := List.replicate 64 0 }]
theorem test_hyp_copy : copyBlk.copies.find? (fun x => x.id = 2) = some copy0 ∧ copyBlk.coreLive 0 = true ∧ 0 < copy0.blocks ∧
    copy0.hi 0 - copy0.lo 0 = 64 ∧ cpRead.2 = .ok (page true) 0x1000 ∧ cpWrite.2 = .parts cpParts ∧ copyRefused (page true) 0x1000 cpParts = false ∧
    (cpWrite.1.vread (.copy 2) 3 { blocks := [] } (copy0.lo 0) 64).2 = .bytes (cpParts.flatMap (fun p => p.bytes)) ∧
    copy0.done.length + 1 = copy0.blocks := by decide +kernel
/-- WalksComplete: two pointers and a leaf; a first descriptor that is not valid; a walk that an invalidation has marked. -/
def walkBlk (discard : Bool) : Blk := { walks := [{ ctx := 3, gran := 0, reqs := [(.desc 7, 0x1000, false)], discard := discard }] }
theorem test_hyp_walk : (walkBlk false).live = true ∧
    ((walkBlk false).walks.take 16).find? (fun w => w.ctx = 3 && w.gran = 0) = some { ctx := 3, gran := 0, reqs := [(.desc 7, 0x1000, false)] } ∧
    (walkBlk false).walk false false 5 ((walkBlk false).cachedDescs 3 0 ++ [.word 1, .word 1, .word 0x23]) = .ok 3 0x23 ∧
    (walkBlk false).walk false false 5 ((walkBlk false).cachedDescs 3 0 ++ [.word 0]) = .fail 1 5 0 ∧
    (walkBlk false).endedOut (.desc 7) = none ∧ (walkBlk false).rb 0x11000 0 = false ∧
    (walkBlk true).walk false false 5 [.word 0] ≠ .short := by decide +kernel
/-- DeadlinesAndBelays: a command past its deadline with a pass that has unclosed bags; a parked pass that has settled; a parked
program. -/
def dlCmd (w : W64) : Cmd := { id := 7, ring := 3, phase := .held 0 0, cd := [w, 5, 0, 0, 0, 0, 0, 0] }
def dlBlk (w : W64) : Blk := { (strBlk sq0) with cmds := [dlCmd w], time := 5 }
theorem test_hyp_deadlineNow : (dlBlk 0x1001).live = true ∧ (dlBlk 0x1001).cmd 7 = some (dlCmd 0x1001) ∧ (dlBlk 0x1001).dlNow (dlCmd 0x1001) = true ∧
    (dlCmd 0x1001).dsub = false ∧ (dlCmd 0x41001).dsub = true ∧ (dlBlk 0x41001).dlNow (dlCmd 0x41001) = true ∧
    (dlBlk 0x41001).poolPasses (dlCmd 0x41001) = [(0, 2)] ∧ ((dlBlk 0x41001).sq 0 2).unclosed = [0, 1] ∧
    ((dlBlk 0x41001).sq 0 2).tab.defmode = false := by decide +kernel
theorem test_hyp_belay : (strBlk { sq0 with st := .parked, park := some (0, 0) }).passSettled 0 2 = true ∧ sq0.ended = false ∧
    sq0.resumed = false ∧ (∀ u ∈ ((strBlk sq0).core 0).trk, u.q = 2 → u.camp = none) := by decide +kernel
theorem test_hyp_parked : let b := strBlk sq0 |>.updTask 0 0 (fun x => { x with parked := some (4, 1) })
    (b.sq 0 16).st ≠ .parked ∧ b.taskCmd 0 0 = some { id := 7, ring := 3, phase := .held 0 0 } ∧
    (b.parkedOps 0 0 { id := 7, ring := 3, phase := .held 0 0 }).find? (fun x => !b.belayed.contains (128, x.2.1.1, x.2.1.2)) =
      some (4, (4, 1), 0x40, 0, []) := by decide +kernel
/-- RegisterWritesFollowAccessTypes: each kind of access; a ring in use; a tier size before and after its first write. -/
theorem test_hyp_access : accessHalf 0x1102 4 = none ∧ accessHalf 0x1100 8 = some .full ∧ accessHalf 0x1104 4 = some .high ∧
    (regAt 0x1100).isSome = true ∧ ({} : Blk).regOpen 0x1100 = true ∧ ({ pwr := { st := .nap } } : Blk).regOpen 0x1100 = false ∧
    (ringBlk {}).ringEn 3 = true ∧ ({} : Blk).regOpen 0x30040 = true ∧ 0x30040 ∉ ({} : Blk).locked ∧
    0x30040 ∈ ({ locked := [0x30040] } : Blk).locked := by decide +kernel

/-! ### Array, tiles, chain -/

def withCore (f : Core → Core) : Blk := (strBlk sq0).updCore 0 f
/-- ArrayWorksOnPlanes, loading: a plane of bag gradients; with another core's plane that joins it. -/
def ldPlane : Plane := { st := .loading, key := [0], src := .grad 2 0 [] }
def ldBlk : Blk := (withCore (fun k => { k with planes := [(0, ldPlane)] })).updCore 1 (fun k => { k with planes := [(1, { ldPlane with joined := true })] })
theorem test_hyp_load : ldBlk.coreLive 0 = true ∧ ldBlk.coreRst 0 = false ∧ (ldBlk.core 0).plane 0 = ldPlane ∧ ldPlane.joined = false ∧
    isDs (ldBlk.planeData 0 { blocks := [] } ldPlane) = true ∧ ldPlane.key.head? = some 0 ∧ ldBlk.joiners 0 ldPlane.key = [(1, 1)] := by
  decide +kernel
/-- Issue: an instruction of bag gradients whose plane is resident. -/
def grInstr : AInstr := { id := 1, kind := .grad 2, task := 0, cmd := 7, src := .grad 2 0 [], key := [6, 2, 0] }
def isBlk : Blk := withCore (fun k => { k with iq := [grInstr], planes := [(1, { st := .resident, key := [6, 2, 0], src := .grad 2 0 [] })] })
def isBlk1 : Blk := interNext 16 0 ((((List.range 20).foldl (fun b q => (b.batchQueue 0 q).batchGrad 0 q) (isBlk.arraySweep 0)).batchPlan 0).updCore 0
  (fun k => { k with flush := false }))
theorem test_hyp_arrayIssue : isBlk.unitIssues 0 = true ∧ isBlk.build.arrays = true ∧ isBlk1.qHeld 4 0 0 = false ∧ (isBlk1.core 0).head = some grInstr ∧
    isBlk1.arrayLocks 0 grInstr = (isBlk1, true) ∧ isBlk1.planeKey 0 grInstr.src = (isBlk1, .ok [6, 2, 0]) ∧ (isBlk1.core 0).planeOf [6, 2, 0] = some 1 ∧
    ((isBlk1.core 0).plane 1).st = .resident ∧ (isBlk1.core 0).iq.map (fun x => x.issued) = [false] := by decide +kernel
theorem test_hyp_arrayOperands : Blk.xlWrites (.plane 0) 3 [] isBlk1 = (isBlk1, .ok []) ∧
    isDs (isBlk1.actRows 0 { blocks := [] } grInstr) = true := by decide +kernel
/-- Wavefronts: a plane that is not checked, and one that is, for an integer MATX into tile 2. -/
def adT : List W64 := [BitVec.ofNat 64 (1 + 2 <<< 36 + 7 <<< 39), 0x1000, 64, 0x2000, 64, 0, 0, 0]
def mxInstr : AInstr := { id := 1, kind := .matx, task := 0, cmd := 7, ad := adT, rows := [[2, 3]], plane := 0, issued := true, fmt := adFmt adT }
def wvBlk (ch : Bool) : Blk := withCore (fun k => { k with iq := [mxInstr], planes := [(0, { st := .resident, w := [[5], [7]], checked := ch })], lastPlane := some 0 })
theorem test_hyp_wavefront : (∀ m ∈ (wvBlk true).cmds, m.unitReady = []) ∧ ((wvBlk true).core 0).iq.find? (fun a => a.issued && !a.done) = some mxInstr ∧
    (((wvBlk true).core 0).plane 0).checked = true ∧ (((wvBlk false).core 0).plane 0).checked = false ∧ (((wvBlk false).core 0).plane 0).retried = false ∧
    fmtInt (adFmt adT) = true ∧ adScale adT = false ∧ adAcc adT = false ∧ adDlo adT < 6 ∧ adDhi adT = 7 ∧ (wvBlk true).rb (coreReg 0 0x400) 0 = true ∧
    ((wvBlk true).setReg (coreReg 0 0x400) 0).rb (coreReg 0 0x400) 0 = false := by decide +kernel
/-- 2·5 + 3·7 = 31. -/
theorem test_wavefront_dot : ((after (exec (.wavefrontCommit 0 .none) (st (wvBlk true)))).tile 0 2).at 0 = 31 := by decide +kernel
/-- ArrayIsKeptInOrder: requests on a free, an exclusive and a shared tile buffer; a wait that is a stalemate; an idle array; a row that
waits; a multicast E that is late. -/
def req0 (w : Bool) : LockReq := { task := 1, unit := 5, write := w, since := 0 }
def tlBlk (t : Tile) : Blk := { withCore (fun k => { k with tiles := [(2, t)], lastPlane := some 0, ramp := .full, duty := 16, feed := [{ q := 2, bag := 0, v := [] }] })
  with time := 100 }
theorem test_hyp_locks : (tlBlk { waits := [req0 true] }).coreLive 0 = true ∧ ((tlBlk { waits := [req0 true] }).tile 0 2).waits = req0 true :: [] ∧
    (∀ q < 20, ((tlBlk {}).sq 0 q).cons.tb ≠ some 2) ∧ ({ waits := [req0 false] } : Tile).lock = .free ∧ (req0 false).write = false := by decide +kernel
def staleTile : Tile := { lock := .exclusive, owner := 0, unit := 3, waits := [req0 true] }
theorem test_hyp_stalemate : let b := (tlBlk staleTile).setReg (coreReg 0 0x408) 50
    staleTile.waits.find? (fun r => !r.told && (staleTile.holder r.task).isSome && decide (r.since + b.rf (coreReg 0 0x408) 0 32 < b.time.toNat)) =
      some (req0 true) ∧ b.rf (coreReg 0 0x408) 0 32 ≠ 0 ∧ staleTile.holder 1 = some 0 := by decide +kernel
theorem test_hyp_idleArray : let b := (tlBlk {}).setReg (coreReg 0 0x400) 0x100
    b.unitIssues 0 = true ∧ (b.core 0).arrayIdle = true ∧ (b.core 0).lastPlane.isSome = true ∧ (b.core 0).ramp ≠ .gated ∧
    b.rf (coreReg 0 0x400) 8 8 ≠ 0 ∧ (b.core 0).feedFrom + max 16 (b.rf (coreReg 0 0x400) 32 16) ≤ b.time.toNat ∧
    (∃ f ∈ (b.core 0).feed, f.sent = false) := by decide +kernel
def emcTab : TableCopy := { fpTab with td := fpTab.td.set 6 0x9000, smd := [0x5040000000011, 0, 0, 0, 0, 0, 0x0000003200000000, 0] }
def emcPlane : Plane := { st := .loading, src := .exp emcTab 0 false }
theorem test_hyp_ewait : let b := { withCore (fun k => { k with planes := [(0, emcPlane)] }) with time := 50 }
    (b.core 0).plane 0 = emcPlane ∧ b.emcWaits emcTab emcPlane = true ∧ emcPlane.loadFrom + fld (qw emcTab.smd 6) 32 32 ≤ b.time.toNat ∧
    ((b.core 0).plane 1).st ≠ .loading := by decide +kernel
/-- ChainOperationsRun: an operation that is ready, one after a first pass, one whose writes are acknowledged. -/
def chOp : ChainOp := { id := 1, task := 0, cmd := 7, tag := 2, ctx := 3, vd := vd0 }
def chBlk (o : ChainOp) : Blk := withCore (fun k => { k with ch := [o] })
theorem test_hyp_chainStart : let b1 := (chBlk chOp).arraySweep 0
    (chBlk chOp).unitIssues 0 = true ∧ (∀ x ∈ (b1.core 0).ch, x.running = false) ∧ b1.qHeld 3 0 0 = false ∧
    ((List.range 4).map (fun i => ((b1.core 0).chRR + 1 + i) % 4)).findSome? (fun t =>
      (b1.core 0).ch.find? (fun o => o.task = t && (b1.core 0).chainReady o)) = some chOp ∧
    vdIsrc vd0 ≠ 2 ∧ vdOdst vd0 ≠ 1 ∧ Blk.slotReads 0 chOp { blocks := [] } chOp.qs b1 = (b1, .ok []) := by decide +kernel
/-- One CVT stage that quantises to int8 with scales that a first pass finds. -/
def qs0 : QsdUse := { stage := 0, va := 0x6000, hdr := [0x100000001], scales := none, xs := [(0, 0x405FC00000000000)] }
def chOp1 : ChainOp := { chOp with vd := vd0.set 8 0x000200000014021B, running := true, pass1 := true, w := 1, chunks := 1, qs := [qs0] }
theorem test_hyp_pass1 : (chBlk chOp1).unitIssues 0 = true ∧
    ((chBlk chOp1).core 0).ch.find? (fun o => o.running && o.pass1 && o.chunks ≤ o.w) = some chOp1 ∧ chOp1.need = some qs0 ∧
    (∃ b1 ps, Blk.xlWrites (.chain 0 0) 3 [(0x6000 + 64, scaleBytes ((List.range (fld (qw qs0.hdr 0) 32 32)).map (fun g =>
      firstScale (stTgt (vdStage chOp1.vd 0)) (qs0.group g))))] (chBlk chOp1) = (b1, .ok ps)) :=
  ⟨by decide +kernel, by decide +kernel, by decide +kernel, ds_of (by decide +kernel)⟩
/-- The scale of the greatest value 127 over int8 is 1. -/
theorem test_firstScale : firstScale 5 [0x405FC00000000000, 0x4000000000000000] = 0x3F800000 := by decide +kernel
def chOp2 : ChainOp := { chOp with running := true, w := 1, chunks := 1, closed := true }
theorem test_hyp_chainEnd : (chBlk chOp2).coreLive 0 = true ∧ (chBlk chOp2).coreRst 0 = false ∧
    ((chBlk chOp2).core 0).ch.find? (fun o => o.running && !o.pass1 && o.chunks ≤ o.w && o.park.isNone) = some chOp2 ∧
    ((chBlk chOp2).core 0).ch.find? (fun x => x.id = chOp2.id) = some chOp2 ∧ chOp2.qs = [] ∧ (chBlk chOp2).passed chOp2.ids = true := by decide +kernel

/-! ### Contributions, fences, camps -/

/-- ContributionsMerge: a pass whose first element can go; an entry of the coalescer. -/
def scElem : Elem := { ord := 0, kind := .row 4, wt := 0 }
def ctBlk : Blk := strBlk { scSq with cons := .scat scd0 7 0 none, ready := [scElem], nextRes := 16, ends := [16], entries := 2, ofs0 := some 0,
                                      terms := [(0, 16)], grads := [(0, 16, [0x3F800000, 0, 0, 0])] }
theorem test_hyp_contribution : ctBlk.live = true ∧ ctBlk.coreOk 0 = true ∧ (ctBlk.sq 0 2).cons.isScat = true ∧ (ctBlk.sq 0 2).ended = false ∧
    ctBlk.unitIssues 0 = true ∧ (ctBlk.sq 0 2).st = .active ∧ ((ctBlk.pass 0 2 { blocks := [] }).sq 0 2).ready = scElem :: [] ∧
    ((ctBlk.pass 0 2 { blocks := [] }).scatElem 0 2 { blocks := [] } scElem).2 = .moved := by decide +kernel
def co0 : CoEntry := { table := 0, row := 4, chunk := 0, tally := 1, lanes := [0x3F800000], cnt := 1 }
theorem test_hyp_coalescer : ({ co := [co0] } : Blk).co.find? (fun e => e.is 0 4 0 1) = some co0 ∧ co0.log = none ∧
    ({} : Blk).co.find? (fun e => e.is 0 4 0 1) = none := by decide +kernel
/-- 1 + 2 = 3 in a lane. -/
theorem test_coalescer_adds : ((({ co := [co0] } : Blk).coAdd .fp32 0 4 0 1 [0x40000000]).1.co.map (fun e => e.lanes)) = [[0x40400000]] := by decide +kernel
/-- FencesGoThroughTheirPhases and RowsAreApplied: a fence on tally 0 in each phase, with and without what it waits for. -/
def fn0 (p : FPhase) (d : List W64) : Fence :=
  { id := 1, cmd := 7, c := 0, task := 0, tag := none, ctx := 3, fd := d, list := [[0, 0]], tabs := [{ trTab with td := trTab.td.set 0 0x840000000361, opb := opb0 }], phase := p }
def fnBlk (f : Fence) : Blk := { memBlk task0 true with fences := [f], co := [{ co0 with tally := 0, lanes := [0x3F800000, 0, 0, 0] }] }
def fdOf (w0 w1 : W64) : List W64 := [w0, w1, 0x5000, 0x6000, 0, 0, 0, 0]
theorem test_hyp_seal : (fnBlk (fn0 .wait (fdOf 1 0))).fence 1 = some (fn0 .wait (fdOf 1 0)) ∧ (fnBlk (fn0 .wait (fdOf 1 0))).live = true ∧
    (fnBlk (fn0 .wait (fdOf 1 0))).tallyBusy (fn0 .wait (fdOf 1 0)) = false ∧ fdForce (fdOf 0x11 0) = true ∧ fdForce (fdOf 1 0) = false ∧
    fdNsend (fdOf 1 0) = 0 ∧ fdExploc (fdOf 1 0) ≤ (fnBlk (fn0 .wait (fdOf 1 0))).tally (fdTally (fdOf 1 0)) ∧ fdNsend (fdOf 0x100000001 0) ≠ 0 ∧
    (fnBlk (fn0 .wait (fdOf 1 5))).tally 0 < fdExploc (fdOf 1 5) ∧ (∀ x ∈ (fnBlk (fn0 .seal (fdOf 1 0))).fences, x.phase ≠ .apply) ∧
    fdDrop (fdOf 0x21 0) = true ∧ fdDrop (fdOf 1 0) = false := by decide +kernel
def apF : Fence := { fn0 .apply (fdOf 1 0) with todo := [{ table := 0, row := 4 }] }
theorem test_hyp_applyEnd : let f := fn0 .apply (fdOf 1 0)
    let w := (fnBlk f).xlWrite (.report 1) 3 (fdRbase f.fd) f.report
    f.todo = [] ∧ (∀ t ∈ f.tabs, t.compact = false) ∧ (match w.2 with | .parts ps => decide ((w.1.freed.writeParts 7 ps).1.fence 1 = some f) | _ => false) = true := by
  decide +kernel
theorem test_hyp_fenceDone : let f := fn0 .done (fdOf 1 0)
    f.writes = [] ∧ (fnBlk f).passed f.ids = true ∧ (∀ m ∈ f.mcs, Tab.get 0 (fnBlk f).lx.mcast m = 0) ∧ f.abortLate = false ∧
    (Blk.statAdds (.report 1) 3 (f.tabs.flatMap f.totals) (fnBlk f)).2 = .ok [] := by decide +kernel
def apTab : TableCopy := { trTab with td := trTab.td.set 0 0x840000000361, opb := opb0 }
def apRead := (fnBlk apF).rowRead 1 apTab { blocks := [] } 4
def apEnc := apRead.1.rowUpdate apF apTab [0, 0] 4 { place := .home, row := List.replicate 16 0, sc := [], s0 := [], s1 := [] }
def apWr := Blk.xlWrites (.entry 1) 3 (rowWrites apTab 4 false apEnc none) apRead.1
theorem test_hyp_rowApply : apF.tabs.find? (fun t => t.num = 0) = some apTab ∧ apF.list.find? (fun e => leTable e = 0) = some [0, 0] ∧ apTab.reprows = 0 ∧
    apRead.2 = .ok { place := .home, row := List.replicate 16 0, sc := [], s0 := [], s1 := [] } ∧
    (match apWr.2 with | .ok ps => decide ((apWr.1.writeParts 7 ps).1.fence 1 = some apF) | _ => false) = true := by decide +kernel
theorem test_hyp_rowHold : ({ apF with tabs := [] } : Fence).tabs.find? (fun t => t.num = 0) = none ∧
    ({ apF with writes := [{ table := 0, row := 4, ids := [], camp := none }] } : Fence).writes.find? (fun w => w.table = 0 && w.row = 4) =
      some { table := 0, row := 4, ids := [], camp := none } := by decide +kernel
/-- CampsMoveThroughTheirStates: a camp in each state; a window that is due; a sweep. -/
def camp0 (x : CState) : Camp := { home := 0x100000000000, sect := 0, slot := 3, bucket := 0, way := 0, st := x, bytes := 64, rowBytes := 64, sent := 0 }
def cmpBlk (x : CState) : Blk := (({ mig := { camps := [camp0 x] } } : Blk).setReg 0x30418 3)
theorem test_hyp_camps : (cmpBlk .filling).camp 0x100000000000 = some (camp0 .filling) ∧ (cmpBlk .filling).live = true ∧ (camp0 .filling).copying = true ∧
    (cmpBlk .filling).campBadSrc (camp0 .filling) false = false ∧ (camp0 .filling).updates = 0 ∧
    (cmpBlk .draining).camp 0x100000000000 = some (camp0 .draining) ∧ (cmpBlk .draining).campBadSrc (camp0 .draining) true = false ∧
    (camp0 .draining).lookups = 0 := by decide +kernel
theorem test_hyp_migrator : (cmpBlk .live).issues = true ∧ (cmpBlk .live).diren = true ∧ (cmpBlk .live).rb 0x30418 1 = true ∧
    (cmpBlk .live).mig.recov = false ∧ (cmpBlk .live).mig.window ≤ (cmpBlk .live).time.toNat / 1024 ∧
    (∀ e ∈ (cmpBlk .live).mig.camps, e.st = .live) ∧ ({ mig := { recov := true } } : Blk).mig.recov = true := by decide +kernel

/-! ### Queues and links -/

/-- QueuesKeepOrderAndReset: an empty and a filled FIFO; room for the words of a write; an open message; a waiting half; a reset. -/
def cqBlk : Blk := ({} : Blk).updCore 7 (fun k => { k with couOut := [(5, 8), (6, 4)], couOpen := some 3, couHalf := some (9, 7, 0), couIn := [none, some 1] })
theorem test_hyp_courierRegs : cqBlk.resetting = false ∧ cqBlk.pwr.st ≠ .nap ∧ cqBlk.coreOk 7 = true ∧ cqBlk.qHeld 9 7 7 = false ∧
    (cqBlk.core 7).couOut = (5, 8) :: [(6, 4)] ∧ (({} : Blk).core 7).couOut = [] ∧ cqBlk.regOpen (couReg 7 24) = true ∧ 2 ≤ cqBlk.couFree 7 ∧
    ({ qrst := [{ cls := 10, index := 7, core := 7, kind := 0 }] } : Blk).couFree 7 = 0 ∧ cqBlk.regOpen (couReg 7 32) = true ∧
    (cqBlk.core 7).couOpen = some 3 ∧ (({} : Blk).core 7).couOpen = none := by decide +kernel
theorem test_hyp_courierHalf : (cqBlk.core 7).couHalf = some (9, 7, 0) ∧ cqBlk.live = true ∧
    0 + max 16 (cqBlk.rf (couReg 7 40) 0 16) ≤ ({ cqBlk with time := 65535 } : Blk).time.toNat ∧
    cqBlk.time.toNat < 0 + max 16 (cqBlk.rf (couReg 7 40) 0 16) := by decide +kernel
theorem test_hyp_queueReset : ({} : Blk).qExists 9 7 7 = true ∧ (0 : BitVec 2) ≠ 3 ∧ ({} : Blk).qHeld 9 (qCore 9 7 7) 7 = false ∧
    ({ qrst := [{ cls := 9, index := 7, core := 7, kind := 0 }] } : Blk).qrst = [{ cls := 9, index := 7, core := 7, kind := 0 }] ∧
    qCore 9 7 7 = 7 := by decide +kernel

/-- Port 3 in a state, enabled, at T-tick 3,000,000. -/
def ptBlk (x : Port) : Blk := { ({ lx := { ports := [(3, x)] } } : Blk).setReg (pctrl 3) 3 with time := 3000000 }
/-- PortsChangeState: enabled and disabled, before and after each time; a port with nothing in flight. -/
theorem test_hyp_pctrl : (ptBlk {}).portOn 3 = true ∧ (ptBlk {}).regOpen (pctrl 3) = true ∧
    (((ptBlk {}).fieldWrite (pctrl 3) .low 3).setFld (pctrl 3) 5 2 0).portEn 3 = true ∧
    (((ptBlk {}).fieldWrite (pctrl 3) .low 0).setFld (pctrl 3) 5 2 0).rb (pctrl 3) 0 = false ∧ bit (7 : W64) 2 = true ∧
    (((ptBlk {}).fieldWrite (pctrl 3) .low 7).setFld (pctrl 3) 5 2 0).portEn 3 = true ∧ ({} : Port).oerst = true := by decide +kernel
theorem test_hyp_quiet : ({ st := .active } : Port).quiet := ⟨fun _ h => by simp at h, fun _ h => by simp at h⟩
theorem test_hyp_portTimes : (ptBlk { oerst := false }).portEn 3 = true ∧ 0 + 25000 ≤ (ptBlk {}).time.toNat ∧
    (ptBlk {}).time.toNat < 2990000 + 25000 ∧ 0 + 2500000 ≤ (ptBlk {}).time.toNat ∧ 0 + 250000 ≤ (ptBlk {}).time.toNat ∧
    0 + 500000 ≤ (ptBlk {}).time.toNat ∧ (1 : BitVec 3).getLsbD 0 = true ∧ (2 : BitVec 3).getLsbD 0 = false := by decide +kernel
/-- A port in RETRAIN with its partner's identity and two flits that are not acknowledged. -/
def rtPort : Port := { st := .retrain, locked := true, pnode := 9, pport := 1, replayBuf := [{ seq := 4, pool := 0, enc := none, bytes := [] },
  { seq := 5, pool := 0, enc := none, bytes := [] }] }
theorem test_hyp_resync : rtPort.replayBuf.findIdx? (fun f => f.seq = 4) = some 0 ∧ (∀ f ∈ rtPort.replayBuf, f.seq ≠ 3) ∧
    ((8 : BitVec 16).toNat ≠ rtPort.pnode) ∧ (9 : BitVec 16).toNat = rtPort.pnode ∧ (1 : BitVec 3).toNat = rtPort.pport := by decide +kernel
/-- FlitsCarryMessages: a flit whose CRC is right: its header, payload and padding. -/
def mkFlit (h : W64) (l : List Byte) : Flit :=
  let bs := leBytes 8 h.toNat ++ l ++ List.replicate (244 - l.length) 0
  { bits := BitVec.ofNat 2048 (leNat bs + (crc32 bs).toNat <<< 2016), badFec := false, corrected := 0 }
set_option maxRecDepth 100000 in
/-- The CRC of the nine digits (R384). -/
theorem test_crc32 : crc32 [0x31, 0x32, 0x33, 0x34, 0x35, 0x36, 0x37, 0x38, 0x39] = 0xCBF43926 := by decide +kernel
def rdMsg : List W64 := [0x0006000900100401, 0x7]
def rdFlit : Flit := mkFlit 1 (wordBytes rdMsg)
set_option maxRecDepth 100000 in
theorem test_hyp_flit : crc32 (Flit.bytes rdFlit.bits 0 252) = rdFlit.bits.extractLsb' 2016 32 ∧ rdFlit.bits.extractLsb' 0 64 = (1 : W64) ∧
    fld (1 : W64) 0 2 = 1 ∧ flitPool 1 = some 0 ∧ fld (1 : W64) 8 16 = ({} : Port).rxSeq ∧ fld (0x101 : W64) 8 16 ≠ ({} : Port).rxSeq ∧
    ({} : Port).openFlit 1 rdFlit.bits = some (Flit.bytes rdFlit.bits 8 242) ∧ ({} : Port).openFlit 0x21 rdFlit.bits = none ∧
    cutMsgs false 32 ([], false) (Flit.bytes rdFlit.bits 8 242) [] 0 = ([{ words := rdMsg }], ([], false), 16, 0) ∧
    ({ words := rdMsg } : LMsg).fits 0 = true := by decide +kernel
set_option maxRecDepth 100000 in
theorem test_hyp_badFlit : crc32 (Flit.bytes 1 0 252) ≠ (1 : BitVec 2048).extractLsb' 2016 32 ∧
    ((3000000 :: ({} : Port).fecWin.filter (fun t => decide (3000000 < t + 250000))).length ≤ 64) ∧
    64 < (3000000 :: (List.replicate 64 2999999).filter (fun t => decide (3000000 < t + 250000))).length := by decide +kernel
set_option maxRecDepth 100000 in
theorem test_hyp_creditFlit : fld (0x0000600000000000 : W64) 0 2 = 0 ∧ fld (0x0000600000000000 : W64) 42 2 = 0 ∧
    fld (0x0000080000000000 : W64) 42 2 = 2 ∧ fld (2 : W64) 0 2 = 2 ∧
    (Flit.bytes (mkFlit 2 [2, 1]).bits 8 24).take 1 = [2] := by decide +kernel
theorem test_hyp_replay : ({ rtPort with st := .active } : Port).progress + (ptBlk { rtPort with st := .active }).rf 0x70010 32 16 ≤
      (ptBlk rtPort).time.toNat ∧ rtPort.replayBuf ≠ [] ∧ (∀ f ∈ rtPort.replayBuf, f.sends < 9) ∧
    (∃ f ∈ [({ seq := 4, pool := 0, enc := none, bytes := [], sends := 9 } : TxFlit)], 9 ≤ f.sends) := by decide +kernel
def txMsg0 : TxMsg := { pool := 0, bytes := List.replicate 300 1 }
theorem test_hyp_send : ({ st := .active, tx := [txMsg0], credit := [1, 0, 0, 0, 0] } : Port).credit.getD txMsg0.pool 0 = 1 ∧ txMsg0.conf = false ∧
    ({} : Port).resend = [] ∧ ({} : Port).replayBuf.length < 4096 := by decide +kernel
def rq0 : LReq := { tag := 11, cmd := some 7, kind := .write (some 7), sentAt := 0, port := 3 }
theorem test_hyp_request : let b := { ptBlk {} with lx := { (ptBlk {}).lx with reqs := [rq0] } }
    b.lx.reqs.find? (fun r => r.tag = 11) = some rq0 ∧ rq0.sentAt + b.rf 0x70010 0 32 ≤ b.time.toNat ∧
    ({ b with time := 0 } : Blk).time.toNat < 1 + b.rf 0x70010 0 32 := by decide +kernel
def escBlk : Blk :=
  { ptBlk {} with lx := { ports := [(3, { st := .active, tx := [txMsg0], credit := [0, 0, 0, 0, 0] })], rt := [(0x0101, 0xC00)] } }
theorem test_hyp_escape : (escBlk.port 3).tx.find? (fun m => m.pool = 0) = some txMsg0 ∧ (escBlk.port 3).credit.getD 0 0 = 0 ∧ txMsg0.part = false ∧
    txMsg0.bytes.headD 0 ≠ 6 ∧ bit (Tab.get 0 escBlk.lx.rt txMsg0.dst) 11 = true ∧ fld (Tab.get 0 escBlk.lx.rt txMsg0.dst) 8 3 = 4 := by decide +kernel
/-- A request for node 6 in pool 0 of port 3, with a route by port 4's escape and with none. -/
def fwBlk (rt : List (Nat × W64)) : Blk := { ptBlk {} with lx := { ports := [(3, { st := .active, rx := [(0, { words := rdMsg })] })], rt := rt } }
theorem test_hyp_transit : HeadIs (fwBlk []) 3 0 { words := rdMsg } := ⟨by decide +kernel, by decide +kernel, by decide +kernel⟩
theorem test_hyp_transitHop : ({ words := rdMsg } : LMsg).ty ≠ 6 ∧ ({ words := rdMsg } : LMsg).dst ≠ (fwBlk []).node ∧ ({ words := rdMsg } : LMsg).conf = false ∧
    ({ words := rdMsg } : LMsg).hops ≠ 0 ∧ (fwBlk []).hop { words := rdMsg } 0 = none ∧ (fwBlk [(6, 0xC00)]).hop { words := rdMsg } 0 = some (4, 2) := by
  decide +kernel
/-- LinkTablesAreAddressed: each table, and an index beyond each; the management bus. -/
theorem test_hyp_tables : ({} : Blk).regOpen 0x70020 = true ∧ ({} : Blk).regOpen 0x70030 = true ∧ ({} : Blk).regOpen 0x70040 = true ∧
    (({} : Blk).fieldWrite 0x70020 .full 0x30400).rf 0x70020 16 3 = 3 ∧ (({} : Blk).fieldWrite 0x70020 .full 0x30400).rf 0x70020 0 16 = 1024 ∧
    (({} : Blk).fieldWrite 0x70020 .full 0x10FFF).rf 0x70020 0 16 = 4095 ∧ (({} : Blk).fieldWrite 0x70020 .full 0x00EFF).rf 0x70020 16 3 = 0 ∧
    (({} : Blk).fieldWrite 0x70020 .full 0x2FFFF).rf 0x70020 16 3 = 2 ∧ ({ build := { litha := 0 } } : Blk).regOpen 0x70020 = false ∧
    wrOne .full 0x1000000 24 = true ∧ (({} : Blk).setReg 0x70040 0x80).rb 0x70040 7 = true := by decide +kernel

/-! ### Requests and responses of partner chips -/

/-- A message of a type for this chip, from node 6, with tag 7. -/
def lxMsg (ty hi : Nat) (body : List W64) : LMsg :=
  { words := BitVec.ofNat 64 (ty + 2 <<< 9 + (16 + 8 * body.length) <<< 16 + 6 <<< 32) :: BitVec.ofNat 64 (7 + hi <<< 32) :: body }
/-- The message is at the head of pool i of port 3; receive window 5 opens four pages; group 2 is delivered here, group 3 goes to port 4. -/
def srBlk (i : Nat) (m : LMsg) (rq : List LReq) : Blk :=
  { ({ lx := { ports := [(3, { st := .active, rx := [(i, m)] }), (4, { st := .active })], rwt0 := [(5, 0x1F)], rwt1 := [(5, 0x0005000300000004)],
               mc := [(2, 0x300), (3, 0x210)], reqs := rq } } : Blk).setReg 0x30040 4 with time := 3000000 }
theorem test_hyp_rd : RequestIs (srBlk 0 (lxMsg 1 5 [0x800000000]) []) 3 0 1 (lxMsg 1 5 [0x800000000]) :=
  ⟨⟨by decide +kernel, by decide +kernel, by decide +kernel⟩, by decide +kernel, by decide +kernel, .inr (by decide +kernel), by decide +kernel, .inl rfl⟩
/-- PartnerRequestsAreServed: an RD that is well formed and inside its window, beyond it, and of a window that is not open. -/
theorem test_hyp_rdClauses : (lxMsg 1 5 [0x800000000]).len = 24 ∧ rwBad 0 8 = false ∧ rwBad 4 8 = true ∧ rwBad 4088 16 = true ∧
    ((srBlk 0 (lxMsg 1 5 [0x800000000]) []).consume 3 0).rwtAddr 5 1 0x3FF8 8 false = (0, 0x3FF8) ∧
    ((srBlk 0 (lxMsg 1 5 [0x800000000]) []).consume 3 0).rwtAddr 5 1 0x4000 8 false = (0x32, 0) ∧
    bit (((srBlk 0 (lxMsg 1 5 [0x800000000]) []).consume 3 0).rwt 6).1 0 = false ∧
    ((srBlk 0 (lxMsg 1 5 [0x800000000]) []).consume 3 0).devBad 0x3FF8 8 = false ∧ bit (1 : W64) 1 = false := by decide +kernel
theorem test_hyp_wr : RequestIs (srBlk 0 (lxMsg 2 5 [0x800000000, 9]) []) 3 0 2 (lxMsg 2 5 [0x800000000, 9]) ∧
    (lxMsg 2 5 [0x800000000, 9]).len = 24 + 8 ∧
    ((srBlk 0 (lxMsg 2 5 [0x800000000, 9]) []).consume 3 0).rwtAddr 5 2 0 8 false = (0, 0) :=
  ⟨⟨⟨by decide +kernel, by decide +kernel, by decide +kernel⟩, by decide +kernel, by decide +kernel, .inr (by decide +kernel), by decide +kernel, .inl rfl⟩,
    by decide +kernel, by decide +kernel⟩
theorem test_hyp_remoteAsig : RequestIs (srBlk 0 (lxMsg 5 7 [3]) []) 3 0 5 (lxMsg 5 7 [3]) ∧ (lxMsg 5 7 [3]).len = 24 ∧ (lxMsg 5 7 [3]).hi 15 2 < 2 :=
  ⟨⟨⟨by decide +kernel, by decide +kernel, by decide +kernel⟩, by decide +kernel, by decide +kernel, .inr (by decide +kernel), by decide +kernel, .inl rfl⟩,
    by decide +kernel, by decide +kernel⟩
/-- A remote signal adds its value to its anchor. -/
theorem test_remoteAsig : (after (exec (.remoteAsig 3) (st (srBlk 0 (lxMsg 5 7 [3]) [])))).anchor 7 = 3 := by decide +kernel
def mcMsg (g : Nat) : LMsg := lxMsg 6 g [5, 0x800000000, 0x1122334455667788]
theorem test_hyp_mcast : RequestIs (srBlk 0 (mcMsg 2) []) 3 0 6 (mcMsg 2) ∧ (mcMsg 2).hi 0 10 = 2 ∧ (mcMsg 2).hi 10 2 = 0 ∧
    (∀ q, q < 8 → q ≠ 3 → bit (0x300 : W64) q = false) ∧ bit (0x300 : W64) 8 = true ∧ bit (0x300 : W64) 9 = true ∧
    ((srBlk 0 (mcMsg 2) []).consume 3 0).rwtAddr 5 2 0 8 false = (0, 0) :=
  ⟨⟨⟨by decide +kernel, by decide +kernel, by decide +kernel⟩, by decide +kernel, by decide +kernel, .inl rfl, by decide +kernel, .inl rfl⟩,
    by decide +kernel, by decide +kernel, by decide +kernel, by decide +kernel, by decide +kernel, by decide +kernel⟩
theorem test_hyp_mcastForward : (∀ d, d < 8 → d ≠ 3 → (bit (0x210 : W64) d = true ↔ d = 4)) ∧ bit (0x210 : W64) 8 = false ∧
    ((srBlk 0 (mcMsg 3) []).consume 3 0).portActive 4 = true ∧ (mcMsg 3).hops ≠ 0 ∧ (mcMsg 3).conf = false ∧ bit (0 : W64) 9 = false := by decide +kernel
/-- An RPOOL of one bag with two 32-bit indices; its window; the core it goes to. -/
def rpMsg : LMsg := lxMsg 3 5 [0x201, 2, 0x0000000400000003]
def rpCmd : Cmd := { id := 0, ring := 3, cd := [0x800000000], dbase := 0, dcount := 0,
                     served := some { port := 3, src := 6, tag := 7, isPool := true, words := rpMsg.words, table := 5, conf := false } }
theorem test_hyp_rpool : RequestIs (srBlk 0 rpMsg []) 3 0 3 rpMsg ∧ (srBlk 0 rpMsg []).poolWindow rpMsg = 0 ∧ (srBlk 0 rpMsg []).poolWindow (lxMsg 3 6 []) ≠ 0 ∧
    (srBlk 0 rpMsg []).chooseCore rpCmd = some 0 ∧ fld ((srBlk 0 rpMsg []).rwt (rpMsg.hi 0 12)).2 48 16 = 5 ∧
    fld ((srBlk 0 rpMsg []).rwt (rpMsg.hi 0 12)).2 32 6 = 3 :=
  ⟨⟨⟨by decide +kernel, by decide +kernel, by decide +kernel⟩, by decide +kernel, by decide +kernel, .inr (by decide +kernel), by decide +kernel, .inl rfl⟩,
    by decide +kernel, by decide +kernel, by decide +kernel, by decide +kernel, by decide +kernel⟩
/-- A served command that a task context holds, and one whose sums are complete. -/
def svCmd : Cmd := { rpCmd with phase := .held 0 0, tabs := [fpTab] }
def svBlk (m : Cmd) : Blk := { (memBlk task0 true) with cmds := [m], lx := { ports := [(3, { st := .active }), (4, { st := .active })] } }
theorem test_hyp_served : (svBlk svCmd).issues = true ∧ (svBlk svCmd).portOn 3 = true ∧ ((svBlk svCmd).port 3).rx = [] ∧ (svBlk svCmd).cmd 0 = some svCmd ∧
    (svBlk svCmd).cmds.filter (fun z => z.served.isSome) = [svCmd] ∧ svCmd.held = some (0, 0) ∧ (svBlk svCmd).coreUp 0 = true ∧
    (svBlk svCmd).dbgHalted 0 = false ∧ ((svBlk svCmd).task 0 0).st = .running ∧ (svBlk svCmd).servedTable 0 { blocks := [] } 5 = (svBlk svCmd, .ok fpTab) ∧
    (∀ x ∈ svCmd.served, x.bad (svBlk svCmd) fpTab = none) := by decide +kernel
/-- Ten rows in four MODULO shards: shard 1 owns rows 1, 5 and 9; its owner-side index 3 is invalid (R413, R414). -/
def shTab : TableCopy := { td := [0, 10], smd := [0x30021], own := 3 }
theorem test_own_shard : Shard.size shTab { start := 0, num := 1, next := 10 } = 3 ∧ Shard.size shTab { start := 0, num := 2, next := 10 } = 2 ∧
    shTab.resolveOwn 32 2 false = .row 2 ∧ shTab.resolveOwn 32 3 false = .zero true ∧ shTab.resolveOwn 32 3 true = .nul true := by decide +kernel
/-- A block of indices from a confidential page marks the elements whose index lies in it (R408). -/
theorem test_confidential_index : (({} : SQ).keepSec 0 0 .poison true).confElem 0 = true ∧ (({} : SQ).keepSec 0 0 .poison false).confElem 0 = false ∧
    (({} : SQ).keepSec 0 1 .poison true).confElem 0 = false := by decide +kernel
/-- The laser follows EN and LASER, and a port that waits after a negotiation without a version keeps it off (R381, R390). -/
theorem test_laser : (ptBlk {}).laserEn 3 = true ∧ (ptBlk {}).laserEn 4 = false ∧ (ptBlk { hold := true }).laserEn 3 = false ∧
    (ptBlk { rst := true }).laserEn 3 = false := by decide +kernel
theorem test_hyp_servedDone : let y : Cmd := { svCmd with begun := true, added := true }
    (svBlk y).live = true ∧ (svBlk y).coreRst 0 = false ∧ (svBlk y).writesDone 0 = true ∧ (svBlk y).hasPass y (fun q => q.owner = 0) = false ∧
    (svBlk y).addTotals y = (svBlk y, true) ∧ (svBlk y).cmd 0 = some y ∧ y.begun = true ∧ y.park = none := by decide +kernel
theorem test_hyp_echo : HeadIs (srBlk 4 (lxMsg 0xF0 1 [5]) []) 3 4 (lxMsg 0xF0 1 [5]) ∧ (lxMsg 0xF0 1 [5]).hi 0 8 = 1 ∧ (lxMsg 0xF0 2 [5]).hi 0 8 = 2 :=
  ⟨⟨by decide +kernel, by decide +kernel, by decide +kernel⟩, by decide +kernel, by decide +kernel⟩
/-- ResponsesReachTheirRequests: the response to an open request of each kind, with and without a status. -/
def rsReq (k : LReqKind) : LReq := { tag := 7, cmd := some 7, kind := k, sentAt := 0, port := 3 }
def rsTaken (m : LMsg) (k : LReqKind) : Blk :=
  let b := (srBlk 1 m [rsReq k]).consume 3 1
  { b with lx := { b.lx with reqs := b.lx.reqs.erase (rsReq k) } }
theorem test_hyp_wrAck : ResponseIs (srBlk 1 (lxMsg 0x82 0 []) [rsReq (.write (some 7))]) 3 1 0x82 (lxMsg 0x82 0 []) (rsReq (.write (some 7)))
    (rsTaken (lxMsg 0x82 0 []) (.write (some 7))) :=
  ⟨⟨by decide +kernel, by decide +kernel, by decide +kernel⟩, by decide +kernel, by decide +kernel, .inl rfl, by decide +kernel, rfl⟩
theorem test_hyp_responseKinds : (LReqKind.read 0 9 0).answers 0x81 = true ∧ (LReqKind.rpool 0 2 [(0, [0])]).answers 0x83 = true ∧
    (LReqKind.rgrad 0 2 6 0 [(0, 1)]).answers 0x84 = true ∧ (LReqKind.asig 0 0 3).answers 0x85 = true ∧ (LReqKind.rsig 7).answers 0x85 = true ∧
    (lxMsg 0x82 0x51 []).hi 0 8 = 0x51 ∧ (lxMsg 0x81 0x40 []).hi 0 8 = 0x40 ∧
    (∀ r ∈ ((srBlk 1 (lxMsg 0x82 0 []) []).consume 3 1).lx.reqs, r.tag ≠ 7) := by decide +kernel
theorem test_hyp_rdResp : let b := rowBlk [] { piece0 with pa := 0x300000010010 }
    (b.core 0).slot 9 = some (slot0 { piece0 with pa := 0x300000010010 }) ∧ (slot0 { piece0 with pa := 0x300000010010 }).pieces[0]? = some { piece0 with pa := 0x300000010010 } ∧
    (((wordBytes (lxMsg 0x81 0 [1, 2]).body).drop (0x300000010010 % 8)).take 16).length = 16 ∧
    (((wordBytes (lxMsg 0x81 0 [1]).body).drop (0x300000010010 % 8)).take 16).length ≠ 16 := by decide +kernel
theorem test_hyp_rpoolResp : let b := strBlk { sq0 with ends := [2], flight := [{ ord := 0, kind := .remote 6 1 4, wt := 0 }] }
    (b.sq 0 2).ended = false ∧ (b.sq 0 2).st = .active ∧ (b.sq 0 2).owner = 7 ∧
    (wordBytes ((lxMsg 0x83 0 [0, 1, 2, 3]).body.drop 1)).length = 8 + upTo 8 (b.sq 0 2).laneBytes ∧ (b.sq 0 2).hasFailed 0 = false ∧
    leNat (((wordBytes [0x4000000001]).drop 4).take 1) = 0x40 ∧ (b.sq 0 2).elemMode = false ∧
    (b.sq 0 2).flight.find? (fun y => y.ord = 0) = some { ord := 0, kind := .remote 6 1 4, wt := 0 } := by decide +kernel
theorem test_hyp_asigAck : let a : ASig := { asig0 with sent := true }
    a ∈ (((engBlk sd0 {}).updTask 0 0 (fun x => { x with asigs := [a] })).task 0 0).asigs ∧
    (((engBlk sd0 {}).updTask 0 0 (fun x => { x with asigs := [a] })).task 0 0).cmd = some 7 ∧ ((({} : Blk)).task 0 0).cmd ≠ some 7 := by decide +kernel

/-! ### Power, resets, keys, debug, memory -/

/-- PowerStatesChange: each state a request can meet, each reason for a refusal; a quiet entry; a hold. -/
def inPwr (x : Power) : Blk := { pwr := x }
theorem test_hyp_power : ({} : Blk).regOpen 0x2000 = true ∧ (inPwr { rst := .blk }).regOpen 0x2000 = false ∧ (inPwr { st := .doze }).regOpen 0x2000 = true ∧
    ({} : Blk).cmdsOpen = false ∧ doneBlk.cmdsOpen = true ∧ ({} : Blk).anyHalt = false ∧ (({} : Blk).setReg 0x90138 1).anyHalt = true ∧
    ({} : Blk).coOpen = false ∧ ({ co := [co0] } : Blk).coOpen = true ∧ fld (2 : W64) 0 2 = 2 ∧ (inPwr { st := .nap }).regOpen 0x2000 = true := by
  decide +kernel
theorem test_hyp_lowPowerEntry : (inPwr { st := .dozeIn }).live = true ∧ (inPwr { st := .dozeIn }).entryQuiet = true ∧ (inPwr { st := .napIn }).entryQuiet = true ∧
    ({ wq := [wr0] } : Blk).entryQuiet = false ∧ (inPwr { st := .dozeIn }).portsDown.pwr.dbWake = false ∧
    (inPwr { st := .dozeIn, dbWake := true }).portsDown.pwr.dbWake = true := by decide +kernel
theorem test_hyp_islands : ({} : Blk).live = true ∧ ({} : Blk).islandIdle 0 = true ∧ ({} : Blk).islandIdle 19 = true ∧ 19 ∉ ({} : Blk).pwr.gated ∧
    (inPwr { st := .resume }).resetting = false := by decide +kernel
/-- A hold is counted; the counter saturates at 65,535. -/
theorem test_pmWarn_counts : (after (exec .pmWarn (st {}))).rf 0x2010 0 16 = 1 ∧
    (after (exec .pmWarn (st (({} : Blk).setReg 0x2010 65535)))).rf 0x2010 0 16 = 65535 := by decide +kernel
/-- ResetsLeaveWhatTheyKeep: the reset register is open, a key byte, a core that has drained, a port that resets. -/
theorem test_hyp_resets : ({} : Blk).regOpen 0x2018 = true ∧ bit (0xB100000000000001 : W64) 0 = true ∧ fld (0xB100000000000001 : W64) 56 8 = 0xB1 ∧
    ({} : Blk).coreOk 7 = true ∧ ({} : Blk).coreRst 7 = false ∧ (∀ m ∈ ({} : Blk).cmds, m.onCore ≠ some 7) ∧
    ({ cores := [(7, { rst := true })] } : Blk).coreDrained 7 = true ∧ ({ cores := [(7, { rst := true })] } : Blk).coreRst 7 = true ∧
    ({ cores := [(7, { rst := true, trk := [slot0 piece0] })] } : Blk).coreDrained 7 = false ∧
    0 + 25000 ≤ (ptBlk { rst := true, oerst := false }).time.toNat ∧ (ptBlk { rst := true, oerst := false }).portEn 3 = true ∧
    (ptBlk { rst := true }).live = true ∧ (inPwr { rst := .por }).pwr.rst = .por ∧ fld (0 : W64) 8 16 = 0 := by decide +kernel
/-- KeysAreCommitted: data for a region's key and for a link's, a region that is active, a key in a slot that is not sent with. -/
def keyBlk : Blk := { sec := { keys := [(3, 5)], kdata := [(0, 7)] }, lx := { ports := [(2, { k1 := some {} })] } }
theorem test_hyp_keys : keyBlk.regOpen 0x80008 = true ∧ keyBlk.sec.busy = false ∧ fld (0x41 : W64) 0 2 = 1 ∧ bit (0x41 : W64) 2 = false ∧
    fld (0x41 : W64) 4 4 ≠ 0 ∧ keyBlk.active 4 = false ∧ keyBlk.kdataNat 0 4 ≠ keyBlk.kdataNat 4 4 ∧ keyBlk.active 3 = true ∧
    ({} : Blk).kdataNat 0 4 = ({} : Blk).kdataNat 4 4 ∧ keyBlk.cmdsOpen = false ∧ (∀ e ∈ keyBlk.sec.keys, e.1 = 3) ∧ keyBlk.coOpen = false ∧
    keyBlk.kdataNat 4 4 = 0 ∧ ((keyBlk.port 2).key true).isSome = true ∧ ((keyBlk.port 2).key false).isSome = false ∧
    keyBlk.txSlot 2 = false ∧ 2 < keyBlk.build.litha ∧ keyBlk.live = true := by decide +kernel
/-- DebugPortActs: attached and not, guarded and not, with and without a clock, a core that the build has and one that it has not. -/
theorem test_hyp_debug : ({} : Blk).rb 0x90000 0 = false ∧ (({} : Blk).setReg 0x90000 1).rb 0x90000 0 = true ∧ keyBlk.guarded = true ∧
    ({} : Blk).guarded = false ∧ isDbg 0x90108 = true ∧ isDbg 0x1100 = false ∧ ({} : Blk).clocked = true ∧ (inPwr { st := .nap }).clocked = false ∧
    ({ build := { cores := 1 } } : Blk).coreOk 7 = false ∧ ({} : Blk).sec.zero = true ∧ keyBlk.regPresent 0xA0000 = true ∧ keyBlk.resetting = false ∧
    ({} : Blk).regOpen (0x90100 + 8 * 7) = true ∧ wrOne .full 2 1 = true ∧ (({} : Blk).fieldWrite 0x90138 .full 3).rb 0x90138 0 = true ∧
    (({} : Blk).fieldWrite 0x90138 .full 0).rb 0x90138 0 = false := by decide +kernel
theorem test_hyp_debugStep : (∀ u, u < 4 → u ≠ 0 → ((seqBlk task0).task 0 u).st ≠ .running) ∧ ((seqBlk task0).task 0 0).st = .running ∧
    ((seqBlk task0).task 0 1).st = .free ∧ ((seqBlk { task0 with st := .ready }).task 0 0).st = .ready ∧ (seqBlk task0).coreUp 0 = true := by
  decide +kernel
/-- StepsKeepBuildQueueAndTime and ResetCausesAreKept: the state after reset meets what they ask for. -/
theorem test_hyp_legal : State.reset.blk.legal := ⟨7, 0, by decide +kernel⟩
theorem test_hyp_causes : State.reset.blk.regsOnce ∧ State.reset.blk.pwr.st ≠ .off ∧ State.reset.blk.pwr.rst ≠ .por ∧ State.reset.blk.regOpen 0x2018 = true ∧
    State.reset.blk.regOpen 0x2020 = true := ⟨by show List.Nodup _; decide, by decide +kernel, by decide +kernel, by decide +kernel, by decide +kernel⟩
/-- MemoryReadsBackWhatIsWritten: sectors outside every region. -/
theorem test_hyp_memory : ∀ sec ∈ sectorsOf 0x3F 2, ({} : Blk).enc 0 (64 * sec) = false := by decide +kernel

/-! ### Number formats: the answers are those of IEEE 754 (R34, R99) -/

/-- 2^24 + 1 is a tie in binary32 and goes to the even neighbour; the least subnormal of binary16 survives. -/
theorem test_fp_tie : FFmt.fp32.add 0x4b800000 0x3f800000 = 0x4b800000 ∧ FFmt.fp32.add 0x4b800001 0x3f800000 = 0x4b800002 ∧
    FFmt.fp32.cvt .fp16 1 = 0x33800000 ∧ FFmt.fp16.cvt .fp32 0x477ff000 = 0x7c00 := by decide +kernel

end Sys2Proof.Tests
end

section
/-! PROOFS. The state after reset, and what every step keeps. -/
namespace Sys2Proof.Machine

/-! ### The state after reset -/

/-- A tier whose size register holds 0 has no byte. -/
theorem Blk.paExists_unpopulated (b : Blk) (pa : Nat) (h : ∀ t, t < 3 → b.tierSize t = 0) : b.paExists pa = false := by
  by_cases ht : tierOf pa < 3
  · simp [Blk.paExists, h _ ht]
  · simp [Blk.paExists, ht]

/-- The size registers of the tiers (R250) are 0 after reset. -/
theorem Blk.tierSize_reset : ∀ t, t < 3 → State.reset.blk.tierSize t = 0 := by decide +kernel

/-- Settles O58: no register, table or unit of the reset state is listed, so everything reads as its reset value. -/
theorem resetStateIsLegal : Obligations.ResetStateIsLegal := by
  refine ⟨⟨7, 0, by decide⟩, rfl, List.nodup_nil, rfl, fun _ => rfl, fun _ => rfl,
    fun pa => Blk.paExists_unpopulated _ pa Blk.tierSize_reset, rfl, rfl, fun _ _ => rfl, fun _ => rfl, ?_⟩
  decide +kernel

/-! ### What a command can answer -/

/-- The commands whose meaning is not confined to the frame of `State.withBlk`: the tick of the timebase, the loss and return of power,
and the debug access bus, which can refuse. -/
def leavesFrame : Instr → Bool
  | .timebaseTick | .powerOnReset | .powerOnResetDone _ _ | .supplyRemoved | .dabacc _ => true
  | _ => false

/-- Every other command answers a block under the build, the timebase and the queue that it met. -/
theorem exec_withBlk (i : Instr) (s : State) (h : leavesFrame i = false) : ∃ b, exec i s = .next (s.withBlk b) := by
  cases i with
  | timebaseTick | powerOnReset | powerOnResetDone | supplyRemoved | dabacc => cases h
  | _ => exact ⟨_, rfl⟩

/-- The debug access bus keeps the frame as well, or refuses its write. -/
theorem exec_dabacc_cases (req : BitVec 105) (s : State) :
    (∃ b, exec (.dabacc req) s = .next (s.withBlk b)) ∨ exec (.dabacc req) s = .refused .debugStore := by
  show (∃ b, execDabacc req s = .next (s.withBlk b)) ∨ execDabacc req s = .refused .debugStore
  unfold execDabacc
  dsimp only
  split
  · exact .inl ⟨s.blk, rfl⟩
  split
  · exact .inr rfl
  · exact .inl ⟨_, rfl⟩

/-- The tick changes the timebase alone, and not in Off nor during a power-on reset (R6). -/
theorem exec_timebaseTick (s : State) : exec .timebaseTick s =
    if s.blk.pwr.st = .off ∨ s.blk.pwr.rst = .por then .next s else .next { s with blk := { s.blk with time := s.blk.time + 1 } } := by
  show execTimebaseTick s = _
  unfold execTimebaseTick updAll
  simp only [Bool.or_eq_true, decide_eq_true_eq]
  split <;> rfl

/-- The return of power loads a build of R488, where a power-on reset runs; the timebase stays. -/
theorem exec_powerOnResetDone (n : Fin 64) (k : BitVec 4) (s : State) : exec (.powerOnResetDone n k) s =
    if s.blk.pwr.rst = .por then
      .next { s with blk := { s.blk with build := buildOf n.val k.toNat, pwr := { s.blk.pwr with rst := .none } } }
    else .next s := by
  show execPowerOnResetDone n k s = _
  unfold execPowerOnResetDone updAll onlyIf
  simp only [decide_eq_true_eq]
  split <;> rfl

/-- What a command's answer t keeps of the state s that it met: a legal build and the queue, and the timebase but for the tick, a power-on
reset and the loss of supply. -/
structure KeepsFrame (i : Instr) (s t : State) : Prop where
  legal : t.blk.legal
  queue : t.pending = s.pending
  time : t.blk.time = s.blk.time ∨ (i = .timebaseTick ∧ t.blk.time = s.blk.time + 1) ∨
    ((i = .powerOnReset ∨ i = .supplyRemoved) ∧ t.blk.time = 0)

theorem KeepsFrame.withBlk (i : Instr) (s : State) (b : Blk) (h : s.blk.legal) : KeepsFrame i s (s.withBlk b) := ⟨h, rfl, .inl rfl⟩

/-- The invariant of a command: it keeps the frame, or it is a debug-bus request that is refused. -/
theorem exec_keepsFrame (i : Instr) (s : State) (h : s.blk.legal) :
    (∃ t, exec i s = .next t ∧ KeepsFrame i s t) ∨ (exec i s = .refused .debugStore ∧ ∃ req, i = .dabacc req) := by
  cases hi : leavesFrame i with
  | false =>
    obtain ⟨b, hb⟩ := exec_withBlk i s hi
    exact .inl ⟨_, hb, .withBlk i s b h⟩
  | true =>
    cases i with
    | timebaseTick =>
      rw [exec_timebaseTick]
      split
      · exact .inl ⟨s, rfl, h, rfl, .inl rfl⟩
      · exact .inl ⟨_, rfl, h, rfl, .inr (.inl ⟨rfl, rfl⟩)⟩
    | powerOnReset => exact .inl ⟨_, rfl, h, rfl, .inr (.inr ⟨.inl rfl, rfl⟩)⟩
    | supplyRemoved => exact .inl ⟨_, rfl, h, rfl, .inr (.inr ⟨.inr rfl, rfl⟩)⟩
    | powerOnResetDone n k =>
      rw [exec_powerOnResetDone]
      split
      · exact .inl ⟨_, rfl, ⟨n, k, rfl⟩, rfl, .inl rfl⟩
      · exact .inl ⟨s, rfl, h, rfl, .inl rfl⟩
    | dabacc req =>
      obtain ⟨b, hb⟩ | hr := exec_dabacc_cases req s
      · exact .inl ⟨_, hb, .withBlk _ s b h⟩
      · exact .inr ⟨hr, req, rfl⟩
    | _ => cases hi

/-- Settles O57: an empty queue idles, and the front command keeps the frame or is a refused debug-bus write. -/
theorem stepsKeepBuildQueueAndTime : Obligations.StepsKeepBuildQueueAndTime := by
  intro s h
  cases hp : s.pending with
  | nil => exact .inl ⟨s, by rw [step, hp], h, hp, .inl rfl⟩
  | cons i rest =>
    have hs : step s = exec i { s with pending := rest } := by rw [step, hp]
    rw [hs]
    obtain ⟨t, ht, hk⟩ | ⟨hr, req, rfl⟩ := exec_keepsFrame i { s with pending := rest } h
    · exact .inl ⟨t, ht, hk.legal, hk.queue, by simpa using hk.time⟩
    · exact .inr ⟨hr, req, rfl⟩

end Sys2Proof.Machine
end

section
/-! PROOFS. Power requests, low power, the brown-out hold and idle islands. -/
namespace Sys2Proof.Machine

/-! ### Requests of a power state (R429, R430) -/

@[simp] theorem Blk.fieldWrite_pwr (b : Blk) (o : Nat) (h : Half) (v : W64) : (b.fieldWrite o h v).pwr = b.pwr := by
  unfold Blk.fieldWrite; split <;> rfl

/-- Bit 0 of a register is outside the high half alone. -/
theorem covers_zero (h : Half) : covers h 0 = decide (h ≠ .high) := by cases h <;> decide

/-- Where CK_PWR_CTRL is open, its fields are written, and REQ acts if the write covers it. -/
theorem Blk.pwrCtrlWrite_open (b : Blk) (h : Half) (v : W64) (ho : b.regOpen 0x2000 = true) :
    b.pwrCtrlWrite h v = if h ≠ .high then (b.fieldWrite 0x2000 h v).pwrRequest (fld v 0 2) else b.fieldWrite 0x2000 h v := by
  simp [Blk.pwrCtrlWrite, ho, covers_zero]

/-- BUSY comes before every other reason. -/
theorem Blk.pwrRequest_busy (b : Blk) (r : Nat) (h0 : r ≠ 0) (h : b.cmdsOpen = true ∨ (r ≠ 3 ∧ b.anyHalt = true)) :
    b.pwrRequest r = b.pwrRefuse 1 := by
  obtain h | ⟨h3, h⟩ := h
  · simp [Blk.pwrRequest, h0, h]
  · simp [Blk.pwrRequest, h0, h, h3]

section notBusy
variable (b : Blk) (hc : b.cmdsOpen = false)
include hc

theorem Blk.pwrRequest_coalescer (ha : b.anyHalt = false) (h : b.coOpen = true) : b.pwrRequest 2 = b.pwrRefuse 2 := by
  simp [Blk.pwrRequest, hc, ha, h]

theorem Blk.pwrRequest_held (r : Nat) (ha : b.anyHalt = false) (hr : r = 1 ∨ (r = 2 ∧ b.coOpen = false)) (h : b.pwr.hold = true) :
    b.pwrRequest r = b.pwrRefuse 3 := by
  obtain rfl | ⟨rfl, ho⟩ := hr
  · simp [Blk.pwrRequest, hc, ha, h]
  · simp [Blk.pwrRequest, hc, ha, h, ho]

/-- Doze is entered from Run alone. -/
theorem Blk.pwrRequest_doze (ha : b.anyHalt = false) (h : b.pwr.hold = false) :
    b.pwrRequest 1 = if b.pwr.st = .run then { b with pwr := { b.pwr with st := .dozeIn } } else b.pwrRefuse 4 := by
  cases hs : b.pwr.st <;> simp [Blk.pwrRequest, hc, ha, h, hs]

/-- Nap is entered from Run and from Doze. -/
theorem Blk.pwrRequest_nap (ha : b.anyHalt = false) (ho : b.coOpen = false) (h : b.pwr.hold = false) :
    b.pwrRequest 2 = if b.pwr.st = .run ∨ b.pwr.st = .doze then { b with pwr := { b.pwr with st := .napIn } } else b.pwrRefuse 4 := by
  cases hs : b.pwr.st <;> simp [Blk.pwrRequest, hc, ha, ho, h, hs]

/-- Run is resumed from Doze and from Nap; a hold keeps the request back. -/
theorem Blk.pwrRequest_run :
    b.pwrRequest 3 = if b.pwr.st = .doze ∨ b.pwr.st = .nap then
        (if b.pwr.hold then { b with pwr := { b.pwr with wantRun := true } } else { b with pwr := { b.pwr with st := .resume } })
      else b.pwrRefuse 4 := by
  cases hs : b.pwr.st <;> simp [Blk.pwrRequest, hc, hs]

end notBusy

/-- The three requests are one write of CK_PWR_CTRL. -/
theorem exec_powerRequest (s : State) (ev : Half → W64 → Instr) (h : Half) (v : W64)
    (hev : ev ∈ [Instr.dozeRequest, .napRequest, .runRequest]) : exec (ev h v) s = .next (s.withBlk (s.blk.pwrCtrlWrite h v)) := by
  simp only [List.mem_cons, List.not_mem_nil, or_false] at hev
  obtain rfl | rfl | rfl := hev <;> rfl

/-! ### Entry to Doze and Nap (R431) -/

theorem exec_lowPowerEntryDone (s : State) (hl : s.blk.live = true) :
    exec .lowPowerEntryDone s = .next (s.withBlk (if s.blk.entryQuiet then s.blk.entryDone else s.blk)) := by
  show Host.Outcome.next (s.withBlk (onlyIf (s.blk.live && s.blk.entryQuiet) Blk.entryDone s.blk)) = _
  rw [hl, Bool.true_and]; rfl

/-- In Run no entry is in progress. -/
theorem Blk.entryDone_run (b : Blk) (h : b.pwr.st = .run) : b.entryDone = b := by
  unfold Blk.entryDone; rw [h]

/-- The end of the entry to Doze. -/
theorem Blk.entryDone_doze (b : Blk) (h : b.pwr.st = .dozeIn) : b.entryDone = { b.portsDown with
    regs := keepRegs (fun _ => true) (fun f => f.d) b.portsDown.regs
    sec := { b.portsDown.sec with kdata := [] }
    pwr := { b.portsDown.pwr with st := if b.portsDown.pwr.dbWake then .resume else .doze, dbWake := false } } := by
  unfold Blk.entryDone; rw [h]

/-- The block as it rests in Nap, before the writes that wait at its ports are dropped. -/
def Blk.napping (b : Blk) : Blk := { b.portsDown.napLoss with
  regs := keepRegs (fun _ => true) (fun f => f.nap) b.portsDown.regs
  sec := { b.portsDown.sec with kdata := [] }
  pwr := { b.portsDown.pwr with st := .nap, dbWake := false } }

theorem Blk.entryDone_nap (b : Blk) (h : b.pwr.st = .napIn) : b.entryDone = b.napping.portsDrop := by
  unfold Blk.entryDone; rw [h]; rfl

/-! ### Resume (R429, R462) -/

/-- A bit shifted to place i. -/
theorem testBit_bit_shiftLeft (k i j : Nat) (hk : k < 2) : (k <<< i).testBit j = (decide (j = i) && k.testBit 0) := by
  rw [Nat.testBit_shiftLeft]
  obtain h | rfl | h := Nat.lt_trichotomy j i
  · rw [decide_eq_false (Nat.not_le.mpr h), decide_eq_false (Nat.ne_of_lt h), Bool.false_and, Bool.false_and]
  · rw [decide_eq_true (Nat.le_refl j), decide_eq_true rfl, Nat.sub_self]
  · have hp : 2 ^ 1 ≤ 2 ^ (j - i) := Nat.pow_le_pow_right (by omega) (by omega)
    rw [Nat.testBit_lt_two_pow (Nat.lt_of_lt_of_le hk hp), decide_eq_false (Nat.ne_of_gt h), Bool.and_false, Bool.false_and]

/-- One bit of a word after a write of a field of one bit. -/
theorem bit_putFld_one (x : W64) (i j n : Nat) (hi : i < 64) :
    bit (putFld x i 1 n) j = if j = i then n.testBit 0 else bit x j := by
  simp only [bit, putFld, BitVec.testBit_toNat, BitVec.getLsbD_or, BitVec.getLsbD_and, BitVec.getLsbD_not, BitVec.getLsbD_ofNat,
    testBit_bit_shiftLeft (2 ^ 1 - 1) i j (by omega), testBit_bit_shiftLeft (n % 2 ^ 1) i j (Nat.mod_lt _ (by omega))]
  by_cases h : j = i
  · subst h; simp [hi]
  · by_cases hj : j < 64
    · simp [h, hj]
    · simp [h, x.getLsbD_of_ge j (by omega)]
theorem Blk.reg_haltSync (b : Blk) (c o : Nat) :
    (b.haltSync c).reg o = if o = 0x90100 + 8 * c then putFld (b.reg o) 4 1 (b.rf o 0 1) else b.reg o := by
  have h : (b.setFld (0x90100 + 8 * c) 4 1 (b.rf (0x90100 + 8 * c) 0 1)).reg o =
      if o = 0x90100 + 8 * c then putFld (b.reg o) 4 1 (b.rf o 0 1) else b.reg o := by
    rw [Blk.reg_setFld]
    by_cases ho : o = 0x90100 + 8 * c
    · rw [if_pos ho, if_pos ho, ho]
    · rw [if_neg ho, if_neg ho]
  unfold Blk.haltSync
  dsimp only
  split
  · exact h
  · exact h

/-- HALTREQ, and every bit but HALTED, is as it was. -/
theorem Blk.rb_haltSync (b : Blk) (c o : Nat) : (b.haltSync c).rb o 0 = b.rb o 0 := by
  unfold Blk.rb
  rw [Blk.reg_haltSync]
  split
  · rw [bit_putFld_one _ _ _ _ (by omega)]; rfl
  · rfl

theorem Blk.dbgHalted_haltSync (b : Blk) (c : Nat) : (b.haltSync c).dbgHalted c = b.rb (0x90100 + 8 * c) 0 := by
  unfold Blk.dbgHalted Blk.rb
  rw [Blk.reg_haltSync, if_pos rfl, bit_putFld_one _ _ _ _ (by omega), if_pos rfl]
  simp [Blk.rf, fld, bit]


/-- HALTED follows HALTREQ in registers and cores alone. -/
theorem Blk.haltSync_frame (b : Blk) (c : Nat) : { b.haltSync c with regs := b.regs, cores := b.cores } = b := by
  unfold Blk.haltSync; dsimp only; split <;> rfl

theorem foldl_haltSync_frame (l : List Nat) (b : Blk) : { l.foldl Blk.haltSync b with regs := b.regs, cores := b.cores } = b := by
  induction l generalizing b with
  | nil => rfl
  | cons c l ih => exact (congrArg (fun x : Blk => { x with regs := b.regs, cores := b.cores }) (ih (b.haltSync c))).trans (b.haltSync_frame c)

/-- Registers that are none of the cores' debug registers stay. -/
theorem foldl_haltSync_reg (l : List Nat) (b : Blk) (o : Nat) (h : ∀ c ∈ l, o ≠ 0x90100 + 8 * c) :
    (l.foldl Blk.haltSync b).reg o = b.reg o := by
  induction l generalizing b with
  | nil => rfl
  | cons c l ih =>
    rw [List.foldl_cons, ih _ (fun d hd => h d (List.mem_cons_of_mem c hd)), Blk.reg_haltSync, if_neg (h c List.mem_cons_self)]

/-- Each core of the list is halted where its HALTREQ asks for it. -/
theorem foldl_haltSync_dbgHalted (l : List Nat) (b : Blk) (c : Nat) (hc : c ∈ l) :
    (l.foldl Blk.haltSync b).dbgHalted c = b.rb (0x90100 + 8 * c) 0 := by
  induction l generalizing b with
  | nil => cases hc
  | cons d l ih =>
    rw [List.foldl_cons]
    by_cases hl : c ∈ l
    · rw [ih _ hl, Blk.rb_haltSync]
    · obtain rfl : c = d := (List.mem_cons.mp hc).resolve_right hl
      have hr : (l.foldl Blk.haltSync (b.haltSync c)).reg (0x90100 + 8 * c) = (b.haltSync c).reg (0x90100 + 8 * c) :=
        foldl_haltSync_reg l _ _ (fun d hd he => hl (by rwa [show c = d by omega]))
      rw [← Blk.dbgHalted_haltSync]
      unfold Blk.dbgHalted Blk.rb
      rw [hr]

/-- A port that no link reset holds trains again after a resume, if it is enabled. -/
def Blk.portResume (b : Blk) (p : Nat) : Blk := if !(b.port p).rst then b.portAgain p else b

/-- The port that resumes is the only thing that changes. -/
theorem Blk.portResume_frame (b : Blk) (p : Nat) : { b.portResume p with lx := { (b.portResume p).lx with ports := b.lx.ports } } = b := by
  unfold Blk.portResume Blk.portAgain
  split
  · split <;> rfl
  · rfl

theorem Blk.port_portResume_other (b : Blk) {p q : Nat} (h : q ≠ p) : (b.portResume p).port q = b.port q := by
  unfold Blk.portResume Blk.portAgain
  split
  · split
    · exact Blk.port_updPort_other b _ h
    · rfl
  · rfl

theorem Blk.port_portResume_same (b : Blk) (p : Nat) (hr : (b.port p).rst = false) (he : b.portEn p = true) :
    (b.portResume p).port p = (b.port p).training b.time.toNat := by
  simp [Blk.portResume, Blk.portAgain, hr, he, Blk.portTrain, Port.training]

theorem foldl_portResume_frame (l : List Nat) (b : Blk) :
    { l.foldl Blk.portResume b with lx := { (l.foldl Blk.portResume b).lx with ports := b.lx.ports } } = b := by
  induction l generalizing b with
  | nil => rfl
  | cons p l ih =>
    have h := congrArg (fun x : Blk => { x with lx := { x.lx with ports := b.lx.ports } }) (ih (b.portResume p))
    exact h.trans (b.portResume_frame p)

theorem foldl_portResume_port (l : List Nat) (b : Blk) (p : Nat) (hp : p ∉ l) : (l.foldl Blk.portResume b).port p = b.port p := by
  induction l generalizing b with
  | nil => rfl
  | cons q l ih =>
    rw [List.mem_cons, not_or] at hp
    rw [List.foldl_cons, ih _ hp.2, Blk.port_portResume_other b hp.1]

/-- Each enabled port of the list trains. -/
theorem foldl_portResume_trains (l : List Nat) (hl : l.Nodup) (b : Blk) (p : Nat) (hp : p ∈ l) (hr : (b.port p).rst = false)
    (he : b.portEn p = true) : (l.foldl Blk.portResume b).port p = (b.port p).training b.time.toNat := by
  induction l generalizing b with
  | nil => cases hp
  | cons q l ih =>
    obtain ⟨hq, hl⟩ := List.nodup_cons.mp hl
    have hf := b.portResume_frame q
    have hregs : (b.portResume q).regs = b.regs := (congrArg Blk.regs hf :)
    have htime : (b.portResume q).time = b.time := (congrArg Blk.time hf :)
    rw [List.foldl_cons]
    obtain rfl | hp := List.mem_cons.mp hp
    · rw [foldl_portResume_port l _ _ hq, Blk.port_portResume_same b p hr he]
    · have hne : p ≠ q := fun e => hq (e ▸ hp)
      have hport := b.port_portResume_other hne
      rw [ih hl _ hp (by rw [hport, hr]) (by rw [← he]; unfold Blk.portEn Blk.rb Blk.reg; rw [hregs]), hport, htime]

/-- The block in Run again, before anything else of a resume. -/
def Blk.awake (b : Blk) : Blk := { b with pwr := { b.pwr with st := .run, wantRun := false, dbWake := false } }

/-- The block with HALTREQ in effect. -/
def Blk.haltsSynced (b : Blk) : Blk := (List.range b.build.cores).foldl Blk.haltSync b

/-- The block with its enabled ports in training. -/
def Blk.portsResumed (b : Blk) : Blk := (List.range b.build.litha).foldl Blk.portResume b

theorem exec_resumeDone (s : State) (h : s.blk.resetting = false) (hh : s.blk.pwr.halt = false) (hd : s.blk.pwr.hold = false)
    (hs : s.blk.pwr.st = .resume) : exec .resumeDone s = .next (s.withBlk s.blk.awake.haltsSynced.portsResumed.goOn) := by
  show Host.Outcome.next (s.withBlk (onlyIf (!s.blk.resetting && !s.blk.pwr.halt && s.blk.pwr.st = .resume && !s.blk.pwr.hold)
    Blk.resumeDone s.blk)) = _
  rw [h, hh, hd, hs]; rfl

theorem Blk.dbgHalted_haltsSynced (b : Blk) (c : Nat) (hc : c < b.build.cores) :
    b.haltsSynced.dbgHalted c = b.rb (0x90100 + 8 * c) 0 :=
  foldl_haltSync_dbgHalted _ b c (List.mem_range.mpr hc)

/-- The debug registers of the cores lie above the registers of the ports. -/
theorem Blk.portEn_haltsSynced (b : Blk) (p : Fin 8) : b.haltsSynced.portEn p = b.portEn p := by
  have h : b.haltsSynced.reg (pctrl p) = b.reg (pctrl p) :=
    foldl_haltSync_reg _ b _ (fun c _ he => by have := p.isLt; unfold pctrl at he; omega)
  unfold Blk.portEn Blk.rb
  rw [h]

/-- What a resume has done before the work that waited goes on. -/
theorem Blk.resume_spec (b x : Blk) (hx : x = b.awake.haltsSynced.portsResumed) :
    x.pwr = { b.pwr with st := .run, wantRun := false, dbWake := false } ∧
    (∀ c, c < b.build.cores → x.dbgHalted c = b.rb (0x90100 + 8 * c) 0) ∧
    (∀ p : Fin 8, p < b.build.litha → (b.port p).rst = false → b.portEn p = true → x.port p = (b.port p).training b.time.toNat) ∧
    x.cmds = b.cmds ∧ x.dev = b.dev := by
  have hh : { b.awake.haltsSynced with regs := b.awake.regs, cores := b.awake.cores } = b.awake := foldl_haltSync_frame _ b.awake
  have hp : { x with lx := { x.lx with ports := b.awake.haltsSynced.lx.ports } } = b.awake.haltsSynced := by
    rw [hx]; exact foldl_portResume_frame _ b.awake.haltsSynced
  have hregs : x.regs = b.awake.haltsSynced.regs := (congrArg Blk.regs hp :)
  have hlx : b.awake.haltsSynced.lx = b.lx := (congrArg Blk.lx hh :)
  have htime : b.awake.haltsSynced.time = b.time := (congrArg Blk.time hh :)
  have hbuild : b.awake.haltsSynced.build = b.build := (congrArg Blk.build hh :)
  refine ⟨(congrArg Blk.pwr hp :).trans (congrArg Blk.pwr hh :), fun c hc => ?_, fun p hl hr he => ?_,
    (congrArg Blk.cmds hp :).trans (congrArg Blk.cmds hh :), (congrArg Blk.dev hp :).trans (congrArg Blk.dev hh :)⟩
  · have h := Blk.dbgHalted_haltsSynced b.awake c hc
    unfold Blk.dbgHalted Blk.rb Blk.reg at h ⊢
    rw [hregs, h]; rfl
  · have hport : b.awake.haltsSynced.port p = b.port p := by unfold Blk.port; rw [hlx]
    rw [hx, ← hport, ← htime]
    refine foldl_portResume_trains _ List.nodup_range _ _ ?_ (by rw [hport, hr]) ?_
    · rw [List.mem_range, hbuild]; exact hl
    · rw [Blk.portEn_haltsSynced]; exact he

/-! ### The brown-out hold and the loss of power (R434 to R437) -/

theorem exec_pmWarn (s : State) (h : s.blk.resetting = false) : exec .pmWarn s = if s.blk.pwr.hold then .next s else
    .next (s.withBlk { s.blk.setFld 0x2010 0 16 (min 65535 (s.blk.rf 0x2010 0 16 + 1)) with pwr := { s.blk.pwr with hold := true } }) := by
  show Host.Outcome.next (s.withBlk (onlyIf (!s.blk.resetting && !s.blk.pwr.hold) _ s.blk)) = _
  rw [h]
  cases s.blk.pwr.hold <;> rfl

/-- The block as a hold ends: counted, with a request of Run that it held back. -/
def Blk.released (b : Blk) : Blk :=
  { b.setFld 0x2010 16 16 (min 65535 (b.rf 0x2010 16 16 + 1)) with pwr := { b.pwr with
      hold := false, wantRun := false, heldCore := [], heldLink := []
      st := if b.pwr.wantRun = true ∧ (b.pwr.st = .doze ∨ b.pwr.st = .nap) then .resume else b.pwr.st } }

/-- A hold that held back no reset ends. -/
theorem exec_holdEnd (s : State) (h : s.blk.resetting = false) (hh : s.blk.pwr.hold = true) (hc : s.blk.pwr.heldCore = [])
    (hl : s.blk.pwr.heldLink = []) : exec .holdEnd s = .next (s.withBlk s.blk.released.goOn) := by
  have he : s.blk.holdEnd = s.blk.released.goOn := by
    simp only [Blk.holdEnd, hc, hl, List.foldl_nil, Bool.and_eq_true, Bool.or_eq_true, decide_eq_true_eq] <;> rfl
  show Host.Outcome.next (s.withBlk (onlyIf (!s.blk.resetting && s.blk.pwr.hold) Blk.holdEnd s.blk)) = _
  rw [h, hh, ← he]; rfl

theorem exec_pmFail (s : State) (ho : s.blk.pwr.st ≠ .off) (hr : s.blk.pwr.rst ≠ .por) : exec .pmFail s =
    .next (s.withBlk ((s.blk.setFld 0x2010 32 16 (min 65535 (s.blk.rf 0x2010 32 16 + 1))).blkReset 3)) := by
  show Host.Outcome.next (s.withBlk (if s.blk.pwr.st = .off || s.blk.pwr.rst = .por then s.blk else _)) = _
  rw [if_neg (by simp [ho, hr])]; rfl

/-! ### Idle islands (R16) -/

theorem exec_islandGate (s : State) (isl : Fin 20) : exec (.islandGate isl) s = .next (s.withBlk
    (onlyIf (s.blk.live && s.blk.islandIdle isl && !s.blk.pwr.gated.contains isl.val)
      (fun b => { b with pwr := { b.pwr with gated := isl.val :: b.pwr.gated } }) s.blk)) := rfl

/-- The K-island is never idle. -/
theorem Blk.islandIdle_K (b : Blk) : b.islandIdle 2 = false := rfl

theorem exec_islandWake (s : State) (isl : Fin 20) (h : s.blk.resetting = false) : exec (.islandWake isl) s =
    .next (s.withBlk { s.blk with pwr := { s.blk.pwr with gated := s.blk.pwr.gated.erase isl } }) := by
  show Host.Outcome.next (s.withBlk (onlyIf (!s.blk.resetting) _ s.blk)) = _
  rw [h]; rfl

/-! ### The statement -/

/-- CK_PWR_CTRL open: which state or which refusal a request meets. -/
theorem Blk.pwrCtrlWrite_spec (a b : Blk) (h : Half) (v : W64) (r : Nat) (ho : a.regOpen 0x2000 = true)
    (hb : b = a.fieldWrite 0x2000 h v) (hr : r = fld v 0 2) :
    (h = .high ∨ r = 0 → a.pwrCtrlWrite h v = b) ∧ (h ≠ .high → a.pwrCtrlWrite h v = b.pwrRequest r) := by
  rw [Blk.pwrCtrlWrite_open a h v ho, ← hb, ← hr]
  refine ⟨?_, fun hh => if_pos hh⟩
  rintro (rfl | rfl)
  · rfl
  · exact ite_self _

/-- Settles O52: each event is read off its own equation above; the order of the reasons and what an entry waits for are those of log
entries 113 and 114. -/
theorem powerStatesChange : Obligations.PowerStatesChange := by
  intro s ev h v b r hev
  refine ⟨fun hc => ?_, fun ho hb hr => ?_, fun hl => ⟨fun hq => ?_, fun hq hs => ?_, fun hq hs => ?_⟩, fun h1 h2 h3 h4 => ?_,
    fun h1 => ⟨fun hh => ?_, fun hh => ?_, fun hh hc hl => ?_⟩, exec_pmFail s, rfl, fun h1 h2 => ?_, fun h1 => ?_,
    fun isl => ⟨fun h1 h2 h3 => ?_, fun h2 => ?_, exec_islandWake s isl⟩⟩
  · rw [exec_powerRequest s ev h v hev, Blk.pwrCtrlWrite, hc]; rfl
  · have hp : b.pwr = s.blk.pwr := by rw [hb, Blk.fieldWrite_pwr]
    obtain ⟨h0, hreq⟩ := Blk.pwrCtrlWrite_spec s.blk b h v r ho hb hr
    rw [exec_powerRequest s ev h v hev]
    refine ⟨fun hz => by rw [h0 hz], fun hh hn hbusy => by rw [hreq hh, Blk.pwrRequest_busy b r hn hbusy], fun hh hc ha => ?_⟩
    rw [hreq hh, ← hp]
    refine ⟨?_, fun h12 hd => ?_, ?_, ?_, ?_⟩
    · rintro rfl hco
      rw [Blk.pwrRequest_coalescer b hc (by simpa using ha) hco]
    · rw [Blk.pwrRequest_held b hc r (ha.resolve_left (by omega)) h12 hd]
    · rintro rfl hd
      rw [Blk.pwrRequest_doze b hc (by simpa using ha) hd]
      exact ⟨fun hs => by rw [if_pos hs], fun hs => by rw [if_neg hs]⟩
    · rintro rfl hco hd
      rw [Blk.pwrRequest_nap b hc (by simpa using ha) hco hd]
      exact ⟨fun hs => by rw [if_pos hs], fun hs hs' => by rw [if_neg (not_or.mpr ⟨hs, hs'⟩)]⟩
    · rintro rfl
      rw [Blk.pwrRequest_run b hc]
      exact ⟨fun hs hd => by rw [if_pos hs, hd]; rfl, fun hs hd => by rw [if_pos hs, hd]; rfl,
        fun hs hs' => by rw [if_neg (not_or.mpr ⟨hs, hs'⟩)]⟩
  · rw [exec_lowPowerEntryDone s hl]
    obtain hq | hs := hq
    · rw [hq]; rfl
    · rw [Blk.entryDone_run _ hs, ite_self]; rfl
  · rw [exec_lowPowerEntryDone s hl, if_pos hq, Blk.entryDone_doze _ hs]
    exact ⟨_, rfl, rfl, rfl, fun hw => if_pos hw, fun hw => if_neg (by simp [hw]), rfl⟩
  · rw [exec_lowPowerEntryDone s hl, if_pos hq, Blk.entryDone_nap _ hs]
    exact ⟨_, rfl, rfl, rfl, rfl, rfl, rfl, rfl, rfl, rfl, rfl, rfl⟩
  · exact ⟨_, exec_resumeDone s h1 h2 h3 h4, Blk.resume_spec s.blk _ rfl⟩
  · rw [exec_pmWarn s h1, if_pos hh]
  · rw [exec_pmWarn s h1, if_neg (by simp [hh])]
  · exact ⟨_, exec_holdEnd s h1 hh hc hl, rfl, rfl, rfl, rfl⟩
  · rw [exec_timebaseTick, if_neg (not_or.mpr ⟨h1, h2⟩)]
  · rw [exec_timebaseTick, if_pos h1]
  · rw [exec_islandGate, h1, h2]
    simp [onlyIf, h3]
  · rw [exec_islandGate, h2]
    simp [onlyIf, Blk.islandIdle_K]

end Sys2Proof.Machine
end

section
/-! PROOFS. The start of a command: what COMMAND_START answers in each case, and what a place in a work queue changes. -/
namespace Sys2Proof.Machine

/-! ### The checks of a slot (R351, steps 1 to 3) -/

theorem Blk.startBad_version (b : Blk) (m : Cmd) (hv : fld (qw m.cd 0) 0 4 ≠ 1) : b.startBad m = some 0x50 := if_pos hv

theorem Blk.startBad_slot (b : Blk) (m : Cmd) (hv : fld (qw m.cd 0) 0 4 = 1) (h : m.cdBad = true) : b.startBad m = some 0x51 := by
  simp [Blk.startBad, hv, h]

theorem Blk.startBad_opcode (b : Blk) (m : Cmd) (hv : fld (qw m.cd 0) 0 4 = 1) (hc : m.cdBad = false) (ho : opAssigned m.op = false) :
    b.startBad m = some 0x53 := by
  simp [Blk.startBad, hv, hc, ho]

/-! ### A place in a work queue (R18, R66, R344) -/

/-- The command in the work queue of core c. -/
def Cmd.inQueue (m : Cmd) (c : Nat) (short : Bool) : Cmd := { m with phase := .queued c, short := short }

/-- Command id at its place in the work queue of core c, before a task context takes the head of that queue. -/
def Blk.queued (b : Blk) (id c : Nat) (short : Bool) : Blk :=
  (b.updCore c (fun k => { k with workq := if short then b.queueShort id k.workq else k.workq ++ [id] })).updCmd id
    (fun x => x.inQueue c short)

theorem Blk.enqueue_eq_place (b : Blk) (id c : Nat) (short : Bool) : b.enqueue id c short = (b.queued id c short).place 4 c := rfl

section queued
variable (b : Blk) (id c : Nat) (short : Bool)

theorem Blk.workq_queued : ((b.queued id c short).core c).workq =
    if short then b.queueShort id (b.core c).workq else (b.core c).workq ++ [id] := by
  simp [Blk.queued]

theorem Blk.cmd_queued {y : Cmd} (hy : b.cmd id = some y) :
    (b.queued id c short).cmd id = some (y.inQueue c short) := by
  unfold Blk.queued
  rw [Blk.cmd_updCmd_same _ id (fun x => x.inQueue c short) (fun _ => rfl), Blk.cmd_updCore, hy, Option.map_some]

theorem Blk.core_queued_other {d : Nat} (h : d ≠ c) : (b.queued id c short).core d = b.core d := by
  unfold Blk.queued
  rw [Blk.core_updCmd, Blk.core_updCore_other _ _ h]

/-- Cores and commands apart, the block is as it was. -/
theorem Blk.queued_frame : { b.queued id c short with cores := b.cores, cmds := b.cmds } = b := rfl

end queued

/-! ### The cases of COMMAND_START -/

theorem exec_commandStart (id : Nat) (rd : View) (s : State) :
    exec (.commandStart id rd) s = .next (s.withBlk (s.blk.commandStart id rd)) := rfl

section copied
variable {b : Blk} {id : Nat} {m : Cmd} (rd : View) (hi : b.issues = true) (hm : b.cmd id = some m) (hp : m.phase = .copied)
include hi hm hp

theorem Blk.commandStart_bad {st : Nat} (hb : b.startBad m = some st) : b.commandStart id rd = b.failCmd id st := by
  simp [Blk.commandStart, hi, hm, hp, hb]

theorem Blk.commandStart_deadline (hb : b.startBad m = none) (hd : b.dlHit m = true) :
    b.commandStart id rd = (b.dlCount m).endCmd id .deadline := by
  simp [Blk.commandStart, hi, hm, hp, hb, hd]

/-- A command that must wait for its turn, its barrier or the inlet is left as it is. -/
theorem Blk.commandStart_waits (hb : b.startBad m = none) (hd : b.dlHit m = false) (hw : b.ringTurn m = false ∨ b.startWaits m = true) :
    b.commandStart id rd = b := by
  simp only [Blk.commandStart, hi, hm, hp, hb, hd]
  obtain hw | hw := hw <;> simp [hw]

theorem Blk.commandStart_dispatcher (hb : b.startBad m = none) (hd : b.dlHit m = false) (ht : b.ringTurn m = true)
    (hw : b.startWaits m = false) (h : m.isDisp = true) :
    b.commandStart id rd = b.updCmd id (fun x => { x with phase := .disp }) := by
  simp [Blk.commandStart, hi, hm, hp, hb, hd, ht, hw, h]

theorem Blk.commandStart_core (hb : b.startBad m = none) (hd : b.dlHit m = false) (ht : b.ringTurn m = true)
    (hw : b.startWaits m = false) (h : m.isDisp = false) {c : Nat} {b1 : Blk} {short : Bool} (hc : b.chooseCore m = some c)
    (hs : b.shortPath m rd = (b1, .ok short)) : b.commandStart id rd = (b1.queued id c short).place 4 c := by
  rw [← Blk.enqueue_eq_place]
  simp [Blk.commandStart, hi, hm, hp, hb, hd, ht, hw, h, hc, hs]

end copied

/-- Settles O31: each case of the start of a copied command, and what its place in a work queue changes (the wait for a place is log
entry 92). -/
theorem commandsStart : Obligations.CommandsStart := by
  intro s id m rd hi hm hp
  simp only [exec_commandStart]
  refine ⟨fun st hb => ?bad, fun hb hd => ?deadline, fun hb hd => ⟨fun hw => ?waits, fun ht hw => ⟨fun h => ?dispatcher, ?core⟩⟩,
    s.blk.startBad_version m, s.blk.startBad_slot m, s.blk.startBad_opcode m⟩
  case bad => rw [Blk.commandStart_bad rd hi hm hp hb]
  case deadline => rw [Blk.commandStart_deadline rd hi hm hp hb hd]
  case waits => rw [Blk.commandStart_waits rd hi hm hp hb hd hw, State.withBlk_self]
  case dispatcher => rw [Blk.commandStart_dispatcher rd hi hm hp hb hd ht hw h]
  case core =>
    intro c b1 short h hc hs
    rw [Blk.commandStart_core rd hi hm hp hb hd ht hw h hc hs]
    exact ⟨b1.queued id c short, rfl, b1.workq_queued id c short, fun _ => b1.cmd_queued id c short,
      fun _ => b1.core_queued_other id c short, b1.queued_frame id c short⟩

end Sys2Proof.Machine
end

section
/-! PROOFS. The issue of row requests: the queue in turn, and the element that leaves its buffer. -/
namespace Sys2Proof.Machine

/-! ### The element that leaves the buffer (R59) -/

/-- The pass with element x in flight and no longer in its buffer. -/
def SQ.taken (s : SQ) (x : Elem) : SQ := { s with
  redo := s.redo.filter (fun y => y.ord ≠ x.ord)
  buf := s.buf.filter (fun y => y.ord ≠ x.ord)
  flight := s.flight ++ [x] }

theorem SQ.mem_flight_taken (s : SQ) (x : Elem) : x ∈ (s.taken x).flight := by simp [SQ.taken]

/-- Nothing that still waits has the element's ordinal. -/
theorem SQ.ord_ne_of_mem_taken (s : SQ) (x : Elem) : ∀ y ∈ (s.taken x).redo ++ (s.taken x).buf, y.ord ≠ x.ord := by
  intro y hy
  rw [List.mem_append] at hy
  obtain h | h := hy <;> exact of_decide_eq_true (List.mem_filter.mp h).2

theorem Blk.rr_putBag (b : Blk) (c q : Nat) (g : Bag) : ((b.putBag c q g).core c).rr = (b.core c).rr := by simp [Blk.putBag]

theorem Blk.trk_putBag (b : Blk) (c q : Nat) (g : Bag) : ((b.putBag c q g).core c).trk = (b.core c).trk := by simp [Blk.putBag]

/-- An element that leaves the buffer may open its bag first, and changes nothing else but its pass. -/
theorem Blk.takeElem_cases (b : Blk) (c q : Nat) (x : Elem) :
    b.takeElem c q x = b.updSq c q (fun s => s.taken x) ∨ ∃ g, b.takeElem c q x = (b.putBag c q g).updSq c q (fun s => s.taken x) := by
  unfold Blk.takeElem
  dsimp only
  split
  · exact .inl rfl
  · exact .inr ⟨_, rfl⟩

theorem Blk.sq_takeElem (b : Blk) (c q : Nat) (x : Elem) : ∃ s : SQ, (b.takeElem c q x).sq c q = s.taken x := by
  obtain h | ⟨g, h⟩ := b.takeElem_cases c q x <;> rw [h, Blk.sq_updSq_same] <;> exact ⟨_, rfl⟩

theorem Blk.rr_takeElem (b : Blk) (c q : Nat) (x : Elem) : ((b.takeElem c q x).core c).rr = (b.core c).rr := by
  obtain h | ⟨g, h⟩ := b.takeElem_cases c q x <;> simp [h, Blk.rr_putBag]

theorem Blk.trk_takeElem (b : Blk) (c q : Nat) (x : Elem) : ((b.takeElem c q x).core c).trk = (b.core c).trk := by
  obtain h | ⟨g, h⟩ := b.takeElem_cases c q x <;> simp [h, Blk.trk_putBag]

theorem Blk.memories_regs_takeElem (b : Blk) (c q : Nat) (x : Elem) :
    (b.takeElem c q x).dev = b.dev ∧ (b.takeElem c q x).host = b.host ∧ (b.takeElem c q x).regs = b.regs := by
  obtain h | ⟨g, h⟩ := b.takeElem_cases c q x <;> simp [h, Blk.putBag]

/-! ### The queue in turn (R20, R21, R60) -/

/-- A pass that can issue has its core's turn. -/
theorem Blk.turn_of_canIssueElem (b : Blk) (c q : Nat) (h : b.canIssueElem c q = true) : (b.core c).turn (b.sq c q).owner = true := by
  unfold Blk.canIssueElem at h
  dsimp only at h
  split at h
  · cases h
  split at h
  · cases h
  split at h
  · cases h
  simp only [Bool.and_eq_true] at h
  obtain ⟨⟨_, hturn⟩, _⟩ := h
  exact hturn

/-- The block after every pass of core c has resolved what it can. -/
def Blk.resolved (b : Blk) (c : Nat) : Blk :=
  iter 20 (fun q b => if (b.sq c q).st = .active && !(b.sq c q).ended then b.pass c q { blocks := [] } else b) b

/-- Core c has turned to queue q, and element x of it is in flight. -/
def Blk.elemIssued (b : Blk) (c q : Nat) (x : Elem) : Blk := (b.updCore c (fun k => { k with rr := q })).takeElem c q x

theorem Blk.rr_elemIssued (b : Blk) (c q : Nat) (x : Elem) : ((b.elemIssued c q x).core c).rr = q := by
  simp [Blk.elemIssued, Blk.rr_takeElem]

theorem Blk.trk_elemIssued (b : Blk) (c q : Nat) (x : Elem) : ((b.elemIssued c q x).core c).trk = (b.core c).trk := by
  simp [Blk.elemIssued, Blk.trk_takeElem]

theorem Blk.memories_regs_elemIssued (b : Blk) (c q : Nat) (x : Elem) :
    (b.elemIssued c q x).dev = b.dev ∧ (b.elemIssued c q x).host = b.host ∧ (b.elemIssued c q x).regs = b.regs :=
  Blk.memories_regs_takeElem (b.updCore c (fun k => { k with rr := q })) c q x

theorem Blk.issueElem_head (b : Blk) (c q : Nat) (x : Elem) (h : (b.sq c q).head = some x) :
    b.issueElem c q = (((b.takeElem c q x).readElem c q x).drain c q).flushBatches c q := by
  unfold Blk.issueElem
  rw [h]

/-- With no express-lane request, the next ready queue in turn issues the head of its buffer. -/
theorem Blk.rowIssue_inTurn (b b1 : Blk) (c q : Nat) (x : Elem) (hu : b.unitIssues c = true) (hb : b1 = b.resolved c)
    (he : (List.range 4).find? (fun t => b1.canBurst c (16 + t)) = none)
    (hq : ((List.range 16).map (fun i => ((b1.core c).rr + 1 + i) % 16)).find? (fun q => b1.canIssueElem c q) = some q)
    (hx : (b1.sq c q).head = some x) :
    b.rowIssue c = (((b1.elemIssued c q x).readElem c q x).drain c q).flushBatches c q := by
  have hsq : ((b1.updCore c (fun k => { k with rr := q })).sq c q).head = some x := by
    rw [← hx]
    unfold Blk.sq
    rw [Blk.core_updCore_same]
    rfl
  have hr : b.rowIssue c = (b1.updCore c (fun k => { k with rr := q })).issueElem c q := by
    unfold Blk.rowIssue
    rw [hu]
    simp only [Bool.not_true, Bool.false_eq_true, if_false]
    rw [← Blk.resolved, ← hb, he]
    dsimp only
    rw [hq]
  rw [hr, Blk.issueElem_head _ c q x hsq]
  rfl

theorem exec_rowRequestIssue (c : Fin 8) (s : State) : exec (.rowRequestIssue c) s = .next (s.withBlk (s.blk.rowIssue c)) := rfl

/-- Settles O18: the queue found in turn has its core's turn (R20 and R21 as log entry 20 reads them), and its element leaves the
buffer and is in flight. -/
theorem nextReadyQueueIssues : Obligations.NextReadyQueueIssues := by
  intro s c b1 q x hu hb he hq hx
  obtain ⟨y, hy⟩ : ∃ y : SQ, (b1.elemIssued c q x).sq c q = y.taken x := Blk.sq_takeElem _ _ _ _
  refine ⟨b1.elemIssued c q x, ?step, b1.rr_elemIssued c q x, ?flight, b1.turn_of_canIssueElem c q (List.find?_some hq :), ?waiting,
    b1.trk_elemIssued c q x, b1.memories_regs_elemIssued c q x⟩
  case step => rw [exec_rowRequestIssue, s.blk.rowIssue_inTurn b1 c q x hu hb he hq hx]
  case flight => rw [hy]; exact y.mem_flight_taken x
  case waiting => rw [hy]; exact y.ord_ne_of_mem_taken x

end Sys2Proof.Machine
end

section
/-! PROOFS. Device and host memory: the bytes and the poison that a write leaves, and what a read then returns. -/
namespace Sys2Proof.Machine

/-! ### The sectors of a range -/

theorem mem_sectorsOf (pa n s : Nat) : s ∈ sectorsOf pa n ↔ 0 < n ∧ pa < 64 * s + 64 ∧ 64 * s < pa + n := by
  unfold sectorsOf
  split
  · next h => simp [h]
  · rw [List.mem_range'_1]; omega

theorem div_mem_sectorsOf {pa n a : Nat} (h1 : pa ≤ a) (h2 : a < pa + n) : a / 64 ∈ sectorsOf pa n := by
  rw [mem_sectorsOf]; omega

/-- The sectors of a range end to end are its addresses, rounded out to whole sectors. -/
theorem flatMap_sector_addresses (a m : Nat) : (List.range' a m).flatMap (fun s => List.range' (64 * s) 64) = List.range' (64 * a) (64 * m) := by
  induction m generalizing a with
  | zero => rfl
  | succ m ih =>
    rw [List.range'_succ, List.flatMap_cons, ih, Nat.mul_succ, Nat.mul_succ, List.range'_append_1, Nat.add_comm 64]

/-- The addresses of a range, cut out of its whole sectors. -/
theorem sectorsOf_addresses (pa n : Nat) :
    (((sectorsOf pa n).flatMap (fun s => List.range' (64 * s) 64)).drop (pa % 64)).take n = List.range' pa n := by
  unfold sectorsOf
  split
  · next h => simp [h]
  · rw [flatMap_sector_addresses, List.drop_range', show 64 * (pa / 64) + pa % 64 * 1 = pa by omega, List.take_range'_of_length_ge (by omega)]

/-! ### Reads of a region that is not encrypted -/

theorem Blk.rawBytes_eq_map (b : Blk) (pa n : Nat) : b.rawBytes pa n = (List.range' pa n).map b.devByte := by
  rw [List.range'_eq_map_range, List.map_map]; rfl

theorem Blk.devRead_plain (b : Blk) (cr pa n : Nat) (h : ∀ s ∈ sectorsOf pa n, b.enc cr (64 * s) = false) :
    b.devRead cr pa n = (List.range' pa n).map b.devByte := by
  have hs : (sectorsOf pa n).flatMap (b.readSector cr) = ((sectorsOf pa n).flatMap (fun s => List.range' (64 * s) 64)).map b.devByte := by
    rw [List.map_flatMap, List.flatMap_def, List.flatMap_def]
    refine congrArg List.flatten (List.map_congr_left fun s hs => ?_)
    rw [Blk.readSector, h s hs, Blk.rawBytes_eq_map]; rfl
  rw [Blk.devRead, hs, ← List.map_drop, ← List.map_take, sectorsOf_addresses]

/-- A range whose bytes are those of a list reads as the list. -/
theorem map_range'_eq_list (f : Nat → Byte) (pa : Nat) (l : List Byte) (h : ∀ i, i < l.length → f (pa + i) = l.getD i 0) :
    (List.range' pa l.length).map f = l := by
  refine List.ext_getElem (by simp) (fun i _ hi => ?_)
  simp [h i hi, hi]

/-! ### One sector of a write (R44) -/

/-- The part of a write that falls into sector s. -/
def Blk.writePart (b : Blk) (cr pa : Nat) (l : List Byte) (s : Nat) : Blk := b.writeSector cr s (sectorPart pa l s).1 (sectorPart pa l s).2

theorem Blk.devWrite_eq_foldl (b : Blk) (cr pa : Nat) (l : List Byte) :
    b.devWrite cr pa l = (sectorsOf pa l.length).foldl (fun b s => b.writePart cr pa l s) b := rfl

/-- The part is a whole sector where the write covers the sector. -/
theorem sectorPart_whole_iff (pa : Nat) (l : List Byte) (s : Nat) :
    (sectorPart pa l s).2.length = 64 ↔ pa ≤ 64 * s ∧ 64 * s + 64 ≤ pa + l.length := by
  simp only [sectorPart, List.length_take, List.length_drop]; omega

/-- The byte at address a of the part. -/
theorem sectorPart_getD (pa : Nat) (l : List Byte) (s a : Nat) (hs : a / 64 = s) (h1 : pa ≤ a) (h2 : a < pa + l.length) :
    (sectorPart pa l s).2.getD (a - (64 * s + (sectorPart pa l s).1)) 0 = l.getD (a - pa) 0 := by
  simp only [sectorPart, List.getD_eq_getElem?_getD]
  rw [List.getElem?_take_of_lt (by omega), List.getElem?_drop]
  congr 2; omega

theorem Blk.writePart_plain (b : Blk) (cr pa : Nat) (l : List Byte) (s : Nat) (h : b.enc cr (64 * s) = false) :
    b.writePart cr pa l s = { b with
      dev := devStore (64 * s + (sectorPart pa l s).1) (sectorPart pa l s).2 b.dev
      bad := if (sectorPart pa l s).2.length = 64 then b.bad.filter (fun x => x ≠ s) else b.bad } := by
  simp only [Blk.writePart, Blk.writeSector, h]; rfl

section plain
variable (b : Blk) (cr pa : Nat) (l : List Byte)

theorem Blk.devByte_writePart (s a : Nat) (h : b.enc cr (64 * s) = false) :
    (b.writePart cr pa l s).devByte a = if a / 64 = s ∧ pa ≤ a ∧ a < pa + l.length then l.getD (a - pa) 0 else b.devByte a := by
  have hp : (64 * s + (sectorPart pa l s).1 ≤ a ∧ a < 64 * s + (sectorPart pa l s).1 + (sectorPart pa l s).2.length) ↔
      (a / 64 = s ∧ pa ≤ a ∧ a < pa + l.length) := by
    simp only [sectorPart, List.length_take, List.length_drop]; omega
  rw [Blk.writePart_plain b cr pa l s h, Blk.devByte, devStore_get]
  by_cases ha : a / 64 = s ∧ pa ≤ a ∧ a < pa + l.length
  · obtain ⟨hs, h1, h2⟩ := ha
    rw [if_pos (hp.mpr ⟨hs, h1, h2⟩), if_pos ⟨hs, h1, h2⟩, sectorPart_getD pa l s a hs h1 h2]
  · rw [if_neg (fun h => ha (hp.mp h)), if_neg ha]; rfl

theorem Blk.bad_writePart (s x : Nat) (h : b.enc cr (64 * s) = false) :
    x ∈ (b.writePart cr pa l s).bad ↔ x ∈ b.bad ∧ ¬ (x = s ∧ pa ≤ 64 * x ∧ 64 * x + 64 ≤ pa + l.length) := by
  rw [Blk.writePart_plain b cr pa l s h]
  by_cases hw : (sectorPart pa l s).2.length = 64
  · have hc := (sectorPart_whole_iff pa l s).mp hw
    simp only [if_pos hw, List.mem_filter, decide_eq_true_eq]
    exact and_congr_right fun _ => not_congr ⟨fun e => ⟨e, e ▸ hc⟩, fun e => e.1⟩
  · have hc := fun h => hw ((sectorPart_whole_iff pa l s).mpr h)
    simp only [if_neg hw]
    exact ⟨fun hx => ⟨hx, fun e => hc (e.1 ▸ e.2)⟩, fun hx => hx.1⟩

/-- Device memory and its poison apart, a sector write leaves the block as it was. -/
theorem Blk.writePart_frame (s : Nat) : { b.writePart cr pa l s with dev := b.dev, bad := b.bad } = b := by
  unfold Blk.writePart Blk.writeSector
  split
  · split <;> rfl
  · rfl

theorem Blk.enc_writePart (s r a : Nat) : (b.writePart cr pa l s).enc r a = b.enc r a := by
  have h : (b.writePart cr pa l s).sec = b.sec := (congrArg Blk.sec (b.writePart_frame cr pa l s) :)
  unfold Blk.enc Blk.active
  rw [h]

/-! ### A write, sector by sector -/

theorem foldl_writePart_devByte (ss : List Nat) (a : Nat) (h : ∀ s ∈ ss, b.enc cr (64 * s) = false) :
    (ss.foldl (fun b s => b.writePart cr pa l s) b).devByte a =
      if a / 64 ∈ ss ∧ pa ≤ a ∧ a < pa + l.length then l.getD (a - pa) 0 else b.devByte a := by
  induction ss generalizing b with
  | nil => simp
  | cons s ss ih =>
    obtain ⟨hs, hss⟩ := List.forall_mem_cons.mp h
    rw [List.foldl_cons, ih _ (fun x hx => by rw [Blk.enc_writePart]; exact hss x hx), Blk.devByte_writePart b cr pa l s a hs]
    by_cases hr : pa ≤ a ∧ a < pa + l.length
    · by_cases hm : a / 64 ∈ ss <;> simp only [hr, hm, List.mem_cons, and_true, or_true, or_false, if_true, if_false]
    · simp only [hr, and_false, if_false]

theorem foldl_writePart_bad (ss : List Nat) (x : Nat) (h : ∀ s ∈ ss, b.enc cr (64 * s) = false) :
    x ∈ (ss.foldl (fun b s => b.writePart cr pa l s) b).bad ↔
      x ∈ b.bad ∧ ¬ (x ∈ ss ∧ pa ≤ 64 * x ∧ 64 * x + 64 ≤ pa + l.length) := by
  induction ss generalizing b with
  | nil => simp
  | cons s ss ih =>
    obtain ⟨hs, hss⟩ := List.forall_mem_cons.mp h
    rw [List.foldl_cons, ih _ (fun x hx => by rw [Blk.enc_writePart]; exact hss x hx), Blk.bad_writePart b cr pa l s x hs, List.mem_cons,
      and_assoc, ← not_or, ← or_and_right]

theorem foldl_writePart_frame (ss : List Nat) :
    { ss.foldl (fun b s => b.writePart cr pa l s) b with dev := b.dev, bad := b.bad } = b := by
  induction ss generalizing b with
  | nil => rfl
  | cons s ss ih =>
    exact (congrArg (fun x : Blk => { x with dev := b.dev, bad := b.bad }) (ih (b.writePart cr pa l s))).trans (b.writePart_frame cr pa l s)

/-- Device memory and its poison apart, a write leaves the block as it was. -/
theorem Blk.devWrite_frame : { b.devWrite cr pa l with dev := b.dev, bad := b.bad } = b := foldl_writePart_frame b cr pa l _

theorem Blk.enc_devWrite (r a : Nat) : (b.devWrite cr pa l).enc r a = b.enc r a := by
  have h : (b.devWrite cr pa l).sec = b.sec := (congrArg Blk.sec (b.devWrite_frame cr pa l) :)
  unfold Blk.enc Blk.active
  rw [h]

section
variable (h : ∀ s ∈ sectorsOf pa l.length, b.enc cr (64 * s) = false)
include h

theorem Blk.devByte_devWrite (a : Nat) :
    (b.devWrite cr pa l).devByte a = if pa ≤ a ∧ a < pa + l.length then l.getD (a - pa) 0 else b.devByte a := by
  rw [Blk.devWrite_eq_foldl, foldl_writePart_devByte b cr pa l _ a h]
  have hm : (a / 64 ∈ sectorsOf pa l.length ∧ pa ≤ a ∧ a < pa + l.length) ↔ (pa ≤ a ∧ a < pa + l.length) :=
    and_iff_right_of_imp fun ha => div_mem_sectorsOf ha.1 ha.2
  simp only [hm]

theorem Blk.devRead_devWrite : (b.devWrite cr pa l).devRead cr pa l.length = l := by
  rw [Blk.devRead_plain _ cr pa _ (fun s hs => by rw [Blk.enc_devWrite]; exact h s hs)]
  refine map_range'_eq_list _ pa l (fun i hi => ?_)
  rw [Blk.devByte_devWrite b cr pa l h, if_pos ⟨by omega, by omega⟩, Nat.add_sub_cancel_left]

theorem Blk.bad_devWrite (x : Nat) :
    x ∈ (b.devWrite cr pa l).bad ↔ x ∈ b.bad ∧ ¬ (pa ≤ 64 * x ∧ 64 * x + 64 ≤ pa + l.length) := by
  rw [Blk.devWrite_eq_foldl, foldl_writePart_bad b cr pa l _ x h]
  exact and_congr_right fun _ => not_congr (and_iff_right_of_imp fun hx => (mem_sectorsOf _ _ _).mpr (by omega))

end
end plain

/-- Settles O60: a write is taken sector by sector, each of which stores the bytes that fall into it and, covered whole, loses its
poison; host memory is the image of acknowledged writes (log entry 4). -/
theorem memoryReadsBackWhatIsWritten : Obligations.MemoryReadsBackWhatIsWritten := by
  refine ⟨fun b cr pa l h => ⟨b.devByte_devWrite cr pa l h, b.devRead_devWrite cr pa l h, b.bad_devWrite cr pa l h,
    b.devWrite_frame cr pa l⟩, fun b pa l => ⟨fun a => devStore_get l pa a b.host, rfl⟩⟩

end Sys2Proof.Machine
end

section
/-! PROOFS. Rows that return: the slot of an accepted row, the element that its bytes reach, a replica record that is read again or used,
and the acknowledgement of a bag's output write. -/
namespace Sys2Proof.Machine

/-! ### The slot in the tracker (R59) -/

section slot
variable {b : Blk} {c i : Nat} {t : TSlot} (ht : (b.core c).trk.find? (fun t => t.id == i) = some t)
include ht

theorem TSlot.id_of_find : t.id = i := eq_of_beq (List.find?_some ht :)

theorem Core.slot_of_find : (b.core c).slot i = some t := by
  rw [Core.slot, List.find?_append, ht]; rfl

/-- A change of a slot that keeps its number. -/
theorem Blk.find_updSlot (f : TSlot → TSlot) (hf : ∀ u, (f u).id = u.id) :
    ((b.updSlot c i f).core c).trk.find? (fun t => t.id == i) = some (f t) := by
  have hid (u : TSlot) : (if u.id = i then f u else u).id = u.id := by split <;> simp [hf]
  rw [Blk.updSlot, Blk.core_updCore_same, List.find?_map, show ((fun t : TSlot => t.id == i) ∘ fun u => if u.id = i then f u else u) =
    (fun t => t.id == i) from funext fun u => congrArg (· == i) (hid u), ht, Option.map_some, if_pos (TSlot.id_of_find ht)]

end slot

theorem Blk.mem_updSlot_other {b : Blk} {c i : Nat} {f : TSlot → TSlot} {u : TSlot} (hu : u ∈ (b.core c).trk) (hi : u.id ≠ i) :
    u ∈ ((b.updSlot c i f).core c).trk := by
  rw [Blk.updSlot, Blk.core_updCore_same]
  exact List.mem_map.mpr ⟨u, hu, if_neg hi⟩

theorem Blk.mem_trk_freeSlotT (b : Blk) (c i : Nat) (u : TSlot) :
    u ∈ ((b.freeSlotT c i).core c).trk ↔ u ∈ (b.core c).trk ∧ u.id ≠ i := by
  simp [Blk.freeSlotT]

/-- A change of the tracker leaves the passes alone. -/
theorem Blk.sq_updCore_trk (b : Blk) (c q : Nat) (f : List TSlot → List TSlot) :
    (b.updCore c (fun k => { k with trk := f k.trk })).sq c q = b.sq c q := by
  rw [Blk.sq, Blk.core_updCore_same]; rfl

/-! ### The bytes of a slot (R42, R59) -/

/-- A slot's bytes go to passes and their commands alone. -/
theorem Blk.slotParts_frame (b : Blk) (c : Nat) (t : TSlot) (l : List Byte) (bad : List Bool) :
    { b.slotParts c t l bad with cores := b.cores, cmds := b.cmds } = b := by
  unfold Blk.slotParts
  dsimp only
  split
  · split <;> rfl
  · rfl

theorem Blk.trk_slotParts (b : Blk) (c : Nat) (t : TSlot) (l : List Byte) (bad : List Bool) :
    ((b.slotParts c t l bad).core c).trk = (b.core c).trk := by
  unfold Blk.slotParts
  dsimp only
  split
  · split <;> simp
  · simp

section oneRow
variable (b : Blk) (c : Nat) (t : TSlot) (l : List Byte) (bad : List Bool) (hp : t.plane = none)
include hp

theorem Blk.cmd_slotParts : (b.slotParts c t l bad).cmd (b.sq c t.q).owner =
    (b.cmd (b.sq c t.q).owner).map (fun m => { m with rows := m.rows + 1 }) := by
  unfold Blk.slotParts
  rw [hp]
  exact Blk.cmd_updCmd_same b _ _ (fun _ => rfl)

theorem Blk.parts_slotParts : (t.ord, t.half, 0, l.take (b.sq c t.q).tab.rowBytes) ∈ ((b.slotParts c t l bad).sq c t.q).parts := by
  unfold Blk.slotParts
  rw [hp]
  dsimp only
  rw [Blk.sq_updSq_same]
  split <;> split <;> simp

theorem Blk.pbad_slotParts : (t.ord, t.half) ∈ ((b.slotParts c t l bad).sq c t.q).pbad ↔
    (t.ord, t.half) ∈ (b.sq c t.q).pbad ∨ true ∈ bad := by
  unfold Blk.slotParts
  rw [hp]
  dsimp only
  rw [Blk.sq_updSq_same]
  have hb : bad.any id = true ↔ true ∈ bad := by simp
  split
  · next h =>
    have hm : true ∈ bad := hb.mp h
    split <;> simp [hm]
  · next h =>
    have hm : true ∉ bad := fun hm => h (hb.mpr hm)
    split <;> simp [hm]

end oneRow

/-! ### An accepted row (R20, R59) -/

/-- The block once the row of slot t has returned and its bytes l are at their element. -/
def Blk.rowIn (b : Blk) (c : Nat) (t : TSlot) (l : List Byte) (bad : List Bool) : Blk := (b.rowGot c t).slotParts c t l bad

section rowIn
variable (b : Blk) (c : Nat) (t : TSlot) (l : List Byte) (bad : List Bool) (hc : t.camp = none)
include hc

theorem Blk.rowGot_freed (h : b.build.overlap = true) : b.rowGot c t = b.freeSlotT c t.id := by
  rw [Blk.rowGot, if_pos h, Blk.endSlot, hc]

theorem Blk.rowGot_waits (h : b.build.overlap = false) :
    b.rowGot c t = b.updSlot c t.id (fun t => { t with got := true, camp := none, pieces := [] }) := by
  rw [Blk.rowGot, if_neg (by simp [h]), hc]

/-- A row that no camp serves changes the tracker alone as it returns. -/
theorem Blk.rowGot_trk : ∃ f : List TSlot → List TSlot, b.rowGot c t = b.updCore c (fun k => { k with trk := f k.trk }) := by
  cases h : b.build.overlap with
  | true => exact ⟨_, b.rowGot_freed c t hc h⟩
  | false => exact ⟨_, b.rowGot_waits c t hc h⟩

theorem Blk.sq_rowGot (q : Nat) : (b.rowGot c t).sq c q = b.sq c q := by
  obtain ⟨f, hf⟩ := b.rowGot_trk c t hc
  rw [hf, Blk.sq_updCore_trk]

/-- Cores and commands apart, the block is as it was. -/
theorem Blk.rowIn_frame : { b.rowIn c t l bad with cores := b.cores, cmds := b.cmds } = b := by
  obtain ⟨f, hf⟩ := b.rowGot_trk c t hc
  have h := congrArg (fun x : Blk => { x with cores := b.cores, cmds := b.cmds }) ((b.rowGot c t).slotParts_frame c t l bad)
  refine h.trans ?_
  rw [hf]; rfl

theorem Blk.reg_rowIn (o : Nat) : (b.rowIn c t l bad).reg o = b.reg o := by
  have h : (b.rowIn c t l bad).regs = b.regs := (congrArg Blk.regs (b.rowIn_frame c t l bad hc) :)
  unfold Blk.reg
  rw [h]

/-- In a build with overlap the slot is free at once. -/
theorem Blk.rowIn_frees (h : b.build.overlap = true) : ∀ u ∈ ((b.rowIn c t l bad).core c).trk, u.id ≠ t.id := by
  intro u hu
  rw [Blk.rowIn, Blk.trk_slotParts, b.rowGot_freed c t hc h, Blk.mem_trk_freeSlotT] at hu
  exact hu.2

/-- In a fetch-ahead build the slot waits, without its pieces, for the consumer (log entry 21). -/
theorem Blk.rowIn_waits (h : b.build.overlap = false) (ht : (b.core c).trk.find? (fun u => u.id == t.id) = some t) :
    ((b.rowIn c t l bad).core c).trk.find? (fun u => u.id == t.id) = some { t with got := true, pieces := [] } := by
  rw [Blk.rowIn, Blk.trk_slotParts, b.rowGot_waits c t hc h,
    Blk.find_updSlot ht (fun t => { t with got := true, camp := none, pieces := [] }) fun _ => rfl, ← hc]

theorem Blk.rowIn_keeps {u : TSlot} (hu : u ∈ (b.core c).trk) (hi : u.id ≠ t.id) : u ∈ ((b.rowIn c t l bad).core c).trk := by
  rw [Blk.rowIn, Blk.trk_slotParts]
  cases h : b.build.overlap with
  | true => rw [b.rowGot_freed c t hc h, Blk.mem_trk_freeSlotT]; exact ⟨hu, hi⟩
  | false => rw [b.rowGot_waits c t hc h]; exact Blk.mem_updSlot_other hu hi

variable (hp : t.plane = none)
include hp

theorem Blk.cmd_rowIn {m : Cmd} (hm : b.cmd (b.sq c t.q).owner = some m) :
    (b.rowIn c t l bad).cmd (b.sq c t.q).owner = some { m with rows := m.rows + 1 } := by
  obtain ⟨f, hf⟩ := b.rowGot_trk c t hc
  have h := (b.rowGot c t).cmd_slotParts c t l bad hp
  rw [b.sq_rowGot c t hc] at h
  rw [Blk.rowIn, h, hf, Blk.cmd_updCore, hm, Option.map_some]

theorem Blk.parts_rowIn : (t.ord, t.half, 0, l.take (b.sq c t.q).tab.rowBytes) ∈ ((b.rowIn c t l bad).sq c t.q).parts := by
  rw [← b.sq_rowGot c t hc]
  exact (b.rowGot c t).parts_slotParts c t l bad hp

theorem Blk.pbad_rowIn : (t.ord, t.half) ∈ ((b.rowIn c t l bad).sq c t.q).pbad ↔ (t.ord, t.half) ∈ (b.sq c t.q).pbad ∨ true ∈ bad := by
  rw [← b.sq_rowGot c t hc]
  exact (b.rowGot c t).pbad_slotParts c t l bad hp

end rowIn

/-! ### ROW_RETURN -/

theorem exec_rowReturn (c : Fin 8) (i : Nat) (rd : View) (f : RowFault) (s : State) :
    exec (.rowReturn c i rd f) s = .next (s.withBlk (s.blk.rowReturn c i rd f)) := rfl

/-- A slot that has consulted the directory does not do so again. -/
theorem Blk.consult_consulted {b : Blk} {c i : Nat} {t : TSlot} (ht : (b.core c).slot i = some t) (hc : t.consulted = true) :
    b.consult c i = (b, true) := by
  simp [Blk.consult, ht, hc]

/-- A slot whose row has not returned, and which is neither late nor faulted nor stale, waits for its bytes alone. -/
structure TSlot.waitsForRow (t : TSlot) (rd : View) : Prop where
  kind : t.kind = .row
  late : t.late = false
  got : t.got = false
  stale : t.stale = false
  faulted : t.faulted = false
  consulted : t.consulted = true
  served : ∀ p ∈ t.pieces, pieceRefused rd p = false
  notHeld : ∀ p ∈ t.pieces, p.hold = false

theorem Blk.rowReturn_accepts {b : Blk} {c i : Nat} {t : TSlot} {rd : View} {l : List Byte} {bad : List Bool} (hl : b.coreLive c = true)
    (ht : (b.core c).slot i = some t) (hw : t.waitsForRow rd) (hb : b.slotBytes (b.sq c t.q) t rd = some (l, bad)) :
    b.rowReturn c i rd .none = (b.rowIn c t l bad).drainParts 512 c t.q := by
  have hserved : t.pieces.any (pieceRefused rd) = false := List.any_eq_false.mpr fun p hp => by simp [hw.served p hp]
  have hheld : t.pieces.any (fun p => p.hold && b.pieceShut c t.q p) = false := List.any_eq_false.mpr fun p hp => by simp [hw.notHeld p hp]
  simp [Blk.rowReturn, Blk.rowIn, ht, hl, Blk.consult_consulted ht hw.consulted, hw.kind, hw.late, hw.got, hw.stale, hw.faulted, hserved,
    hheld, hb]

/-! ### Replica records (R423) -/

/-- A slot, stale until now, that reads its pieces again. -/
def TSlot.again (t : TSlot) : TSlot := { t with
  stale := false, pieces := t.pieces.map (fun p => { p with byte := none, looked := false }) }

/-- Slot i, which holds t, reads its pieces again; its first reading again is counted. -/
def Blk.readAgain (b : Blk) (c i : Nat) (t : TSlot) : Blk := (if t.rereads = 1 then b.inc 0x70218 1 else b).updSlot c i TSlot.again

theorem Blk.reg_readAgain (b : Blk) (c i : Nat) (t : TSlot) :
    (b.readAgain c i t).reg 0x70218 = b.reg 0x70218 + (if t.rereads = 1 then 1 else 0) := by
  unfold Blk.readAgain Blk.updSlot
  rw [Blk.reg_updCore]
  split
  · rw [Blk.reg_inc, if_pos rfl]; rfl
  · simp

theorem Blk.find_readAgain {b : Blk} {c i : Nat} {t : TSlot} (ht : (b.core c).trk.find? (fun t => t.id == i) = some t) :
    ((b.readAgain c i t).core c).trk.find? (fun t => t.id == i) = some t.again := by
  refine Blk.find_updSlot ?_ TSlot.again fun _ => rfl
  rw [← ht]
  split <;> rfl

/-- A record of command id was not current in time: the command and the block note it. -/
def Blk.waitmaxPassed (b : Blk) (id : Nat) : Blk := (b.updCmd id (fun m => m.flag 8)).inc 0x70210 1

theorem Blk.reg_waitmaxPassed (b : Blk) (id : Nat) : (b.waitmaxPassed id).reg 0x70210 = b.reg 0x70210 + 1 :=
  Blk.reg_inc _ 0x70210 0x70210 1

theorem Blk.cmd_waitmaxPassed {b : Blk} {id : Nat} {m : Cmd} (hm : b.cmd id = some m) : (b.waitmaxPassed id).cmd id = some (m.flag 8) := by
  rw [Blk.waitmaxPassed, Blk.cmd_inc, Blk.cmd_updCmd_same _ _ (fun m => m.flag 8) (fun _ => rfl), hm, Option.map_some]

section stale
variable {s : State} {c : Fin 8} {i : Nat} {t : TSlot} (hl : s.blk.coreLive c = true) (ht : (s.blk.core c).slot i = some t)
  (hs : t.stale = true) (hlate : t.late = false)
include hl ht hs hlate

theorem exec_replicaReread (rd : View) (h : t.last + 64 ≤ s.blk.time.toNat) :
    exec (.replicaReread c i rd) s = .next (s.withBlk ((s.blk.readAgain c i t).rowReturn c i rd .none)) := by
  show execReplicaReread c i rd s = _
  simp only [execReplicaReread, upd_next, ht, hl, hs, hlate, h, Bool.not_false, Bool.and_true, decide_true, if_true]
  rfl

theorem exec_replicaWaitmax {l : List Byte} {bad : List Bool} (h : t.first + fld (qw (s.blk.sq c t.q).tab.smd 6) 0 32 ≤ s.blk.time.toNat)
    (hb : s.blk.slotBytes (s.blk.sq c t.q) t { blocks := [] } = some (l, bad)) :
    exec (.replicaWaitmax c i) s =
      .next (s.withBlk (((s.blk.waitmaxPassed (s.blk.sq c t.q).owner).rowIn c t l bad).drainParts 512 c t.q)) := by
  show execReplicaWaitmax c i s = _
  simp only [execReplicaWaitmax, upd_next, ht, hl, hs, hlate, h, hb, Bool.not_false, Bool.and_true, decide_true, if_true]
  rfl

end stale

/-! ### Batches and output writes (R112, R417) -/

theorem exec_rpoolBatchTimer {s : State} {c : Fin 8} {q : Fin 20} {node : BitVec 16} {y : Batch}
    (hy : (s.blk.sq c q).batches.find? (fun x => x.node = node.toNat) = some y) (hu : s.blk.unitIssues c = true)
    (h : y.first + 64 ≤ s.blk.time.toNat) :
    exec (.rpoolBatchTimer c q node) s = .next (s.withBlk (s.blk.sendBatch c q node.toNat)) := by
  show execRpoolBatchTimer c q node s = _
  simp [execRpoolBatchTimer, upd, State.withBlk, hy, hu, h]

/-- The host parts of an acknowledged write change host memory alone. -/
theorem Blk.hostParts_frame (b : Blk) (l : List (Nat × List Byte)) : { b.hostParts l with host := b.host } = b := by
  unfold Blk.hostParts
  induction l generalizing b with
  | nil => rfl
  | cons p l ih => exact congrArg (fun x : Blk => { x with host := b.host }) (ih (b.hostWrite p.1 p.2))

/-- The output write of bag k has landed and has left its pass. -/
def Blk.outLanded (b : Blk) (c q k : Nat) (hosts : List (Nat × List Byte)) : Blk :=
  (b.hostParts hosts).updSq c q (fun s => { s with out := s.out.filter (fun x => x.bag ≠ k) })

theorem Blk.sq_outLanded (b : Blk) (c q k : Nat) (hosts : List (Nat × List Byte)) :
    (b.outLanded c q k hosts).sq c q = { b.sq c q with out := (b.sq c q).out.filter (fun x => x.bag ≠ k) } := by
  have h : (b.hostParts hosts).cores = b.cores := (congrArg Blk.cores (b.hostParts_frame hosts) :)
  rw [Blk.outLanded, Blk.sq_updSq_same]
  unfold Blk.sq Blk.core
  rw [h]

theorem Blk.bagAck_issued {b : Blk} {c q k : Nat} {o : OutW} (hl : b.coreLive c = true)
    (ho : (b.sq c q).out.find? (fun o => o.bag = k) = some o) (htb : (b.sq c q).cons.tb = none) (hi : o.issued = true)
    (hp : b.passed o.ids = true) : b.bagAck c q k = ((b.outLanded c q k o.hosts).settle c q k).finishPass c q := by
  simp [Blk.bagAck, Blk.outLanded, hl, ho, htb, hi, hp]

theorem exec_bagOutputAck (c : Fin 8) (q : Fin 20) (k : Nat) (s : State) :
    exec (.bagOutputAck c q k) s = .next (s.withBlk (s.blk.bagAck c q k)) := rfl

/-- Settles O22: each event is read off its own equation above. A replica's record returns by ROW_RETURN of its slot (log entry 35), and a
slot of a fetch-ahead build is freed once its row is accepted (log entry 21). -/
theorem rowsReachTheirElements : Obligations.RowsReachTheirElements := by
  intro s c i t x rd l bad hl ht hx hlate hp hgot
  subst hx
  have hslot := Core.slot_of_find ht
  have hid := TSlot.id_of_find ht
  refine ⟨fun hk hs hf hcons hserved hheld hb => ?returned, fun hs h => ?reread, fun hs hc h hb => ?waitmax,
    fun q node y hy hu h => exec_rpoolBatchTimer hy hu h, fun q k o ho htb hi hpass => ?acknowledged⟩
  case returned =>
    have hw : t.waitsForRow rd := ⟨hk, hlate, hgot, hs, hf, hcons, hserved, hheld⟩
    refine ⟨s.blk.rowIn c t l bad, by rw [exec_rowReturn, Blk.rowReturn_accepts hl hslot hw hb], rfl, fun hc => ?_⟩
    subst hid
    have hframe := s.blk.rowIn_frame c t l bad hc
    exact ⟨s.blk.rowIn_frees c t l bad hc, fun h => s.blk.rowIn_waits c t l bad hc h ht, fun u => s.blk.rowIn_keeps c t l bad hc,
      s.blk.parts_rowIn c t l bad hc hp, s.blk.pbad_rowIn c t l bad hc hp, fun m => s.blk.cmd_rowIn c t l bad hc hp,
      (congrArg Blk.dev hframe :), (congrArg Blk.host hframe :)⟩
  case reread => exact ⟨_, exec_replicaReread hl hslot hs hlate rd h, Blk.find_readAgain ht, s.blk.reg_readAgain c i t⟩
  case waitmax =>
    subst hid
    refine ⟨_, exec_replicaWaitmax hl hslot hs hlate h hb, (s.blk.waitmaxPassed _).rowIn_frees c t l bad hc,
      (s.blk.waitmaxPassed _).parts_rowIn c t l bad hc hp, ?_,
      fun m hm => (s.blk.waitmaxPassed _).cmd_rowIn c t l bad hc hp (Blk.cmd_waitmaxPassed hm)⟩
    rw [Blk.reg_rowIn _ c t l bad hc, Blk.reg_waitmaxPassed]
  case acknowledged =>
    exact ⟨s.blk.outLanded c q k o.hosts, by rw [exec_bagOutputAck, Blk.bagAck_issued hl ho htb hi hpass]; rfl, rfl,
      (congrArg Blk.dev (s.blk.hostParts_frame o.hosts) :), s.blk.sq_outLanded c q k o.hosts⟩

end Sys2Proof.Machine
end

section
/-! PROOFS. The sectors that a stream reads: what the pass keeps of a sector that returns. -/
namespace Sys2Proof.Machine

/-! ### What is kept of a read (R52, R97) -/

/-- What a pass keeps of a sector read: the data or its poison, and nothing of a read that waits or fails. -/
def Rd.kept : Rd → Option Resp
  | .bytes l => some (.data (sectOf l))
  | .poison => some .poison
  | .wait | .fail _ => none

/-- What is kept, where the read answered data or poison. -/
theorem Rd.kept_eq {a : Rd} {d : Resp} (hdata : ∀ l, a = .bytes l → d = .data (sectOf l)) (hbad : a = .poison → d = .poison)
    (ha : (∃ l, a = .bytes l) ∨ a = .poison) : a.kept = some d := by
  obtain ⟨l, rfl⟩ | rfl := ha
  · rw [hdata l rfl]; rfl
  · rw [hbad rfl]; rfl

/-- A sector that the pass does not hold is kept as the read answered it, marked where its page is confidential (R408), and the pass
goes on. -/
theorem Blk.sector_keeps {b b1 : Blk} {c q kind k : Nat} {r : Req} {x : Resp} {a : Rd} {d : Resp} (rd : View)
    (hnew : (b.sq c q).sec kind k = none) (hread : b.vread r (b.sq c q).ctx { blocks := [(k, x)] } (64 * k) 64 = (b1, a))
    (hd : a.kept = some d) :
    b.sector c q kind k r x rd =
      (b1.updSq c q (fun y => y.keepSec kind k d (b1.confAt r (b.sq c q).ctx (64 * k)))).pass c q rd := by
  cases a with
  | bytes l => cases hd; simp [Blk.sector, hnew, hread]
  | poison => cases hd; simp [Blk.sector, hnew, hread]
  | wait => cases hd
  | fail e => cases hd

/-! ### The blocks that a pass reads (R52, R97) -/

section wanted
variable {s : State} {c : Fin 8} {q : Fin 20} {k : Nat} (hreads : s.blk.reads c q = true)
include hreads

/-- A block with an index that the pass will need. -/
theorem exec_indexSectorReturn_index (r : Resp) (rd : View) (hinl : (s.blk.sq c q).inl = none)
    (hw : ∃ o ∈ (s.blk.sq c q).window, sdIdxAddr (s.blk.sq c q).sd o / 64 = k) :
    exec (.indexSectorReturn c q .index k r rd) s = .next (s.withBlk (s.blk.sector c q 0 k (.idx c q k) r rd)) := by
  show execIndexSectorReturn c q .index k r rd s = _
  simp [execIndexSectorReturn, upd, State.withBlk, hreads, hinl, hw]

/-- A block with a weight that the pass will need. -/
theorem exec_indexSectorReturn_weight (r : Resp) (rd : View) (hen : (s.blk.sq c q).wread = true) (hinl : (s.blk.sq c q).winl = none)
    (hw : ∃ o ∈ (s.blk.sq c q).window, (sdWbase (s.blk.sq c q).sd + wsize (sdWfmt (s.blk.sq c q).sd) * o) / 64 = k) :
    exec (.indexSectorReturn c q .weight k r rd) s = .next (s.withBlk (s.blk.sector c q 1 k (.wgt c q k) r rd)) := by
  show execIndexSectorReturn c q .weight k r rd s = _
  simp [execIndexSectorReturn, upd, State.withBlk, hreads, hen, hinl, hw]

/-- A block with a boundary entry that has not been taken. -/
theorem exec_boundarySectorReturn_wanted (r : Resp) (hcons : (s.blk.sq c q).cons ≠ .none) (hinl : (s.blk.sq c q).binl = none)
    (hlo : (pdBbase (s.blk.sq c q).cons.d + pdBw (s.blk.sq c q).cons.d * (s.blk.sq c q).entries) / 64 ≤ k)
    (hhi : 64 * k < pdBbase (s.blk.sq c q).cons.d + pdBw (s.blk.sq c q).cons.d * (s.blk.sq c q).nent) :
    exec (.boundarySectorReturn c q k r) s = .next (s.withBlk (s.blk.sector c q 2 k (.bnd c q k) r { blocks := [] })) := by
  show execBoundarySectorReturn c q k r s = _
  simp [execBoundarySectorReturn, upd, State.withBlk, hreads, hinl, hcons, hlo, hhi]

end wanted

/-- Settles O17: each of the three returns hands a block that the pass needs to `Blk.sector`, which keeps what the read answered. The
indices and weights that the pass will need are those of its window (log entry 23). -/
theorem streamSectorsAreKept : Obligations.StreamSectorsAreKept := by
  intro s c q k r rd x hx hreads b1 a d hdata hbad ha
  subst hx
  have hd := Rd.kept_eq hdata hbad ha
  refine ⟨fun hinl hw hnew hread => ?index, fun hen hinl hw hnew hread => ?weight, fun hcons hinl hlo hhi hnew hread => ?boundary⟩
  case index =>
    rw [exec_indexSectorReturn_index hreads r rd hinl hw, Blk.sector_keeps rd hnew hread hd]; rfl
  case weight =>
    rw [exec_indexSectorReturn_weight hreads r rd hen hinl hw, Blk.sector_keeps rd hnew hread hd]; rfl
  case boundary =>
    rw [exec_boundarySectorReturn_wanted hreads r hcons hinl hlo hhi, Blk.sector_keeps _ hnew hread hd]; rfl

end Sys2Proof.Machine
end

section
/-! PROOFS. Streams and their consumers: the issue of a long operation, GATHER, REARM, POOL and SCAT. -/
namespace Sys2Proof.Machine

/-! ### Stream queues and task contexts -/

/-- A change of one queue leaves every other queue of its core alone. -/
theorem Blk.sq_updSq_other (b : Blk) (c : Nat) {q r : Nat} (f : SQ → SQ) (h : r ≠ q) : (b.updSq c q f).sq c r = b.sq c r := by
  rw [Blk.sq, Blk.core_updSq_same, Core.sq_updSq_other _ f h]; rfl

/-- The command of a task context is the one that it names. -/
theorem Blk.task_cmd_of_taskCmd {b : Blk} {c t : Nat} {m : Cmd} (h : b.taskCmd c t = some m) : (b.task c t).cmd = some m.id := by
  obtain ⟨id, hid, hm⟩ := Option.bind_eq_some_iff.mp h
  have hmid : m.id = id := eq_of_beq (List.find?_some hm :)
  rw [hid, hmid]

/-! ### The issue of a long operation (R304, R305, R335) -/

/-- A long operation that is ready is carried out once its own check has passed. -/
theorem Blk.longOp_ready {α : Type} {b b1 b2 : Blk} {c t ra : Nat} {imm : W64} {v : View} {m : Cmd} {tag : Nat} {d : List W64} {a : α}
    {chk : Blk → Cmd → List W64 → Blk × Ds α} (act : Blk → Cmd → Nat → List W64 → α → Blk)
    (h : LongReady b c t ra imm v m tag d b1) (hchk : chk b1 m d = (b2, .ok a)) :
    b.longOp c t ra imm v chk act = act b2 m tag d a := by
  obtain ⟨hcan, hcmd, htag, hlow, haligned, hread⟩ := h
  have hlow := Nat.not_le.mpr hlow
  simp only [Blk.longOp, hcan, hcmd, htag, hlow, haligned, hread, hchk, Bool.not_true, Bool.false_eq_true, ne_eq, not_true_eq_false,
    if_false]

/-- The word that takes a tag ends: its task context holds the tag, and rd names it. -/
theorem Blk.longDone_issued (b : Blk) (c t rd tag : Nat) : LongIssued c t rd tag b (b.longDone c t rd tag) := by
  have htask : (b.longDone c t rd tag).task c t =
      (({ b.task c t with tags := tag :: (b.task c t).tags } : Task).setGr rd (BitVec.ofNat 64 tag)).issued ((b.task c t).pc + 16) := by
    rw [Blk.longDone, Blk.task_retire, Blk.task_updTask_same]
  have hgr (r : Nat) : ((b.longDone c t rd tag).task c t).gr r = if r = rd ∧ r ≠ 0 then BitVec.ofNat 64 tag else (b.task c t).gr r := by
    rw [htask]; exact Task.gr_setGr _ rd r _
  have hrest := Task.setGr_rest { b.task c t with tags := tag :: (b.task c t).tags } rd (BitVec.ofNat 64 tag)
  refine ⟨(Blk.retire_frame _ _ _ _).updTask _, ?tags, ?written, fun r hr => ?others, ?moved⟩
  case tags => rw [htask]; exact congrArg Task.tags hrest
  case written => rw [hgr]; by_cases h : rd = 0 <;> simp [h, Task.gr]
  case others => rw [hgr, if_neg (fun h => hr h.1)]
  case moved => rw [htask]; rfl

/-! ### GATHER (R57, R334) -/

theorem exec_gather (x : Ctx) (rd ra : Greg) (imm : W64) (v : View) (s : State) :
    exec (.gather x rd ra imm v) s = .next (s.withBlk (s.blk.gather x.c x.t rd ra imm v)) := rfl

/-- A GATHER that is ready binds its descriptor to a queue that is FREE or ARMED_IDLE, and the consumer that waits there starts. -/
theorem Blk.gather_binds {b b1 b2 : Blk} {c t ra : Nat} {imm : W64} {v : View} {m : Cmd} {tag : Nat} {d : List W64} {tab : TableCopy}
    (rd : Nat) (h : LongReady b c t ra imm v m tag d b1) (hsd : b1.sdCheck m v d false = (b2, .ok tab))
    (hst : (b2.sq c (sdQueue d)).st = .free ∨ (b2.sq c (sdQueue d)).st = .armedIdle) (hheld : b2.qHeld 2 c (sdQueue d) = false) :
    b.gather c t rd ra imm v = ((b2.bindSd c (sdQueue d) m t (some tag) d tab).consStart c (sdQueue d)).longDone c t rd tag := by
  rw [Blk.gather, Blk.longOp_ready _ h hsd]
  simp [hst, hheld]

/-! ### POOL and SCAT (R92, R95, R221) -/

theorem exec_pool (x : Ctx) (rd ra : Greg) (imm : W64) (v : View) (s : State) :
    exec (.pool x rd ra imm v) s = .next (s.withBlk (s.blk.poolOp x.c x.t rd ra imm v)) := rfl

theorem exec_scat (x : Ctx) (rd ra : Greg) (imm : W64) (v : View) (s : State) :
    exec (.scat x rd ra imm v) s = .next (s.withBlk (s.blk.scatOp x.c x.t rd ra imm v)) := rfl

section consumer
variable {b b1 b2 : Blk} {c t ra : Nat} {imm : W64} {v : View} {m : Cmd} {tag : Nat} {d : List W64} (rd : Nat)
  (h : LongReady b c t ra imm v m tag d b1)
include h

/-- A POOL whose descriptor fits the stream and that a pass takes issues. -/
theorem Blk.poolOp_binds (hpd : b1.pdCheck c d = none) (hbind : b1.bindCons c (pdQueue d) (.pool d m.id t (some tag)) = (b2, true)) :
    b.poolOp c t rd ra imm v = b2.longDone c t rd tag := by
  rw [Blk.poolOp, Blk.longOp_ready (a := ()) (b2 := b1) _ h (by simp [hpd])]
  simp [hbind]

/-- A SCAT whose descriptor fits the stream and that a pass takes issues; the pass keeps the optimiser parameter block that the check
read. -/
theorem Blk.scatOp_binds {b3 : Blk} {opb : List W64} (hscd : b1.scCheck m c v d = (b2, .ok opb))
    (hbind : b2.bindCons c (pdQueue d) (.scat d m.id t (some tag)) = (b3, true)) :
    b.scatOp c t rd ra imm v =
      (b3.updSq c (pdQueue d) (fun y => { y with tab := { y.tab with opb := opb } })).longDone c t rd tag := by
  rw [Blk.scatOp, Blk.longOp_ready _ h hscd]
  simp [hbind]

end consumer

/-! ### REARM (R57, R68, R336) -/

theorem exec_rearm (x : Ctx) (ra rb : Greg) (q : Fin 16) (release : Bool) (s : State) :
    exec (.rearm x ra rb q release) s = .next (s.withBlk (s.blk.rearmOp x.c x.t ra rb q release)) := rfl

section rearm
variable {b : Blk} {c t q : Nat} (hcan : b.canLong c t = true)
include hcan

/-- An idle queue is released; its pass flag, its count of passes and the consumer that waits stay. -/
theorem Blk.rearmOp_releases {ra rb : Nat} (hra : ra = 0) (hrb : rb = 0) (hst : (b.sq c q).st = .armedIdle) :
    b.rearmOp c t ra rb q true =
      ((b.cleanAll c).updSq c q (fun y => { passFlag := y.passFlag, pass := y.pass, nextCons := y.nextCons })).plainDone c t := by
  simp [Blk.rearmOp, hcan, hra, hrb, hst]

variable {ra rb : Nat} (hok : sdBaseBad (((b.sq c q).sd.set 1 ((b.task c t).gr ra)).set 2 ((b.task c t).gr rb)) = false)
include hok

/-- An idle queue starts its next pass at the new bases. -/
theorem Blk.rearmOp_starts (hst : (b.sq c q).st = .armedIdle) :
    b.rearmOp c t ra rb q false = (((b.cleanAll c).updSq c q
      (fun y => y.rearm ((b.task c t).gr ra) ((b.task c t).gr rb))).consStart c q).plainDone c t := by
  simp [Blk.rearmOp, hcan, hst, hok]

/-- A busy queue takes the REARM into its shadow slot, and the command of the task context notes it. -/
theorem Blk.rearmOp_shadows (hst : (b.sq c q).st = .active) (hfree : (b.sq c q).shadow = none) {m : Cmd}
    (hm : b.taskCmd c t = some m) :
    b.rearmOp c t ra rb q false = (((b.cleanAll c).updSq c q (fun y => { y with
      shadow := some { release := false, ibase := (b.task c t).gr ra, wbase := (b.task c t).gr rb } })).updCmd m.id
        (fun y => y.flag 7)).plainDone c t := by
  simp [Blk.rearmOp, hcan, hst, hfree, hok, Blk.task_cmd_of_taskCmd hm]

end rearm

/-- Settles O23: each operation is read off its own equation above, and `longDone_issued` says what a tag's word leaves. -/
theorem streamOperationsIssue : Obligations.StreamOperationsIssue := by
  intro s c t rd ra rb imm v
  refine ⟨fun m tag d b1 h => ⟨fun b2 tab hsd hst hheld => ?gather, fun b2 hpd hbind => ?pool, fun b2 b3 opb hscd hbind => ?scat⟩,
    fun q x hcan hx hok hst hsh hsd => ⟨fun hidle => ?starts, fun hidle => ?releases, fun hact hfree m hm => ?shadows⟩⟩
  case gather =>
    refine ⟨b2.bindSd c (sdQueue d) m t (some tag) d tab, _, ?_, Blk.longDone_issued _ _ _ _ _, b2.sq_updSq_same _ _ _,
      fun r hr => b2.sq_updSq_other _ _ hr, rfl⟩
    rw [exec_gather, Blk.gather_binds rd h hsd hst hheld]
  case pool => exact ⟨_, by rw [exec_pool, Blk.poolOp_binds rd h hpd hbind], Blk.longDone_issued _ _ _ _ _⟩
  case scat => exact ⟨_, by rw [exec_scat, Blk.scatOp_binds rd h hscd hbind], Blk.longDone_issued _ _ _ _ _⟩
  case starts => rw [exec_rearm, Blk.rearmOp_starts hcan (hsd ▸ hok) (hst ▸ hidle)]
  case releases => rw [exec_rearm, Blk.rearmOp_releases hcan (Fin.val_zero 64) (Fin.val_zero 64) (hst ▸ hidle)]
  case shadows =>
    exact ⟨_, _, by rw [exec_rearm, Blk.rearmOp_shadows hcan (hsd ▸ hok) (hst ▸ hact) (hsh ▸ hfree) hm],
      by rw [Blk.sq_updSq_same, hx], rfl⟩

end Sys2Proof.Machine
end

section
/-! PROOFS. Register fields bit by bit, and what an event record leaves alone. -/
namespace Sys2Proof.Machine

/-! ### The answer of a command -/

/-- The machine with a block of its own build and timebase. -/
theorem State.withBlk_eq {s : State} {b : Blk} (hbuild : b.build = s.blk.build) (htime : b.time = s.blk.time) :
    s.withBlk b = { s with blk := b } := by
  rw [State.withBlk, ← hbuild, ← htime]

/-! ### Fields of a word -/

/-- Every bit of a word after a field of it has been written. -/
theorem bit_putFld (x : W64) {lo n : Nat} (v j : Nat) (h : lo + n ≤ 64) :
    bit (putFld x lo n v) j = if lo ≤ j ∧ j < lo + n then v.testBit (j - lo) else bit x j := by
  simp only [bit, putFld, BitVec.testBit_toNat, BitVec.getLsbD_or, BitVec.getLsbD_and, BitVec.getLsbD_not, BitVec.getLsbD_ofNat,
    Nat.testBit_shiftLeft, Nat.testBit_two_pow_sub_one, Nat.testBit_mod_two_pow]
  by_cases hj : j < 64
  · by_cases hlo : lo ≤ j
    · by_cases hn : j < lo + n
      · simp [hj, hlo, hn, show j - lo < n by omega]
      · simp [hj, hlo, hn, show ¬ j - lo < n by omega]
    · simp [hj, hlo]
  · rw [if_neg (by omega)]
    simp [hj, x.getLsbD_of_ge j (by omega)]

theorem testBit_fld {w : Nat} (x : BitVec w) (lo n j : Nat) : (fld x lo n).testBit j = (decide (j < n) && bit x (lo + j)) := by
  rw [fld, Nat.testBit_mod_two_pow, Nat.testBit_shiftRight]; rfl

/-- A field is its bits. -/
theorem fld_congr {x y : W64} {lo n : Nat} (h : ∀ j, lo ≤ j → j < lo + n → bit x j = bit y j) : fld x lo n = fld y lo n := by
  refine Nat.eq_of_testBit_eq fun j => ?_
  rw [testBit_fld, testBit_fld]
  by_cases hj : j < n
  · rw [h (lo + j) (by omega) (by omega)]
  · simp [hj]

theorem fld_putFld_same (x v : W64) {lo n : Nat} (h : lo + n ≤ 64) : fld (putFld x lo n (fld v lo n)) lo n = fld v lo n := by
  refine fld_congr fun j h1 h2 => ?_
  rw [bit_putFld x _ j h, if_pos ⟨h1, h2⟩, testBit_fld]
  simp [show j - lo < n by omega, h1]

theorem fld_putFld_other (x : W64) {lo n lo' n' : Nat} (v : Nat) (h : lo + n ≤ 64) (hd : lo' + n' ≤ lo ∨ lo + n ≤ lo') :
    fld (putFld x lo n v) lo' n' = fld x lo' n' := by
  refine fld_congr fun j h1 h2 => ?_
  rw [bit_putFld x v j h, if_neg (by omega)]

/-! ### A record on the event path (R359, R360) -/

theorem Blk.trigger_frame (b : Blk) (v : Nat) : { b.trigger v with regs := b.regs, host := b.host, msgs := b.msgs } = b := by
  unfold Blk.trigger
  split
  · rfl
  · split <;> rfl

theorem Blk.reg_trigger_other (b : Blk) {v o : Nat} (h : o ≠ msi1 v) : (b.trigger v).reg o = b.reg o := by
  unfold Blk.trigger
  split
  · rw [Blk.reg_setFld, if_neg h]
  · split <;> rfl

/-- Words written to host memory change its image alone. -/
theorem Blk.onlyHost_hostWords {b x : Blk} (h : { x with host := b.host } = b) (pa : Nat) (ws : List W64) :
    { x.hostWords pa ws with host := b.host } = b := h

/-- A record that is written reaches host memory, moves the tail of the ring and triggers vector 65; without room it is counted as lost. -/
theorem Blk.evWrite_cases (b : Blk) (ws : List W64) :
    b.evWrite ws = b.lost 1 ∨
      ∃ (x : Blk) (v : Nat), { x with host := b.host } = b ∧ b.evWrite ws = (x.setFld 0x11018 24 24 v).trigger 65 := by
  unfold Blk.evWrite
  dsimp only
  generalize (if ws.length ≤ _ then 0 else _) = pad
  split
  · exact .inl rfl
  · generalize hx : ite (pad = 0) _ _ = x
    refine .inr ⟨x, _, ?_, rfl⟩
    have hwords (p q r : Nat) := Blk.onlyHost_hostWords (Blk.onlyHost_hostWords (Blk.onlyHost_hostWords (b := b) (x := b) rfl
      p (ws.drop 1)) q [0]) r (ws.take 1)
    rw [← hx]
    split
    · exact hwords _ _ _
    · exact Blk.onlyHost_hostWords (hwords _ _ _) _ _

/-- A record is lost, written, or waits on the path. -/
theorem Blk.event_cases (b : Blk) (ty ring core task : Nat) (qs : List W64) :
    b.event ty ring core task qs = b.lost 1 ∨ (∃ ws, b.event ty ring core task qs = b.evWrite ws) ∨
      ∃ p, b.event ty ring core task qs = { b with evPath := p } := by
  unfold Blk.event
  dsimp only
  generalize (if b.pwr.st = .nap then 32 else b.spillCap) = cap
  split
  · exact .inl rfl
  · split
    · exact .inr (.inl ⟨_, rfl⟩)
    · split
      · exact .inr (.inr ⟨_, rfl⟩)
      · exact .inl rfl

/-- Registers, host memory, messages and the path apart, a record leaves the block as it was. -/
theorem Blk.event_frame (b : Blk) (ty ring core task : Nat) (qs : List W64) :
    { b.event ty ring core task qs with regs := b.regs, host := b.host, msgs := b.msgs, evPath := b.evPath } = b := by
  obtain h | ⟨ws, h⟩ | ⟨p, h⟩ := b.event_cases ty ring core task qs
  · rw [h]; rfl
  · obtain hw | ⟨x, v, hx, hw⟩ := b.evWrite_cases ws
    · rw [h, hw]; rfl
    · rw [h, hw]
      have ht := Blk.trigger_frame (x.setFld 0x11018 24 24 v) 65
      exact (congrArg (fun y : Blk => { y with regs := b.regs, host := b.host, msgs := b.msgs, evPath := b.evPath }) ht).trans
        (congrArg (fun y : Blk => { y with regs := b.regs, msgs := b.msgs, evPath := b.evPath }) hx)
  · rw [h]

/-- A record writes CK_ERING_PTR and, where its message is masked, its pending bit. -/
theorem Blk.reg_event_other (b : Blk) (ty ring core task : Nat) (qs : List W64) {o : Nat} (h1 : o ≠ 0x11018) (h2 : o ≠ msi1 65) :
    (b.event ty ring core task qs).reg o = b.reg o := by
  have hlost : (b.lost 1).reg o = b.reg o := by rw [Blk.lost, Blk.incSat, Blk.reg_setFld, if_neg h1]
  obtain h | ⟨ws, h⟩ | ⟨p, h⟩ := b.event_cases ty ring core task qs
  · rw [h, hlost]
  · obtain hw | ⟨x, v, hx, hw⟩ := b.evWrite_cases ws
    · rw [h, hw, hlost]
    · rw [h, hw, Blk.reg_trigger_other _ h2, Blk.reg_setFld, if_neg h1]
      exact (congrArg (fun x : Blk => x.reg o) hx :)
  · rw [h]; rfl

end Sys2Proof.Machine
end

section
/-! PROOFS. Lookups in the row cache: what a hit and a miss leave in the cache, and what the slot whose piece was looked up gets. -/
namespace Sys2Proof.Machine

/-! ### The sketch (R75, R76) -/

/-- One more lookup has been counted, and the sketch is sk. -/
def Blk.sketched (b : Blk) (sk : Tab Nat) : Blk := { b with rc := { b.rc with sketch := sk, incs := b.rc.incs + 1 } }

/-- A lookup that counts changes the sketch and the count of increments alone. -/
theorem Blk.skInc_sketched (b : Blk) (line : Nat) : ∃ sk, b.skInc line = b.sketched sk := ⟨_, rfl⟩

/-! ### A hit (R73, R76, R79) -/

/-- The line has the sectors that n bytes at pa need. -/
def RcLine.has (l : RcLine) (pa n : Nat) : Bool := (!(needs pa n).1 || l.v0) && (!(needs pa n).2 || l.v1)

/-- The n bytes of the line at address pa. -/
def RcLine.part (l : RcLine) (pa n : Nat) : List Byte := ((lineBytes l.s0 l.s1).drop (pa % 128)).take n

/-- The cache after a hit of a resident line l in way w: the line is the youngest, and the hit is counted. -/
def Blk.rcHit (b : Blk) (sk : Tab Nat) (line w : Nat) (l : RcLine) : Blk := ((b.sketched sk).rcPut line w { l with age := 0 }).rcCnt 0

theorem Blk.rcLook_hit {b : Blk} {cr pa n home w : Nat} {l : RcLine} (hw : b.rcFind (pa / 128) = some w)
    (hl : l = b.rcWay (pa / 128) w) (hhas : l.has pa n = true) :
    ∃ sk, b.rcLook cr pa n home true false .none = (b.rcHit sk (pa / 128) w l, .hit (l.part pa n)) := by
  obtain ⟨sk, hsk⟩ := b.skInc_sketched home
  refine ⟨sk, ?_⟩
  subst hl
  unfold RcLine.has at hhas
  simp only [Blk.rcLook, Blk.rcParity, hw, if_pos hhas, hsk]
  rfl

theorem Blk.rcWay_rcHit (b : Blk) (sk : Tab Nat) (line w : Nat) (l : RcLine) : (b.rcHit sk line w l).rcWay line w = { l with age := 0 } :=
  Tab.get_set_same _ _ _ _

theorem Blk.reg_rcHit (b : Blk) (sk : Tab Nat) (line w : Nat) (l : RcLine) (o : Nat) :
    (b.rcHit sk line w l).reg o = if o = 0x50100 then b.reg o + 1 else b.reg o :=
  Blk.reg_inc _ 0x50100 o 1

/-! ### A miss (R73, R77, R79) -/

/-- The fill that a miss of n bytes at pa starts: the sectors needed, with what memory holds. -/
def Blk.newFill (b : Blk) (cr pa n : Nat) (inst strm : Bool) : Fill :=
  { id := b.rc.nextFill, line := pa / 128, f0 := (needs pa n).1, f1 := (needs pa n).2, s0 := b.sectorAt cr (2 * (pa / 128)),
    s1 := b.sectorAt cr (2 * (pa / 128) + 1), cr := cr, install := inst, stream := strm }

/-- The cache once fill f is on its way. -/
def Blk.filling (b : Blk) (sk : Tab Nat) (f : Fill) : Blk :=
  { b.sketched sk with rc := { (b.sketched sk).rc with fills := b.rc.fills ++ [f], nextFill := b.rc.nextFill + 1 } }

/-- The cache after a miss that starts fill f: the miss is counted, and a fill that will not be installed. -/
def Blk.rcMiss (b : Blk) (sk : Tab Nat) (f : Fill) : Blk := (if f.install then b.filling sk f else (b.filling sk f).rcCnt 7).rcCnt 1

/-- A miss starts its fill, which will be installed where the estimate of its line reaches the threshold (R77). -/
theorem Blk.rcLook_miss {b : Blk} {cr pa n home : Nat} (strm : Bool) (hw : b.rcFind (pa / 128) = none)
    (hv : ∀ v ∈ b.rc.vict, v.l.line ≠ pa / 128) (hf : ∀ f ∈ b.rc.fills, f.line ≠ pa / 128) (hroom : b.fillsIn (pa / 128) < 512) :
    ∃ sk f, f = b.newFill cr pa n (decide (b.rf 0x50000 4 4 ≤ (b.sketched sk).estimate home)) strm ∧
      b.rcLook cr pa n home true strm .none = (b.rcMiss sk f, .fill f.id) := by
  obtain ⟨sk, hsk⟩ := b.skInc_sketched home
  refine ⟨sk, _, rfl, ?_⟩
  have hvict : b.rc.vict.find? (fun v => v.l.line = pa / 128 && v.l.valid) = none :=
    List.find?_eq_none.mpr fun v h => by simp [hv v h]
  have hfill : b.rc.fills.find? (fun f => f.line = pa / 128 && !f.overW) = none :=
    List.find?_eq_none.mpr fun f h => by simp [hf f h]
  have hfull : ¬ (b.sketched sk).fillsIn (pa / 128) ≥ 512 := Nat.not_le.mpr hroom
  simp only [Blk.rcLook, Blk.rcParity, hw, hvict, hfill, hsk, Option.map_none, Bool.not_true, Bool.false_eq_true, if_false, if_neg hfull]
  rfl

section miss
variable (b : Blk) (sk : Tab Nat) (f : Fill)

/-- Registers apart, a miss leaves the block with its fill on the way. -/
theorem Blk.rcMiss_frame : { b.rcMiss sk f with regs := b.regs } = b.filling sk f := by
  unfold Blk.rcMiss; split <;> rfl

theorem Blk.reg_rcMiss : (b.rcMiss sk f).reg 0x50108 = b.reg 0x50108 + 1 := by
  refine (Blk.reg_inc _ 0x50108 0x50108 1).trans ?_
  rw [if_pos rfl]
  split
  · rfl
  · exact congrArg (· + 1) (Blk.reg_inc (b.filling sk f) 0x50138 0x50108 1)

end miss

/-! ### ROW_CACHE_LOOKUP -/

/-- Piece p of slot i of a core becomes f of itself. -/
def Blk.setPiece (b : Blk) (c i : Nat) (p : Piece) (f : Piece → Piece) : Blk :=
  b.updSlot c i (fun t => { t with pieces := t.pieces.map (fun y => if y = p then f y else y) })

theorem Blk.find_setPiece {b : Blk} {c i : Nat} {t : TSlot} (ht : (b.core c).trk.find? (fun t => t.id == i) = some t) (p : Piece)
    (f : Piece → Piece) : ((b.setPiece c i p f).core c).trk.find? (fun t => t.id == i) =
      some { t with pieces := t.pieces.map (fun y => if y = p then f y else y) } :=
  Blk.find_updSlot ht _ fun _ => rfl

section piece
variable (b : Blk) (c i : Nat) (p : Piece) (f : Piece → Piece)

theorem Blk.reg_setPiece (o : Nat) : (b.setPiece c i p f).reg o = b.reg o := rfl

theorem Blk.rcWay_setPiece (line w : Nat) : (b.setPiece c i p f).rcWay line w = b.rcWay line w := rfl

end piece

section lookup
variable {s : State} {c : Fin 8} {i line : Nat} {t : TSlot} {p : Piece} {par : RcParity} {b : Blk} (hlive : s.blk.coreLive c = true)
  (ht : (s.blk.core c).slot i = some t) (hc : t.consulted = true) (htier : s.blk.tieredSlot (s.blk.sq c t.q) t = false)
  (hp : t.pieces.find? (fun p => p.pa / 128 = line && p.byte.isNone && p.fill.isNone && !p.looked) = some p)
  (hlook : s.blk.looksUp (s.blk.sq c t.q) t p = true)
include hlive ht hc htier hp hlook

/-- A lookup that hits, and starts no fill, gives the piece its bytes whatever the bucket lets through (R62). -/
theorem exec_rowCacheLookup_hit {l : List Byte}
    (h : s.blk.rcLook p.cr p.pa p.len p.home true (s.blk.sq c t.q).streamfill par = (b, .hit l)) (hn : b.rc.nextFill = s.blk.rc.nextFill)
    (hbuild : b.build = s.blk.build) (htime : b.time = s.blk.time) :
    exec (.rowCacheLookup c i line par) s = .next { s with blk := b.setPiece c i p (fun y => { y with byte := some l }) } := by
  rw [← State.withBlk_eq (b := b.setPiece c i p _) hbuild htime]
  show execRowCacheLookup c i line par s = _
  simp [execRowCacheLookup, upd, State.withBlk, Blk.rowLookup, hlive, Blk.consult_consulted ht hc, ht, hp, hlook, htier, h, hn,
    Blk.setPiece]

/-- A lookup that waits for a fill names it in the piece, where the bucket lets the read through. -/
theorem exec_rowCacheLookup_fill {id : Nat}
    (h : s.blk.rcLook p.cr p.pa p.len p.home true (s.blk.sq c t.q).streamfill par = (b, .fill id))
    (hshut : s.blk.pieceShut c t.q p = false) (hbuild : b.build = s.blk.build) (htime : b.time = s.blk.time) :
    exec (.rowCacheLookup c i line par) s = .next { s with blk := b.setPiece c i p (fun y => { y with fill := some id }) } := by
  rw [← State.withBlk_eq (b := b.setPiece c i p _) hbuild htime]
  show execRowCacheLookup c i line par s = _
  simp [execRowCacheLookup, upd, State.withBlk, Blk.rowLookup, hlive, Blk.consult_consulted ht hc, ht, hp, hlook, htier, h, hshut,
    Blk.setPiece]

end lookup

/-- Settles O19: `rcLook_hit` and `rcLook_miss` say what the cache answers, `exec_rowCacheLookup_hit` and
`exec_rowCacheLookup_fill` what the slot gets. -/
theorem rowCacheLookups : Obligations.RowCacheLookups := by
  intro s c i line t p x hlive ht hc hx htier hp hlook hstrm
  subst hx
  have hslot := Core.slot_of_find ht
  obtain rfl : p.pa / 128 = line := by
    have hfound := List.find?_some hp
    simp only [Bool.and_eq_true, decide_eq_true_eq] at hfound
    obtain ⟨⟨⟨hline, -⟩, -⟩, -⟩ := hfound
    exact hline
  refine ⟨fun w l hw hl h0 h1 => ?hit, fun hw hv hf hroom hshut => ?miss⟩
  case hit =>
    have hhas : l.has p.pa p.len = true := by
      simp only [RcLine.has, Bool.and_eq_true, Bool.or_eq_true, Bool.not_eq_true']
      exact ⟨(Bool.eq_false_or_eq_true _).symm.imp_right h0, (Bool.eq_false_or_eq_true _).symm.imp_right h1⟩
    obtain ⟨sk, hans⟩ := Blk.rcLook_hit (cr := p.cr) (home := p.home) hw hl hhas
    rw [← hstrm] at hans
    refine ⟨_, exec_rowCacheLookup_hit hlive hslot hc htier hp hlook hans rfl rfl rfl, rfl,
      Blk.find_setPiece (b := s.blk.rcHit sk _ w l) ht p _, ?_, ?_, fun o ho => ?_, rfl, rfl⟩
    · rw [Blk.rcWay_setPiece, Blk.rcWay_rcHit]
    · rw [Blk.reg_setPiece, Blk.reg_rcHit, if_pos rfl]
    · rw [Blk.reg_setPiece, Blk.reg_rcHit, if_neg ho]
  case miss =>
    obtain ⟨sk, f, hf, hans⟩ := Blk.rcLook_miss (cr := p.cr) (n := p.len) (home := p.home) (s.blk.sq c t.q).streamfill hw hv hf hroom
    have hframe := s.blk.rcMiss_frame sk f
    have hslots : ((s.blk.rcMiss sk f).core c).trk.find? (fun t => t.id == i) = some t :=
      (congrArg (fun b : Blk => (b.core c).trk.find? (fun t => t.id == i)) hframe :).trans ht
    have hfields : f.id = s.blk.rc.nextFill ∧ f.line = p.pa / 128 ∧ f.cr = p.cr ∧ (f.f0, f.f1) = needs p.pa p.len ∧
        f.s0 = s.blk.sectorAt p.cr (2 * (p.pa / 128)) ∧ f.s1 = s.blk.sectorAt p.cr (2 * (p.pa / 128) + 1) := by
      rw [hf]; exact ⟨rfl, rfl, rfl, rfl, rfl, rfl⟩
    obtain ⟨hid, hline, hcr, hneeds, hs0, hs1⟩ := hfields
    refine ⟨_, f, exec_rowCacheLookup_fill hlive hslot hc htier hp hlook hans hshut (congrArg Blk.build hframe :)
      (congrArg Blk.time hframe :), rfl, (congrArg (fun b : Blk => b.rc.fills) hframe :), hid, hline, hcr, hneeds, hs0, hs1,
      Blk.find_setPiece hslots p _, ?_, (congrArg (fun b : Blk => b.rc.lines) hframe :), (congrArg Blk.dev hframe :)⟩
    rw [Blk.reg_setPiece, Blk.reg_rcMiss]

end Sys2Proof.Machine
end

section
/-! PROOFS. Fills that return: the pieces that wait for a fill get its bytes, and its line is installed in a way that holds none. -/
namespace Sys2Proof

/-- A change of every value of a table, where it leaves the value of an unlisted key as it is. -/
theorem Tab.get_map {α : Type} (d : α) (t : Tab α) (k : Nat) (f : α → α) (hd : f d = d) :
    Tab.get d (t.map (fun e => (e.1, f e.2))) k = f (Tab.get d t k) := by
  induction t with
  | nil => exact hd.symm
  | cons e t ih =>
    obtain ⟨a, v⟩ := e
    by_cases h : k = a
    · simp [Tab.get, h]
    · simpa [Tab.get, h] using ih

end Sys2Proof

namespace Sys2Proof.Machine

/-! ### The pieces that wait (R79) -/

/-- What a piece gets from fill f, whose sectors in bad are poisoned. -/
def Piece.given (f : Fill) (bad : List Nat) (p : Piece) : Piece :=
  if p.fill = some f.id then
    { p with fill := none, bad := p.bad ++ bad, byte := some (((lineBytes f.s0 f.s1).drop (p.pa % 128)).take p.len) }
  else p

/-- The tracker of every core has given the fill to its pieces. -/
theorem Blk.trk_fillGive (b : Blk) (f : Fill) (bad : List Nat) (c : Nat) : ((b.fillGive f bad).core c).trk =
    (b.core c).trk.map (fun t => { t with pieces := t.pieces.map (Piece.given f bad) }) := by
  have h := Tab.get_map {} b.cores c
    (fun k => { k with trk := k.trk.map (fun t => { t with pieces := t.pieces.map (Piece.given f bad) }) }) rfl
  exact congrArg Core.trk h

/-! ### The way that is taken (R79) -/

/-- An enabled way that holds no line is taken before any other, and no way ages. -/
theorem Blk.rcVictim_invalid {b : Blk} {line w : Nat} (n : Nat)
    (hw : ((List.range 16).filter (fun w => !b.wayOff line w)).find? (fun w => !(b.rcWay line w).valid) = some w) :
    b.rcVictim line (n + 1) = (b, some w) := by
  have hne : ((List.range 16).filter (fun w => !b.wayOff line w)).isEmpty = false :=
    List.isEmpty_eq_false_iff_exists_mem.mpr ⟨w, List.mem_of_find?_eq_some hw⟩
  simp [Blk.rcVictim, hne, hw]

/-- The line that a fill brings. -/
def Fill.toLine (f : Fill) : RcLine :=
  { line := f.line, v0 := f.f0, v1 := f.f1, age := if f.stream then 3 else 1, s0 := f.s0, s1 := f.s1 }

/-- The line of a fill in a way that held none. -/
theorem Blk.install_invalid {b : Blk} {f : Fill} {w : Nat} (hnew : b.rcFind f.line = none)
    (hw : ((List.range 16).filter (fun w => !b.wayOff f.line w)).find? (fun w => !(b.rcWay f.line w).valid) = some w) :
    b.install f = (b.rcPut f.line w f.toLine).rcCnt 6 := by
  have hold : (b.rcWay f.line w).valid = false := by simpa using List.find?_some hw
  simp [Blk.install, hnew, Blk.rcVictim_invalid 3 hw, hold, Fill.toLine]

/-! ### FILL_RETURN -/

/-- The block once fill f has returned its data unpoisoned. -/
def Blk.filled (b : Blk) (f : Fill) : Blk :=
  ({ b with rc := { b.rc with fills := b.rc.fills.filter (fun x => x.id ≠ f.id) } } : Blk).fillGive f []

/-- A fill that returns without poison, and that no write has overtaken, is installed. -/
theorem exec_fillReturn_installs {s : State} {f : Fill} {b : Blk} (hlive : s.blk.live = true)
    (hf : s.blk.rc.fills.find? (fun g => g.id = f.id) = some f) (hinst : f.install = true) (hover : f.overW = false)
    (h0 : f.f0 = true → 2 * f.line ∉ s.blk.bad) (h1 : f.f1 = true → 2 * f.line + 1 ∉ s.blk.bad) (hon : s.blk.rcOn = true)
    (hb : (s.blk.filled f).install f = b) (hbuild : b.build = s.blk.build) (htime : b.time = s.blk.time) :
    exec (.fillReturn f.id false) s = .next { s with blk := b } := by
  have hgood : ((if f.f0 then [2 * f.line] else []) ++ (if f.f1 then [2 * f.line + 1] else [])).filter
      (fun x => false || s.blk.bad.contains x) = [] := by
    rw [List.filter_append, List.append_eq_nil_iff]
    refine ⟨?_, ?_⟩
    · split
      · next h => simpa using h0 h
      · rfl
    · split
      · next h => simpa using h1 h
      · rfl
  have hstay : (s.blk.filled f).rcOn = true := hon
  rw [← State.withBlk_eq hbuild htime, ← hb]
  unfold Blk.filled at hstay
  show execFillReturn f.id false s = _
  simp only [execFillReturn, upd_next, hf, hlive, hgood, hinst, hover, hstay, Bool.not_true, Bool.false_eq_true, if_false,
    List.isEmpty_nil, Bool.or_self]
  rfl

/-- Settles O20: the fill leaves the list and serves its pieces (`trk_fillGive`), and its line takes the way that holds none
(`install_invalid`). -/
theorem fillsInstallLines : Obligations.FillsInstallLines := by
  intro s n w f hlive hf hinst hover h0 h1 hon hnew hw
  obtain rfl : f.id = n := by simpa using List.find?_some hf
  have hinstall : (s.blk.filled f).install f = ((s.blk.filled f).rcPut f.line w f.toLine).rcCnt 6 := Blk.install_invalid hnew hw
  refine ⟨_, exec_fillReturn_installs hlive hf hinst hover h0 h1 hon hinstall rfl rfl, rfl, rfl, Tab.get_set_same _ _ _ _,
    fun k hk => Tab.get_set_other _ _ _ _ hk, fun c t ht => ⟨_, ?_, rfl⟩, rfl, rfl⟩
  have htrk := Blk.trk_fillGive { s.blk with rc := { s.blk.rc with fills := s.blk.rc.fills.filter (fun x => x.id ≠ f.id) } } f [] c
  exact htrk ▸ List.mem_map_of_mem ht

end Sys2Proof.Machine
end

section
/-! PROOFS. The control of the row cache: writes of CK_RC_CTRL and CK_RC_WAYDIS, the end of a sweep, and the halving of the sketch. -/
namespace Sys2Proof.Machine

/-! ### A write of CK_RC_CTRL (R85, R86) -/

/-- The three events are one write of CK_RC_CTRL. -/
theorem exec_rcCtrlWrite {s : State} {ev : Half → W64 → Instr} {h : Half} {v : W64} {b : Blk}
    (hev : ev ∈ [Instr.inval, .rcEnWrite, .clrcnt]) (hb : s.blk.rcCtrlWrite h v = b) (hbuild : b.build = s.blk.build)
    (htime : b.time = s.blk.time) : exec (ev h v) s = .next { s with blk := b } := by
  rw [← State.withBlk_eq hbuild htime, ← hb]
  simp only [List.mem_cons, List.not_mem_nil, or_false] at hev
  obtain rfl | rfl | rfl := hev <;> rfl

/-- The block with a sweep of the row cache in progress. -/
def Blk.sweeping (b : Blk) : Blk := { b with rc := { b.rc with inv := true } }

/-- The block with every count of CK_RC_CNT cleared. -/
def Blk.rcCleared (b : Blk) : Blk := iter 12 (fun k b => b.setReg (0x50100 + 8 * k) 0) b

/-- The block with THRESH and AGEP of a write of CK_RC_CTRL. -/
def Blk.rcFields (b : Blk) (v : W64) : Blk := (b.setFld 0x50000 4 4 (fld v 4 4)).setFld 0x50000 8 5 (fld v 8 5)

theorem wrOne_full (v : W64) : wrOne .full v 1 = bit v 1 ∧ wrOne .full v 2 = bit v 2 := by
  have h : bit (halfMask .full) 1 = true ∧ bit (halfMask .full) 2 = true := by decide
  rw [wrOne, wrOne, h.1, h.2, Bool.and_true, Bool.and_true]
  exact ⟨rfl, rfl⟩

section ctrl
variable {b : Blk} {v : W64} (ho : b.regOpen 0x50000 = true)
include ho

/-- A whole write, in the order of its effects. -/
theorem Blk.rcCtrlWrite_full : b.rcCtrlWrite .full v =
    ((onlyIf (bit v 2) Blk.rcCleared (onlyIf (bit v 1 && !b.rc.inv) Blk.sweeping b)).rcFields v).rcEnable (bit v 0) := by
  have hc : covers .full 0 = true := by decide
  simp only [Blk.rcCtrlWrite, ho, wrOne_full, hc]
  rfl

theorem Blk.rcCtrlWrite_inval (h1 : bit v 1 = true) (h2 : bit v 2 = false) :
    b.rcCtrlWrite .full v = (b.sweeping.rcFields v).rcEnable (bit v 0) := by
  have hs : onlyIf (true && !b.rc.inv) Blk.sweeping b = b.sweeping := by
    cases hi : b.rc.inv with
    | false => rfl
    | true =>
      show b = { b with rc := { b.rc with inv := true } }
      rw [← hi]
  rw [Blk.rcCtrlWrite_full ho, h1, h2, hs]; rfl

theorem Blk.rcCtrlWrite_fields (h1 : bit v 1 = false) (h2 : bit v 2 = false) :
    b.rcCtrlWrite .full v = (b.rcFields v).rcEnable (bit v 0) := by
  rw [Blk.rcCtrlWrite_full ho, h1, h2]; rfl

theorem Blk.rcCtrlWrite_clrcnt (h1 : bit v 1 = false) (h2 : bit v 2 = true) :
    b.rcCtrlWrite .full v = (b.rcCleared.rcFields v).rcEnable (bit v 0) := by
  rw [Blk.rcCtrlWrite_full ho, h1, h2]; rfl

end ctrl

/-! ### What the write leaves in the registers -/

theorem Blk.reg_rcFields (b : Blk) (v : W64) (o : Nat) : (b.rcFields v).reg o =
    if o = 0x50000 then putFld (putFld (b.reg o) 4 4 (fld v 4 4)) 8 5 (fld v 8 5) else b.reg o := by
  rw [Blk.rcFields, Blk.reg_setFld, Blk.reg_setFld]
  split <;> rfl

theorem Blk.rf_rcFields (b : Blk) (v : W64) :
    (b.rcFields v).rf 0x50000 4 4 = fld v 4 4 ∧ (b.rcFields v).rf 0x50000 8 5 = fld v 8 5 := by
  unfold Blk.rf
  rw [Blk.reg_rcFields, if_pos rfl, fld_putFld_same _ _ (by omega), fld_putFld_other _ _ (by omega) (.inl (by omega)),
    fld_putFld_same _ _ (by omega)]
  exact ⟨rfl, rfl⟩

/-- The write of the thresholds leaves the enable bit. -/
theorem Blk.rb_rcFields (b : Blk) (v : W64) : (b.rcFields v).rb 0x50000 0 = b.rb 0x50000 0 := by
  unfold Blk.rb
  rw [Blk.reg_rcFields, if_pos rfl, bit_putFld _ _ _ (by omega), if_neg (by omega), bit_putFld _ _ _ (by omega), if_neg (by omega)]

theorem iter_clear_frame (n : Nat) (b : Blk) : ∃ g, iter n (fun k b => b.setReg (0x50100 + 8 * k) 0) b = { b with regs := g } := by
  induction n with
  | zero => exact ⟨b.regs, rfl⟩
  | succ n ih =>
    obtain ⟨g, hg⟩ := ih
    rw [iter, hg]
    exact ⟨_, rfl⟩

theorem iter_clear_reg (n : Nat) (b : Blk) (o : Nat) : (iter n (fun k b => b.setReg (0x50100 + 8 * k) 0) b).reg o =
    if 0x50100 ≤ o ∧ o < 0x50100 + 8 * n ∧ o % 8 = 0 then 0 else b.reg o := by
  induction n with
  | zero => rw [if_neg (by omega)]; rfl
  | succ n ih =>
    rw [iter, Blk.reg_setReg, ih]
    by_cases h : o = 0x50100 + 8 * n
    · rw [if_pos h, if_pos (by omega)]
    · have hiff : (0x50100 ≤ o ∧ o < 0x50100 + 8 * n ∧ o % 8 = 0) ↔ (0x50100 ≤ o ∧ o < 0x50100 + 8 * (n + 1) ∧ o % 8 = 0) := by omega
      rw [if_neg h]
      simp only [hiff]

theorem Blk.rcCleared_frame (b : Blk) : ∃ g, b.rcCleared = { b with regs := g } := iter_clear_frame 12 b

theorem Blk.reg_rcCleared (b : Blk) (o : Nat) :
    b.rcCleared.reg o = if 0x50100 ≤ o ∧ o < 0x50100 + 8 * 12 ∧ o % 8 = 0 then 0 else b.reg o := iter_clear_reg 12 b o

/-! ### The enable bit (R85) -/

theorem Blk.rcEnable_same {b : Blk} {v : Bool} (h : v = b.rb 0x50000 0) : b.rcEnable v = b := by
  subst h
  cases he : b.rb 0x50000 0 <;> simp [Blk.rcEnable, he]

theorem Blk.rcEnable_clean {b : Blk} (h : b.rb 0x50000 0 = false) (hc : b.rc.clean = true) (hi : b.rc.inv = false) :
    b.rcEnable true = b.setFld 0x50000 0 1 1 := by
  simp [Blk.rcEnable, h, hc, hi]

/-- A cache that is not clean, or is being swept, is not enabled: ENERR and an event record say so. -/
theorem Blk.rcEnable_refused {b : Blk} (h : b.rb 0x50000 0 = false) (hc : b.rc.clean = false ∨ b.rc.inv = true) :
    b.rcEnable true = (b.setFld 0x50008 3 1 1).event 0x40 0 0 0 [] := by
  obtain hc | hc := hc <;> simp [Blk.rcEnable, h, hc]

/-! ### Sweeps and the sketch (R78, R85, R90) -/

section live
variable {s : State} (hl : s.blk.live = true)
include hl

theorem exec_rcInvalDone (hi : s.blk.rc.inv = true) : exec .rcInvalDone s = .next { s with blk := { s.blk with rc := { s.blk.rc with
    inv := false, clean := true, lines := [], vict := [], sketch := [], incs := 0 } } } := by
  show execRcInvalDone s = _
  rw [execRcInvalDone, upd_next, hl, hi]; rfl

theorem exec_sketchHalving (hh : s.blk.rc.halving = false) (hn : 2 ^ s.blk.agep ≤ s.blk.rc.incs) :
    exec .sketchHalving s = .next { s with blk := { s.blk with rc := { s.blk.rc with halving := true, incs := 0 } } } := by
  show execSketchHalving s = _
  rw [execSketchHalving, upd_next, hl, hh, decide_eq_true hn]; rfl

theorem exec_sketchHalvingDone (hh : s.blk.rc.halving = true) :
    exec .sketchHalvingDone s = .next { s with blk := { s.blk with rc := { s.blk.rc with
      halving := false, sketch := (s.blk.rc.sketch.map (fun e => (e.1, e.2 / 2))).filter (fun e => e.2 ≠ 0) } } } := by
  show execSketchHalvingDone s = _
  rw [execSketchHalvingDone, upd_next, hl, hh]; rfl

/-- The ways of a slice that are being disabled lose their lines. -/
theorem exec_waydisInvalDone (sl : Fin 16) :
    exec (.waydisInvalDone sl) s = .next { s with blk := { s.blk with rc := { s.blk.rc with
      dying := s.blk.rc.dying.filter (fun x => x / 16 ≠ sl.val)
      lines := s.blk.rc.lines.filter (fun e => !(e.1 / 65536 = sl.val &&
        ((List.range 16).filter (fun w => s.blk.rc.dying.contains (16 * sl.val + w))).contains (e.1 % 16))) } } } := by
  show execWaydisInvalDone sl s = _
  rw [execWaydisInvalDone, upd_next, hl]; rfl

end live

/-- The halved sketch holds half of each counter, without those that are 0. -/
theorem mem_halved (sk : Tab Nat) (e : Nat × Nat) : e ∈ (sk.map (fun e => (e.1, e.2 / 2))).filter (fun e => e.2 ≠ 0) ↔
    e.2 ≠ 0 ∧ ∃ n, (e.1, n) ∈ sk ∧ e.2 = n / 2 := by
  rw [List.mem_filter, decide_eq_true_eq, and_comm]
  refine and_congr_right fun _ => ?_
  rw [List.mem_map]
  constructor
  · rintro ⟨⟨a, n⟩, hm, rfl⟩
    exact ⟨n, hm, rfl⟩
  · rintro ⟨n, hm, hn⟩
    exact ⟨(e.1, n), hm, by rw [← hn]⟩

/-! ### A write of CK_RC_WAYDIS (R89, R90) -/

/-- The ways of slice sl that register value x disables and value y does not, as the cache numbers them. -/
def freshWays (sl : Nat) (x y : W64) : List Nat :=
  ((List.range 16).filter (fun w => bit x w && !(fld y 0 16).testBit w)).map (fun w => 16 * sl + w)

theorem mem_freshWays {sl w : Nat} {x y : W64} (hw : w < 16) (hx : bit x w = true) (hy : bit y w = false) :
    16 * sl + w ∈ freshWays sl x y := by
  refine List.mem_map.mpr ⟨w, List.mem_filter.mpr ⟨List.mem_range.mpr hw, ?_⟩, rfl⟩
  rw [hx, testBit_fld, Nat.zero_add, hy]
  simp

/-- CK_RC_WAYDIS of every slice has 16 RW bits and nothing else. -/
theorem regAt_waydis : ∀ sl : Fin 16, (regAt (0x50040 + 8 * sl)).map
    (fun x => (x.1.mask (fun f => f.acc = .rw), x.1.mask (fun f => f.acc = .w1c))) = some (0xFFFF, 0) := by decide +kernel

/-- A whole write of CK_RC_WAYDIS takes its 16 bits. -/
theorem Blk.fieldWrite_waydis (b : Blk) (sl : Fin 16) (v : W64) :
    ∃ x, (∀ j, j < 16 → bit x j = bit v j) ∧ b.fieldWrite (0x50040 + 8 * sl) .full v = b.setReg (0x50040 + 8 * sl) x := by
  obtain ⟨⟨r, i, j⟩, hr, hm⟩ := Option.map_eq_some_iff.mp (regAt_waydis sl)
  obtain ⟨hrw, hw1c⟩ := Prod.mk.inj hm
  refine ⟨fieldsAfter r (b.reg (0x50040 + 8 * sl)) .full v, fun j hj => ?_, by rw [Blk.fieldWrite, hr]⟩
  have hmask : (0xFFFF : W64).getLsbD j = true := by revert j; decide
  have hfull : (0xFFFFFFFFFFFFFFFF : W64).getLsbD j = true := by revert j; decide
  simp only [fieldsAfter, hrw, hw1c, halfMask, halfVal, bit, BitVec.testBit_toNat, BitVec.getLsbD_and, BitVec.getLsbD_or, BitVec.getLsbD_not,
    hmask, hfull, show j < 64 by omega]
  simp

theorem Blk.waydisWrite_open {b : Blk} (sl : Fin 16) (v : W64) (ho : b.regOpen (0x50040 + 8 * sl) = true) :
    ∃ x, (∀ j, j < 16 → bit x j = bit v j) ∧ b.waydisWrite sl .full v = { b.setReg (0x50040 + 8 * sl) x with rc := { b.rc with
      dying := b.rc.dying ++ (freshWays sl x (b.reg (0x50040 + 8 * sl))).filter (fun w => !b.rc.dying.contains w) } } := by
  obtain ⟨x, hx, hw⟩ := b.fieldWrite_waydis sl v
  refine ⟨x, hx, ?_⟩
  simp only [Blk.waydisWrite, ho, hw, Blk.rb, Blk.reg_setReg_same]
  rfl

theorem exec_waydisWrite {s : State} {sl : Fin 16} {v : W64} {b : Blk} (hb : s.blk.waydisWrite sl .full v = b)
    (hbuild : b.build = s.blk.build) (htime : b.time = s.blk.time) : exec (.waydisWrite sl .full v) s = .next { s with blk := b } := by
  rw [← State.withBlk_eq hbuild htime, ← hb]; rfl

/-! ### The statement -/

/-- Settles O21: each event is read off its own equation above. The count of increments restarts at each halving (log entry 80); the model
clears it, with the victim buffer, at the end of a sweep as well. -/
theorem rowCacheControl : Obligations.RowCacheControl := by
  intro s v
  refine ⟨fun ho => ⟨fun h1 h2 h0 => ?inval, fun h0 h1 h2 hen => ⟨fun hc hi => ?enabled, fun hc => ?refused⟩, fun h2 h1 h0 => ?clrcnt⟩,
    fun hl => ⟨fun hi => ⟨_, exec_rcInvalDone hl hi, rfl, rfl⟩, fun hh hn => ⟨_, exec_sketchHalving hl hh hn, rfl, rfl⟩,
      fun hh => ⟨_, exec_sketchHalvingDone hl hh, rfl, mem_halved _, rfl⟩,
      fun sl => ⟨_, exec_waydisInvalDone hl sl, rfl, fun e he => ?lost, fun e he hs => ?kept, fun w hw => ?done⟩⟩, fun sl ho => ?waydis⟩
  case inval =>
    have hb := (Blk.rcCtrlWrite_inval ho h1 h2).trans (Blk.rcEnable_same (h0.trans (s.blk.sweeping.rb_rcFields v).symm))
    obtain ⟨hthresh, hagep⟩ := s.blk.sweeping.rf_rcFields v
    exact ⟨_, exec_rcCtrlWrite (by simp) hb rfl rfl, rfl, rfl, hthresh, hagep, fun o hne => (Blk.reg_rcFields _ v o).trans (if_neg hne), rfl⟩
  case enabled =>
    have hrb : (s.blk.rcFields v).rb 0x50000 0 = false := (s.blk.rb_rcFields v).trans hen
    have hb := (Blk.rcCtrlWrite_fields ho h1 h2).trans (h0 ▸ Blk.rcEnable_clean hrb hc hi)
    refine ⟨_, exec_rcCtrlWrite (by simp) hb rfl rfl, rfl, ?_, rfl, fun o hne => ?_⟩
    · unfold Blk.rb
      rw [Blk.reg_setFld, if_pos rfl, bit_putFld_one _ _ _ _ (by omega), if_pos rfl]
      rfl
    · rw [Blk.reg_setFld, if_neg hne, Blk.reg_rcFields, if_neg hne]
  case refused =>
    have hrb : (s.blk.rcFields v).rb 0x50000 0 = false := (s.blk.rb_rcFields v).trans hen
    have hb := (Blk.rcCtrlWrite_fields ho h1 h2).trans (h0 ▸ Blk.rcEnable_refused hrb hc)
    have hframe := ((s.blk.rcFields v).setFld 0x50008 3 1 1).event_frame 0x40 0 0 0 []
    refine ⟨_, exec_rcCtrlWrite (by simp) hb (congrArg Blk.build hframe :) (congrArg Blk.time hframe :), ?_, (congrArg Blk.rc hframe :), ?_⟩
    · rw [← hrb]
      unfold Blk.rb
      rw [Blk.reg_event_other _ _ _ _ _ _ (by omega) (by decide), Blk.reg_setFld, if_neg (by omega)]
    · unfold Blk.rb
      rw [Blk.reg_event_other _ _ _ _ _ _ (by omega) (by decide), Blk.reg_setFld, if_pos rfl, bit_putFld_one _ _ _ _ (by omega), if_pos rfl]
      rfl
  case clrcnt =>
    obtain ⟨g, hg⟩ := s.blk.rcCleared_frame
    have hreg := s.blk.reg_rcCleared
    have hb := Blk.rcCtrlWrite_clrcnt ho h1 h2
    rw [hg] at hb hreg
    have hrb : bit v 0 = (({ s.blk with regs := g } : Blk).rcFields v).rb 0x50000 0 := by
      rw [h0, Blk.rb_rcFields]
      unfold Blk.rb
      rw [hreg, if_neg (by omega)]
    refine ⟨_, exec_rcCtrlWrite (by simp) (hb.trans (Blk.rcEnable_same hrb)) rfl rfl, rfl, fun k hk => ?_, rfl⟩
    rw [Blk.reg_rcFields, if_neg (by omega), hreg, if_pos (by omega)]
  case lost =>
    rintro ⟨hslice, hway⟩
    have h := (List.mem_filter.mp he).2
    simp only [hslice, decide_true, Bool.true_and, Bool.not_eq_true', List.contains_eq_mem, decide_eq_false_iff_not,
      List.mem_filter, List.mem_range, decide_eq_true_eq] at h
    exact h ⟨Nat.mod_lt _ (by omega), hway⟩
  case kept => exact List.mem_filter.mpr ⟨he, by simp [hs]⟩
  case done => simpa using (List.mem_filter.mp hw).2
  case waydis =>
    obtain ⟨x, hx, hb⟩ := Blk.waydisWrite_open sl v ho
    refine ⟨_, exec_waydisWrite hb rfl rfl, rfl, ?_, fun w hw h1 h0 => ?_, rfl⟩
    · unfold Blk.rf
      exact (congrArg (fun y => fld y 0 16) (s.blk.reg_setReg_same _ x)).trans (fld_congr fun j _ hj => hx j (by omega))
    · have hfresh := mem_freshWays (sl := sl) hw ((hx w hw).trans h1) h0
      by_cases hold : 16 * sl.val + w ∈ s.blk.rc.dying
      · exact List.mem_append_left _ hold
      · exact List.mem_append_right _ (List.mem_filter.mpr ⟨hfresh, by simpa using hold⟩)

end Sys2Proof.Machine
end

section
/-! PROOFS. Writes from outside: the inlet window and the adapter port, and the passage of the oldest write to memory. -/
namespace Sys2Proof.Machine

/-! ### The ports (R434, R472) -/

/-- Where the ports take writes, the block is in Run. -/
theorem Blk.run_of_portsTake {b : Blk} (h : b.portsTake) : b.pwr.st = .run := by
  have hh := h.2
  simp only [Blk.portHeld, Bool.or_eq_false_iff, decide_eq_false_iff_not, Decidable.not_not] at hh
  exact hh.2

/-! ### The inlet window (R361, R362) -/

/-- The answer of a command, with its block written in another way. -/
theorem exec_next_congr {i : Instr} {s : State} {b b' : Blk} (h : exec i s = .next (s.withBlk b)) (hb : b = b') :
    exec i s = .next (s.withBlk b') := hb ▸ h

theorem exec_inletWrite (off : Nat) (bytes : List Byte) (s : State) :
    exec (.inletWrite off bytes) s = .next (s.withBlk (s.blk.inletWrite off bytes)) := rfl

section inlet
variable {b : Blk} {bytes : List Byte} (off : Nat) (hne : bytes ≠ [])
include hne

theorem Blk.inletWrite_takes (h : b.portsTake) : b.inletWrite off bytes = b.inletTake off bytes := by
  simp [Blk.inletWrite, h.1, h.2, hne, Blk.run_of_portsTake h]

/-- In Run the writes that a hold keeps back wait in order. -/
theorem Blk.inletWrite_waits (hr : b.resetting = false) (hs : b.pwr.st = .run) (hh : b.portHeld = true) :
    b.inletWrite off bytes = { b with pwr := { b.pwr with inletHeld := b.pwr.inletHeld ++ [(off, bytes)] } } := by
  simp [Blk.inletWrite, hr, hs, hh, hne, Blk.wakeUp]

end inlet

theorem Blk.inletTake_allowed {b : Blk} {off : Nat} {bytes : List Byte}
    (h : b.portRefused (b.rf 0x1100 0 4) (b.inletPa off) bytes.length = false) : b.inletTake off bytes = { b with
      wq := b.wq ++ [{ id := b.nextWr, pa := b.inletPa off, bytes := bytes, cr := b.rf 0x1100 0 4, cmd := none }]
      nextWr := b.nextWr + 1, inletQ := b.inletQ ++ [(b.nextWr, bytes.length)] } := by
  simp [Blk.inletTake, h, Blk.queueWrite]

theorem Blk.inletTake_refused {b : Blk} {off : Nat} {bytes : List Byte}
    (h : b.portRefused (b.rf 0x1100 0 4) (b.inletPa off) bytes.length = true) :
    b.inletTake off bytes = b.inletDrop (b.inletPa off) bytes.length := by
  simp [Blk.inletTake, h]

theorem exec_inletWriteAck (refused : Bool) (s : State) :
    exec (.inletWriteAck refused) s = .next (s.withBlk (s.blk.inletAck refused)) := rfl

section ack
variable {b : Blk} {id n : Nat} {rest : List (Nat × Nat)} (hq : b.inletQ = (id, n) :: rest) (hl : b.live = true)
include hq hl

/-- The oldest inlet write is acknowledged once it has passed. -/
theorem Blk.inletAck_passed (h : b.passed [id] = true) : b.inletAck false = { b.inc 0x1108 n with inletQ := rest } := by
  simp [Blk.inletAck, hq, hl, h]

theorem Blk.inletAck_refused {w : DevWrite} (h : b.wq.find? (fun w => w.id = id) = some w) : b.inletAck true =
    ({ b with wq := b.wq.filter (fun x => x.id ≠ id), inletQ := rest } : Blk).inletDrop w.pa n := by
  simp [Blk.inletAck, hq, hl, h]

end ack

/-! ### The adapter port (R269 to R272) -/

theorem exec_adapterWrite (ad : BitVec 16) (pa : BitVec 46) (bytes : List Byte) (s : State) :
    exec (.adapterWrite ad pa bytes) s = .next (s.withBlk (s.blk.adapterWrite ad pa bytes)) := rfl

section adapter
variable {b : Blk} {ad : BitVec 16} {pa : BitVec 46} {bytes : List Byte} (hne : bytes ≠ []) (ht : b.portsTake)
include hne ht

theorem Blk.adapterWrite_takes : b.adapterWrite ad pa bytes = b.adTake ad.toNat pa.toNat bytes := by
  simp [Blk.adapterWrite, ht.1, ht.2, hne, Blk.run_of_portsTake ht]

theorem Blk.adapterWrite_allowed {k : Nat} (hk : b.apRegion ad.toNat pa.toNat bytes.length = some k)
    (h : b.portRefused (b.rf (0x31008 + 16 * k) 36 4) pa.toNat bytes.length = false) : b.adapterWrite ad pa bytes = { b with
      wq := b.wq ++ [{ id := b.nextWr, pa := pa.toNat, bytes := bytes, cr := b.rf (0x31008 + 16 * k) 36 4, cmd := none }]
      nextWr := b.nextWr + 1 } := by
  rw [Blk.adapterWrite_takes hne ht]
  simp [Blk.adTake, hk, h, Blk.queueWrite]

theorem Blk.adapterWrite_dropped (hk : b.apRegion ad.toNat pa.toNat bytes.length = none) :
    b.adapterWrite ad pa bytes = b.adDrop ad.toNat pa.toNat bytes.length := by
  rw [Blk.adapterWrite_takes hne ht]
  simp [Blk.adTake, hk]

end adapter

/-- An error log holds VALID once it has been written. -/
theorem Blk.rb_log (b : Blk) (o : Nat) (k v : W64) : (b.log o k v).rb o 0 = true := by
  unfold Blk.log Blk.rb
  split
  · next h => simpa [bit] using h
  · simp [bit]

/-- A log is a register. -/
theorem Blk.log_frame (b : Blk) (o : Nat) (k v : W64) : { b.log o k v with regs := b.regs } = b := by
  unfold Blk.log; split <;> rfl

/-! ### The passage of a write (R80, R81) -/

/-- The row cache and the counters apart, a sector that passes leaves the block as it was. -/
theorem Blk.passSector_frame (b : Blk) (s o : Nat) (p : List Byte) :
    ∃ r g, b.passSector s o p = { b with rc := r, regs := g } := by
  unfold Blk.passSector
  dsimp only
  generalize List.map _ b.rc.fills = fills
  split
  · exact ⟨_, _, rfl⟩
  · split <;> exact ⟨_, _, rfl⟩

theorem foldl_passSector_frame (pa : Nat) (bytes : List Byte) (ss : List Nat) (b : Blk) :
    ∃ r g, ss.foldl (fun b s => let p := sectorPart pa bytes s; b.passSector s p.1 p.2) b = { b with rc := r, regs := g } := by
  induction ss generalizing b with
  | nil => exact ⟨b.rc, b.regs, rfl⟩
  | cons s ss ih =>
    obtain ⟨r, g, h⟩ := b.passSector_frame s (sectorPart pa bytes s).1 (sectorPart pa bytes s).2
    obtain ⟨r', g', h'⟩ := ih (b.passSector s (sectorPart pa bytes s).1 (sectorPart pa bytes s).2)
    exact ⟨r', g', h'.trans (by rw [h])⟩

section write
variable {x b : Blk} (hdev : x.dev = b.dev) (hbad : x.bad = b.bad) (hsec : x.sec = b.sec) (cr pa : Nat) (l : List Byte)
include hdev hbad hsec

/-- What a sector write stores depends on memory, its poison and the keys. -/
theorem Blk.writePart_congr (s : Nat) :
    (x.writePart cr pa l s).dev = (b.writePart cr pa l s).dev ∧ (x.writePart cr pa l s).bad = (b.writePart cr pa l s).bad := by
  have henc : x.enc cr (64 * s) = b.enc cr (64 * s) := by rw [Blk.enc, Blk.enc, Blk.active, Blk.active, hsec]
  have hread : x.readSector cr s = b.readSector cr s := by
    rw [Blk.readSector, Blk.readSector, henc, hsec, Blk.rawBytes, Blk.rawBytes, hdev]
  rw [Blk.writePart, Blk.writePart, Blk.writeSector, Blk.writeSector, henc, hread, hdev, hbad, hsec]
  split
  · split
    · exact ⟨hdev, hbad⟩
    · exact ⟨rfl, rfl⟩
  · exact ⟨rfl, rfl⟩

/-- The same for a whole write. -/
theorem Blk.devWrite_congr :
    (x.devWrite cr pa l).dev = (b.devWrite cr pa l).dev ∧ (x.devWrite cr pa l).bad = (b.devWrite cr pa l).bad := by
  rw [Blk.devWrite_eq_foldl, Blk.devWrite_eq_foldl]
  induction sectorsOf pa l.length generalizing x b with
  | nil => exact ⟨hdev, hbad⟩
  | cons s ss ih =>
    obtain ⟨hd, hb⟩ := Blk.writePart_congr hdev hbad hsec cr pa l s
    have hx : (x.writePart cr pa l s).sec = x.sec := (congrArg Blk.sec (x.writePart_frame cr pa l s) :)
    have hy : (b.writePart cr pa l s).sec = b.sec := (congrArg Blk.sec (b.writePart_frame cr pa l s) :)
    exact ih hd hb (hx.trans (hsec.trans hy.symm))

end write

/-- A write that passes the row cache reaches memory; the writes behind it and host memory stay. -/
theorem Blk.passWrite_reaches (b : Blk) (cr pa : Nat) (l : List Byte) : (b.passWrite cr pa l).wq = b.wq ∧
    (b.passWrite cr pa l).dev = (b.devWrite cr pa l).dev ∧ (b.passWrite cr pa l).bad = (b.devWrite cr pa l).bad ∧
    (b.passWrite cr pa l).host = b.host := by
  obtain ⟨r, g, h⟩ := foldl_passSector_frame pa l (sectorsOf pa l.length) b
  have hframe := Blk.devWrite_frame { b with rc := r, regs := g } cr pa l
  obtain ⟨hdev, hbad⟩ := Blk.devWrite_congr (x := { b with rc := r, regs := g }) (b := b) rfl rfl rfl cr pa l
  rw [Blk.passWrite, h]
  exact ⟨(congrArg Blk.wq hframe :), hdev, hbad, (congrArg Blk.host hframe :)⟩

theorem exec_cacheWritePass {s : State} {w : DevWrite} {rest : List DevWrite} (hq : s.blk.wq = w :: rest) (hl : s.blk.live = true) :
    exec .cacheWritePass s = .next (s.withBlk (iter 8 (fun c b => b.arraySweep c)
      (({ s.blk with wq := rest } : Blk).passWrite w.cr w.pa w.bytes))) := by
  show Host.Outcome.next (s.withBlk s.blk.writePass) = _
  rw [Blk.writePass, hq]
  dsimp only
  rw [if_pos hl]

/-- Settles O34: each event is read off its own equation above. Inlet writes that arrive while the ports are held are kept, in order, to
be taken afterwards (log entry 94). -/
theorem portWritesReachMemory : Obligations.PortWritesReachMemory := by
  intro s bytes hne
  refine ⟨fun off pa cr hpa hcr => ⟨fun ht h => ?taken, fun ht h => ?refused, fun hr hs hh => ?held⟩,
    fun id n rest hq hl => ⟨fun hp => ?acknowledged, fun w hw => ?dropped⟩, fun ad pa k ht hk h => ?adapter, fun ad pa ht hk => ?outside,
    fun w rest hq hl => ?passed⟩
  case taken =>
    subst hpa hcr
    rw [exec_inletWrite, Blk.inletWrite_takes off hne ht, Blk.inletTake_allowed h]; rfl
  case refused =>
    subst hpa hcr
    rw [exec_inletWrite, Blk.inletWrite_takes off hne ht, Blk.inletTake_refused h]; rfl
  case held => rw [exec_inletWrite, Blk.inletWrite_waits off hne hr hs hh]
  case acknowledged =>
    refine ⟨_, exec_next_congr (exec_inletWriteAck false s) (Blk.inletAck_passed hq hl hp), rfl, ?_, fun o ho => ?_, rfl⟩
    · exact (s.blk.reg_inc 0x1108 0x1108 n).trans (if_pos rfl)
    · exact (s.blk.reg_inc 0x1108 o n).trans (if_neg ho)
  case dropped => exact exec_next_congr (exec_inletWriteAck true s) (Blk.inletAck_refused hq hl hw)
  case adapter => exact exec_next_congr (exec_adapterWrite ad pa bytes s) (Blk.adapterWrite_allowed hne ht hk h)
  case outside =>
    refine ⟨_, exec_next_congr (exec_adapterWrite ad pa bytes s) (Blk.adapterWrite_dropped hne ht hk), ?_, Blk.rb_log _ _ _ _,
      (congrArg (fun x : Blk => { x with regs := s.blk.regs }) ((s.blk.inc 0x30508 1).log_frame 0x30500 0 _) :)⟩
    rw [Blk.reg_log_other _ _ _ (by omega), Blk.reg_inc, if_pos rfl]; rfl
  case passed =>
    obtain ⟨hwq, hdev, hbad, hhost⟩ := Blk.passWrite_reaches { s.blk with wq := rest } w.cr w.pa w.bytes
    obtain ⟨hdev', hbad'⟩ := Blk.devWrite_congr (x := { s.blk with wq := rest }) (b := s.blk) rfl rfl rfl w.cr w.pa w.bytes
    exact ⟨_, exec_cacheWritePass hq hl, hwq, hdev.trans hdev', hbad.trans hbad', hhost⟩

end Sys2Proof.Machine
end

section
/-! PROOFS. The other engine operations: MATX, FENCE, MIGR, CHAIN and EXPAND. -/
namespace Sys2Proof.Machine

section ready
variable {b b1 b2 : Blk} {c t ra : Nat} {imm : W64} {v : View} {m : Cmd} {tag : Nat} {d : List W64} (rd : Nat)
  (h : LongReady b c t ra imm v m tag d b1)

/-! ### MATX (R131, R132, R137) -/

theorem exec_matx (x : Ctx) (rd ra : Greg) (imm : W64) (v : View) (s : State) :
    exec (.matx x rd ra imm v) s = .next (s.withBlk (s.blk.matxOp x.c x.t rd ra imm v)) := rfl

/-- The instruction that a MATX of command m enters, numbered id. -/
def matxInstr (id t : Nat) (m : Cmd) (tag : Nat) (d : List W64) : AInstr :=
  { id := id, kind := .matx, task := t, cmd := m.id, tag := some tag, ctx := m.ctx, fmt := adFmt d, ad := d, src := .matx id t m.ctx d,
    kn := (adK d, adN d) }

/-- The block with the MATX at the end of the core's instruction queue. -/
def Blk.matxQueued (b : Blk) (c t : Nat) (m : Cmd) (tag : Nat) (d : List W64) : Blk :=
  b.updCore c (fun k => { k with nextKey := k.nextKey + 1, iq := k.iq ++ [matxInstr (b.core c).nextKey t m tag d] })

include h in
/-- A MATX whose descriptor passes its checks enters the instruction queue while it has room. -/
theorem Blk.matxOp_issues (harr : b1.build.arrays = true) (had : adBad d = none) (hroom : (b1.core c).iqUsed < 16)
    (hheld : b1.qHeld 4 c 0 = false) : b.matxOp c t rd ra imm v = (b1.matxQueued c t m tag d).longDone c t rd tag := by
  rw [Blk.matxOp, Blk.longOp_ready (a := ()) (b2 := b1) _ h (by simp [harr, had])]
  simp [hheld, Nat.not_le.mpr hroom, Blk.matxQueued, matxInstr]

/-! ### FENCE (R232, R233, R377) -/

theorem exec_fence (x : Ctx) (rd ra : Greg) (imm : W64) (v : View) (s : State) :
    exec (.fence x rd ra imm v) s = .next (s.withBlk (s.blk.longOp x.c x.t ra imm v (fun b m d => b.fenceCheck m v d)
      (fun b m tag d y => (b.fenceNew m x.c x.t (some tag) d y).longDone x.c x.t rd tag))) := rfl

/-- The fence that command m begins, numbered id. -/
def newFence (id c t : Nat) (m : Cmd) (tag : Option Nat) (d : List W64) (x : List (List W64) × List TableCopy) : Fence :=
  { id := id, cmd := m.id, c := c, task := t, tag := tag, ctx := m.ctx, fd := d, list := x.1, tabs := x.2 }

/-- A wait, met at once or not, leaves the number of the next fence. -/
theorem Blk.nextFence_waitAnchor (b : Blk) (w : Waiter) : (b.waitAnchor w).nextFence = b.nextFence := by
  unfold Blk.waitAnchor
  split
  · unfold Blk.wake; split <;> rfl
  · rfl

theorem Blk.nextFence_fenceNew (b : Blk) (m : Cmd) (c t : Nat) (tag : Option Nat) (d : List W64)
    (x : List (List W64) × List TableCopy) : (b.fenceNew m c t tag d x).nextFence = b.nextFence + 1 := by
  unfold Blk.fenceNew
  dsimp only
  split
  · rfl
  · exact Blk.nextFence_waitAnchor _ _

/-- A fence without remote senders to wait for begins with no wait. -/
theorem Blk.fences_fenceNew (b : Blk) (m : Cmd) (c t : Nat) (tag : Option Nat) {d : List W64} (x : List (List W64) × List TableCopy)
    (hd : fdForce d = true ∨ fdNsend d = 0) : (b.fenceNew m c t tag d x).fences = b.fences ++ [newFence b.nextFence c t m tag d x] := by
  simp only [Blk.fenceNew, Bool.or_eq_true, decide_eq_true_eq, hd, if_true]
  rfl

/-! ### MIGR (R266, R334) -/

theorem exec_migr (x : Ctx) (rd ra : Greg) (imm : W64) (advice : Bool) (v : View) (s : State) :
    exec (.migr x rd ra imm advice v) s = .next (s.withBlk (s.blk.migrOp x.c x.t rd ra imm advice v)) := rfl

include h in
/-- A MIGR whose copy descriptor passes its checks begins a copy. -/
theorem Blk.migrOp_copies (hcp : cpBad d = none) :
    b.migrOp c t rd ra imm false v = (b1.longDone c t rd tag).copyNew m c t (some tag) d := by
  rw [Blk.migrOp, Blk.longOp_ready (a := none) (b2 := b1) _ h (by simp [hcp])]

include h in
/-- A MIGR whose advice descriptor passes its checks begins an advice. -/
theorem Blk.migrOp_advises {tab : TableCopy} (hav : b1.avCheck m v d = (b2, .ok tab)) :
    b.migrOp c t rd ra imm true v = (b2.longDone c t rd tag).adviseNew m c t (some tag) d tab := by
  rw [Blk.migrOp, Blk.longOp_ready (a := some tab) (b2 := b2) _ h (by simp [hav, Ds.bind])]

end ready

/-! ### CHAIN (R154, R164) -/

theorem exec_chain (x : Ctx) (rd ra : Greg) (imm : W64) (v : View) (s : State) :
    exec (.chain x rd ra imm v) s = .next (s.withBlk (s.blk.chainOp x.c x.t rd ra imm v)) := rfl

/-- The operation that a CHAIN of command m enters, numbered id. -/
def newChain (id t : Nat) (m : Cmd) (tag : Nat) (d : List W64) (us : List QsdUse) : ChainOp :=
  { id := id, task := t, cmd := m.id, tag := tag, ctx := m.ctx, vd := d, qs := us }

/-- The block with the operation at the end of the chain's list, and with its summary registers pending. -/
def Blk.chained (b : Blk) (c t : Nat) (m : Cmd) (tag : Nat) (d : List W64) (us : List QsdUse) : Blk :=
  (b.updCore c (fun k => { k with nextKey := k.nextKey + 1, ch := k.ch ++ [newChain (b.core c).nextKey t m tag d us] })).updTask c t
    (fun x => { x with sPend := x.sPend ++ vdSums d })

/-- A CHAIN of a task context that has none waiting enters the list and asks for its tile locks. -/
theorem Blk.chainOp_issues {b b1 : Blk} {c t ra rd tag va : Nat} {imm : W64} {v : View} {m : Cmd} {d : List W64} {us : List QsdUse}
    (hcan : b.canLong c t = true) (hone : ∀ o ∈ (b.core c).ch, o.task = t → o.running = true) (hcmd : b.taskCmd c t = some m)
    (htag : (b.task c t).freeTag = some tag) (hva : va = (((b.cleanAll c).task c t).gr ra + imm).toNat) (hlow : va < 2 ^ 57)
    (haligned : va % 64 = 0) (hchk : (b.cleanAll c).chainCheck m v va = (b1, .ok (d, us))) :
    b.chainOp c t rd ra imm v =
      ((b1.chained c t m tag d us).chainLocks c (newChain (b1.core c).nextKey t m tag d us)).longDone c t rd tag := by
  have hfree : (b.core c).ch.any (fun o => o.task = t && !o.running) = false := by
    simpa using hone
  have hlow := Nat.not_le.mpr hlow
  subst hva
  simp only [Blk.chainOp, hcan, hfree, hcmd, htag, hlow, haligned, hchk, Bool.not_true, Bool.or_self, Bool.false_eq_true, ne_eq,
    not_true_eq_false, if_false]
  rfl

/-! ### EXPAND (R120 to R122) -/

theorem exec_expand (x : Ctx) (ra : Greg) (imm : W64) (v : View) (s : State) :
    exec (.expand x ra imm v) s = .next (s.withBlk (s.blk.expandOp x.c x.t ra imm v)) := rfl

section expand
variable {b : Blk} {c t ra : Nat} {imm : W64} {v : View} {m : Cmd} (hcan : b.canLong c t = true) (hcmd : b.taskCmd c t = some m)
  (harr : b.build.arrays = true) (hown : ∀ p, (b.core c).plan = some p → p.1 = t)
include hcan hcmd harr hown

/-- Address 0 releases the plan, whether the task context holds one or not. -/
theorem Blk.expandOp_releases (hva : (b.task c t).gr ra + imm = 0) :
    b.expandOp c t ra imm v = ((b.cleanAll c).updCore c (fun k => { k with plan := none, planTabs := [] })).plainDone c t := by
  unfold Blk.expandOp
  cases hp : (b.core c).plan with
  | none => simp [hcan, hcmd, harr, hva]
  | some p => simp [hcan, hcmd, harr, hva, hown p hp]

/-- A plan whose tables pass their checks is bound; it replaces one that the task context holds (log entry 56). -/
theorem Blk.expandOp_binds {va : Nat} {b1 b2 : Blk} {xp : List W64} {ts : List TableCopy}
    (hva : va = ((b.task c t).gr ra + imm).toNat) (hne : va ≠ 0) (hlow : va < 2 ^ 57) (haligned : va % 64 = 0)
    (hread : (b.cleanAll c).desc (.desc m.id) m.ctx v va = (b1, .ok xp)) (hxp : xpBad xp = none)
    (htabs : Blk.xpTabs m.id v xp (xpTables xp) b1 = (b2, .ok ts)) :
    b.expandOp c t ra imm v = (b2.updCore c (fun k => { k with plan := some (t, xp), planTabs := ts })).plainDone c t := by
  have hlow := Nat.not_le.mpr hlow
  subst hva
  cases hp : (b.core c).plan with
  | none =>
    simp only [Blk.expandOp, hcan, hcmd, harr, hp, hne, hlow, haligned, hread, hxp, htabs, Ds.bind, Bool.not_true, Bool.false_eq_true,
      ne_eq, not_true_eq_false, if_false]
  | some p =>
    simp only [Blk.expandOp, hcan, hcmd, harr, hp, hown p hp, hne, hlow, haligned, hread, hxp, htabs, Ds.bind, Bool.not_true,
      Bool.false_eq_true, ne_eq, not_true_eq_false, decide_false, if_false]

end expand

/-- Settles O24: each operation is read off its own equation above, and `longDone_issued` says what a tag's word leaves. An EXPAND of
the task context that already holds a plan replaces it (log entry 56). -/
theorem engineOperationsIssue : Obligations.EngineOperationsIssue := by
  intro s c t rd ra imm v
  refine ⟨fun m tag d b1 h => ⟨fun harr had hroom hheld => ?matx, fun b2 y hfd => ?fence, fun hcp => ?copy, fun b2 tab hav => ?advice,
      Blk.longDone_issued _ _ _ _ _⟩,
    fun m tag va b1 d us hcan hone hcmd htag hva hlow haligned hchk => ?chain,
    fun m hcan hcmd harr hown => ⟨fun hva => ?release, fun va b1 b2 xp ts hva hne hlow haligned hread hxp htabs => ?bind⟩⟩
  case matx =>
    refine ⟨b1.matxQueued c t m tag d, _, matxInstr (b1.core c).nextKey t m tag d, ?_, Blk.longDone_issued _ _ _ _ _,
      congrArg Core.iq (b1.core_updCore_same _ _), rfl, rfl, rfl, rfl, rfl, rfl, rfl⟩
    rw [exec_matx, Blk.matxOp_issues rd h harr had hroom hheld]
  case fence =>
    refine ⟨b2.fenceNew m c t (some tag) d y, _, newFence b2.nextFence c t m (some tag) d y, ?_, Blk.longDone_issued _ _ _ _ _,
      rfl, rfl, rfl, rfl, rfl, rfl, rfl, Blk.fences_fenceNew _ _ _ _ _ _, Blk.nextFence_fenceNew _ _ _ _ _ _ _⟩
    rw [exec_fence, Blk.longOp_ready _ h hfd]
  case copy => rw [exec_migr, Blk.migrOp_copies rd h hcp]
  case advice => rw [exec_migr, Blk.migrOp_advises rd h hav]
  case chain =>
    refine ⟨b1.chained c t m tag d us, _, newChain (b1.core c).nextKey t m tag d us, ?_, Blk.longDone_issued _ _ _ _ _, ?_,
      rfl, rfl, rfl, rfl, rfl, rfl, ?_⟩
    · rw [exec_chain, Blk.chainOp_issues hcan hone hcmd htag hva hlow haligned hchk]
    · rw [Blk.chained, Blk.core_updTask_same, Blk.core_updCore_same]; rfl
    · rw [Blk.chained, Blk.task_updTask_same, Blk.task, Blk.core_updCore_same]; rfl
  case release =>
    refine ⟨_, by rw [exec_expand, Blk.expandOp_releases hcan hcmd harr hown hva], ?_, ?_⟩ <;> rw [Blk.core_updCore_same]
  case bind =>
    refine ⟨_, by rw [exec_expand, Blk.expandOp_binds hcan hcmd harr hown hva hne hlow haligned hread hxp htabs], ?_, ?_⟩ <;>
      rw [Blk.core_updCore_same]

end Sys2Proof.Machine
end

section
/-! PROOFS. What the updates of a core's planes and tile buffers read back and leave alone, and events whose guard holds. -/
namespace Sys2Proof.Machine

/-- An event whose guard holds happens. -/
theorem upd_onlyIf_true {g : Blk → Bool} (f : Blk → Blk) {s : State} (h : g s.blk = true) :
    upd (fun b => onlyIf (g b) f b) s = .next (s.withBlk (f s.blk)) := by
  rw [upd_next, onlyIf, if_pos h]; rfl

/-- A fold whose steps all leave the start as it is. -/
theorem foldl_eq_self {α β : Type} (f : β → α → β) (b : β) (l : List α) (h : ∀ a ∈ l, f b a = b) : l.foldl f b = b := by
  induction l with
  | nil => rfl
  | cons a l ih =>
    rw [List.foldl_cons, h a (by simp)]
    exact ih fun x hx => h x (by simp [hx])

/-- A choice is the same by a condition that says the same. -/
theorem ite_of_iff {α : Type} {p q : Prop} [Decidable p] [Decidable q] (h : p ↔ q) (x y : α) :
    (if p then x else y) = if q then x else y := by
  by_cases hp : p
  · rw [if_pos hp, if_pos (h.mp hp)]
  · rw [if_neg hp, if_neg fun hq => hp (h.mpr hq)]

theorem coreReg_ne (c : Nat) {x y : Nat} (h : x ≠ y) : coreReg c x ≠ coreReg c y := by
  unfold coreReg; omega

theorem Blk.rb_log_other (b : Blk) {o p : Nat} (k v : W64) (i : Nat) (h : p ≠ o) : (b.log o k v).rb p i = b.rb p i := by
  rw [Blk.rb, Blk.reg_log_other _ _ _ h]; rfl

/-! ### Planes (R135) -/

@[simp] theorem Blk.plane_updPlane_same (b : Blk) (c p : Nat) (f : Plane → Plane) :
    ((b.updPlane c p f).core c).plane p = f ((b.core c).plane p) := by
  rw [Blk.updPlane, Blk.core_updCore_same]
  exact Tab.get_set_same _ _ _ _

theorem Blk.plane_updPlane_other (b : Blk) {c p d q : Nat} (f : Plane → Plane) (h : d ≠ c ∨ q ≠ p) :
    ((b.updPlane c p f).core d).plane q = (b.core d).plane q := by
  rw [Blk.updPlane, Blk.core_updCore]
  split
  · next hd => exact Tab.get_set_other _ _ _ _ (h.resolve_left (fun hn => hn hd))
  · rfl

@[simp] theorem Blk.reg_updPlane (b : Blk) (c p : Nat) (f : Plane → Plane) (o : Nat) : (b.updPlane c p f).reg o = b.reg o := rfl

/-! ### Tile buffers (R140) -/

theorem Blk.sq_updTile (b : Blk) (c i d q : Nat) (f : Tile → Tile) : (b.updTile c i f).sq d q = b.sq d q := by
  rw [Blk.updTile, Blk.sq, Blk.core_updCore]
  split <;> rfl

theorem Blk.tile_updTile (b : Blk) (c i d j : Nat) (f : Tile → Tile) :
    (b.updTile c i f).tile d j = if d = c ∧ j = i then f (b.tile d j) else b.tile d j := by
  unfold Blk.updTile Blk.tile
  rw [Blk.core_updCore]
  by_cases hd : d = c
  · by_cases hj : j = i
    · subst hd hj; rw [if_pos rfl, if_pos ⟨rfl, rfl⟩]; exact Tab.get_set_same _ _ _ _
    · rw [if_pos hd, if_neg (fun h => hj h.2)]; exact Tab.get_set_other _ _ _ _ hj
  · rw [if_neg hd, if_neg (fun h => hd h.1)]

/-- An element of a tile buffer after a write of one. -/
theorem Tile.at_put (t : Tile) (k j : Nat) (v : W32) : (t.put k v).at j = if j = k then v else t.at j := by
  unfold Tile.at Tile.put
  by_cases h : j = k
  · subst h; rw [if_pos rfl]; exact Tab.get_ins_same _ _ _ _ (Tab.del_keys t.e j)
  · rw [if_neg h]; exact (Tab.get_ins_other _ _ _ h).trans (Tab.get_del_other _ _ h)

/-- The cores apart, changes of tile buffers leave the block as it was. -/
theorem foldl_updTile_frame (c : Nat) (f : Nat → Tile → Tile) (l : List Nat) (b : Blk) :
    { l.foldl (fun b i => b.updTile c i (f i)) b with cores := b.cores } = b := by
  induction l generalizing b with
  | nil => rfl
  | cons i l ih => exact congrArg (fun x : Blk => { x with cores := b.cores }) (ih (b.updTile c i (f i)))

theorem Blk.reg_of_onlyCores {b x : Blk} (h : { x with cores := b.cores } = b) (o : Nat) : x.reg o = b.reg o :=
  (congrArg (fun x : Blk => x.reg o) h :)

end Sys2Proof.Machine
end

section
/-! PROOFS. Around the array: tile locks and stalemates, dummy wavefronts and ramps, the tail of the feeder, and the wait for a
multicast E. -/
namespace Sys2Proof.Machine

/-! ### Tile locks (R140) -/

section grant
variable {t : Tile} {r : LockReq} {rest : List LockReq} (hw : t.waits = r :: rest) (n : Nat)
include hw

theorem Tile.grant_exclusive (hl : t.lock = .free) (hr : r.write = true) :
    t.grant (n + 1) = { t with lock := .exclusive, owner := r.task, unit := r.unit, waits := rest } := by
  simp [Tile.grant, hw, hl, hr]

theorem Tile.grant_locked (hl : t.lock = .exclusive ∨ t.lock = .queued) : t.grant (n + 1) = t := by
  obtain hl | hl := hl <;> simp [Tile.grant, hw, hl]

theorem Tile.grant_shared_writer (hl : t.lock = .shared) (hr : r.write = true) : t.grant (n + 1) = t := by
  simp [Tile.grant, hw, hl, hr]

/-- A reader takes a free lock alone where the next request is a writer's. -/
theorem Tile.grant_reader (hl : t.lock = .free) (hr : r.write = false) (hnext : ∀ y ∈ rest.head?, y.write = true) :
    t.grant (n + 2) = { t with lock := .shared, readers := [(r.task, r.unit)], waits := rest } := by
  have hfirst : t.grant (n + 2) = ({ t with lock := .shared, readers := [(r.task, r.unit)], waits := rest } : Tile).grant (n + 1) := by
    simp [Tile.grant, hw, hl, hr]
  rw [hfirst]
  cases hrest : rest with
  | nil => simp [Tile.grant]
  | cons y ys => exact Tile.grant_shared_writer rfl n rfl (hnext y (by simp [hrest]))

end grant

/-- A grant of a tile buffer that no POOL waits for changes the tile buffer alone. -/
theorem exec_tileLockGrant {s : State} {c : Fin 8} (i : Fin 6) (hlive : s.blk.coreLive c = true) (hrst : s.blk.coreRst c = false)
    (htb : ∀ q < 20, (s.blk.sq c q).cons.tb ≠ some i.val) : exec (.tileLockGrant c i) s =
      .next (s.withBlk (s.blk.updTile c i (fun t => t.grant (t.waits.length + 1)))) := by
  show execTileLockGrant c i s = _
  rw [execTileLockGrant, upd_onlyIf_true _ (by simp [hlive, hrst])]
  dsimp only
  rw [foldl_eq_self]
  intro q hq
  rw [Blk.sq_updTile, if_neg (htb q (List.mem_range.mp hq))]

/-! ### Stalemates (R142) -/

/-- The block with STALE set and a stalemate of core c counted. -/
def Blk.staleTold (b : Blk) (c : Nat) : Blk := (b.setFld (coreReg c 0x410) 8 1 1).inc (coreReg c 0x478) 1

theorem Blk.rb_staleTold (b : Blk) (c : Nat) : (b.staleTold c).rb (coreReg c 0x410) 8 = true := by
  rw [Blk.rb, Blk.staleTold, Blk.reg_inc, if_neg (coreReg_ne c (by decide)), Blk.reg_setFld, if_pos rfl, bit_putFld _ _ _ (by omega)]
  rfl

theorem Blk.reg_staleTold (b : Blk) (c : Nat) : (b.staleTold c).reg (coreReg c 0x478) = b.reg (coreReg c 0x478) + 1 := by
  rw [Blk.staleTold, Blk.reg_inc, if_pos rfl, Blk.reg_setFld, if_neg (coreReg_ne c (by decide))]
  rfl

theorem Blk.staleTold_frame (b : Blk) (c : Nat) : { b.staleTold c with regs := b.regs } = b := by
  simp [Blk.staleTold]

theorem exec_stalemate {s : State} {c : Fin 8} (i : Fin 6) {r : LockReq} {o : Nat} (hlive : s.blk.coreLive c = true)
    (hr : (s.blk.tile c i).waits.find? (fun r => !r.told && ((s.blk.tile c i).holder r.task).isSome &&
      decide (r.since + s.blk.rf (coreReg c 0x408) 0 32 < s.blk.time.toNat)) = some r)
    (hlim : s.blk.rf (coreReg c 0x408) 0 32 ≠ 0) (ho : (s.blk.tile c i).holder r.task = some o) :
    exec (.stalemate c i) s = .next (s.withBlk (((s.blk.staleTold c).event 0x41 0 c 0
      [BitVec.ofNat 64 (i + o <<< 4 + r.task <<< 6)]).updTile c i
        (fun t => { t with waits := t.waits.map (fun x => if x = r then { x with told := true } else x) }))) := by
  show execStalemate c i s = _
  rw [execStalemate, upd_next]
  dsimp only
  rw [hr]
  simp only [hlim, hlive, ho, decide_false, Bool.not_true, Bool.or_self, Bool.false_eq_true, if_false, Option.getD_some]
  rfl

/-! ### Dummies, ramps and the tail of the feeder (R119, R146) -/

theorem exec_dummyWavefront {s : State} {c : Fin 8} (hissue : s.blk.unitIssues c = true) (hidle : (s.blk.core c).arrayIdle = true)
    (hlast : (s.blk.core c).lastPlane.isSome = true) (hramp : (s.blk.core c).ramp ≠ .gated)
    (hon : s.blk.rf (coreReg c 0x400) 8 8 ≠ 0) :
    exec (.dummyWavefront c) s = .next (s.withBlk (s.blk.inc (coreReg c 0x450) 1)) := by
  show execDummyWavefront c s = _
  rw [execDummyWavefront, upd_onlyIf_true _ (by simp [hissue, hidle, hlast, hramp, hon])]

theorem exec_rampDown {s : State} {c : Fin 8} (hlive : s.blk.coreLive c = true) (hidle : (s.blk.core c).arrayIdle = true)
    (hramp : (s.blk.core c).ramp ≠ .gated) : exec (.rampDown c) s = .next (s.withBlk (s.blk.updCore c (fun k =>
      { k with ramp := if k.duty ≤ 1 then .gated else .down, duty := k.duty - 1 }))) := by
  show execRampDown c s = _
  rw [execRampDown, upd_onlyIf_true _ (by simp [hlive, hidle, hramp])]

theorem exec_feederTailFlush {s : State} {c : Fin 8} (hissue : s.blk.unitIssues c = true)
    (hrow : ∃ f ∈ (s.blk.core c).feed, f.sent = false)
    (htime : (s.blk.core c).feedFrom + max 16 (s.blk.rf (coreReg c 0x400) 32 16) ≤ s.blk.time.toNat) :
    exec (.feederTailFlush c) s = .next (s.withBlk (s.blk.updCore c (fun k => { k with flush := true }))) := by
  show execFeederTailFlush c s = _
  rw [execFeederTailFlush, upd_onlyIf_true _ (by simpa [hissue, htime] using hrow)]

/-! ### The wait for a multicast E (R424) -/

/-- The block once the chip has given up the multicast for plane p and reads its own copy. -/
def Blk.gaveUp (b : Blk) (c p : Nat) : Blk := (b.inc 0x70228 1).updPlane c p (fun x => { x with fallback := true, mcb := [] })

/-- The step of EWAIT_TIMEOUT for one plane. -/
def Blk.ewaitPlane (b : Blk) (c p : Nat) : Blk :=
  let x := (b.core c).plane p
  let due := fun (t : TableCopy) => b.emcWaits t x && decide (x.loadFrom + fld (qw t.smd 6) 32 32 ≤ b.time.toNat)
  let hit := x.st = .loading && (match x.src with
    | .exp t _ _ => due t
    | .squares _ tabs => tabs.any due
    | _ => false)
  if hit then b.gaveUp c p else b

theorem Blk.ewait_eq (b : Blk) (c : Nat) : b.ewait c = (b.ewaitPlane c 0).ewaitPlane c 1 := rfl

theorem Blk.ewaitPlane_idle {b : Blk} {c p : Nat} (h : ((b.core c).plane p).st ≠ .loading) : b.ewaitPlane c p = b := by
  simp [Blk.ewaitPlane, h]

theorem Blk.ewaitPlane_due {b : Blk} {c p : Nat} {tab : TableCopy} {h : Nat} {tr : Bool} (hst : ((b.core c).plane p).st = .loading)
    (hsrc : ((b.core c).plane p).src = .exp tab h tr) (hwait : b.emcWaits tab ((b.core c).plane p) = true)
    (htime : ((b.core c).plane p).loadFrom + fld (qw tab.smd 6) 32 32 ≤ b.time.toNat) : b.ewaitPlane c p = b.gaveUp c p := by
  simp [Blk.ewaitPlane, hst, hsrc, hwait, htime]

theorem Blk.plane_gaveUp_other (b : Blk) (c : Nat) {p o : Nat} (h : o ≠ p) : ((b.gaveUp c p).core c).plane o = (b.core c).plane o :=
  Blk.plane_updPlane_other (b.inc 0x70228 1) _ (.inr h)

theorem Blk.gaveUp_frame (b : Blk) (c p : Nat) : { b.gaveUp c p with regs := b.regs, cores := b.cores } = b := rfl

/-- The plane that is due gives up where the other plane does not load. -/
theorem Blk.ewait_due {b : Blk} {c : Nat} (p : Fin 2) (hdue : b.ewaitPlane c p = b.gaveUp c p)
    (hidle : ∀ o < 2, o ≠ p.val → ((b.core c).plane o).st ≠ .loading) : b.ewait c = b.gaveUp c p := by
  rw [Blk.ewait_eq]
  match p with
  | 0 =>
    have hother : ((b.gaveUp c 0).core c).plane 1 = (b.core c).plane 1 := Blk.plane_gaveUp_other b c (by decide)
    exact (congrArg (fun x : Blk => x.ewaitPlane c 1) hdue).trans
      (Blk.ewaitPlane_idle (hother ▸ hidle 1 (by decide) (by decide)))
  | 1 => exact (congrArg (fun x : Blk => x.ewaitPlane c 1) (Blk.ewaitPlane_idle (hidle 0 (by decide) (by decide)))).trans hdue

theorem exec_ewaitTimeout {s : State} {c : Fin 8} (hlive : s.blk.coreLive c = true) :
    exec (.ewaitTimeout c) s = .next (s.withBlk (s.blk.ewait c)) := by
  show execEwaitTimeout c s = _
  rw [execEwaitTimeout, upd_onlyIf_true _ hlive]

/-- Settles O40: each event is read off its own equation above, and the lemmas on `Tile.grant` say how far a tile buffer's list is
granted. -/
theorem arrayIsKeptInOrder : Obligations.ArrayIsKeptInOrder := by
  intro s c i t hlive ht
  subst ht
  refine ⟨fun hrst htb => ⟨exec_tileLockGrant i hlive hrst htb, fun r rest hw => ⟨fun hl hr => ?exclusive, fun hl => ?locked,
      fun hl hr => ?shared, fun hl hr hnext => ?reader⟩⟩,
    fun r o hr hlim ho => ?stale, fun hissue hidle hlast hramp hon => exec_dummyWavefront hissue hidle hlast hramp hon,
    fun hidle hramp => exec_rampDown hlive hidle hramp, fun hissue hrow htime => exec_feederTailFlush hissue hrow htime,
    fun p x tab h tr hx hst hsrc hwait htime hidle => ?ewait⟩
  case exclusive => exact Tile.grant_exclusive hw _ hl hr
  case locked => exact Tile.grant_locked hw _ hl
  case shared => exact Tile.grant_shared_writer hw _ hl hr
  case reader => rw [hw]; exact Tile.grant_reader hw _ hl hr hnext
  case stale => exact ⟨s.blk.staleTold c, exec_stalemate i hlive hr hlim ho, Blk.rb_staleTold _ _, Blk.reg_staleTold _ _,
    Blk.staleTold_frame _ _⟩
  case ewait =>
    subst hx
    refine ⟨s.blk.gaveUp c p, ?_, Blk.plane_updPlane_same _ _ _ _, fun o ho => Blk.plane_gaveUp_other _ _ ho, ?_, Blk.gaveUp_frame _ _ _⟩
    · rw [exec_ewaitTimeout hlive, Blk.ewait_due p (Blk.ewaitPlane_due hst hsrc hwait htime) hidle]
    · exact (s.blk.reg_inc 0x70228 0x70228 1).trans (if_pos rfl)

end Sys2Proof.Machine
end

section
/-! PROOFS. Plane loads of the array. -/
namespace Sys2Proof.Machine

/-! ### A plane takes a matrix (R135, R143) -/

/-- Plane p of core c is resident with matrix w and column scales cs, and not checked. -/
structure Blk.Holds (b : Blk) (c p : Nat) (w : List (List W32)) (cs : Tab W32) : Prop where
  resident : ((b.core c).plane p).st = .resident
  matrix : ((b.core c).plane p).w = w
  scales : ((b.core c).plane p).cs = cs
  unchecked : ((b.core c).plane p).checked = false

section take
variable (b : Blk) (c p : Nat) (w : List (List W32)) (cs : Tab W32) (joined : Bool)

/-- The block with the load counted, and counted among those of a join. -/
def Blk.loadCounted : Blk :=
  if joined then (b.inc (coreReg c 0x458) 1).inc (coreReg c 0x460) 1 else b.inc (coreReg c 0x458) 1

theorem Blk.core_loadCounted (d : Nat) : (b.loadCounted c joined).core d = b.core d := by
  unfold Blk.loadCounted; split <;> rfl

theorem Blk.planeTake_eq : b.planeTake c p w cs joined = (b.loadCounted c joined).updPlane c p (fun x =>
    { x with st := .resident, w := w, cs := cs, checked := false, mcb := [], joined := false, fallback := false }) := rfl

theorem Blk.holds_planeTake : (b.planeTake c p w cs joined).Holds c p w cs := by
  rw [Blk.planeTake_eq]
  constructor <;> rw [Blk.plane_updPlane_same]

variable {b c p}

theorem Blk.Holds.planeTake {d q : Nat} (h : b.Holds d q w cs) : (b.planeTake c p w cs joined).Holds d q w cs := by
  by_cases hj : d = c ∧ q = p
  · obtain ⟨rfl, rfl⟩ := hj
    exact b.holds_planeTake d q w cs joined
  · have hother : ((b.planeTake c p w cs joined).core d).plane q = (b.core d).plane q := by
      rw [Blk.planeTake_eq, Blk.plane_updPlane_other _ _ (by omega), Blk.core_loadCounted]
    obtain ⟨hst, hw, hcs, hck⟩ := h
    exact ⟨hother ▸ hst, hother ▸ hw, hother ▸ hcs, hother ▸ hck⟩

variable (b c p)

theorem Blk.reg_planeTake : (b.planeTake c p w cs false).reg (coreReg c 0x458) = b.reg (coreReg c 0x458) + 1 :=
  (b.reg_inc (coreReg c 0x458) (coreReg c 0x458) 1).trans (if_pos rfl)

theorem Blk.reg_planeTake_other {d : Nat} (h : c ≠ d) :
    (b.planeTake c p w cs joined).reg (coreReg d 0x458) = b.reg (coreReg d 0x458) := by
  rw [Blk.planeTake_eq, Blk.reg_updPlane]
  unfold Blk.loadCounted
  split
  · rw [Blk.reg_inc, if_neg (by unfold coreReg; omega), Blk.reg_inc, if_neg (by unfold coreReg; omega)]
  · rw [Blk.reg_inc, if_neg (by unfold coreReg; omega)]

end take

/-! ### The planes that join a load (R123) -/

/-- The block once the planes in l, each with its core, have taken the matrix that they joined for. -/
def Blk.joinersTake (b : Blk) (l : List (Nat × Nat)) (w : List (List W32)) (cs : Tab W32) : Blk :=
  l.foldl (fun b j => b.planeTake j.1 j.2 w cs true) b

theorem Blk.Holds.joinersTake {b : Blk} {c p : Nat} {w : List (List W32)} {cs : Tab W32} (l : List (Nat × Nat)) (h : b.Holds c p w cs) :
    (b.joinersTake l w cs).Holds c p w cs := by
  induction l generalizing b with
  | nil => exact h
  | cons j l ih => exact ih (h.planeTake w cs true)

theorem Blk.holds_joinersTake (b : Blk) {l : List (Nat × Nat)} (w : List (List W32)) (cs : Tab W32) {j : Nat × Nat} (h : j ∈ l) :
    (b.joinersTake l w cs).Holds j.1 j.2 w cs := by
  induction l generalizing b with
  | nil => exact absurd h List.not_mem_nil
  | cons i l ih =>
    obtain rfl | h := List.mem_cons.mp h
    · exact (b.holds_planeTake j.1 j.2 w cs true).joinersTake l
    · exact ih _ h

theorem Blk.reg_joinersTake (b : Blk) {c : Nat} {l : List (Nat × Nat)} (w : List (List W32)) (cs : Tab W32) (h : ∀ j ∈ l, j.1 ≠ c) :
    (b.joinersTake l w cs).reg (coreReg c 0x458) = b.reg (coreReg c 0x458) := by
  induction l generalizing b with
  | nil => rfl
  | cons j l ih =>
    have hrest : ((b.planeTake j.1 j.2 w cs true).joinersTake l w cs).reg (coreReg c 0x458) = _ :=
      ih _ fun i hi => h i (List.mem_cons_of_mem _ hi)
    exact hrest.trans (b.reg_planeTake_other j.1 j.2 w cs true (h j List.mem_cons_self))

theorem Blk.core_ne_of_mem_joiners {b : Blk} {c : Nat} {key : List Nat} {j : Nat × Nat} (h : j ∈ b.joiners c key) : j.1 ≠ c := by
  obtain ⟨d, -, hd⟩ := List.mem_flatMap.mp h
  split at hd
  · exact absurd hd List.not_mem_nil
  · next hne =>
    obtain ⟨p, -, rfl⟩ := List.mem_map.mp hd
    exact hne

/-- The planes whose load ends with that of a plane with this key: those of a matrix in memory, of E and of the squares of a plan. -/
def Blk.loadJoiners (b : Blk) (c : Nat) (key : List Nat) : List (Nat × Nat) :=
  if key.head? = some 0 || key.head? = some 2 || key.head? = some 3 then b.joiners c key else []

theorem Blk.core_ne_of_mem_loadJoiners {b : Blk} {c : Nat} {key : List Nat} {j : Nat × Nat} (h : j ∈ b.loadJoiners c key) : j.1 ≠ c := by
  unfold Blk.loadJoiners at h
  split at h
  · exact Blk.core_ne_of_mem_joiners h
  · exact absurd h List.not_mem_nil

theorem Blk.loadJoiners_shared (b : Blk) (c : Nat) {key : List Nat} (h : key.head? ∈ [some 0, some 2, some 3]) :
    b.loadJoiners c key = b.joiners c key := by
  simp only [List.mem_cons, List.not_mem_nil, or_false] at h
  exact if_pos (by simpa [or_assoc] using h)

/-! ### PLANE_LOAD_DONE -/

theorem exec_planeLoadDone (c : Fin 8) (p : Fin 2) (rd : View) (s : State) :
    exec (.planeLoadDone c p rd) s = .next (s.withBlk (s.blk.planeLoad c p rd)) := rfl

/-- What the command of the instruction that a load is for notes of it: its conversions, and a clamp. -/
def Blk.loadMeasured (b : Blk) (c : Nat) (key : List Nat) (sat : Bool) (ms : List (FV × FV)) : Blk :=
  match (b.core c).iq.find? (fun a => a.key = key) with
  | some a => if sat then (b.measure a.cmd ms).updCmd a.cmd (fun m => m.flag 5) else b.measure a.cmd ms
  | none => b

theorem Blk.reg_loadMeasured (b : Blk) (c : Nat) (key : List Nat) (sat : Bool) (ms : List (FV × FV)) (o : Nat) :
    (b.loadMeasured c key sat ms).reg o = b.reg o := by
  unfold Blk.loadMeasured
  split
  · split <;> rfl
  · rfl

/-- The block with the reads of tile buffers ended that a load from src has made. -/
def Blk.loadReadsEnd (b : Blk) (c : Nat) (src : PSrc) : Blk :=
  match src with
  | .matx id t _ d => (adStb d).foldl (fun b i => b.updTile c i (fun t2 => t2.endRead t (64 + 4 * id + 3))) b
  | _ => b

theorem Blk.reg_loadReadsEnd (b : Blk) (c : Nat) (src : PSrc) (o : Nat) : (b.loadReadsEnd c src).reg o = b.reg o := by
  cases src with
  | matx id t ctx d => exact Blk.reg_of_onlyCores (foldl_updTile_frame c (fun _ t2 => t2.endRead t (64 + 4 * id + 3)) (adStb d) b) o
  | _ => rfl

/-- What a load that has been read leaves before its plane takes the matrix. -/
def Blk.loadNoted (b : Blk) (c : Nat) (x : Plane) (sat : Bool) (ms : List (FV × FV)) : Blk :=
  (b.loadMeasured c x.key sat ms).loadReadsEnd c x.src

theorem Blk.reg_loadNoted (b : Blk) (c : Nat) (x : Plane) (sat : Bool) (ms : List (FV × FV)) (o : Nat) :
    (b.loadNoted c x sat ms).reg o = b.reg o := by
  rw [Blk.loadNoted, Blk.reg_loadReadsEnd, Blk.reg_loadMeasured]

/-- A load whose data is there, and which joins no other, ends: its plane takes the matrix, and those that have joined it. -/
theorem Blk.planeLoad_ends {b b1 : Blk} {c p : Nat} {rd : View} {x : Plane} {w : List (List W32)} {cs : Tab W32} {sat : Bool}
    {ms : List (FV × FV)} (hlive : b.coreLive c = true) (hrst : b.coreRst c = false) (hx : x = (b.core c).plane p)
    (hst : x.st = .loading) (hjoin : x.joined = false) (hdata : b.planeData c rd x = (b1, .ok (w, cs, sat, ms))) :
    b.planeLoad c p rd = ((b1.loadNoted c x sat ms).planeTake c p w cs false).joinersTake (b.loadJoiners c x.key) w cs := by
  subst hx
  have hrst : (b.core c).rst = false := hrst
  simp only [Blk.planeLoad, hlive, hrst, hst, hjoin, hdata, Bool.not_true, Bool.or_self, ne_eq, not_true_eq_false, decide_false,
    Bool.false_and, Bool.false_eq_true, if_false, Blk.loadNoted, Blk.loadMeasured]
  cases (b1.core c).iq.find? (fun a => decide (a.key = ((b.core c).plane p).key)) <;> rfl

/-- A plane whose load has ended, the count of its core, and the planes that joined it. -/
theorem Blk.planeLoad_spec {b b1 b2 : Blk} {c p : Nat} {w : List (List W32)} {cs : Tab W32} {key : List Nat} {x : Plane} {sat : Bool}
    {ms : List (FV × FV)}
    (h : b2 = ((b1.loadNoted c x sat ms).planeTake c p w cs false).joinersTake (b.loadJoiners c key) w cs) :
    b2.Holds c p w cs ∧ b2.reg (coreReg c 0x458) = b1.reg (coreReg c 0x458) + 1 ∧
      ∀ j ∈ b.loadJoiners c key, b2.Holds j.1 j.2 w cs := by
  subst h
  refine ⟨(Blk.holds_planeTake _ c p w cs false).joinersTake _, ?_, fun j hj => Blk.holds_joinersTake _ w cs hj⟩
  rw [Blk.reg_joinersTake _ w cs (fun j => Blk.core_ne_of_mem_loadJoiners), Blk.reg_planeTake, Blk.reg_loadNoted]

end Sys2Proof.Machine
end

section
/-! PROOFS. The issue of array instructions. -/
namespace Sys2Proof.Machine

/-- The core once instruction a, whose plane p has the key, has issued with its activation rows and scales; `up` says that a gated
array ramps up in steps (R138, R147). -/
def Core.issue (k : Core) (a : AInstr) (key : List Nat) (p : Nat) (rows : List (List W32)) (rs cs : List W32) (up : Bool) : Core :=
  { k with
    iq := k.iq.map (fun x => if x.id = a.id then { x with key := key, rows := rows, scales := rs, cols := cs, plane := p, issued := true } else x)
    planes := Tab.set {} k.planes p { k.plane p with used := k.nextKey }
    nextKey := k.nextKey + 1
    lastCmd := some a.cmd
    ramp := if k.ramp = .gated ∨ k.ramp = .down then (if up then .up else .full) else k.ramp
    duty := if k.ramp = .gated ∨ k.ramp = .down then (if up then k.duty else 16) else k.duty }

/-- Where a map changes the entries with p, an entry with p is one that it has changed. -/
theorem eq_of_mem_map_ite {α : Type} {p : α → Prop} [DecidablePred p] {f : α → α} {l : List α} {x : α}
    (hx : x ∈ l.map (fun y => if p y then f y else y)) (hp : p x) : ∃ y, x = f y := by
  obtain ⟨y, -, rfl⟩ := List.mem_map.mp hx
  by_cases hy : p y
  · exact ⟨y, if_pos hy⟩
  · rw [if_neg hy] at hp; exact absurd hp hy

section
variable (k : Core) (a : AInstr) (key : List Nat) (p : Nat) (rows : List (List W32)) (rs cs : List W32) (up : Bool)

theorem Core.mem_issue {x : AInstr} (hx : x ∈ (k.issue a key p rows rs cs up).iq) (hid : x.id = a.id) :
    x.issued = true ∧ x.rows = rows ∧ x.scales = rs ∧ x.cols = cs ∧ x.plane = p ∧ x.key = key := by
  obtain ⟨y, rfl⟩ := eq_of_mem_map_ite hx hid
  exact ⟨rfl, rfl, rfl, rfl, rfl, rfl⟩

theorem Core.ramp_issue : (k.issue a key p rows rs cs up).ramp ≠ .gated := by
  unfold Core.issue
  dsimp only
  split
  · cases up <;> decide
  · next h => exact fun hg => h (.inl hg)

end

/-- The block that ARRAY_INSTRUCTION_ISSUE looks for the head instruction in: what has ended has left the queue, and batches and units of
interactions have entered it. -/
def Blk.arrayFed (b : Blk) (c : Nat) : Blk :=
  interNext 16 c ((((List.range 20).foldl (fun b q => (b.batchQueue c q).batchGrad c q) (b.arraySweep c)).batchPlan c).updCore c
    (fun k => { k with flush := false }))

/-- The block with the key of the plane of instruction a noted. -/
def Blk.keyed (b : Blk) (c : Nat) (a : AInstr) (key : List Nat) : Blk :=
  b.updCore c (fun k => { k with iq := k.iq.map (fun x => if x.id = a.id then { x with key := key } else x) })

/-- The memory that instruction a writes, by what has to translate before it issues. -/
def AInstr.writes (a : AInstr) : List (Nat × List Byte) :=
  if a.kind = .matx then (List.range (adM a.ad)).flatMap (matxRanges a.ad) else []

/-- What instruction a notes as it issues: conversions and a clamp with its command, and the end of its reads of tile buffers. -/
def Blk.issueNoted (b : Blk) (c : Nat) (a : AInstr) (cs : List W32) (sat : Bool) (ms : List (FV × FV)) : Blk :=
  let b := match a.kind with | .expand _ => b.convRows c a cs | _ => b.measure a.cmd ms
  let b := if sat then b.updCmd a.cmd (fun m => m.flag 5) else b
  (adAtb a.ad).foldl (fun b i => b.updTile c i (fun t => t.endRead a.task (a.unit 2))) b

/-- The head instruction issues where it has its locks, its plane is resident, no other command is on the array, and its memory
translates and has been read (R138). -/
theorem Blk.arrayIssue_issues {b b2 b3 b4 b5 : Blk} {c : Nat} {rd : View} {a : AInstr} {key : List Nat} {p : Nat} {ws : List WPart}
    {rows : List (List W32)} {rs cs : List W32} {sat : Bool} {ms : List (FV × FV)} (hheld : (b.arrayFed c).qHeld 4 c 0 = false)
    (hhead : ((b.arrayFed c).core c).head = some a) (hlocks : (b.arrayFed c).arrayLocks c a = (b2, true))
    (hkey : b2.planeKey c a.src = (b3, .ok key)) (hp : ((b3.keyed c a key).core c).planeOf key = some p)
    (hst : (((b3.keyed c a key).core c).plane p).st = .resident)
    (halone : ∀ x ∈ ((b3.keyed c a key).core c).iq, x.issued = true → x.done = false → x.cmd = a.cmd)
    (hws : Blk.xlWrites (.plane c) a.ctx a.writes (b3.keyed c a key) = (b4, .ok ws))
    (hrows : b4.actRows c rd a = (b5, .ok (rows, rs, cs, sat, ms))) :
    b.arrayIssue c rd = (b5.issueNoted c a cs sat ms).updCore c (fun k => k.issue a key p rows rs cs
      ((b5.issueNoted c a cs sat ms).rb (coreReg c 0x400) 1)) := by
  have hothers : ((b3.keyed c a key).core c).iq.any (fun x => x.issued && !x.done && x.cmd ≠ a.cmd) = false := by
    simpa using halone
  unfold Blk.arrayIssue
  unfold Blk.arrayFed at hheld hhead hlocks
  unfold Blk.keyed at hp hst hothers hws
  unfold AInstr.writes at hws
  simp only [hheld, hhead, hlocks, hkey, hp, hst, hothers, hws, hrows, Ds.bind, ne_eq, not_true_eq_false, decide_false, Bool.not_true,
    Bool.or_self, Bool.false_eq_true, if_false]
  rfl

theorem exec_arrayInstructionIssue {s : State} {c : Fin 8} (rd : View) (hissue : s.blk.unitIssues c = true)
    (harr : s.blk.build.arrays = true) : exec (.arrayInstructionIssue c rd) s = .next (s.withBlk (s.blk.arrayIssue c rd)) := by
  show execArrayInstructionIssue c rd s = _
  rw [execArrayInstructionIssue, upd_onlyIf_true _ (by simp [hissue, harr])]

end Sys2Proof.Machine
end

section
/-! PROOFS. Wavefronts of the array: checks that pass, mismatches, and the rows of a MATX that commit to a tile buffer. -/
namespace Sys2Proof.Machine

/-! ### WAVEFRONT_COMMIT -/

/-- Where no unit of an interaction waits to be written, the event is the next wavefront's. -/
theorem exec_wavefrontCommit {s : State} {c : Fin 8} (mm : Mismatch) (hlive : s.blk.coreLive c = true) (hrst : s.blk.coreRst c = false)
    (hready : ∀ m ∈ s.blk.cmds, m.unitReady = []) :
    exec (.wavefrontCommit c mm) s = .next (s.withBlk (s.blk.waveCommit c mm)) := by
  show execWavefrontCommit c mm s = _
  rw [execWavefrontCommit, upd_onlyIf_true _ (by simp [hlive, hrst])]
  dsimp only
  rw [foldl_eq_self]
  intro id _
  split
  · next x hx => simp [hready x (List.mem_of_find?_eq_some hx)]
  · rfl

section head
variable {b : Blk} {c : Nat} {a : AInstr} (ha : (b.core c).iq.find? (fun a => a.issued && !a.done) = some a)
include ha

/-- A plane that is not checked, or that the array changes to, is checked first. -/
theorem Blk.waveCommit_check (mm : Mismatch)
    (h : ((b.core c).plane a.plane).checked = false ∨ (b.core c).lastPlane ≠ some a.plane) :
    b.waveCommit c mm = b.checkWave c a mm := by
  unfold Blk.waveCommit
  rw [ha]
  exact if_pos (by simpa using h)

section data
variable (hck : ((b.core c).plane a.plane).checked = true) (hlast : (b.core c).lastPlane = some a.plane)
include hck hlast

theorem Blk.waveCommit_data : b.waveCommit c .none = b.dataWave c a := by
  simp [Blk.waveCommit, ha, hck, hlast]

/-- The log's description of a mismatch that a data wavefront of a meets in one of its rows. -/
def AInstr.missLog (a : AInstr) (ix : Fin 128) : W64 := chkLog false a (a.next + ix.val % fmtRate a.fmt)

/-- A mismatch that may be retried marks the instruction for its retry. -/
theorem Blk.waveCommit_retries (ix : Fin 128) (hon : b.rb (coreReg c 0x400) 0 = true) (hfirst : a.retry = false) :
    b.waveCommit c (.row ix) = (b.log (coreReg c 0x420) 0 (a.missLog ix)).updCore c (fun k =>
      { k with iq := k.iq.map (fun y => if y.id = a.id then { y with retry := true, logged := !b.rb (coreReg c 0x420) 0 } else y) }) := by
  simp only [Blk.waveCommit, ha, hck, hlast, hfirst, hon, Blk.chkMiss, Blk.rb_log_other b 0 _ 0 (coreReg_ne c (show 0x400 ≠ 0x420 by decide)),
    ne_eq, not_true_eq_false, decide_false, Bool.not_true, Bool.not_false, Bool.or_self, Bool.and_self, Bool.false_eq_true, if_false,
    if_true]
  rfl

/-- Any other mismatch is counted as a failure and ends the command. -/
theorem Blk.waveCommit_fails (ix : Fin 128) (h : b.rb (coreReg c 0x400) 0 = false ∨ a.retry = true) :
    b.waveCommit c (.row ix) = ((b.log (coreReg c 0x420) 0 (a.missLog ix)).chkFail c).failCmd a.cmd 0x41 := by
  have hlost : (b.rb (coreReg c 0x400) 0 && !a.retry) = false := by
    obtain h | h := h <;> simp [h]
  simp only [Blk.waveCommit, ha, hck, hlast, hlost, Blk.chkMiss, Blk.rb_log_other b 0 _ 0 (coreReg_ne c (show 0x400 ≠ 0x420 by decide)),
    ne_eq, not_true_eq_false, decide_false, Bool.not_true, Bool.or_self, Bool.false_eq_true, if_false]
  rfl

end data
end head

/-! ### Checks (R143, R145) -/

/-- The block once the plane of a is checked and is that of the latest wavefront. -/
def Blk.checkPassed (b : Blk) (c p : Nat) : Blk :=
  (b.updPlane c p (fun x => { x with checked := true, retried := false, logged := false })).updCore c
    (fun k => { k with lastPlane := some p })

theorem Blk.checkWave_passes {b : Blk} {c : Nat} {a : AInstr} (h : ((b.core c).plane a.plane).retried = false) :
    b.checkWave c a .none = b.checkPassed c a.plane := by
  simp [Blk.checkWave, h, Blk.checkPassed]

theorem Blk.plane_checkPassed (b : Blk) (c p : Nat) : ((b.checkPassed c p).core c).plane p =
    { (b.core c).plane p with checked := true, retried := false, logged := false } := by
  rw [Blk.checkPassed, Blk.core_updCore_same]
  exact Blk.plane_updPlane_same b c p _

theorem Blk.lastPlane_checkPassed (b : Blk) (c p : Nat) : ((b.checkPassed c p).core c).lastPlane = some p := by
  rw [Blk.checkPassed, Blk.core_updCore_same]

section fail
variable (b : Blk) (c : Nat) (v : W64)

/-- A failed check is counted, sets CHKFAIL, and has loaded the log. -/
theorem Blk.regs_chkFail : ((b.log (coreReg c 0x420) 0 v).chkFail c).reg (coreReg c 0x470) = b.reg (coreReg c 0x470) + 1 ∧
    ((b.log (coreReg c 0x420) 0 v).chkFail c).rb (coreReg c 0x410) 9 = true ∧
    ((b.log (coreReg c 0x420) 0 v).chkFail c).rb (coreReg c 0x420) 0 = true := by
  refine ⟨?_, ?_, ?_⟩
  · rw [Blk.chkFail, Blk.reg_setFld, if_neg (coreReg_ne c (by decide)), Blk.reg_inc, if_pos rfl,
      Blk.reg_log_other _ _ _ (coreReg_ne c (by decide))]
    rfl
  · rw [Blk.chkFail, Blk.rb, Blk.reg_setFld, if_pos rfl, bit_putFld _ _ _ (by omega)]; rfl
  · rw [Blk.chkFail, Blk.rb, Blk.reg_setFld, if_neg (coreReg_ne c (by decide)), Blk.reg_inc, if_neg (coreReg_ne c (by decide))]
    exact Blk.rb_log _ _ _ _

theorem Blk.cores_chkFail : ((b.log (coreReg c 0x420) 0 v).chkFail c).cores = b.cores ∧
    ((b.log (coreReg c 0x420) 0 v).chkFail c).cmds = b.cmds := by
  simp [Blk.chkFail]

end fail

end Sys2Proof.Machine
end

section
/-! PROOFS. The rows of an integer MATX that commit to a tile buffer. -/
namespace Sys2Proof.Machine

/-! ### What leaves the elements of the tile buffers -/

/-- Nothing but cores differs, and every tile buffer has the elements that it had. -/
structure SameTiles (b b' : Blk) : Prop where
  block : { b' with cores := b.cores } = b
  elems : ∀ c t k, (b'.tile c t).at k = (b.tile c t).at k

theorem SameTiles.refl (b : Blk) : SameTiles b b := ⟨rfl, fun _ _ _ => rfl⟩

theorem SameTiles.trans {a b d : Blk} (h : SameTiles a b) (k : SameTiles b d) : SameTiles a d :=
  ⟨(congrArg (fun x : Blk => { x with cores := a.cores }) k.block).trans h.block,
    fun c t j => (k.elems c t j).trans (h.elems c t j)⟩

theorem SameTiles.foldl {α : Type} (f : Blk → α → Blk) (h : ∀ b x, SameTiles b (f b x)) (l : List α) (b : Blk) :
    SameTiles b (l.foldl f b) := by
  induction l generalizing b with
  | nil => exact .refl b
  | cons x l ih => exact (h b x).trans (ih (f b x))

theorem SameTiles.updCore (b : Blk) (c : Nat) {f : Core → Core} (h : ∀ k, (f k).tiles = k.tiles) : SameTiles b (b.updCore c f) := by
  refine ⟨rfl, fun d t k => ?_⟩
  rw [Blk.tile, Blk.core_updCore]
  split
  · rw [Core.tile, h]; rfl
  · rfl

theorem SameTiles.updTile (b : Blk) (c i : Nat) {f : Tile → Tile} (h : ∀ t k, (f t).at k = t.at k) : SameTiles b (b.updTile c i f) := by
  refine ⟨rfl, fun d t k => ?_⟩
  rw [Blk.tile_updTile]
  split
  · exact h _ _
  · rfl

theorem Tile.at_release (t : Tile) (k : Nat) : t.release.at k = t.at k := by
  unfold Tile.release; split <;> rfl

/-! ### Instructions that end (R140, R162) -/

theorem Blk.tqPush_sameTiles (b : Blk) (c : Nat) (a : AInstr) : SameTiles b (b.tqPush c a) := by
  unfold Blk.tqPush
  split
  · exact .refl b
  · exact (SameTiles.foldl _ (fun b i => .updTile b c i (f := fun t => { t with lock := .queued }) fun _ _ => rfl) (adDest a.ad) b).trans
      (.updCore _ c fun _ => rfl)

theorem Blk.endTag_sameTiles (b : Blk) (c t : Nat) (tag : Option Nat) : SameTiles b (b.endTag c t tag) := by
  cases tag with
  | none => exact .refl b
  | some n => exact .updCore b c (f := fun k => k.updTask t (fun x => { x with tags := x.tags.erase n })) fun _ => rfl

theorem Blk.arraySweep_sameTiles (b : Blk) (c : Nat) : SameTiles b (b.arraySweep c) := by
  have hplane (x : Blk) (p : Nat) :
      SameTiles x (if ((x.core c).plane p).dying && !(x.core c).planeUsed p then x.updPlane c p (fun _ => {}) else x) := by
    split
    · exact .updCore x c fun _ => rfl
    · exact .refl x
  unfold Blk.arraySweep
  extract_lets b1 k gone b2 b3
  have h1 : SameTiles b b1 := .foldl _ (fun x a => Blk.tqPush_sameTiles x c a) _ b
  have h2 : SameTiles b1 b2 := .foldl _ (fun x (a : AInstr) => Blk.endTag_sameTiles x c a.task a.tag) _ b1
  have h3 : SameTiles b2 b3 := .updCore b2 c fun _ => rfl
  exact (((h1.trans h2).trans h3).trans (hplane b3 0)).trans (hplane _ 1)

/-- The last row of a MATX releases its destinations, or leaves them to the tile queue. -/
theorem Blk.arrayEnd_sameTiles (b : Blk) (c : Nat) {a : AInstr} (hkind : a.kind = .matx) : SameTiles b (b.arrayEnd c a) := by
  unfold Blk.arrayEnd
  rw [hkind]
  refine SameTiles.trans ?_ (.updCore _ c fun _ => rfl)
  split
  · exact .refl b
  · refine SameTiles.foldl _ (fun x i => .updTile x c i fun t k => ?_) _ b
    split
    · exact t.at_release k
    · rfl

/-! ### A row (R128, R130) -/

/-- A tile buffer with row i taken: the element of column j becomes f j. -/
def Tile.takeRow (t : Tile) (i : Nat) (int : Bool) (f : Nat → W32) : Tile :=
  iter 128 (fun j x => x.put (128 * i + j) (f j)) { t with isInt := int }

theorem iter_congr {α : Type} {f g : Nat → α → α} (n : Nat) (a : α) (h : ∀ j < n, f j = g j) : iter n f a = iter n g a := by
  induction n with
  | zero => rfl
  | succ n ih => rw [iter, iter, h n (Nat.lt_succ_self n), ih fun j hj => h j (Nat.lt_succ_of_lt hj)]

theorem Tile.at_iter_put (n i k : Nat) (f : Nat → W32) (t : Tile) : (iter n (fun j (x : Tile) => x.put (128 * i + j) (f j)) t).at k =
    if 128 * i ≤ k ∧ k < 128 * i + n then f (k - 128 * i) else t.at k := by
  induction n with
  | zero => rw [if_neg (by omega)]; rfl
  | succ n ih =>
    rw [iter, Tile.at_put, ih]
    by_cases h : k = 128 * i + n
    · subst h; rw [if_pos rfl, if_pos (by omega), Nat.add_sub_cancel_left]
    · rw [if_neg h]; exact ite_of_iff (by omega) _ _

theorem Tile.at_takeRow (t : Tile) (i : Nat) (int : Bool) (f : Nat → W32) (k : Nat) :
    (t.takeRow i int f).at k = if k / 128 = i then f (k % 128) else t.at k := by
  rw [Tile.takeRow, Tile.at_iter_put]
  by_cases h : k / 128 = i
  · rw [if_pos h, if_pos (by omega), show k - 128 * i = k % 128 by omega]
  · rw [if_neg h, if_neg (by omega)]; rfl

/-- A MATX with integers and no scales, which does not accumulate, and whose destination is one tile buffer. -/
structure AInstr.Plain (a : AInstr) : Prop where
  kind : a.kind = .matx
  int : fmtInt (adFmt a.ad) = true
  unscaled : adScale a.ad = false
  fresh : adAcc a.ad = false
  tile : adDlo a.ad < 6
  single : adDhi a.ad = 7

/-- The dot products of row i with the columns of w. -/
def AInstr.dots (a : AInstr) (w : List (List W32)) (i j : Nat) : W32 := w32i (dotInt (a.rows.getD i []) (planeCol w j))

/-- The block once row i of a has committed. -/
def Blk.rowCommitted (b : Blk) (c : Nat) (a : AInstr) (w : List (List W32)) (i : Nat) : Blk :=
  (b.updTile c (adDlo a.ad) (fun t => t.takeRow i (adInt a.ad) (a.dots w i))).freed

section plain
variable {a : AInstr} (h : a.Plain)
include h

theorem AInstr.Plain.ranges (i : Nat) : matxRanges a.ad i = [] := by
  simp [matxRanges, h.single, Nat.ne_of_lt h.tile]

/-- A row commits its dot products to the tile buffer; no memory is written and nothing is measured. -/
theorem AInstr.Plain.matxRow (b : Blk) (c : Nat) (w : List (List W32)) (i : Nat) :
    b.matxRow c a w i = (b.rowCommitted c a w i, [], []) := by
  have helem (j : Nat) : matxElem b.free a w i j none = (a.dots w i j, false) := by
    simp [matxElem, h.unscaled, h.int, AInstr.dots]
  have htake (t : Tile) : iter 128 (fun j x => x.put (128 * i + j)
        (((List.range 256).map (fun j => (a.dots w i j, false))).getD (0 + j) (0, false)).1) { t with isInt := adInt a.ad } =
      t.takeRow i (adInt a.ad) (a.dots w i) :=
    iter_congr 128 _ fun j hj => by simp [List.getD, show j < 256 by omega]
  simp only [Blk.matxRow, h.fresh, helem, h.single, h.tile, Nat.ne_of_lt h.tile, Bool.false_eq_true, if_false, if_true, htake]
  simp [Blk.rowCommitted]

end plain

/-! ### The rows of a wavefront (R130, R139) -/

/-- The block once the rows in l of a have committed. -/
def Blk.rowsCommitted (b : Blk) (c : Nat) (a : AInstr) (w : List (List W32)) (l : List Nat) : Blk :=
  l.foldl (fun b i => b.rowCommitted c a w i) b

section rows
variable (b : Blk) (c : Nat) (a : AInstr) (w : List (List W32)) (l : List Nat)

theorem Blk.at_rowCommitted (i d t k : Nat) : ((b.rowCommitted c a w i).tile d t).at k =
    if d = c ∧ t = adDlo a.ad ∧ k / 128 = i then a.dots w (k / 128) (k % 128) else (b.tile d t).at k := by
  have h : (b.rowCommitted c a w i).tile d t = _ := b.tile_updTile c (adDlo a.ad) d t (fun t => t.takeRow i (adInt a.ad) (a.dots w i))
  rw [h]
  by_cases ht : d = c ∧ t = adDlo a.ad
  · rw [if_pos ht, Tile.at_takeRow]
    by_cases hi : k / 128 = i
    · rw [if_pos hi, if_pos ⟨ht.1, ht.2, hi⟩, hi]
    · rw [if_neg hi, if_neg fun h => hi h.2.2]
  · rw [if_neg ht, if_neg fun h => ht ⟨h.1, h.2.1⟩]

theorem Blk.at_rowsCommitted (d t k : Nat) : ((b.rowsCommitted c a w l).tile d t).at k =
    if d = c ∧ t = adDlo a.ad ∧ k / 128 ∈ l then a.dots w (k / 128) (k % 128) else (b.tile d t).at k := by
  induction l generalizing b with
  | nil => simp [Blk.rowsCommitted]
  | cons i l ih =>
    have hstep : ((b.rowsCommitted c a w (i :: l)).tile d t).at k = _ := ih (b.rowCommitted c a w i)
    rw [hstep, Blk.at_rowCommitted]
    by_cases hl : d = c ∧ t = adDlo a.ad ∧ k / 128 ∈ l
    · rw [if_pos hl, if_pos ⟨hl.1, hl.2.1, List.mem_cons_of_mem _ hl.2.2⟩]
    · rw [if_neg hl]
      refine ite_of_iff ⟨fun h => ⟨h.1, h.2.1, ?_⟩, fun h => ⟨h.1, h.2.1, ?_⟩⟩ _ _
      · rw [h.2.2]; exact List.mem_cons_self
      · exact (List.mem_cons.mp h.2.2).resolve_right fun hk => hl ⟨h.1, h.2.1, hk⟩

/-- Cores and the count of free values apart, rows that commit to a tile buffer leave the block as it was. -/
theorem Blk.rowsCommitted_frame : { b.rowsCommitted c a w l with cores := b.cores, free := b.free } = b := by
  induction l generalizing b with
  | nil => rfl
  | cons i l ih => exact congrArg (fun x : Blk => { x with cores := b.cores, free := b.free }) (ih (b.rowCommitted c a w i))

end rows

section wave
variable {a : AInstr} (h : a.Plain)
include h

theorem AInstr.Plain.foldl_matxRow (b : Blk) (c : Nat) (w : List (List W32)) (l : List Nat) :
    l.foldl (fun (s : Blk × List (Nat × List Byte) × List (FV × FV)) i =>
      ((s.1.matxRow c a w i).1, s.2.1 ++ (s.1.matxRow c a w i).2.1, s.2.2 ++ (s.1.matxRow c a w i).2.2)) (b, [], []) =
      (b.rowsCommitted c a w l, [], []) := by
  induction l generalizing b with
  | nil => rfl
  | cons i l ih =>
    rw [List.foldl_cons, h.matxRow]
    exact ih (b.rowCommitted c a w i)

/-- The rows of the next wavefront of a MATX. -/
def AInstr.waveRows (a : AInstr) : List Nat := List.range' a.next (min (fmtRate a.fmt) (adM a.ad - a.next))

/-- The core with instruction a past its next wavefront, and the array warmer by one. -/
def Core.waved (k : Core) (a : AInstr) : Core :=
  { k with
    iq := k.iq.map (fun y => if y.id = a.id then { y with
      next := a.next + a.waveRows.length, retry := false, logged := false,
      done := decide (adM a.ad ≤ a.next + a.waveRows.length) } else y)
    lastPlane := some a.plane
    duty := min 16 (k.duty + 1)
    ramp := if k.ramp = .up ∧ 15 ≤ k.duty then .full else k.ramp }

/-- The block with the wavefront and its products counted. -/
def Blk.waveCounted (b : Blk) (c : Nat) (a : AInstr) : Blk :=
  ((b.inc (coreReg c 0x448) 1).inc (coreReg c 0x440) (a.waveRows.length * a.kn.1 * a.kn.2)).updCore c (fun k => k.waved a)

/-- The core with no write for the end of a to wait for. -/
def Core.wroteNone (k : Core) (a : AInstr) : Core :=
  { k with iq := k.iq.map (fun y => if y.id = a.id then { y with ids := y.ids ++ [] } else y) }

/-- The block once the next wavefront of a has committed, before the end of an instruction whose last row it was. -/
def Blk.waveDone (b : Blk) (c : Nat) (a : AInstr) (w : List (List W32)) : Blk :=
  (((b.waveCounted c a).rowsCommitted c a w a.waveRows).measure a.cmd []).updCore c (fun k => k.wroteNone a)

theorem AInstr.Plain.dataWave (b : Blk) (c : Nat) (hretry : a.retry = false) :
    b.dataWave c a = if adM a.ad ≤ a.next + a.waveRows.length
      then ((b.waveDone c a ((b.core c).plane a.plane).w).arrayEnd c a).arraySweep c
      else b.waveDone c a ((b.core c).plane a.plane).w := by
  have hranges (l : List Nat) : l.flatMap (matxRanges a.ad) = [] := by
    rw [List.flatMap_eq_nil_iff]; exact fun i _ => h.ranges i
  have hrows := h.foldl_matxRow (b.waveCounted c a) c ((b.core c).plane a.plane).w a.waveRows
  unfold Blk.waveCounted Core.waved AInstr.waveRows at hrows
  simp only [Blk.dataWave, h.kind, hretry, hranges, Blk.xlWrites, hrows, Bool.false_eq_true, if_true, if_false]
  rfl

end wave

section done
variable (b : Blk) (c : Nat) (a : AInstr) (w : List (List W32))

theorem Blk.at_waveDone (t k : Nat) : ((b.waveDone c a w).tile c t).at k =
    if t = adDlo a.ad ∧ k / 128 ∈ a.waveRows then a.dots w (k / 128) (k % 128) else (b.tile c t).at k := by
  have hcounted : ((b.waveCounted c a).tile c t).at k = (b.tile c t).at k :=
    (SameTiles.updCore _ c (f := fun k => k.waved a) fun _ => rfl).elems c t k
  have hnone : ((b.waveDone c a w).tile c t).at k = (((b.waveCounted c a).rowsCommitted c a w a.waveRows).tile c t).at k :=
    (SameTiles.updCore _ c (f := fun k => k.wroteNone a) fun _ => rfl).elems c t k
  rw [hnone, Blk.at_rowsCommitted, hcounted]
  exact ite_of_iff ⟨fun h => h.2, fun h => ⟨rfl, h⟩⟩ _ _

theorem Blk.waveDone_frame : { b.waveDone c a w with cores := b.cores, cmds := b.cmds, free := b.free } =
    { b with regs := (b.waveCounted c a).regs } :=
  congrArg (fun x : Blk => { x with cores := b.cores, cmds := b.cmds, free := b.free })
    ((b.waveCounted c a).rowsCommitted_frame c a w a.waveRows)

theorem Blk.reg_waveDone : (b.waveDone c a w).reg (coreReg c 0x448) = b.reg (coreReg c 0x448) + 1 := by
  have hreg : (b.waveDone c a w).reg (coreReg c 0x448) = (b.waveCounted c a).reg (coreReg c 0x448) :=
    (congrArg (fun x : Blk => x.reg (coreReg c 0x448)) (b.waveDone_frame c a w) :)
  rw [hreg, Blk.waveCounted, Blk.reg_updCore, Blk.reg_inc, if_neg (coreReg_ne c (by decide)), Blk.reg_inc, if_pos rfl]
  rfl

theorem Blk.memories_waveDone : (b.waveDone c a w).dev = b.dev ∧ (b.waveDone c a w).host = b.host :=
  ⟨(congrArg Blk.dev (b.waveDone_frame c a w) :), (congrArg Blk.host (b.waveDone_frame c a w) :)⟩

end done

/-- What a wavefront of a plain MATX leaves: its rows in the tile buffer, every other element, the count of wavefronts, and memory. -/
theorem AInstr.Plain.dataWave_spec {a : AInstr} (h : a.Plain) {b b' : Blk} {c : Nat} (hretry : a.retry = false)
    (hb : b' = b.dataWave c a) :
    (∀ t k, (b'.tile c t).at k = if t = adDlo a.ad ∧ k / 128 ∈ a.waveRows
      then a.dots ((b.core c).plane a.plane).w (k / 128) (k % 128) else (b.tile c t).at k) ∧
    b'.reg (coreReg c 0x448) = b.reg (coreReg c 0x448) + 1 ∧ b'.dev = b.dev ∧ b'.host = b.host := by
  have hend : SameTiles (b.waveDone c a ((b.core c).plane a.plane).w) b' := by
    rw [hb, h.dataWave b c hretry]
    split
    · exact (Blk.arrayEnd_sameTiles _ c h.kind).trans (Blk.arraySweep_sameTiles _ c)
    · exact .refl _
  obtain ⟨hframe, helems⟩ := hend
  obtain ⟨hdev, hhost⟩ := b.memories_waveDone c a ((b.core c).plane a.plane).w
  refine ⟨fun t k => (helems c t k).trans (b.at_waveDone c a _ t k), (Blk.reg_of_onlyCores hframe _).trans (b.reg_waveDone c a _), ?_, ?_⟩
  · exact (congrArg Blk.dev hframe :).trans hdev
  · exact (congrArg Blk.host hframe :).trans hhost

end Sys2Proof.Machine
end

section
/-! PROOFS. The work of the cube array on its planes. -/
namespace Sys2Proof.Machine

theorem AInstr.mem_waveRows {a : AInstr} {i : Nat} (hlo : a.next ≤ i)
    (hhi : i < a.next + min (fmtRate a.fmt) (adM a.ad - a.next)) : i ∈ a.waveRows := by
  rw [AInstr.waveRows, List.mem_range'_1]
  exact ⟨hlo, hhi⟩

/-- What an issue leaves in the core: the instruction with its activations, its command the latest, and the array not gated. -/
theorem Blk.issued_spec {b b' : Blk} {c p : Nat} {a : AInstr} {key : List Nat} {rows : List (List W32)} {rs cs : List W32} {up : Bool}
    (h : b' = b.updCore c (fun k => k.issue a key p rows rs cs up)) :
    (∀ x ∈ (b'.core c).iq, x.id = a.id →
        x.issued = true ∧ x.rows = rows ∧ x.scales = rs ∧ x.cols = cs ∧ x.plane = p ∧ x.key = key) ∧
      (b'.core c).lastCmd = some a.cmd ∧ (b'.core c).ramp ≠ .gated := by
  have hcore : b'.core c = (b.core c).issue a key p rows rs cs up := by rw [h, Blk.core_updCore_same]
  rw [hcore]
  exact ⟨fun x hx hid => Core.mem_issue _ _ _ _ _ _ _ _ hx hid, rfl, Core.ramp_issue _ _ _ _ _ _ _ _⟩

/-- Settles O39, clause by clause: `Blk.planeLoad_ends`, `Blk.arrayIssue_issues` and the lemmas on `Blk.waveCommit` say once which block
each event leaves, and what the statement asks for is read back from that block. -/
theorem arrayWorksOnPlanes : Obligations.ArrayWorksOnPlanes := by
  unfold Obligations.ArrayWorksOnPlanes
  intro s c rd hlive hrst
  refine ⟨?_, ?_, ?_⟩
  · intro p x b1 w cs sat ms hx hst hjoin hdata
    obtain ⟨hplane, hcount, hjoined⟩ := Blk.planeLoad_spec (Blk.planeLoad_ends hlive hrst hx hst hjoin hdata)
    refine ⟨_, exec_planeLoadDone c p rd s, hplane.resident, hplane.matrix, hplane.scales, hplane.unchecked, hcount, fun hkey j hj => ?_⟩
    have hjoiner := hjoined j (by rwa [Blk.loadJoiners_shared _ _ hkey])
    exact ⟨hjoiner.resident, hjoiner.matrix⟩
  · intro b1 b2 b3 k3 b4 b5 a key p ws rows rs cs sat ms hissue harr hb1 hheld hhead hlocks hkey hk3 hp hst halone hws hrows
    rw [show b1 = s.blk.arrayFed c from hb1] at hheld hhead hlocks
    rw [show k3 = b3.keyed c a key from hk3] at hp hst halone hws
    exact ⟨_, exec_arrayInstructionIssue rd hissue harr,
      Blk.issued_spec (Blk.arrayIssue_issues hheld hhead hlocks hkey hp hst halone hws hrows)⟩
  · intro a x hready ha hx
    subst hx
    refine ⟨?_, ?_, ?_⟩
    · intro hck hretried
      refine ⟨_, exec_wavefrontCommit .none hlive hrst hready, ?_⟩
      rw [Blk.waveCommit_check ha .none hck, Blk.checkWave_passes hretried]
      refine ⟨?_, Blk.lastPlane_checkPassed _ c a.plane, rfl, rfl, rfl⟩
      rw [Blk.plane_checkPassed, ← hretried]
    · intro hck hlast hkind hretry hint hscale hacc hlo hhi _
      have hplain : a.Plain := ⟨hkind, hint, hscale, hacc, hlo, hhi⟩
      obtain ⟨helems, hcount, hdev, hhost⟩ := hplain.dataWave_spec hretry (Blk.waveCommit_data ha hck hlast)
      refine ⟨_, exec_wavefrontCommit .none hlive hrst hready, fun i j hi hn hj => ?_, fun t k ht => ?_, hcount, hdev, hhost⟩
      · have hrow : (128 * i + j) / 128 = i := by omega
        have hcol : (128 * i + j) % 128 = j := by omega
        rw [helems, hrow, hcol, if_pos ⟨rfl, AInstr.mem_waveRows hi hn⟩]
        rfl
      · rw [helems, if_neg fun h => ht h.1]
    · intro ix hck hlast
      refine ⟨fun hon hfirst => ?_, fun hlost => ?_⟩
      · refine ⟨_, exec_wavefrontCommit (.row ix) hlive hrst hready, ?_⟩
        rw [Blk.waveCommit_retries ha hck hlast ix hon hfirst, Blk.core_updCore_same]
        refine ⟨Blk.rb_log _ _ _ _, fun y hy hid => ?_, Blk.log_cmds _ _ _ _, ?_⟩
        · obtain ⟨z, rfl⟩ := eq_of_mem_map_ite hy hid
          rfl
        · rw [Blk.core, Blk.log_cores]; rfl
      · refine ⟨(s.blk.log (coreReg c 0x420) 0 (a.missLog ix)).chkFail c, ?_, ?_⟩
        · rw [exec_wavefrontCommit (.row ix) hlive hrst hready, Blk.waveCommit_fails ha hck hlast ix hlost]
        · obtain ⟨hcount, hfail, hlog⟩ := s.blk.regs_chkFail c (a.missLog ix)
          obtain ⟨hcores, hcmds⟩ := s.blk.cores_chkFail c (a.missLog ix)
          exact ⟨hcount, hfail, hlog, hcores, hcmds⟩

end Sys2Proof.Machine
end

section
/-! PROOFS. Operations of the vector chain: the next one that starts, the end of a first pass, and the end of an operation. -/
namespace Sys2Proof.Machine

/-- The block once the running operation of core c has done the chunks that it has left, as far as their reads have returned. -/
def Blk.chainOn (b : Blk) (c : Nat) (rd : View) : Blk :=
  b.chainRun ((((b.core c).ch.find? (fun o => o.running)).map (fun o => o.chunks - o.w)).getD 0) c rd

theorem exec_chainStart {s : State} {c : Fin 8} (rd : View) (hissue : s.blk.unitIssues c = true) {b : Blk}
    (hb : (s.blk.arraySweep c).chainPick c rd = b) : exec (.chainStart c rd) s = .next (s.withBlk (b.chainOn c rd)) :=
  hb ▸ upd_onlyIf_true (g := (·.unitIssues c)) (fun b => ((b.arraySweep c).chainPick c rd).chainOn c rd) hissue

theorem exec_chainPass1End {s : State} {c : Fin 8} (rd : View) (hissue : s.blk.unitIssues c = true) {b : Blk}
    (hb : s.blk.pass1End c = b) : exec (.chainPass1End c rd) s = .next (s.withBlk (b.chainOn c rd)) :=
  hb ▸ upd_onlyIf_true (g := (·.unitIssues c)) (fun b => (b.pass1End c).chainOn c rd) hissue

theorem exec_chainEnd {s : State} {c : Fin 8} (hlive : s.blk.coreLive c = true) (hrst : s.blk.coreRst c = false) :
    exec (.chainEnd c) s = .next (s.withBlk (s.blk.chainEnd c)) :=
  upd_onlyIf_true (g := fun b => b.coreLive c && !b.coreRst c) (fun b => b.chainEnd c) (by simp [hlive, hrst])

/-! ### The start (R164, R171) -/

/-- The block once CLRST has cleared the sticky flags of the operation's task context (R171). -/
def Blk.chainCleared (b : Blk) (c : Nat) (o : ChainOp) : Blk :=
  if vdClrst o.vd then b.setFld (coreReg c (0x600 + 8 * o.task)) 0 5 0 else b

theorem Blk.chainCleared_frame (b : Blk) (c : Nat) (o : ChainOp) : { b.chainCleared c o with regs := b.regs } = b := by
  unfold Blk.chainCleared; split <;> rfl

theorem Blk.rf_setFld_zero (b : Blk) (o : Nat) {lo n : Nat} (h : lo + n ≤ 64) : (b.setFld o lo n 0).rf o lo n = 0 := by
  have hzero : fld (0 : W64) lo n = 0 := by simp [fld]
  have hfld := fld_putFld_same (b.reg o) 0 h
  rw [hzero] at hfld
  rwa [Blk.rf, Blk.setFld, Blk.reg_setReg_same]

theorem Blk.rf_chainCleared {b : Blk} {c : Nat} {o : ChainOp} (h : vdClrst o.vd = true) :
    (b.chainCleared c o).rf (coreReg c (0x600 + 8 * o.task)) 0 5 = 0 := by
  rw [Blk.chainCleared, if_pos h]; exact b.rf_setFld_zero _ (by omega)

/-- The operation as it runs when it takes no entry of the tile queue: the shape of its descriptor, the mask and the S registers as the
block has them, and the operands us. -/
def Blk.startedOp (b : Blk) (c : Nat) (o : ChainOp) (us : List QsdUse) : ChainOp :=
  let o2 : ChainOp := { o with
    running := true, entry := none, rows := vdRows o.vd, cols := vdCols o.vd, ityp := vdIfmt o.vd, qs := us
    mask := if vdMsrc o.vd = 1 then (List.range (vdCols o.vd)).map (fun j => b.flag c o.task (vdMflag o.vd + j)) else []
    sregs := (List.range 8).map (fun i => Tab.get 0 (b.task c o.task).s i)
    chunks := chunkCount b.build.lanes (vdRows o.vd) (vdCols o.vd) }
  { o2 with pass1 := o2.need.isSome }

/-- The block with operation o running and its task context the last in turn. -/
def Blk.chainStarted (b : Blk) (c : Nat) (o : ChainOp) (us : List QsdUse) : Blk :=
  b.updCore c (fun k => { k with chRR := o.task, ch := k.ch.map (fun x => if x.id = o.id then b.startedOp c o us else x) })

/-- The next ready operation in turn starts, once the scales that may be adapted have been read. -/
theorem Blk.chainPick_starts {b b2 : Blk} {c : Nat} {v : View} {o : ChainOp} {us : List QsdUse}
    (hidle : ∀ x ∈ (b.core c).ch, x.running = false) (hheld : b.qHeld 3 c 0 = false)
    (hturn : ((List.range 4).map (fun i => ((b.core c).chRR + 1 + i) % 4)).findSome? (fun t =>
      (b.core c).ch.find? (fun o => o.task = t && (b.core c).chainReady o)) = some o)
    (hsrc : vdIsrc o.vd ≠ 2) (hdst : vdOdst o.vd ≠ 1) (hreads : Blk.slotReads c o v o.qs b = (b2, .ok us)) :
    b.chainPick c v = (b2.chainCleared c o).chainStarted c o us := by
  have hrun : (b.core c).ch.any (fun o => o.running) = false := List.any_eq_false.mpr fun x hx => by simp [hidle x hx]
  have hentry : (b.core c).entryFor o = none := if_neg hsrc
  simp only [Blk.chainPick, hrun, hheld, hturn, hentry, hdst, hreads, Ds.bind, Option.isSome_none, Bool.or_self, Bool.false_eq_true, if_false,
    List.foldl_nil, List.contains_nil, Bool.and_false]
  rfl

/-- An operation with the number of the one that has started is the started one. -/
theorem Blk.mem_chainStarted {b : Blk} {c : Nat} {o x : ChainOp} {us : List QsdUse} (hx : x ∈ ((b.chainStarted c o us).core c).ch)
    (hid : x.id = o.id) : x = b.startedOp c o us := by
  rw [Blk.chainStarted, Blk.core_updCore_same] at hx
  exact (eq_of_mem_map_ite (f := fun _ => b.startedOp c o us) hx hid).elim fun _ h => h

/-! ### The end of a first pass (R205) -/

/-- The operation once the scales sc of u are found: its next pass begins. -/
def ChainOp.nextPass (o : ChainOp) (u : QsdUse) (sc : List W32) (ids : List Nat) : ChainOp :=
  let q : List QsdUse := o.qs.map (fun x => if x.stage = u.stage then { x with scales := some sc, xs := [] } else x)
  let o : ChainOp := { o with w := 0, ids := o.ids ++ ids, qs := q }
  { o with pass1 := o.need.isSome }

theorem ChainOp.mem_qs_nextPass {o : ChainOp} {u y : QsdUse} {sc : List W32} {ids : List Nat} (hy : y ∈ (o.nextPass u sc ids).qs)
    (hstage : y.stage = u.stage) : y.scales = some sc ∧ y.xs = [] := by
  obtain ⟨z, rfl⟩ := eq_of_mem_map_ite (f := fun x : QsdUse => { x with scales := some sc, xs := [] }) hy hstage
  exact ⟨rfl, rfl⟩

/-- An operation with the number of one that has been changed is one that has been changed. -/
theorem Blk.mem_updChain {b : Blk} {c id : Nat} {f : ChainOp → ChainOp} {x : ChainOp} (hx : x ∈ ((b.updChain c id f).core c).ch)
    (hid : x.id = id) : ∃ y, x = f y := by
  rw [Blk.updChain, Blk.core_updCore_same] at hx
  exact eq_of_mem_map_ite hx hid

/-- The scales of a first pass are written, and the next pass begins. -/
theorem Blk.pass1End_passes {b b1 : Blk} {c : Nat} {o : ChainOp} {u : QsdUse} {sc : List W32} {ps : List WPart}
    (hrun : (b.core c).ch.find? (fun o => o.running && o.pass1 && o.chunks ≤ o.w) = some o) (hneed : o.need = some u)
    (hsc : sc = (List.range (fld (qw u.hdr 0) 32 32)).map (fun g => firstScale (stTgt (vdStage o.vd u.stage)) (u.group g)))
    (hwrite : Blk.xlWrites (.chain c o.task) o.ctx [(u.va + 64, scaleBytes sc)] b = (b1, .ok ps)) :
    b.pass1End c = (b1.writeParts o.cmd ps).1.updChain c o.id (fun x => x.nextPass u sc (b1.writeParts o.cmd ps).2) := by
  subst hsc
  simp only [Blk.pass1End, hrun, hneed, hwrite]
  rfl

/-! ### The end (R175) -/

/-- The block with the output lock of operation o released. -/
def Blk.outputFreed (b : Blk) (c : Nat) (o : ChainOp) : Blk :=
  if vdOdst o.vd = 1 then b.updTile c (vdOtb o.vd) (fun t => if t.holds o.task o.unit true then t.release else t) else b

/-- The block with operation o counted, its tag ended and its summary registers no longer pending. -/
def Blk.chainCounted (b : Blk) (c : Nat) (o : ChainOp) : Blk :=
  (((b.outputFreed c o).inc (coreReg c 0x640) 1).endTag c o.task (some o.tag)).updTask c o.task
    (fun x => { x with sPend := x.sPend.filter (fun k => !(vdSums o.vd).contains k) })

/-- The block without operation id. -/
def Blk.chainDropped (b : Blk) (c id : Nat) : Blk := b.updCore c (fun k => { k with ch := k.ch.filter (fun x => x.id ≠ id) })

/-- The block that operation o leaves once its reports are written. -/
def Blk.chainEnded (b : Blk) (c : Nat) (o : ChainOp) : Blk := (b.chainCounted c o).chainDropped c o.id

/-- An operation without a reduction to store or a report to write ends once its writes are acknowledged. -/
theorem Blk.chainEnd_ends {b : Blk} {c : Nat} {o : ChainOp}
    (hrun : (b.core c).ch.find? (fun o => o.running && !o.pass1 && o.chunks ≤ o.w && o.park.isNone) = some o)
    (hid : (b.core c).ch.find? (fun x => x.id = o.id) = some o) (hclosed : o.closed = true) (hqs : o.qs = [])
    (hpassed : b.passed o.ids = true) : b.chainEnd c = b.chainEnded c o := by
  simp only [Blk.chainEnd, hrun, hclosed, hid, hqs, hpassed, Blk.qsdWrites, if_true, Bool.not_true, Bool.false_eq_true, if_false]
  rfl

section ended
variable (b : Blk) (c : Nat) (o : ChainOp)

theorem Blk.outputFreed_frame : { b.outputFreed c o with cores := b.cores } = b := by
  unfold Blk.outputFreed; split <;> rfl

/-- Tile buffers apart, the core is as it was. -/
theorem Blk.core_outputFreed : { (b.outputFreed c o).core c with tiles := (b.core c).tiles } = b.core c := by
  unfold Blk.outputFreed
  split
  · rw [Blk.updTile, Blk.core_updCore_same]; rfl
  · rfl

theorem Tile.release_exclusive {t : Tile} (h : t.lock = .exclusive) : t.release.lock = .free := by
  rw [Tile.release, h]

theorem Blk.tile_outputFreed {b : Blk} {c : Nat} {o : ChainOp} (hdst : vdOdst o.vd = 1)
    (hholds : (b.tile c (vdOtb o.vd)).holds o.task o.unit true = true) : ((b.outputFreed c o).tile c (vdOtb o.vd)).lock = .free := by
  have hlock : (b.tile c (vdOtb o.vd)).lock = .exclusive := by
    simp only [Tile.holds, if_true, Bool.and_eq_true, decide_eq_true_eq] at hholds
    obtain ⟨⟨hexclusive, -⟩, -⟩ := hholds
    exact hexclusive
  rw [Blk.outputFreed, if_pos hdst, Blk.tile_updTile, if_pos ⟨rfl, rfl⟩, if_pos hholds, Tile.release_exclusive hlock]

theorem Blk.ch_updTask (t : Nat) (f : Task → Task) : ((b.updTask c t f).core c).ch = (b.core c).ch := by
  rw [Blk.core_updTask_same]; rfl

theorem Blk.tile_updTask (t i : Nat) (f : Task → Task) : (b.updTask c t f).tile c i = b.tile c i := by
  rw [Blk.tile, Blk.core_updTask_same]; rfl

theorem Blk.ch_chainDropped (id : Nat) : ((b.chainDropped c id).core c).ch = (b.core c).ch.filter (fun x => x.id ≠ id) := by
  rw [Blk.chainDropped, Blk.core_updCore_same]

theorem Blk.task_chainDropped (id t : Nat) : (b.chainDropped c id).task c t = b.task c t := by
  rw [Blk.task, Blk.chainDropped, Blk.core_updCore_same]; rfl

theorem Blk.tile_chainDropped (id i : Nat) : (b.chainDropped c id).tile c i = b.tile c i := by
  rw [Blk.tile, Blk.chainDropped, Blk.core_updCore_same]; rfl

theorem Blk.mem_chainEnded (x : ChainOp) : x ∈ ((b.chainEnded c o).core c).ch ↔ x ∈ (b.core c).ch ∧ x.id ≠ o.id := by
  have hfreed : ((b.outputFreed c o).core c).ch = (b.core c).ch := (congrArg Core.ch (b.core_outputFreed c o) :)
  rw [Blk.chainEnded, Blk.ch_chainDropped, Blk.chainCounted, Blk.endTag, Blk.ch_updTask, Blk.ch_updTask, Blk.core_inc, hfreed,
    List.mem_filter, decide_eq_true_eq]

theorem Blk.task_chainEnded : (b.chainEnded c o).task c o.task = { b.task c o.task with
    tags := (b.task c o.task).tags.erase o.tag
    sPend := (b.task c o.task).sPend.filter (fun k => !(vdSums o.vd).contains k) } := by
  have hfreed : (b.outputFreed c o).task c o.task = b.task c o.task := (congrArg (Core.task · o.task) (b.core_outputFreed c o) :)
  rw [Blk.chainEnded, Blk.task_chainDropped, Blk.chainCounted, Blk.endTag, Blk.task_updTask_same, Blk.task_updTask_same, Blk.task_inc,
    hfreed]

theorem Blk.tile_chainEnded (i : Nat) : (b.chainEnded c o).tile c i = (b.outputFreed c o).tile c i := by
  rw [Blk.chainEnded, Blk.tile_chainDropped, Blk.chainCounted, Blk.endTag, Blk.tile_updTask, Blk.tile_updTask, Blk.tile, Blk.core_inc]
  rfl

theorem Blk.reg_chainEnded (r : Nat) : (b.chainEnded c o).reg r = if r = coreReg c 0x640 then b.reg r + 1 else b.reg r := by
  rw [Blk.chainEnded, Blk.chainDropped, Blk.reg_updCore, Blk.chainCounted, Blk.endTag, Blk.reg_updTask, Blk.reg_updTask, Blk.reg_inc,
    Blk.reg_of_onlyCores (b.outputFreed_frame c o) r]
  rfl

theorem Blk.chainEnded_frame : { b.chainEnded c o with cores := b.cores, regs := b.regs } = b :=
  (congrArg (fun x : Blk => { x with regs := b.regs }) (b.outputFreed_frame c o) :)

end ended

/-- Settles O41, event by event: `Blk.chainPick_starts`, `Blk.pass1End_passes` and `Blk.chainEnd_ends` say which block each one leaves. -/
theorem chainOperationsRun : Obligations.ChainOperationsRun := by
  unfold Obligations.ChainOperationsRun
  intro s c rd
  refine ⟨?start, ?pass, ?finish⟩
  case start =>
    intro b1 b2 o us hissue hb1 hidle hheld hturn hsrc hdst hreads
    subst hb1
    have hframe := b2.chainCleared_frame c o
    have hpick := Blk.chainPick_starts hidle hheld hturn hsrc hdst hreads
    refine ⟨_, exec_chainStart rd hissue hpick, ?_, fun x hx hid => ?_, fun hclr => ?_, (congrArg Blk.dev hframe :),
      (congrArg Blk.host hframe :)⟩
    · rw [Blk.chainStarted, Blk.core_updCore_same]
    · have hbuild : (b2.chainCleared c o).build = b2.build := (congrArg Blk.build hframe :)
      have htask : (b2.chainCleared c o).task c o.task = b2.task c o.task := (congrArg (Blk.task · c o.task) hframe :)
      rw [Blk.mem_chainStarted hx hid, ← hbuild, ← htask]
      exact ⟨rfl, rfl, rfl, rfl, rfl, rfl, rfl, rfl⟩
    · exact Blk.rf_chainCleared hclr
  case pass =>
    intro b1 o u sc ps hissue hrun hneed hsc hwrite
    refine ⟨_, exec_chainPass1End rd hissue (Blk.pass1End_passes hrun hneed hsc hwrite), rfl, rfl, fun x hx hid => ?_⟩
    obtain ⟨y, rfl⟩ := Blk.mem_updChain hx hid
    exact ⟨rfl, fun q hq hstage => ChainOp.mem_qs_nextPass hq hstage⟩
  case finish =>
    intro o hlive hrst hrun hid hclosed hqs hpassed
    refine ⟨_, exec_chainEnd hlive hrst, ?_⟩
    rw [Blk.chainEnd_ends hrun hid hclosed hqs hpassed]
    refine ⟨s.blk.mem_chainEnded c o, ?_, fun r hr => ?_, s.blk.task_chainEnded c o, fun hdst hholds => ?_, s.blk.chainEnded_frame c o⟩
    · rw [Blk.reg_chainEnded, if_pos rfl]
    · rw [Blk.reg_chainEnded, if_neg hr]
    · rw [Blk.tile_chainEnded, Blk.tile_outputFreed hdst hholds]

end Sys2Proof.Machine
end

section
/-! PROOFS. Signals: an ASIG takes its anchor and value with the writes issued before it, and its effect at the anchor. -/
namespace Sys2Proof.Machine

/-! ### The issue (R190, R337) -/

theorem exec_asig (x : Ctx) (rd ra rb rc : Greg) (anc : BitVec 15) (op : BitVec 2) (rmt : Bool) (imm : W64) (s : State) :
    exec (.asig x rd ra rb rc anc op rmt imm) s =
      .next (s.withBlk (s.blk.asigOp x.c x.t rd ra rb rc anc.toNat op.toNat rmt imm)) := rfl

/-- The signal that an ASIG of command id takes, with the writes that the command has on their way. -/
def Blk.newSignal (b : Blk) (c t id tag ra rb rc anc op : Nat) (rmt : Bool) (imm : W64) : ASig :=
  { tag := tag, anchor := (fld ((b.task c t).gr rb) 0 15 + anc) % 32768, isSet := op = 1,
    value := fld ((b.task c t).gr ra + imm) 0 48, node := if rmt then some (fld ((b.task c t).gr rc) 0 16) else none,
    after := b.nextWr, outs := b.openOuts c id, links := b.openWrites id }

/-- The block with signal a at the end of its task context's list. -/
def Blk.signalTaken (b : Blk) (c t : Nat) (a : ASig) : Blk := b.updTask c t (fun x => { x with asigs := x.asigs ++ [a] })

/-- An ASIG that can issue writes the dirty lines back and takes its signal. -/
theorem Blk.asigOp_issues {b : Blk} {c t ra rb rc anc op tag : Nat} {rmt : Bool} {m : Cmd} (rd : Nat) (imm : W64)
    (hcan : b.canLong c t = true) (hop : op < 2) (hrc : rmt = false → rc = 0) (hcmd : b.taskCmd c t = some m)
    (htag : (b.task c t).freeTag = some tag) :
    b.asigOp c t rd ra rb rc anc op rmt imm =
      ((b.cleanAll c).signalTaken c t ((b.cleanAll c).newSignal c t m.id tag ra rb rc anc op rmt imm)).longDone c t rd tag := by
  have hop := Nat.not_le.mpr hop
  have hform : (decide (2 ≤ op) || (!rmt && decide (rc ≠ 0))) = false := by
    cases rmt with
    | true => simp [hop]
    | false => simp [hop, hrc rfl]
  simp only [Blk.asigOp, hcan, hform, hcmd, htag, Bool.not_true, Bool.false_eq_true, if_false]
  rfl

/-! ### The effect (R376, R377) -/

theorem exec_asigEffect (x : Ctx) (tag : Fin 16) (parity : Bool) (s : State) :
    exec (.asigEffect x tag parity) s = .next (s.withBlk (s.blk.asigEffect x.c x.t tag parity)) := rfl

/-- A waiter that is released is a task context, a command or a fence. -/
theorem Blk.wake_frame (b : Blk) (w : Waiter) :
    { b.wake w with cores := b.cores, cmds := b.cmds, fences := b.fences } = b := by
  unfold Blk.wake; split <;> rfl

theorem foldl_wake_frame (l : List Waiter) (b : Blk) :
    { l.foldl Blk.wake b with cores := b.cores, cmds := b.cmds, fences := b.fences } = b := by
  induction l generalizing b with
  | nil => rfl
  | cons w l ih =>
    calc { l.foldl Blk.wake (b.wake w) with cores := b.cores, cmds := b.cmds, fences := b.fences }
      _ = { b.wake w with cores := b.cores, cmds := b.cmds, fences := b.fences } :=
        (congrArg (fun x : Blk => { x with cores := b.cores, cmds := b.cmds, fences := b.fences }) (ih (b.wake w)) :)
      _ = b := b.wake_frame w

/-- The release of waiters at an anchor changes no anchor and no memory. -/
theorem Blk.releaseWaiters_frame (b : Blk) (k : Nat) :
    { b.releaseWaiters k with cores := b.cores, cmds := b.cmds, fences := b.fences, waiters := b.waiters } = b :=
  (congrArg (fun x : Blk => { x with waiters := b.waiters }) (foldl_wake_frame _ _) :)

/-- A signal changes its anchor, the waiters there, and what they are. -/
theorem Blk.signal_frame (b : Blk) (k : Nat) (isSet : Bool) (v : Nat) :
    { b.signal k isSet v with cores := b.cores, cmds := b.cmds, fences := b.fences, waiters := b.waiters, anc := b.anc } = b :=
  (congrArg (fun x : Blk => { x with anc := b.anc }) (Blk.releaseWaiters_frame _ k) :)

theorem Blk.anchor_signal (b : Blk) (k : Nat) (isSet : Bool) (v j : Nat) : (b.signal k isSet v).anchor j =
    if j = k then (if isSet then v else b.anchor k + v) % 2 ^ 48 else b.anchor j := by
  have hanchor : (b.signal k isSet v).anchor j = (b.setAnchor k (if isSet then v else b.anchor k + v)).anchor j :=
    (congrArg (Blk.anchor · j) (Blk.releaseWaiters_frame _ k) :)
  rw [hanchor]
  by_cases h : j = k
  · rw [if_pos h, h, Blk.anchor_setAnchor_same]
  · rw [if_neg h, Blk.anchor_setAnchor_other _ _ h]

/-- The block once signal a of a task context has acted at its anchor. -/
def Blk.signalled (b : Blk) (c t : Nat) (a : ASig) : Blk :=
  (b.updTask c t (fun x => { x with asigs := x.asigs.erase a })).signal a.anchor a.isSet a.value

/-- A signal for an anchor of the own node acts there once the writes before it are acknowledged, also where it names that node (log
entry 76). -/
theorem Blk.asigEffect_acts {b : Blk} {c t tag : Nat} {a : ASig} {m : Cmd}
    (ha : (b.task c t).asigs.find? (fun a => a.tag = tag) = some a) (hcmd : b.taskCmd c t = some m) (hlive : b.coreLive c = true)
    (hunsent : a.sent = false) (hgoing : m.ending = false) (hfree : b.asigFree c m.id a = true)
    (hnode : a.node = none ∨ a.node = some b.node) :
    b.asigEffect c t tag false = (b.signalled c t a).endTag c t (some tag) := by
  simp only [Blk.asigEffect, ha, hcmd, hlive, hunsent, hgoing, hfree, Bool.not_true, Bool.or_self, Bool.false_eq_true, if_false]
  cases hnode with
  | inl hown => rw [hown]; rfl
  | inr hnamed => rw [hnamed]; exact if_pos rfl

/-- Settles O25: `Blk.asigOp_issues` and `Blk.asigEffect_acts` say which block each event leaves, and `Blk.anchor_signal` reads the
anchors of the second; a signal that names the own node acts there (log entry 76). -/
theorem signalsTakeEffectAtAnchors : Obligations.SignalsTakeEffectAtAnchors := by
  intro s c t
  refine ⟨fun rd ra rb rc anc op rmt imm m tag x hcan hop hrc hcmd htag hx => ?issue,
    fun tag m a ha hcmd hlive hunsent hgoing hfree hnode => ?effect⟩
  case issue =>
    subst hx
    have hrc0 (h : rmt = false) : rc.val = 0 := congrArg Fin.val (hrc h)
    have hset : decide (op.toNat = 1) = (op == 1) := Bool.eq_iff_iff.mpr (by simp [BitVec.toNat_eq])
    refine ⟨(s.blk.cleanAll c).signalTaken c t _, _,
      (s.blk.cleanAll c).newSignal c t m.id tag ra rb rc anc.toNat op.toNat rmt imm, ?_, Blk.longDone_issued _ _ _ _ _,
      Blk.task_updTask_same _ _ _ _, rfl, rfl, hset, rfl, rfl, rfl, rfl⟩
    rw [exec_asig, Blk.asigOp_issues rd imm hcan hop hrc0 hcmd htag]
  case effect =>
    have hframe := Blk.signal_frame (s.blk.updTask c t (fun x => { x with asigs := x.asigs.erase a })) a.anchor a.isSet a.value
    refine ⟨s.blk.signalled c t a, ?_, ?_, fun k hk => ?_, (congrArg Blk.dev hframe :), (congrArg Blk.host hframe :)⟩
    · rw [exec_asigEffect, Blk.asigEffect_acts ha hcmd hlive hunsent hgoing hfree hnode]
    · rw [Blk.signalled, Blk.anchor_signal, if_pos rfl, Blk.anchor_updTask]
    · rw [Blk.signalled, Blk.anchor_signal, if_neg hk, Blk.anchor_updTask]

end Sys2Proof.Machine
end

section
/-! PROOFS. The built-in routines of lookup cores: where a routine goes on, ends at its deadline, and begins; and the pairs of
LOOKUP_POOL and SCATTER. -/
namespace Sys2Proof.Machine

/-! ### The commands -/

theorem exec_nopCommand (id : Nat) (s : State) : exec (.nopCommand id) s =
    .next (s.withBlk (s.blk.routine id 0x01 (fun b m _ _ => if m.begun then b else b.begin id (fun m => m)))) := rfl

theorem exec_run (id : Nat) (s : State) : exec (.run id) s = .next (s.withBlk (s.blk.routine id 0x02 (fun b m c t =>
    if m.begun then b else (b.begin id (fun m => m)).updTask c t (fun x => { x with prog := true })))) := rfl

section read
variable (id : Nat) (rd : View) (s : State)

theorem exec_lookupPool : exec (.lookupPool id rd) s =
    .next (s.withBlk (s.blk.routine id 0x10 (fun b m c t => b.lookupPool m c t rd))) := rfl

theorem exec_interact : exec (.interact id rd) s =
    .next (s.withBlk (s.blk.routine id 0x11 (fun b m _ _ => b.interact m rd))) := rfl

theorem exec_backInteract : exec (.backInteract id rd) s =
    .next (s.withBlk (s.blk.routine id 0x12 (fun b m _ _ => b.backInteract m rd))) := rfl

theorem exec_scatter : exec (.scatter id rd) s =
    .next (s.withBlk (s.blk.routine id 0x13 (fun b m c t => b.scatter m c t rd))) := rfl

theorem exec_fenceCommand : exec (.fenceCommand id rd) s =
    .next (s.withBlk (s.blk.routine id 0x14 (fun b m c t => b.fenceCmd m c t rd))) := rfl

theorem exec_copy : exec (.copy id rd) s =
    .next (s.withBlk (s.blk.routine id 0x15 (fun b m c t => b.copyCmd m c t rd))) := rfl

theorem exec_advise : exec (.advise id rd) s =
    .next (s.withBlk (s.blk.routine id 0x16 (fun b m c t => b.adviseCmd m c t rd))) := rfl

/-- The commands of lookup cores, each with its opcode (R346). -/
def routineCommands : List (Instr × Nat) :=
  [(.nopCommand id, 0x01), (.run id, 0x02), (.lookupPool id rd, 0x10), (.interact id rd, 0x11), (.backInteract id rd, 0x12),
   (.scatter id rd, 0x13), (.fenceCommand id rd, 0x14), (.copy id rd, 0x15), (.advise id rd, 0x16)]

/-- Each of them runs the routine of its opcode. -/
theorem exec_routineCommand {p : Instr × Nat} (hp : p ∈ routineCommands id rd) :
    ∃ f, exec p.1 s = .next (s.withBlk (s.blk.routine id p.2 f)) := by
  simp only [routineCommands, List.mem_cons, List.not_mem_nil, or_false] at hp
  obtain rfl | rfl | rfl | rfl | rfl | rfl | rfl | rfl | rfl := hp
  · exact ⟨_, exec_nopCommand id s⟩
  · exact ⟨_, exec_run id s⟩
  · exact ⟨_, exec_lookupPool id rd s⟩
  · exact ⟨_, exec_interact id rd s⟩
  · exact ⟨_, exec_backInteract id rd s⟩
  · exact ⟨_, exec_scatter id rd s⟩
  · exact ⟨_, exec_fenceCommand id rd s⟩
  · exact ⟨_, exec_copy id rd s⟩
  · exact ⟨_, exec_advise id rd s⟩

end read

/-! ### The routine (R191, R197, R346) -/

theorem Cmd.held_of_phase {m : Cmd} {c t : Nat} (h : m.phase = .held c t) : m.held = some (c, t) := by
  rw [Cmd.held, h]

/-- The command that a number finds has that number. -/
theorem Cmd.id_of_cmd {b : Blk} {id : Nat} {m : Cmd} (h : b.cmd id = some m) : m.id = id := eq_of_beq (List.find?_some h :)

section goes
variable {b : Blk} {id op c t : Nat} {m : Cmd} (h : RoutineGoes b id op m c t)
include h

/-- A routine that goes on ends its command at the deadline, if it has not begun, and else runs. -/
theorem Blk.routine_eq (f : Blk → Cmd → Nat → Nat → Blk) : b.routine id op f =
    if !m.begun && b.dlHit m && b.dlChecked c then (b.dlCount m).endCmd id .deadline else f b m c t := by
  obtain ⟨hcmd, hheld, hop, hown, hgoing, hunparked, hissues, hunhalted, hruns⟩ := h
  simp [Blk.routine, hcmd, Cmd.held_of_phase hheld, hop, hown, hgoing, hunparked, hissues, hunhalted, hruns]

theorem Blk.routine_begun (f : Blk → Cmd → Nat → Nat → Blk) (hbegun : m.begun = true) : b.routine id op f = f b m c t := by
  rw [Blk.routine_eq h, hbegun]; rfl

theorem Blk.routine_deadline (f : Blk → Cmd → Nat → Nat → Blk) (hfresh : m.begun = false) (hhit : b.dlHit m = true)
    (hchecked : b.dlChecked c = true) : b.routine id op f = (b.dlCount m).endCmd id .deadline := by
  rw [Blk.routine_eq h, hfresh, hhit, hchecked]; rfl

end goes

theorem Blk.routine_ready {b : Blk} {id op c t : Nat} {m : Cmd} (h : RoutineReady b id op m c t) (f : Blk → Cmd → Nat → Nat → Blk) :
    b.routine id op f = f b m c t := by
  rw [Blk.routine_eq h.toRoutineGoes, h.time, Bool.and_false]; rfl

/-! ### Routines that begin (R182, R218, R266, R347) -/

section fresh
variable {b b1 b2 : Blk} {m : Cmd} {rd : View} {c t : Nat} {d : List W64} (hfresh : m.begun = false)
include hfresh

section oneDesc
variable (hd : b.oneDesc m rd = (b1, .ok d))
include hd

theorem Blk.interact_begins (hix : ixBad d = none) (harr : b1.build.arrays = true) :
    b.interact m rd = b1.begin m.id (fun x => { x with ixd := d, unitN := ixN d }) := by
  simp [Blk.interact, hfresh, hd, Ds.bind, hix, harr, Blk.orFail]

theorem Blk.backInteract_begins {x : List W64} (hbx : bxBad d = none)
    (hread : b1.desc (.desc m.id) m.ctx rd (bxIxd d) = (b2, .ok x)) (hix : ixBad x = none) (hfits : bxSmall d x = false)
    (harr : b2.build.arrays = true) :
    b.backInteract m rd = b2.begin m.id (fun y => { y with bxd := d, ixd := x, unitN := ixN x }) := by
  simp [Blk.backInteract, hfresh, hd, Ds.bind, hbx, hread, hix, hfits, harr, Blk.orFail]

theorem Blk.fenceCmd_begins {y : List (List W64) × List TableCopy} (hchk : b1.fenceCheck m rd d = (b2, .ok y)) :
    b.fenceCmd m c t rd = (b2.begun m.id).fenceNew m c t none d y := by
  simp [Blk.fenceCmd, hfresh, hd, Ds.bind, hchk, Blk.orFail, Blk.begin, Blk.begun]

theorem Blk.copyCmd_begins (hcp : cpBad d = none) : b.copyCmd m c t rd = (b1.begun m.id).copyNew m c t none d := by
  simp [Blk.copyCmd, hfresh, hd, Ds.bind, dsOf, hcp, Blk.orFail, Blk.begin, Blk.begun]

theorem Blk.adviseCmd_begins {tab : TableCopy} (hchk : b1.avCheck m rd d = (b2, .ok tab)) :
    b.adviseCmd m c t rd = (b2.begun m.id).adviseNew m c t none d tab := by
  simp [Blk.adviseCmd, hfresh, hd, Ds.bind, hchk, Blk.orFail, Blk.begin, Blk.begun]

end oneDesc

/-- A LOOKUP_POOL whose pairs have all been read and checked starts them. -/
theorem Blk.lookupPool_begins {pb : List W64} {l : List (List W64 × List W64 × List W64)}
    (hblock : b.block m rd (lpBad m) = (b1, .ok pb)) (hpairs : Blk.lpPairs m rd pb (lpNp pb) 0 b1 = (b2, .ok l)) :
    b.lookupPool m c t rd = Blk.pairsGo 3 m.id c t
      ((b2.begin m.id (fun x => { x with par0 := pb, pairs := l, unitN := l.length })).updTask c t
        (fun x => { x with waitFrom := some b2.time.toNat })) := by
  simp [Blk.lookupPool, hfresh, hblock, Ds.bind, hpairs, Blk.orFail, Blk.begin]

theorem Blk.scatter_begins {pb : List W64} {p : List W64 × List W64 × List W64} (hblock : b.block m rd sbBad = (b1, .ok pb))
    (hpair : b1.scPair m rd pb = (b2, .ok p)) :
    b.scatter m c t rd = Blk.pairsGo 1 m.id c t (b2.begin m.id (fun x => { x with pairs := [p], unitN := 1 })) := by
  simp [Blk.scatter, hfresh, hblock, Ds.bind, hpair, Blk.orFail]

end fresh

/-! ### Pairs (R221, R348) -/

/-- A pass without a consumer starts nothing. -/
theorem Blk.consStart_none {b : Blk} {c q : Nat} (h : (b.sq c q).cons = .none) : b.consStart c q = b := by
  simp only [Blk.consStart, h]

/-- The inline indices and boundaries that the pair (sd, pd) takes from the payload of a command: pair 0 of a LOOKUP_POOL has them. -/
def Cmd.inlineOf (m : Cmd) (sd pd : List W64) : Option (List Byte) × Option (List Byte) :=
  (if decide (m.unitW = 0) && m.op = 0x10 && lpInl m.par0 then some (m.payload.take (lpIdx sd)) else none,
   if decide (m.unitW = 0) && m.op = 0x10 && lpBinl m.par0 then some ((m.payload.drop (upTo 8 (lpIdx sd))).take (lpBnd pd)) else none)

/-- The block with the stream of a pair bound to queue q, which waits for its consumer. -/
def Blk.pairBound (b : Blk) (m : Cmd) (c t q : Nat) (sd pd opb : List W64) : Blk :=
  (b.pairBind m c t q sd opb (m.inlineOf sd pd)).updCmd m.id (fun x => { x with unitC := 1 })

/-- The block with the pool of the pair as its consumer. -/
def Blk.pairPooled (b : Blk) (m : Cmd) (c t q : Nat) (sd pd opb : List W64) : Blk :=
  (b.pairBound m c t q sd pd opb).updSq c q (fun s => { s with cons := .pool pd m.id t none })

section bound
variable {b : Blk} {c q : Nat} (m : Cmd) (t : Nat) (sd pd opb : List W64) (hnext : (b.sq c q).nextCons = .none)
include hnext

/-- The stream that is bound for a pair, where no consumer waits on the queue. -/
theorem Blk.sq_pairBound : ((b.pairBound m c t q sd pd opb).sq c q).st = .active ∧ ((b.pairBound m c t q sd pd opb).sq c q).cmd = m.id ∧
    ((b.pairBound m c t q sd pd opb).sq c q).task = t ∧ ((b.pairBound m c t q sd pd opb).sq c q).cons = .none ∧
    ((b.pairBound m c t q sd pd opb).sq c q).pass = 1 := by
  unfold Blk.pairBound Blk.pairBind
  dsimp only
  rw [Blk.sq_updCmd, Blk.consStart_none (by simp [Blk.bindSd, hnext])]
  simp [Blk.bindSd, hnext]

theorem Blk.sq_pairBound_other {r : Nat} (hr : r ≠ q) : (b.pairBound m c t q sd pd opb).sq c r = b.sq c r := by
  unfold Blk.pairBound Blk.pairBind
  dsimp only
  rw [Blk.sq_updCmd, Blk.consStart_none (by simp [Blk.bindSd, hnext]), Blk.sq_updSq_other _ _ _ hr, Blk.bindSd,
    Blk.sq_updSq_other _ _ _ hr]

end bound

/-- A stream without a consumer takes one, and its pass begins. -/
theorem Blk.bindCons_takes {b : Blk} {c q : Nat} (k : Consumer) (hst : (b.sq c q).st = .active) (hcons : (b.sq c q).cons = .none) :
    b.bindCons c q k = (((b.updSq c q (fun s => { s with cons := k })).consStart c q).pass c q { blocks := [] }, true) := by
  simp only [Blk.bindCons, hst, hcons, if_true]

/-- A LOOKUP_POOL that has begun goes on with its pairs. -/
theorem Blk.lookupPool_begun {b : Blk} {m : Cmd} {c t : Nat} {rd : View} (h : m.begun = true) :
    b.lookupPool m c t rd = Blk.pairsGo 3 m.id c t b := if_pos h

section pairs
variable {b : Blk} {id c t q : Nat} {m : Cmd} {sd pd opb : List W64} (hcmd : b.cmd id = some m) (hgoing : m.ending = false)
  (hunbound : m.unitC = 0) (hpair : m.pairs[m.unitW]? = some (sd, pd, opb)) (hq : q = if m.short then 16 + t else sdQueue sd)
include hcmd hgoing hunbound hpair hq

/-- A pair whose queue is busy waits. -/
theorem Blk.pairsGo_waits (n : Nat) (hbusy : (b.sq c q).st ≠ .free) (hidle : (b.sq c q).st ≠ .armedIdle) :
    Blk.pairsGo (n + 1) id c t b = b := by
  subst hq
  simp [Blk.pairsGo, hcmd, hpair, hgoing, hunbound, hbusy, hidle]

/-- A pair of a LOOKUP_POOL whose queue is FREE binds its stream, then its pool, and the next pair follows. -/
theorem Blk.pairsGo_pools (n : Nat) (hop : m.op = 0x10) (hfree : (b.sq c q).st = .free) (hnext : (b.sq c q).nextCons = .none) :
    Blk.pairsGo (n + 1) id c t b = Blk.pairsGo n id c t
      ((((b.pairPooled m c t q sd pd opb).consStart c q).pass c q { blocks := [] }).updCmd id
        (fun x => { x with unitW := x.unitW + 1, unitC := 0 })) := by
  obtain rfl := Cmd.id_of_cmd hcmd
  obtain ⟨hst, -, -, hcons, -⟩ := Blk.sq_pairBound m t sd pd opb hnext
  have hbind := Blk.bindCons_takes (.pool pd m.id t none) hst hcons
  have hscat : ¬ m.op = 0x13 := by rw [hop]; decide
  simp only [Blk.pairBound, Cmd.inlineOf] at hst hbind
  simp only [Blk.pairsGo, hcmd, hpair, hgoing, hunbound, ← hq, hfree, hst, hbind, hscat, ne_eq, not_true_eq_false, decide_true,
    decide_false, Bool.and_false, Bool.false_and, Bool.false_eq_true, reduceCtorEq, if_true, if_false]
  rfl

end pairs

/-- Settles O26: each routine begins by its own equation above, and the pairs of LOOKUP_POOL (read and checked at its start, log entry
96) by `Blk.pairsGo_waits` and `Blk.pairsGo_pools`. -/
theorem hostRoutinesBegin : Obligations.HostRoutinesBegin := by
  intro s id c t m rd
  refine ⟨fun h => ?nop, fun h => ?run,
    fun b1 d hd => ⟨fun h hix harr => ?interact, fun b2 x h hbx hread hix hfits harr => ?backInteract,
      fun b2 y h hchk => ?fence, fun h hcp => ?copy, fun b2 tab h hchk => ?advise⟩,
    fun b1 b2 pb l h hblock hpairs => ?lookupPool, fun b1 b2 pb p h hblock hpair => ?scatter,
    fun sd d opb q h hbegun hunbound hpair hq => ⟨fun hbusy hidle => ?waits, fun hfree hnext => ?pools⟩,
    fun p hp h hfresh hhit hchecked => ?deadline⟩
  case nop => rw [exec_nopCommand, Blk.routine_ready h, h.fresh]; rfl
  case run => rw [exec_run, Blk.routine_ready h, h.fresh]; rfl
  case interact =>
    obtain rfl := Cmd.id_of_cmd h.cmd
    rw [exec_interact, Blk.routine_ready h, Blk.interact_begins h.fresh hd hix harr]; rfl
  case backInteract =>
    obtain rfl := Cmd.id_of_cmd h.cmd
    rw [exec_backInteract, Blk.routine_ready h, Blk.backInteract_begins h.fresh hd hbx hread hix hfits harr]; rfl
  case fence =>
    obtain rfl := Cmd.id_of_cmd h.cmd
    rw [exec_fenceCommand, Blk.routine_ready h, Blk.fenceCmd_begins h.fresh hd hchk]
  case copy =>
    obtain rfl := Cmd.id_of_cmd h.cmd
    rw [exec_copy, Blk.routine_ready h, Blk.copyCmd_begins h.fresh hd hcp]
  case advise =>
    obtain rfl := Cmd.id_of_cmd h.cmd
    rw [exec_advise, Blk.routine_ready h, Blk.adviseCmd_begins h.fresh hd hchk]
  case lookupPool =>
    obtain rfl := Cmd.id_of_cmd h.cmd
    rw [exec_lookupPool, Blk.routine_ready h, Blk.lookupPool_begins h.fresh hblock hpairs]; rfl
  case scatter =>
    obtain rfl := Cmd.id_of_cmd h.cmd
    rw [exec_scatter, Blk.routine_ready h, Blk.scatter_begins h.fresh hblock hpair]; rfl
  case waits =>
    obtain rfl := Cmd.id_of_cmd h.cmd
    rw [exec_lookupPool, Blk.routine_begun h _ hbegun, Blk.lookupPool_begun hbegun,
      Blk.pairsGo_waits h.cmd h.going hunbound hpair hq 2 hbusy hidle, State.withBlk_self]
  case pools =>
    obtain rfl := Cmd.id_of_cmd h.cmd
    obtain ⟨hst, hcmd, htask, -, hpass⟩ := Blk.sq_pairBound m t sd d opb hnext
    refine ⟨s.blk.pairPooled m c t q sd d opb, ?_, ?_, ?_, ?_, ?_, ?_, fun r hr => ?_⟩
    · rw [exec_lookupPool, Blk.routine_begun h _ hbegun, Blk.lookupPool_begun hbegun,
        Blk.pairsGo_pools h.cmd h.going hunbound hpair hq 2 h.op hfree hnext]
    · rw [Blk.pairPooled, Blk.sq_updSq_same]; exact hst
    · rw [Blk.pairPooled, Blk.sq_updSq_same]; exact hcmd
    · rw [Blk.pairPooled, Blk.sq_updSq_same]; exact htask
    · rw [Blk.pairPooled, Blk.sq_updSq_same]
    · rw [Blk.pairPooled, Blk.sq_updSq_same]; exact hpass
    · rw [Blk.pairPooled, Blk.sq_updSq_other _ _ _ hr, Blk.sq_pairBound_other m t sd d opb hnext hr]
  case deadline =>
    obtain ⟨f, hf⟩ := exec_routineCommand id rd s hp
    rw [hf, Blk.routine_deadline h f hfresh hhit hchecked]

end Sys2Proof.Machine
end

section
/-! PROOFS. The deadline of a command that no task context holds, and the count of samples that are not written. -/
namespace Sys2Proof.Machine

theorem exec_deadlineReached (id : Nat) (rd : View) (s : State) :
    exec (.deadlineReached id rd) s = .next (s.withBlk (s.blk.deadlineReached id rd)) := rfl

/-- A command that no task context holds has no pass whose bags would be counted: each command of its number takes up its own samples,
and the command ends (R192, R199). -/
theorem Blk.deadlineReached_unheld {b : Blk} {id : Nat} {m : Cmd} (rd : View) (hlive : b.live = true) (hcmd : b.cmd id = some m)
    (hnow : b.dlNow m = true) (hsub : m.dsub = false) (hheld : m.held = none) : b.deadlineReached id rd =
      ((b.updCmd id (fun y => { y with dlmiss := y.dlmiss + y.samples })).dlCount m).endCmd id .deadline := by
  have hpasses : b.poolPasses m = [] := by simp only [Blk.poolPasses, hheld]
  simp only [Blk.deadlineReached, hcmd, hlive, hnow, hsub, hpasses, hheld, List.foldl_nil, Bool.not_true, Bool.or_self,
    Bool.false_eq_true, if_false]

/-- A LOOKUP_POOL at its deadline, which has no samples. -/
def lookupTwin : Cmd := { id := 7, ring := 3, phase := .copied, cd := [0x1001, 5, 0, 0, 0, 0, 0, 0] }

/-- An INTERACT with five samples to write, of the same number. -/
def interactTwin : Cmd := { lookupTwin with cd := [0x1101, 5, 0, 0, 0, 0, 0, 0], begun := true, unitN := 5 }

/-- A block that holds both; nothing in the state rules out that a number is used twice. -/
def twinBlk : Blk := { cmds := [lookupTwin, interactTwin], time := 5 }

/-- Refutes O37: at a deadline the model adds to each command of the number that command's own samples (`deadlineReached_unheld`), the
statement those of the first to all. A state may list a number twice: with a LOOKUP_POOL and an INTERACT of number 7, DLMISS of the INTERACT
is 5 in the model and 0 in the statement. -/
theorem not_deadlinesAndBelays : ¬ Obligations.DeadlinesAndBelays := by
  intro h
  have hlive : twinBlk.live = true := by decide +kernel
  have hcmd : twinBlk.cmd 7 = some lookupTwin := by decide +kernel
  have hnow : twinBlk.dlNow lookupTwin = true := by decide +kernel
  have hsub : lookupTwin.dsub = false := by decide +kernel
  obtain ⟨hdeadline, -, -⟩ := h { blk := twinBlk, pending := [] } 7 lookupTwin { blocks := [] } hlive
  obtain ⟨hcounts, -⟩ := hdeadline hcmd hnow
  obtain ⟨b, hexec, -, hunheld⟩ := hcounts hsub
  obtain rfl := hunheld rfl
  rw [exec_deadlineReached, Blk.deadlineReached_unheld _ hlive hcmd hnow hsub rfl] at hexec
  have hmissed := congrArg (fun s : State => s.blk.cmds.map (·.dlmiss)) (Host.Outcome.next.inj hexec)
  have hmodel : (((twinBlk.updCmd 7 (fun y => { y with dlmiss := y.dlmiss + y.samples })).dlCount lookupTwin).endCmd 7
    .deadline).cmds.map (·.dlmiss) = [0, 5] := by decide +kernel
  have hstated : (((twinBlk.updCmd 7 (fun y => { y with dlmiss := y.dlmiss + lookupTwin.samples })).dlCount lookupTwin).endCmd 7
    .deadline).cmds.map (·.dlmiss) = [0, 0] := by decide +kernel
  exact absurd (hmodel.symm.trans (hmissed.trans hstated)) (by decide)

end Sys2Proof.Machine
end

section
/-! PROOFS. Lists whose entries are found by a key, and what replaces one of them. -/
namespace Sys2Proof

/-- The first entry with p, where entry n with p takes the place of every entry with p. -/
theorem find?_map_replace {α : Type} {p : α → Bool} {l : List α} {x n : α} (hx : l.find? p = some x) (hn : p n = true) :
    (l.map (fun y => if p y then n else y)).find? p = some n := by
  have hkeeps : (p ∘ fun y => if p y then n else y) = p := by
    funext y
    by_cases hy : p y = true <;> simp [hy, hn]
  rw [List.find?_map, hkeeps, hx, Option.map_some, if_pos (List.find?_some hx)]

/-- Such a replacement neither adds nor removes an entry without p. -/
theorem mem_map_replace {α : Type} {p : α → Bool} {l : List α} {n x : α} (hn : p n = true) (hx : p x = false) :
    x ∈ l.map (fun y => if p y then n else y) ↔ x ∈ l := by
  constructor
  · intro h
    obtain ⟨y, hy, rfl⟩ := List.mem_map.mp h
    by_cases hp : p y = true
    · rw [if_pos hp, hn] at hx; contradiction
    · rwa [if_neg hp]
  · exact fun h => List.mem_map.mpr ⟨x, h, by rw [hx]; rfl⟩

end Sys2Proof
end

section
/-! PROOFS. Contributions: the element of a SCAT pass that moves, and the entry of the coalescer that takes its chunk. -/
namespace Sys2Proof.Machine

/-! ### CONTRIBUTION_MERGE (R228, R469) -/

theorem exec_contributionMerge (c : Fin 8) (q : Fin 20) (parity : Bool) (rd : View) (s : State) :
    exec (.contributionMerge c q parity rd) s = .next (s.withBlk (s.blk.contribution c q parity rd)) := rfl

section
variable {b : Blk} {c q : Nat} (rd : View) (hlive : b.live = true) (hcore : b.coreOk c = true) (hscat : (b.sq c q).cons.isScat = true)
include hlive hcore hscat

/-- A parity error is met where a slice holds an entry. -/
theorem Blk.contribution_parity (hslice : ∃ e ∈ b.co, e.log = none) : b.contribution c q true rd = b.blockFatal 0x10 := by
  have hany : b.co.any (fun e => e.log.isNone) = true := by
    obtain ⟨e, he, hlog⟩ := hslice
    exact List.any_eq_true.mpr ⟨e, he, by rw [hlog]; rfl⟩
  simp only [Blk.contribution, hlive, hcore, hscat, hany, Bool.not_true, Bool.or_self, Bool.and_self, Bool.false_eq_true, if_false, if_true]

/-- Where the first resolved element moves, the pass ends if it was the last. -/
theorem Blk.contribution_moves {b2 : Blk} {x : Elem} {l : List Elem} (hopen : (b.sq c q).ended = false) (hissue : b.unitIssues c = true)
    (hactive : (b.sq c q).st = .active) (hready : ((b.pass c q rd).sq c q).ready = x :: l)
    (hmoved : (b.pass c q rd).scatElem c q rd x = (b2, .moved)) : b.contribution c q false rd = b2.scatEnd c q rd := by
  have htry : Blk.scatTry c q rd (x :: l) (b.pass c q rd) = (b2, true) := by rw [Blk.scatTry, hmoved]
  simp [Blk.contribution, hlive, hcore, hscat, hopen, hissue, hactive, hready, htry]

end

/-! ### The entry that takes a chunk (R228) -/

/-- An entry with one more contribution: one addition for each lane, and its count. -/
def CoEntry.merged (e : CoEntry) (f : FFmt) (lanes : List W64) : CoEntry :=
  { e with lanes := zipLanes f.add e.lanes lanes, cnt := (e.cnt + 1) % 2 ^ 32 }

/-- The coalescer with entry n in the place of those with its key. -/
def Blk.coReplaced (b : Blk) (table row chunk tally : Nat) (n : CoEntry) : Blk :=
  { b with co := b.co.map (fun x => if x.is table row chunk tally then n else x) }

section
variable {b : Blk} (f : FFmt) {table row chunk tally : Nat} (lanes : List W64)

/-- A chunk whose key has an entry in a slice is merged into it. -/
theorem Blk.coAdd_merges {e : CoEntry} (he : b.co.find? (fun e => e.is table row chunk tally) = some e) (hslice : e.log = none) :
    b.coAdd f table row chunk tally lanes = ((b.coReplaced table row chunk tally (e.merged f lanes)).inc 0x60100 1, .ok) := by
  simp only [Blk.coAdd, Blk.coReplaced, CoEntry.merged, he, hslice, Option.isSome_none, Bool.false_eq_true, if_false]

/-- A chunk whose key has no entry takes a free way of its set. -/
theorem Blk.coAdd_creates (hnew : b.co.find? (fun e => e.is table row chunk tally) = none)
    (hroom : (b.co.filter (fun e => e.log.isNone &&
      Config.coSet e.table e.row e.chunk % b.coSets = Config.coSet table row chunk % b.coSets)).length < 16) :
    b.coAdd f table row chunk tally lanes =
      (({ b with co := b.co ++ [{ table := table, row := row, chunk := chunk, tally := tally, lanes := lanes, cnt := 1 }] } : Blk).inc
        0x60108 1, .ok) := by
  simp only [Blk.coAdd, hnew, hroom, if_true]

end

/-- Settles O42: `Blk.contribution_parity` and `Blk.contribution_moves` say what the event does with the first element of the pass,
`Blk.coAdd_merges` and `Blk.coAdd_creates` which entry takes a chunk; MERGES and CREATES count chunks (log entry 69). -/
theorem contributionsMerge : Obligations.ContributionsMerge := by
  intro s c q rd hlive hcore hscat
  refine ⟨fun hslice => ?parity, fun b1 b2 x l hopen hissue hactive hb1 hready hmoved => ?moves, fun b f table row chunk tally lanes =>
    ⟨fun e he hslice => ?merges, fun hnew hroom => ?creates⟩⟩
  case parity => rw [exec_contributionMerge, Blk.contribution_parity rd hlive hcore hscat hslice]
  case moves =>
    subst hb1
    rw [exec_contributionMerge, Blk.contribution_moves rd hlive hcore hscat hopen hissue hactive hready hmoved]
  case merges =>
    have hkey : e.is table row chunk tally = true := List.find?_some (p := fun x : CoEntry => x.is table row chunk tally) he
    exact ⟨_, Blk.coAdd_merges f lanes he hslice, find?_map_replace he hkey, fun x hx => mem_map_replace hkey hx,
      Blk.reg_setReg_same _ _ _, rfl⟩
  case creates => exact ⟨_, Blk.coAdd_creates f lanes hnew hroom, rfl, Blk.reg_setReg_same _ _ _, rfl⟩

end Sys2Proof.Machine
end

section
/-! PROOFS. Fences: SEAL, APPLY, the report with DONE, and what a completed fence does to its tally, its anchor and its command. -/
namespace Sys2Proof.Machine

/-! ### The fence with a number -/

theorem Fence.id_of_fence {b : Blk} {i : Nat} {f : Fence} (h : b.fence i = some f) : f.id = i := of_decide_eq_true (List.find?_some h :)

/-- A fence reads back as it was set. -/
theorem Blk.fence_setFence {b : Blk} {i : Nat} {f g : Fence} (h : b.fence i = some f) (hid : g.id = f.id) :
    (b.setFence g).fence i = some g := by
  have hgi : g.id = i := hid.trans (Fence.id_of_fence h)
  have hset : (b.setFence g).fences = b.fences.map (fun x => if decide (x.id = i) then g else x) := by
    simp only [Blk.setFence, hgi, decide_eq_true_eq]
  rw [Blk.fence, hset]
  exact find?_map_replace h (decide_eq_true hgi)

/-! ### SEAL (R227, R233) -/

theorem exec_fenceSeal (i : Nat) (s : State) : exec (.fenceSeal i) s = .next (s.withBlk (s.blk.fenceSeal i)) := rfl

/-- The fence in SEAL, with REM recorded. -/
def Fence.sealed (f : Fence) (rem : Nat) : Fence := { f with phase := .seal, rem := rem, expect := fdExploc f.fd + rem }

section wait
variable {b : Blk} {i : Nat} {f : Fence} (hf : b.fence i = some f) (hlive : b.live = true) (hpark : f.park = none)
    (hwait : f.phase = .wait) (hfirst : b.tallyBusy f = false)
include hf hlive hpark hwait hfirst

/-- With FORCE a fence seals at once. -/
theorem Blk.fenceSeal_force (hforce : fdForce f.fd = true) : b.fenceSeal i = b.setFence (f.sealed 0) := by
  simp [Blk.fenceSeal, hf, hlive, hpark, hwait, hfirst, hforce, Fence.sealed]

/-- Without remote senders a fence seals once its tally has EXPLOC contributions. -/
theorem Blk.fenceSeal_local (hforce : fdForce f.fd = false) (hsend : fdNsend f.fd = 0) :
    b.fenceSeal i = if fdExploc f.fd ≤ b.tally (fdTally f.fd) then b.setFence (f.sealed 0) else b := by
  simp [Blk.fenceSeal, hf, hlive, hpark, hwait, hfirst, hforce, hsend, Fence.sealed]

/-- With remote senders a fence seals once its anchor has been met and its tally has what it expects from here and from there. -/
theorem Blk.fenceSeal_remote (hforce : fdForce f.fd = false) (hsend : fdNsend f.fd ≠ 0) (hmet : f.entry = true)
    (hall : fdExploc f.fd + b.anchor (fdAnchor f.fd) % 2 ^ 32 ≤ b.tally (fdTally f.fd)) :
    b.fenceSeal i = b.setFence (f.sealed (b.anchor (fdAnchor f.fd) % 2 ^ 32)) := by
  simp only [Blk.fenceSeal, Fence.sealed, hf, hlive, hpark, hwait, hfirst, hforce, hsend, hmet, hall, Option.isSome_none, ne_eq,
    not_true_eq_false, decide_false, decide_true, Bool.not_true, Bool.or_self, Bool.and_self, Bool.false_eq_true, if_false, if_true]

end wait

/-! ### The start of APPLY (R233, R234) -/

theorem exec_fenceApplyStart (i : Nat) (s : State) : exec (.fenceApplyStart i) s = .next (s.withBlk (s.blk.fenceApplyStart i)) := rfl

/-- The coalescer as APPLY finds it: with DROPHELD the held entries of the tally are freed, else they are applied again. -/
def Blk.heldTaken (b : Blk) (f : Fence) : Blk :=
  { b with co := (b.co.filter (fun e => !(e.tally = fdTally f.fd && e.held && fdDrop f.fd))).map (fun e =>
      if e.tally = fdTally f.fd then { e with held := false } else e) }

/-- The fence in APPLY, with RECV and the rows of its tally recorded and n held contributions discarded. -/
def Fence.started (f : Fence) (b : Blk) (n : Nat) : Fence :=
  { f with phase := .apply, recv := b.tally (fdTally f.fd), nulls := Tab.get 0 b.nulls (fdTally f.fd),
           applied := Tab.get 0 b.nulls (fdTally f.fd), discarded := n, todo := b.tallyRows (fdTally f.fd) }

theorem Blk.fenceApplyStart_starts {b : Blk} {i : Nat} {f : Fence} (hf : b.fence i = some f) (hlive : b.live = true)
    (hseal : f.phase = .seal) (hnone : ∀ x ∈ b.fences, x.phase ≠ .apply) :
    ∃ n, b.fenceApplyStart i = (b.heldTaken f).setFence (f.started (b.heldTaken f) n) := by
  have hany : b.fences.any (fun x => x.phase = .apply) = false := List.any_eq_false.mpr fun x hx => by simpa using hnone x hx
  simp only [Blk.fenceApplyStart, hf, hlive, hseal, hany, ne_eq, not_true_eq_false, decide_false, Bool.not_true, Bool.or_self,
    Bool.false_eq_true, if_false]
  exact ⟨_, rfl⟩

section taken
variable {b : Blk} {f : Fence} {e : CoEntry}

theorem Blk.mem_heldTaken : e ∈ (b.heldTaken f).co ↔ ∃ x ∈ b.co, (!(x.tally = fdTally f.fd && x.held && fdDrop f.fd)) = true ∧
    (if x.tally = fdTally f.fd then { x with held := false } else x) = e := by
  simp only [Blk.heldTaken, List.mem_map, List.mem_filter, and_assoc]

/-- With DROPHELD the tally keeps its entries that are not held. -/
theorem Blk.of_mem_heldTaken_drop (hdrop : fdDrop f.fd = true) (he : e ∈ (b.heldTaken f).co) (htally : e.tally = fdTally f.fd) :
    e ∈ b.co ∧ e.held = false := by
  obtain ⟨x, hx, hkept, rfl⟩ := Blk.mem_heldTaken.mp he
  by_cases ht : x.tally = fdTally f.fd
  · have hheld : x.held = false := by simpa [ht, hdrop] using hkept
    rw [if_pos ht, ← hheld]
    exact ⟨hx, rfl⟩
  · rw [if_neg ht] at htally; contradiction

/-- Without DROPHELD the tally keeps every entry, none of them held. -/
theorem Blk.mem_heldTaken_keep (hdrop : fdDrop f.fd = false) (he : e ∈ b.co) (htally : e.tally = fdTally f.fd) :
    { e with held := false } ∈ (b.heldTaken f).co :=
  Blk.mem_heldTaken.mpr ⟨e, he, by simp [hdrop], if_pos htally⟩

/-- The entries of other tallies stay as they are. -/
theorem Blk.mem_heldTaken_other (htally : e.tally ≠ fdTally f.fd) : e ∈ (b.heldTaken f).co ↔ e ∈ b.co := by
  refine ⟨fun he => ?_, fun he => Blk.mem_heldTaken.mpr ⟨e, he, by simp [htally], if_neg htally⟩⟩
  obtain ⟨x, hx, -, rfl⟩ := Blk.mem_heldTaken.mp he
  by_cases ht : x.tally = fdTally f.fd
  · rw [if_pos ht] at htally; contradiction
  · rwa [if_neg ht]

end taken

/-! ### The end of APPLY (R233, R235) -/

theorem exec_fenceApplyEnd (i : Nat) (rd : View) (s : State) :
    exec (.fenceApplyEnd i rd) s = .next (s.withBlk (s.blk.fenceApplyEnd i rd)) := rfl

/-- Tables that are not compact have no E to update. -/
theorem Blk.eAll_plain (f : Fence) (rd : View) {l : List TableCopy} (b : Blk) (h : ∀ t ∈ l, t.compact = false) :
    Blk.eAll f rd l b = (b, some ([], [])) := by
  induction l with
  | nil => rfl
  | cons t l ih =>
    simp only [Blk.eAll, h t (by simp), Bool.not_false, if_true]
    exact ih fun x hx => h x (by simp [hx])

/-- The coalescer without the entries of a tally that have been applied. -/
def Blk.appliedFreed (b : Blk) (tally : Nat) : Blk := { b with co := b.co.filter (fun e => !(e.tally = tally && e.applied)) }

theorem Blk.not_applied_of_mem_appliedFreed {b : Blk} {tally : Nat} {e : CoEntry} (he : e ∈ (b.appliedFreed tally).co)
    (htally : e.tally = tally) : e.applied = false := by
  have hkept := (List.mem_filter.mp he).2
  simpa [htally] using hkept

/-- A fence without compact tables writes its report, frees what it has applied, and is DONE. -/
theorem Blk.fenceApplyEnd_reports {b b1 : Blk} {i : Nat} {f : Fence} {qs : List WPart} (rd : View) (hf : b.fence i = some f)
    (hlive : b.live = true) (hpark : f.park = none) (happly : f.phase = .apply) (htodo : f.todo = [])
    (hplain : ∀ t ∈ f.tabs, t.compact = false) (hreport : b.xlWrite (.report i) f.ctx (fdRbase f.fd) f.report = (b1, .parts qs)) :
    b.fenceApplyEnd i rd = ((b1.freed.writeParts f.cmd qs).1.appliedFreed (fdTally f.fd)).setFence
      { f with phase := .done, ids := (b1.freed.writeParts f.cmd qs).2, repFail := none } := by
  have hany : f.tabs.any (·.compact) = false := List.any_eq_false.mpr fun t ht => by simp [hplain t ht]
  have hnone : b1.freed.writeParts f.cmd [] = (b1.freed, []) := rfl
  simp only [Blk.fenceApplyEnd, hf, hlive, hpark, happly, htodo, hreport, Blk.eAll_plain f rd b1 hplain, hany, hnone, Option.isSome_none,
    ne_eq, not_true_eq_false, decide_false, List.isEmpty_nil, Bool.not_true, Bool.or_self, Bool.false_eq_true, if_false, List.foldl_nil,
    List.map_nil, List.head?_nil, Option.or_none, List.nil_append]
  rfl

/-! ### DONE: the totals at the memory port (R216) -/

theorem exec_fenceDone (i : Nat) (s : State) : exec (.fenceDone i) s = .next (s.withBlk (s.blk.fenceDone i)) := rfl

theorem Blk.fenceDone_closes {b b1 : Blk} {i : Nat} {f : Fence} {l : List (WPart × Bool × W64)} (hf : b.fence i = some f)
    (hlive : b.live = true) (hpark : f.park = none) (hdone : f.phase = .done) (hwrites : f.writes = []) (hpassed : b.passed f.ids = true)
    (hmcs : ∀ m ∈ f.mcs, Tab.get 0 b.lx.mcast m = 0) (hadds : Blk.statAdds (.report i) f.ctx (f.tabs.flatMap f.totals) b = (b1, .ok l)) :
    b.fenceDone i = (b1.doAdds l).fenceClose f := by
  have hany : f.mcs.any (fun m => Tab.get 0 b.lx.mcast m ≠ 0) = false := List.any_eq_false.mpr fun m hm => by simp [hmcs m hm]
  simp only [Blk.fenceDone, hf, hlive, hpark, hdone, hwrites, hpassed, hany, hadds, Option.isSome_none, ne_eq, not_true_eq_false,
    decide_false, List.isEmpty_nil, Bool.not_true, Bool.or_self, Bool.false_eq_true, if_false]

/-- A write that passes changes the row cache with its counters, and memory. -/
theorem Blk.passWrite_frame (b : Blk) (cr pa : Nat) (l : List Byte) :
    { b.passWrite cr pa l with rc := b.rc, regs := b.regs, dev := b.dev, bad := b.bad } = b := by
  obtain ⟨r, g, h⟩ := foldl_passSector_frame pa l (sectorsOf pa l.length) b
  rw [Blk.passWrite, h]
  exact (congrArg (fun x : Blk => { x with rc := b.rc, regs := b.regs }) (Blk.devWrite_frame { b with rc := r, regs := g } cr pa l) :)

/-- So do the adds to a statistics block. -/
theorem Blk.doAdds_frame (b : Blk) (l : List (WPart × Bool × W64)) :
    { b.doAdds l with rc := b.rc, regs := b.regs, dev := b.dev, bad := b.bad } = b := by
  induction l generalizing b with
  | nil => rfl
  | cons x l ih =>
    rw [Blk.doAdds, List.foldl_cons]
    split
    · exact (congrArg (fun y : Blk => { y with rc := b.rc, regs := b.regs, dev := b.dev, bad := b.bad }) (ih (b.passWrite _ _ _))).trans
        (b.passWrite_frame _ _ _)
    · exact ih b

/-! ### What a signal leaves of fences and commands (R377) -/

/-- What no waiter's release changes, the release of all that are met does not change. -/
theorem foldl_wake_keeps {α : Type} (v : Blk → α) (h : ∀ b w, v (b.wake w) = v b) (l : List Waiter) (b : Blk) :
    v (l.foldl Blk.wake b) = v b := by
  induction l generalizing b with
  | nil => rfl
  | cons w l ih => exact (ih _).trans (h b w)

theorem Blk.fence_ids_signal (b : Blk) (k : Nat) (isSet : Bool) (v : Nat) :
    (b.signal k isSet v).fences.map (·.id) = b.fences.map (·.id) := by
  refine foldl_wake_keeps (fun b => b.fences.map (·.id)) (fun b w => ?_) _ _
  unfold Blk.wake
  split
  · rfl
  · rfl
  · simp only [List.map_map]
    refine List.map_congr_left fun x _ => ?_
    simp only [Function.comp_apply]
    split <;> rfl

/-- Contributions that a command's fences have applied. -/
def Blk.appliedOf (b : Blk) (id : Nat) : Option Nat := (b.cmd id).map (·.applied)

theorem Blk.appliedOf_updCmd (b : Blk) (id j : Nat) {g : Cmd → Cmd} (hid : ∀ m, (g m).id = m.id) (happ : ∀ m, (g m).applied = m.applied) :
    (b.updCmd j g).appliedOf id = b.appliedOf id := by
  by_cases h : id = j
  · have hcomp : (fun m : Cmd => m.applied) ∘ g = fun m => m.applied := funext happ
    rw [Blk.appliedOf, h, Blk.cmd_updCmd_same _ _ _ hid, Option.map_map, hcomp, Blk.appliedOf]
  · rw [Blk.appliedOf, Blk.cmd_updCmd_other _ _ hid h, Blk.appliedOf]

theorem Blk.appliedOf_meet (b : Blk) (id j st : Nat) : (b.meet j st).appliedOf id = b.appliedOf id := by
  refine b.appliedOf_updCmd id j (fun m => ?_) (fun m => ?_) <;> (unfold Cmd.meet; split <;> rfl)

theorem Blk.appliedOf_signal (b : Blk) (k : Nat) (isSet : Bool) (v id : Nat) : (b.signal k isSet v).appliedOf id = b.appliedOf id := by
  refine foldl_wake_keeps (fun b => b.appliedOf id) (fun b w => ?_) _ _
  unfold Blk.wake
  split
  · rfl
  · exact b.appliedOf_updCmd id _ (fun _ => rfl) (fun _ => rfl)
  · rfl

/-! ### The end of a fence (R227, R233) -/

/-- The tally holds the held contributions, and the fence is gone. -/
def Blk.tallyClosed (b : Blk) (f : Fence) : Blk :=
  ({ b.setReg (0x61000 + 8 * fdTally f.fd) (BitVec.ofNat 64 f.held) with
    nulls := Tab.set 0 b.nulls (fdTally f.fd) 0, fences := b.fences.filter (fun x => x.id ≠ f.id) } : Blk).dropWaiters
      (fun w => w = .fence f.id)

/-- The anchor of a fence with remote senders is reduced by what it has waited for. -/
def Blk.anchorReduced (b : Blk) (f : Fence) : Blk :=
  if fdForce f.fd || fdNsend f.fd = 0 then b
  else b.signal (fdAnchor f.fd) false (2 ^ 48 - (fdNsend f.fd * 2 ^ 32 + f.rem) % 2 ^ 48)

/-- The command of a fence counts what the fence has applied. -/
def Blk.fenceCounted (b : Blk) (f : Fence) : Blk := b.updCmd f.cmd (fun m => { m with applied := m.applied + f.applied })

/-- The command of a fence takes MSE_HIGH and the status that the fence has met. -/
def Blk.fenceVerdict (b : Blk) (f : Fence) : Blk :=
  let b := if f.high then b.updCmd f.cmd (fun m => m.flag 6) else b
  match f.repFail with
  | some st => b.meet f.cmd st
  | none => if f.recv = f.applied + f.discarded then b else b.meet f.cmd (if f.heldPoison then 0x40 else 0x51)

theorem Blk.fenceClose_eq (b : Blk) {f : Fence} (h : f.abortLate = false) :
    b.fenceClose f = ((((b.tallyClosed f).anchorReduced f).fenceCounted f).fenceVerdict f).endTag f.c f.task f.tag := by
  simp only [Blk.fenceClose, h, Bool.false_and, Bool.false_eq_true, if_false]
  rfl

section close
variable (b : Blk) (f : Fence)

theorem Blk.fenceVerdict_frame : { b.fenceVerdict f with cmds := b.cmds } = b := by
  unfold Blk.fenceVerdict
  cases f.repFail <;> dsimp only
  · split <;> split <;> rfl
  · split <;> rfl

theorem Blk.appliedOf_fenceVerdict (id : Nat) : (b.fenceVerdict f).appliedOf id = b.appliedOf id := by
  have hflag : (if f.high then b.updCmd f.cmd (fun m => m.flag 6) else b).appliedOf id = b.appliedOf id := by
    split
    · exact b.appliedOf_updCmd id _ (fun _ => rfl) (fun _ => rfl)
    · rfl
  unfold Blk.fenceVerdict
  cases f.repFail with
  | some st => exact (Blk.appliedOf_meet _ _ _ _).trans hflag
  | none =>
    dsimp only
    split
    · exact hflag
    · exact (Blk.appliedOf_meet _ _ _ _).trans hflag

theorem Blk.endTag_frame (c t : Nat) (tag : Option Nat) : { b.endTag c t tag with cores := b.cores } = b := by
  cases tag <;> rfl

theorem Blk.anchorReduced_frame :
    { b.anchorReduced f with cores := b.cores, cmds := b.cmds, fences := b.fences, waiters := b.waiters, anc := b.anc } = b := by
  unfold Blk.anchorReduced
  split
  · rfl
  · exact Blk.signal_frame _ _ _ _

theorem Blk.fence_ids_anchorReduced : (b.anchorReduced f).fences.map (·.id) = b.fences.map (·.id) := by
  unfold Blk.anchorReduced
  split
  · rfl
  · exact Blk.fence_ids_signal _ _ _ _

theorem Blk.appliedOf_anchorReduced (id : Nat) : (b.anchorReduced f).appliedOf id = b.appliedOf id := by
  unfold Blk.anchorReduced
  split
  · rfl
  · exact Blk.appliedOf_signal _ _ _ _ _

theorem Blk.anchor_anchorReduced {b : Blk} {f : Fence} (hforce : fdForce f.fd = false) (hsend : fdNsend f.fd ≠ 0) :
    (b.anchorReduced f).anchor (fdAnchor f.fd) =
      (b.anchor (fdAnchor f.fd) + (2 ^ 48 - (fdNsend f.fd * 2 ^ 32 + f.rem) % 2 ^ 48)) % 2 ^ 48 := by
  rw [Blk.anchorReduced, if_neg (by simp [hforce, hsend]), Blk.anchor_signal, if_pos rfl]
  rfl

theorem Blk.appliedOf_fenceCounted : (b.fenceCounted f).appliedOf f.cmd = (b.appliedOf f.cmd).map (· + f.applied) := by
  have hcmd := b.cmd_updCmd_same f.cmd (fun m => { m with applied := m.applied + f.applied }) (fun _ => rfl)
  rw [Blk.appliedOf, Blk.fenceCounted, hcmd, Option.map_map, Blk.appliedOf, Option.map_map]
  rfl

variable {f} (h : f.abortLate = false)
include h

/-- Beyond its tally and its anchor, a fence that ends changes its task context and its command. -/
theorem Blk.fenceClose_frame :
    { b.fenceClose f with
      cores := ((b.tallyClosed f).anchorReduced f).cores
      cmds := ((b.tallyClosed f).anchorReduced f).cmds } = (b.tallyClosed f).anchorReduced f := by
  rw [b.fenceClose_eq h]
  generalize (b.tallyClosed f).anchorReduced f = x
  calc { ((x.fenceCounted f).fenceVerdict f).endTag f.c f.task f.tag with cores := x.cores, cmds := x.cmds }
    _ = { (x.fenceCounted f).fenceVerdict f with cores := x.cores, cmds := x.cmds } :=
      (congrArg (fun y : Blk => { y with cores := x.cores, cmds := x.cmds }) (Blk.endTag_frame _ _ _ _) :)
    _ = { x.fenceCounted f with cores := x.cores, cmds := x.cmds } :=
      (congrArg (fun y : Blk => { y with cores := x.cores, cmds := x.cmds }) (Blk.fenceVerdict_frame _ _) :)
    _ = x := rfl

theorem Blk.reg_fenceClose : (b.fenceClose f).reg (0x61000 + 8 * fdTally f.fd) = BitVec.ofNat 64 f.held :=
  calc (b.fenceClose f).reg (0x61000 + 8 * fdTally f.fd)
    _ = ((b.tallyClosed f).anchorReduced f).reg (0x61000 + 8 * fdTally f.fd) := (congrArg (Blk.reg · _) (b.fenceClose_frame h) :)
    _ = (b.tallyClosed f).reg (0x61000 + 8 * fdTally f.fd) := (congrArg (Blk.reg · _) (Blk.anchorReduced_frame (b.tallyClosed f) f) :)
    _ = BitVec.ofNat 64 f.held := Blk.reg_setReg_same _ _ _

theorem Blk.nulls_fenceClose : Tab.get 0 (b.fenceClose f).nulls (fdTally f.fd) = 0 := by
  have hnulls : (b.fenceClose f).nulls = (b.tallyClosed f).nulls :=
    (congrArg Blk.nulls (b.fenceClose_frame h) :).trans (congrArg Blk.nulls (Blk.anchorReduced_frame (b.tallyClosed f) f) :)
  rw [hnulls]
  exact Tab.get_set_same 0 b.nulls (fdTally f.fd) 0

theorem Blk.fences_fenceClose : ∀ x ∈ (b.fenceClose f).fences, x.id ≠ f.id := by
  have hids : (b.fenceClose f).fences.map (·.id) = (b.tallyClosed f).fences.map (·.id) :=
    (congrArg (fun x : Blk => x.fences.map (·.id)) (b.fenceClose_frame h) :).trans (Blk.fence_ids_anchorReduced _ _)
  intro x hx
  obtain ⟨y, hy, hyx⟩ := List.mem_map.mp (hids ▸ List.mem_map_of_mem hx)
  have hne := (List.mem_filter.mp hy).2
  exact hyx ▸ of_decide_eq_true hne

theorem Blk.anchor_fenceClose (hforce : fdForce f.fd = false) (hsend : fdNsend f.fd ≠ 0) : (b.fenceClose f).anchor (fdAnchor f.fd) =
    (b.anchor (fdAnchor f.fd) + (2 ^ 48 - (fdNsend f.fd * 2 ^ 32 + f.rem) % 2 ^ 48)) % 2 ^ 48 :=
  (congrArg (Blk.anchor · _) (b.fenceClose_frame h) :).trans (Blk.anchor_anchorReduced hforce hsend)

theorem Blk.appliedOf_fenceClose : (b.fenceClose f).appliedOf f.cmd = (b.appliedOf f.cmd).map (· + f.applied) := by
  have htag (x : Blk) : (x.endTag f.c f.task f.tag).appliedOf f.cmd = x.appliedOf f.cmd :=
    (congrArg (Blk.appliedOf · f.cmd) (Blk.endTag_frame x f.c f.task f.tag) :)
  rw [b.fenceClose_eq h, htag, Blk.appliedOf_fenceVerdict, Blk.appliedOf_fenceCounted, Blk.appliedOf_anchorReduced]
  rfl

end close

/-- Settles O43: a lemma for each phase says which block the event leaves (`Blk.fenceSeal_force` and its companions,
`Blk.fenceApplyStart_starts`, `Blk.fenceApplyEnd_reports`, `Blk.fenceDone_closes`); what a completed fence leaves is read through the
stages of `Blk.fenceClose_eq`. -/
theorem fencesGoThroughTheirPhases : Obligations.FencesGoThroughTheirPhases := by
  intro s i f rd hf hlive hpark
  refine ⟨fun hwait hfirst => ⟨fun hforce => ?force, fun hforce hsend hall => ?localAll, fun r hforce hsend hmet hr hall => ?remote,
    fun hforce hsend hless => ?localLess⟩, fun hseal hnone => ?start, fun b1 qs happly htodo hplain hreport hback => ?finish,
    fun b1 l hdone hwrites hpassed hmcs habort hadds => ?done⟩
  case force =>
    exact ⟨_, exec_next_congr (exec_fenceSeal i s) (Blk.fenceSeal_force hf hlive hpark hwait hfirst hforce), Blk.fence_setFence hf rfl, rfl⟩
  case localAll =>
    exact ⟨_, exec_next_congr (exec_fenceSeal i s) ((Blk.fenceSeal_local hf hlive hpark hwait hfirst hforce hsend).trans (if_pos hall)),
      Blk.fence_setFence hf rfl, rfl⟩
  case remote =>
    subst hr
    exact ⟨_, exec_next_congr (exec_fenceSeal i s) (Blk.fenceSeal_remote hf hlive hpark hwait hfirst hforce hsend hmet hall),
      Blk.fence_setFence hf rfl, rfl⟩
  case localLess =>
    rw [exec_fenceSeal, Blk.fenceSeal_local hf hlive hpark hwait hfirst hforce hsend, if_neg (Nat.not_le.mpr hless)]
    rfl
  case start =>
    obtain ⟨n, hstart⟩ := Blk.fenceApplyStart_starts hf hlive hseal hnone
    have hfence : (s.blk.heldTaken f).fence i = some f := hf
    exact ⟨_, _, exec_next_congr (exec_fenceApplyStart i s) hstart, Blk.fence_setFence hfence rfl, rfl, rfl, rfl, rfl, rfl,
      fun hdrop e he htally => Blk.of_mem_heldTaken_drop hdrop he htally, fun hdrop e he htally => Blk.mem_heldTaken_keep hdrop he htally,
      fun e htally => Blk.mem_heldTaken_other htally, rfl⟩
  case finish =>
    have hfence : ((b1.freed.writeParts f.cmd qs).1.appliedFreed (fdTally f.fd)).fence i = some f := hback
    exact ⟨_, exec_next_congr (exec_fenceApplyEnd i rd s) (Blk.fenceApplyEnd_reports rd hf hlive hpark happly htodo hplain hreport),
      Blk.fence_setFence hfence rfl, fun e he htally => Blk.not_applied_of_mem_appliedFreed he htally, rfl, rfl⟩
  case done =>
    have hadded := Blk.doAdds_frame b1 l
    have hanchor (k : Nat) : (b1.doAdds l).anchor k = b1.anchor k := (congrArg (Blk.anchor · k) hadded :)
    have happlied : (b1.doAdds l).appliedOf f.cmd = b1.appliedOf f.cmd := (congrArg (Blk.appliedOf · f.cmd) hadded :)
    refine ⟨_, exec_next_congr (exec_fenceDone i s) (Blk.fenceDone_closes hf hlive hpark hdone hwrites hpassed hmcs hadds), ?_,
      Blk.reg_fenceClose _ habort, Blk.nulls_fenceClose _ habort, fun hforce hsend => ?_, fun m hm => ?_⟩
    · rw [← Fence.id_of_fence hf]; exact Blk.fences_fenceClose _ habort
    · rw [Blk.anchor_fenceClose _ habort hforce hsend, hanchor]
    · have hcount := Blk.appliedOf_fenceClose (b1.doAdds l) habort
      rw [happlied, Blk.appliedOf, Blk.appliedOf, hm] at hcount
      exact Option.map_eq_some_iff.mp hcount

end Sys2Proof.Machine
end

section
/-! PROOFS. The rows that a fence applies or holds, and the acknowledgement of their writes. -/
namespace Sys2Proof.Machine

/-! ### The application of a row (R234, R239) -/

/-- The coalescer with the entries of a row marked as applied. -/
def Blk.rowMarked (b : Blk) (f : Fence) (r : FenceRow) : Blk :=
  { b with co := b.co.map (fun e => if e.table = r.table && e.row = r.row && e.tally = fdTally f.fd then { e with applied := true } else e) }

/-- The fence that has applied a row at home, whose entries are those of block b and whose writes have the numbers ids. -/
def Fence.rowDone (f : Fence) (b : Blk) (t : TableCopy) (r : FenceRow) (x : RowEnc) (ids : List Nat) : Fence :=
  { f with
    todo := f.todo.filter (· ≠ r), fin := f.fin ++ [r], applied := f.applied + b.rowCount r (fdTally f.fd), rows := f.rows + 1
    chunks := f.chunks + (b.rowEntries f r).length
    writes := f.writes ++ [{ table := r.table, row := r.row, ids := ids, camp := none }]
    wb := addWb t.num 1 (mseSum x.ms (0, 0)) f.wb, nan := f.nan || x.nan }

/-- The block with the errors of a row's conversion summed, its entries marked and APPLIED counted. -/
def Blk.rowCounted (b : Blk) (f : Fence) (r : FenceRow) (x : RowEnc) : Blk :=
  ((b.measure f.cmd x.ms).freed.rowMarked f r).inc 0x60120 (b.rowEntries f r).length

theorem Blk.applied_of_mem_rowMarked {b : Blk} {f : Fence} {r : FenceRow} {e : CoEntry} (he : e ∈ (b.rowMarked f r).co)
    (htable : e.table = r.table) (hrow : e.row = r.row) (htally : e.tally = fdTally f.fd) : e.applied = true := by
  obtain ⟨y, rfl⟩ := eq_of_mem_map_ite (p := fun e : CoEntry => (e.table = r.table && e.row = r.row && e.tally = fdTally f.fd) = true) he
    (by simp [htable, hrow, htally])
  rfl

/-- A row that is at home, in a table without replicas, is written where it was read. -/
theorem Blk.rowApply_home {b b2 : Blk} {f : Fence} {t : TableCopy} {e : List W64} {r : FenceRow} {x : RowRead}
    {y : RowEnc × List Byte × List Byte} {ps : List WPart} (hhome : x.place = .home) (hy : y = b.rowUpdate f t e r.row x)
    (hwrites : Blk.xlWrites (.entry f.id) f.ctx (rowWrites t r.row false y none) b = (b2, .ok ps)) :
    b.rowApply f t e r x none = ((b2.writeParts f.cmd ps).1.rowCounted f r y.1).setFence
      (f.rowDone (b2.writeParts f.cmd ps).1 t r y.1 (b2.writeParts f.cmd ps).2) := by
  subst hy
  simp only [Blk.rowApply, hhome, Option.bind_none, hwrites, List.nil_append, List.append_nil]
  rfl

/-! ### ENTRY_APPLY -/

theorem exec_entryApply (i : Nat) (rd : View) (s : State) : exec (.entryApply i rd) s = .next (s.withBlk (s.blk.entryApply i rd)) := rfl

/-- Once a row has been taken, the rows behind it stay for the next event. -/
theorem foldl_of_taken {α β : Type} (g : α × Bool → β → α × Bool) (l : List β) (a : α) :
    l.foldl (fun x y => if x.2 = true then x else g x y) (a, true) = (a, true) := foldl_eq_self _ _ l fun _ _ => if_pos rfl

section entry
variable {b : Blk} {i : Nat} {f : Fence} (rd : View) {r : FenceRow} {rest : List FenceRow} (hf : b.fence i = some f) (hlive : b.live = true)
    (happly : f.phase = .apply) (hpark : f.park = none) (htodo : f.todo = r :: rest)
include hf hlive happly hpark htodo

/-- The first row, once its reads have returned, is the one that is applied. -/
theorem Blk.entryApply_applies {b1 : Blk} {t : TableCopy} {e : List W64} {x : RowRead}
    (htab : f.tabs.find? (fun t => t.num = r.table) = some t) (hentry : f.list.find? (fun e => leTable e = r.table) = some e)
    (hreps : t.reprows = 0) (hread : b.rowRead i t rd r.row = (b1, .ok x)) : b.entryApply i rd = b1.rowApply f t e r x none := by
  simp only [Blk.entryApply, hf, hlive, happly, hpark, htodo, htab, hentry, hreps, hread, Ds.bind, List.foldl_cons, foldl_of_taken,
    Option.isSome_none, ne_eq, not_true_eq_false, decide_false, Bool.not_true, Bool.or_self, Bool.false_eq_true, if_false, if_true]
  rfl

/-- A first row without a table in the list is held. -/
theorem Blk.entryApply_holds (htab : f.tabs.find? (fun t => t.num = r.table) = none) : b.entryApply i rd = b.holdRow f r false := by
  simp only [Blk.entryApply, hf, hlive, happly, hpark, htodo, htab, List.foldl_cons, foldl_of_taken, Option.isSome_none, ne_eq,
    not_true_eq_false, decide_false, Bool.not_true, Bool.or_self, Bool.false_eq_true, if_false]

end entry

/-! ### FENCE_ROW_WRITE_ACK -/

theorem exec_fenceRowWriteAck (i table row : Nat) (s : State) :
    exec (.fenceRowWriteAck i table row) s = .next (s.withBlk (s.blk.rowAck i table row)) := rfl

theorem Blk.rowAck_passed {b : Blk} {i table row : Nat} {f : Fence} {w : FenceW} (hf : b.fence i = some f) (hlive : b.live = true)
    (hw : f.writes.find? (fun w => w.table = table && w.row = row) = some w) (hpassed : b.passed w.ids = true) (hcamp : w.camp = none) :
    b.rowAck i table row = b.setFence { f with writes := f.writes.erase w } := by
  simp only [Blk.rowAck, hf, hw, hlive, hpassed, hcamp, Bool.not_true, Bool.or_self, Bool.false_eq_true, if_false]

/-- Settles O44: `Blk.entryApply_applies` with `Blk.rowApply_home`, and `Blk.entryApply_holds`, say what becomes of the first row that is
left, all of it in one event (log entry 72); `Blk.rowAck_passed` says what an acknowledgement leaves. -/
theorem rowsAreApplied : Obligations.RowsAreApplied := by
  intro s i f rd hf hlive
  refine ⟨fun r rest t e b1 b2 b3 x y ps happly hpark htodo htab hentry hreps hread hhome hy hwrites hb3 hback => ?applied,
    fun r rest happly hpark htodo htab => ?held, fun table row w hw hpassed hcamp => ?acknowledged⟩
  case applied =>
    subst hb3
    have hblock := (Blk.entryApply_applies rd hf hlive happly hpark htodo htab hentry hreps hread).trans (Blk.rowApply_home hhome hy hwrites)
    have hfence : ((b2.writeParts f.cmd ps).1.rowCounted f r y.1).fence i = some f := hback
    exact ⟨_, _, exec_next_congr (exec_entryApply i rd s) hblock, Blk.fence_setFence hfence rfl, rfl, rfl, rfl, rfl, rfl, rfl,
      fun c hc htable hrow htally => Blk.applied_of_mem_rowMarked hc htable hrow htally, Blk.reg_setReg_same _ _ _, rfl, rfl, rfl⟩
  case held => exact exec_next_congr (exec_entryApply i rd s) (Blk.entryApply_holds rd hf hlive happly hpark htodo htab)
  case acknowledged =>
    exact ⟨_, exec_next_congr (exec_fenceRowWriteAck i table row s) (Blk.rowAck_passed hf hlive hw hpassed hcamp),
      Blk.fence_setFence hf rfl, rfl⟩

end Sys2Proof.Machine
end

section
/-! PROOFS. Copies: a block that lands is cut into the parts of its destination, and the last block ends the copy. -/
namespace Sys2Proof.Machine

/-! ### The bytes of a block (R267) -/

/-- What has been cut off so far and what is left of the bytes of a block, after part p of its destination. -/
def cutPart (a : List WPart × List Byte) (p : WPart) : List WPart × List Byte :=
  (a.1 ++ [{ p with bytes := a.2.take p.bytes.length }], a.2.drop p.bytes.length)

/-- Parts with the places and the lengths of the destination's are what the bytes they hold are cut into. -/
theorem foldl_cutPart {ps qs : List WPart} (hplace : qs.map (fun p => (p.t, p.pa)) = ps.map (fun p => (p.t, p.pa)))
    (hlength : qs.map (fun p => p.bytes.length) = ps.map (fun p => p.bytes.length)) (before : List WPart) :
    ps.foldl cutPart (before, qs.flatMap (fun p => p.bytes)) = (before ++ qs, []) := by
  induction ps generalizing qs before with
  | nil =>
    obtain rfl := List.map_eq_nil_iff.mp hplace
    simp
  | cons p ps ih =>
    cases qs with
    | nil => simp at hplace
    | cons q qs =>
      obtain ⟨hhere, hplace⟩ := List.cons_eq_cons.mp hplace
      obtain ⟨hlen, hlength⟩ := List.cons_eq_cons.mp hlength
      obtain ⟨ht, hpa⟩ := Prod.mk.inj hhere
      have hfirst : cutPart (before, (q :: qs).flatMap (fun p => p.bytes)) p = (before ++ [q], qs.flatMap (fun p => p.bytes)) := by
        simp only [cutPart, ← ht, ← hpa, ← hlen, List.flatMap_cons, List.take_left, List.drop_left]
      rw [List.foldl_cons, hfirst, ih hplace hlength, List.append_assoc, List.singleton_append]

/-! ### COPY_BLOCK_LANDED -/

theorem exec_copyBlockLanded (id k : Nat) (rd : View) (s : State) :
    exec (.copyBlockLanded id k rd) s = .next (s.withBlk (s.blk.copyLanded id k rd)) := rfl

/-- What a landed block leaves of its copy: the block is noted, and the last one ends the copy and its tag. -/
def Blk.blockNoted (b : Blk) (x : Copying) (id k : Nat) : Blk :=
  if x.done.length + 1 = x.blocks then ({ b with copies := b.copies.filter (fun z => z.id ≠ id) } : Blk).endTag x.c x.task x.tag
  else { b with copies := b.copies.map (fun z => if z.id = id then { x with done := k :: x.done } else z) }

/-- A block whose source and destination are translated and whose bytes have been read is written where its destination lies. -/
theorem Blk.copyLanded_lands {b b1 b2 b3 : Blk} {id k n pa : Nat} {rd : View} {x : Copying} {t : Tlb} {ps qs : List WPart}
    (hx : b.copies.find? (fun x => x.id = id) = some x) (hlive : b.coreLive x.c = true) (hpark : x.park = none) (hk : k < x.blocks)
    (hdone : k ∉ x.done) (hn : n = x.hi k - x.lo k) (hsrc : b.xl (.copy id) x.ctx (x.lo k) false = (b1, .ok t pa))
    (hdst : b1.xlWrite (.copy id) x.ctx (x.dst + (x.lo k - x.src)) (List.replicate n 0) = (b2, .parts ps))
    (hok : copyRefused t pa ps = false)
    (hread : b2.vread (.copy id) x.ctx rd (x.lo k) n = (b3, .bytes (qs.flatMap (fun p => p.bytes))))
    (hplace : qs.map (fun p => (p.t, p.pa)) = ps.map (fun p => (p.t, p.pa)))
    (hlength : qs.map (fun p => p.bytes.length) = ps.map (fun p => p.bytes.length)) :
    b.copyLanded id k rd =
      ((b3.doParts (some x.cmd) qs).updCmd x.cmd (fun m => { m with rows := m.rows + n / 64 })).blockNoted x id k := by
  have hcut : (ps.foldl cutPart ([], qs.flatMap (fun p => p.bytes))).1 = qs := by rw [foldl_cutPart hplace hlength, List.nil_append]
  have hgoes : (!b.coreLive x.c || x.park.isSome || decide (x.blocks ≤ k) || x.done.contains k) = false := by
    simp [hlive, hpark, hk, hdone]
  subst hn
  simp only [Blk.copyLanded, hx, hgoes, hsrc, hdst, hok, hread, Bool.false_eq_true, if_false]
  change Blk.blockNoted (Blk.updCmd (Blk.doParts _ _ (List.foldl cutPart _ _).1) _ _) x id k = _
  rw [hcut]

/-- Settles O35: `Blk.copyLanded_lands` says what the event of a block leaves, all of the block in one event (log entry 74), with its
bytes cut into the destination's parts as `foldl_cutPart` says; whether it is the last decides which case of `Blk.blockNoted` holds. -/
theorem copyBlocksLand : Obligations.CopyBlocksLand := by
  intro s id k n rd x b1 b2 b3 t pa ps qs l hx hlive hpark hk hdone hn hsrc hdst hok hread hplace hbytes hlength
  subst hbytes
  have hlands := exec_next_congr (exec_copyBlockLanded id k rd s)
    (Blk.copyLanded_lands hx hlive hpark hk hdone hn hsrc hdst hok hread hplace hlength)
  exact ⟨_, rfl, fun hlast => exec_next_congr hlands (if_pos hlast), fun hmore => exec_next_congr hlands (if_neg hmore)⟩

end Sys2Proof.Machine
end

section
/-! PROOFS. Dispatcher commands whose slots pass their checks: RESUME, ABORT, ANCHOR and ANCHOR_WAIT. -/
namespace Sys2Proof.Machine

/-! ### The part that dispatcher commands share (R351, R501) -/

/-- A dispatcher command whose slot passes its checks begins and acts. -/
theorem Blk.disp_acts {b : Blk} {id op : Nat} {m : Cmd} {bad : Cmd → Bool} (h : DispGood b id op (bad m) m) (act : Blk → Cmd → Blk) :
    b.disp id op bad act = act (b.begun id) m := by
  obtain ⟨⟨hcmd, hlive, hdisp, hop, hphase, hfresh, hgoing⟩, htime, hver, hgood⟩ := h
  have hbegins : (!b.live || !m.isDisp || decide (m.op ≠ op) || decide (m.phase ≠ .disp) || m.begun || m.ending) = false := by
    simp [hlive, hdisp, hop, hphase, hfresh, hgoing]
  have htime : (b.begun id).dlHit m = false := htime
  rw [Blk.begun] at htime ⊢
  simp only [Blk.disp, hcmd, hbegins, htime, hver, hgood, ne_eq, not_true_eq_false, Bool.false_eq_true, if_false]

theorem Blk.cmd_begun {b : Blk} {id : Nat} {m : Cmd} (h : b.cmd id = some m) : (b.begun id).cmd id = some { m with begun := true } := by
  rw [Blk.begun, Blk.cmd_updCmd_same _ id (fun x => { x with begun := true }) (fun _ => rfl), h, Option.map_some]

theorem Blk.cmd_cmdReady (b : Blk) (id : Nat) : (b.cmdReady id).cmd id = (b.cmd id).map (fun x => { x with ready := true }) :=
  b.cmd_updCmd_same id _ (fun _ => rfl)

/-! ### RESUME (R285) -/

theorem exec_resume (id : Nat) (s : State) : exec (.resume id) s = .next (s.withBlk (s.blk.disp id 0x21 rsBad Blk.resume)) := rfl

/-- The block with slot i of the fault table free, its generation g kept. -/
def Blk.slotFreed (b : Blk) (i g : Nat) : Blk := { b with ft := Tab.set {} b.ft i { gen := g } }

/-- The waiters of the freed slot walk again and the passes it parked go on, at once (log entry 87). -/
def Blk.waitersResumed (b : Blk) (f : FtSlot) (i g : Nat) : Blk :=
  ((f.waiters.foldl (fun b x => b.resumeReq (i, g) f.ctx x) b).resumePasses (i, g)).ftRetry

section resume
variable {b : Blk} {m : Cmd} {i g : Nat} {f : FtSlot} (hi : i = fld (m.par 0) 8 8) (hg : g = fld (m.par 0) 16 8)
  (hf : f = Tab.get {} b.ft i)
include hi hg hf

/-- A free slot, or one of another generation, stays as it is. -/
theorem Blk.resume_stale (h : f.valid = false ∨ f.gen ≠ g) : b.resume m = b.cmdReady m.id := by
  subst hi hg hf
  exact if_pos (by simpa using h)

theorem Blk.resume_current (hvalid : f.valid = true) (hgen : f.gen = g) :
    b.resume m = ((b.slotFreed i g).waitersResumed f i g).cmdReady m.id := by
  subst hi hf hgen
  refine (if_neg (by simp [hvalid, hg])).trans ?_
  rw [← hg]
  rfl

end resume

/-! ### ABORT (R353) -/

theorem exec_abort {id : Nat} {s : State} {m : Cmd} (hcmd : s.blk.cmd id = some m) (hfresh : m.begun = false) :
    exec (.abort id) s = .next (s.withBlk (s.blk.disp id 0x23 abBad Blk.abortGo)) := by
  change execAbort id s = _
  simp only [execAbort, upd, State.withBlk, hcmd, hfresh, Bool.false_eq_true, if_false]

/-- The block with the position that an ABORT names noted in its command. -/
def Blk.abortNoted (b : Blk) (id : Nat) (p : Nat × Nat) : Blk := b.updCmd id (fun x => { x with abortOf := some p, unitN := 0 })

theorem Blk.cmd_abortNoted {b : Blk} {id : Nat} {m : Cmd} (p : Nat × Nat) (h : b.cmd id = some m) :
    (b.abortNoted id p).cmd id = some { m with abortOf := some p, unitN := 0 } := by
  rw [Blk.abortNoted, Blk.cmd_updCmd_same b id (fun x => { x with abortOf := some p, unitN := 0 }) (fun _ => rfl), h, Option.map_some]

section abort
variable {b : Blk} {m : Cmd} {n pos : Nat} (htarget : (n, pos) = m.target)
include htarget

/-- A position ahead of HEAD is marked where a mark is free. -/
theorem Blk.abortGo_marks (hahead : ahead (b.ringHead n) pos < 2 ^ 16) (hin : ahead (b.ringHead n) pos ≤ (b.ring n).size)
    (hnew : pos ∉ (b.ring n).marks) (hroom : (b.ring n).marks.length < 16) :
    b.abortGo m = (b.abortNoted m.id (n, pos)).updRing n (fun x => { x with marks := x.marks ++ [pos] }) := by
  have hnew : (b.ring n).marks.contains pos = false := by simpa using hnew
  simp only [Blk.abortGo, ← htarget, if_pos hahead, if_neg (Nat.not_lt.mpr hin), hnew, hroom, Bool.false_eq_true, if_false, if_true]
  rfl

/-- A command that has been copied ends, unless a fence of it has left WAIT. -/
theorem Blk.abortGo_ends {y : Cmd} (hbehind : 2 ^ 16 ≤ ahead (b.ringHead n) pos)
    (hy : (b.abortNoted m.id (n, pos)).cmds.find? (fun y => y.ring = n && y.pos = pos && y.served.isNone) = some y)
    (hgoing : y.ending = false) (hwait : ∀ f ∈ b.fences, f.cmd = y.id → f.phase = .wait) :
    b.abortGo m = (b.abortNoted m.id (n, pos)).endCmd y.id .abort := by
  have hfences : (b.abortNoted m.id (n, pos)).fences.any (fun f => f.cmd = y.id && f.phase ≠ .wait) = false :=
    List.any_eq_false.mpr fun f hf => by simpa using hwait f hf
  rw [Blk.abortNoted] at hy hfences ⊢
  simp only [Blk.abortGo, ← htarget, if_neg (Nat.not_lt.mpr hbehind), hy, Blk.abortCmd, hgoing, hfences, Bool.false_eq_true, if_false]

end abort

/-! ### ANCHOR and ANCHOR_WAIT (R354, R376, R377) -/

theorem exec_anchor (id : Nat) (s : State) : exec (.anchor id) s =
    .next (s.withBlk (s.blk.disp id 0x24 (fun m => anBad m || decide (2 ≤ m.anOp))
      (fun b m => (b.signal m.anNum (m.anOp = 1) m.anVal).cmdReady id))) := rfl

theorem exec_anchorWait (id : Nat) (s : State) : exec (.anchorWait id) s =
    .next (s.withBlk (s.blk.disp id 0x25 (fun m => anBad m || m.anOp != 0)
      (fun b m => b.waitAnchor { anchor := m.anNum, target := m.anVal, who := .cmd id }))) := by
  have hbad : (fun m => anBad m || m.anOp != 0) = fun m => anBad m || decide (m.anOp ≠ 0) := by
    funext m
    by_cases h : m.anOp = 0 <;> simp [h]
  rw [hbad]
  rfl

/-- A command whose target is met is ready at once. -/
theorem Blk.waitAnchor_met {b : Blk} {k v id : Nat} (h : v ≤ b.anchor k) :
    b.waitAnchor { anchor := k, target := v, who := .cmd id } = b.cmdReady id := if_pos h

theorem Blk.waitAnchor_waits {b : Blk} {w : Waiter} (h : b.anchor w.anchor < w.target) :
    b.waitAnchor w = { b with waiters := b.waiters ++ [w] } := if_neg (Nat.not_le.mpr h)

/-- The waiters that a signal leaves at its anchor wait for more than it counts. -/
theorem Blk.waits_of_mem_signal {b : Blk} {k v : Nat} {isSet : Bool} {w : Waiter} (hw : w ∈ (b.signal k isSet v).waiters)
    (hk : w.anchor = k) : (b.signal k isSet v).anchor k < w.target := by
  have hkept : (b.signal k isSet v).waiters = b.waiters.filter (fun w => !(decide (w.anchor = k) &&
      decide (w.target ≤ (b.setAnchor k (if isSet then v else b.anchor k + v)).anchor k))) :=
    foldl_wake_keeps Blk.waiters (fun b w => (congrArg Blk.waiters (b.wake_frame w) :)) _ _
  rw [hkept, List.mem_filter] at hw
  rw [Blk.anchor_signal, if_pos rfl]
  simpa [hk] using hw.2

/-- The release of waiters changes no more of a command than that it is ready. -/
theorem Blk.cmd_cmdReady_wake (b : Blk) (w : Waiter) (id : Nat) : ((b.wake w).cmdReady id).cmd id = (b.cmdReady id).cmd id := by
  cases hwho : w.who with
  | task c t => rw [Blk.wake, hwho]; rfl
  | fence f => rw [Blk.wake, hwho]; rfl
  | cmd j =>
    have hwake : b.wake w = b.cmdReady j := by rw [Blk.wake, hwho]; rfl
    rw [hwake, Blk.cmd_cmdReady, Blk.cmd_cmdReady]
    by_cases h : id = j
    · rw [← h, Blk.cmd_cmdReady, Option.map_map]; rfl
    · rw [Blk.cmdReady, Blk.cmd_updCmd_other b (fun x => { x with ready := true }) (fun _ => rfl) h]

theorem Blk.cmd_cmdReady_signal (b : Blk) (k v id : Nat) (isSet : Bool) :
    ((b.signal k isSet v).cmdReady id).cmd id = (b.cmdReady id).cmd id :=
  foldl_wake_keeps (fun b => (b.cmdReady id).cmd id) (fun b w => b.cmd_cmdReady_wake w id) _ _

/-- Settles O28: `Blk.disp_acts` begins each command, and a lemma for each of its cases says what it then does. RESUME ends at once, and
what the slot held walks again at its next event (log entry 87). -/
theorem dispatcherCommandsAct : Obligations.DispatcherCommandsAct := by
  intro s id m
  refine ⟨fun i g f hgood hi hg hf => ⟨fun hstale => ?stale, fun hvalid hgen => ?current⟩,
    fun n pos d hgood htarget hd => ⟨fun hahead hin hnew hroom => ?marks, fun b1 y hb1 hbehind hy hgoing hwait => ?ends⟩,
    fun hgood => ?anchor, fun hgood => ⟨fun hmet => ?met, fun hless => ?waits⟩⟩
  case stale =>
    rw [exec_resume, Blk.disp_acts hgood, Blk.resume_stale hi hg (b := s.blk.begun id) hf hstale, Cmd.id_of_cmd hgood.cmd]
  case current =>
    refine ⟨(s.blk.begun id).slotFreed i g, ?_, Tab.get_set_same _ _ _ _, rfl⟩
    rw [exec_resume, Blk.disp_acts hgood, Blk.resume_current hi hg (b := s.blk.begun id) hf hvalid hgen, Cmd.id_of_cmd hgood.cmd]
    rfl
  case marks =>
    subst hd
    refine ⟨((s.blk.begun id).abortNoted id (n, pos)).updRing n (fun x => { x with marks := x.marks ++ [pos] }), ?_,
      Blk.ring_updRing_same _ _ _, fun k hk => Blk.ring_updRing_other _ _ hk,
      Blk.cmd_abortNoted _ (Blk.cmd_begun hgood.cmd), rfl⟩
    rw [exec_abort hgood.cmd hgood.fresh, Blk.disp_acts hgood,
      Blk.abortGo_marks htarget (b := s.blk.begun id) hahead hin hnew hroom, Cmd.id_of_cmd hgood.cmd]
  case ends =>
    subst hd hb1
    have hid := Cmd.id_of_cmd hgood.cmd
    rw [exec_abort hgood.cmd hgood.fresh, Blk.disp_acts hgood,
      Blk.abortGo_ends htarget (b := s.blk.begun id) hbehind (by rw [hid]; exact hy) hgoing hwait, hid]
    rfl
  case anchor =>
    have hframe := Blk.signal_frame (s.blk.begun id) m.anNum (m.anOp = 1) m.anVal
    have hanchor (k : Nat) := Blk.anchor_signal (s.blk.begun id) m.anNum (m.anOp = 1) m.anVal k
    refine ⟨((s.blk.begun id).signal m.anNum (m.anOp = 1) m.anVal).cmdReady id, ?_, ?_, fun k hk => (hanchor k).trans (if_neg hk),
      fun w hw hk => Blk.waits_of_mem_signal hw hk, ?_, (congrArg Blk.regs hframe :), (congrArg Blk.dev hframe :),
      (congrArg Blk.host hframe :)⟩
    · rw [exec_anchor, Blk.disp_acts (bad := fun m => anBad m || decide (2 ≤ m.anOp)) hgood]
    · refine (hanchor m.anNum).trans ?_
      simp only [if_true, decide_eq_true_eq]
      rfl
    · rw [Blk.cmd_cmdReady_signal, Blk.cmd_cmdReady, Blk.cmd_begun hgood.cmd, Option.map_some]
  case met =>
    rw [exec_anchorWait, Blk.disp_acts (bad := fun m => anBad m || m.anOp != 0) hgood,
      Blk.waitAnchor_met (b := s.blk.begun id) hmet]
  case waits =>
    rw [exec_anchorWait, Blk.disp_acts (bad := fun m => anBad m || m.anOp != 0) hgood,
      Blk.waitAnchor_waits (b := s.blk.begun id) (w := { anchor := m.anNum, target := m.anVal, who := .cmd id }) hless]
    rfl

end Sys2Proof.Machine
end

section
/-! PROOFS. Page walks that complete: the checks of a descriptor, the walk that leaves its walker or starts again, the caches it fills, and
what the access that waited is told. -/
namespace Sys2Proof.Machine

theorem exec_walkComplete (ctx : Fin 64) (gran : BitVec 27) (descs : List DescRead) (parity : Bool) (s : State) :
    exec (.walkComplete ctx gran descs parity) s = .next (s.withBlk (s.blk.walkComplete ctx gran.toNat descs parity)) := rfl

/-! ### The checks of a descriptor (R277) -/

theorem Blk.checkDesc_notValid {b : Blk} {user wr : Bool} {lvl : Nat} {x : W64} (h : bit x 0 = false) :
    b.checkDesc user wr lvl (.word x) = .bad 1 := by
  simp only [Blk.checkDesc, h]; rfl

theorem Blk.checkDesc_notUser {b : Blk} {wr : Bool} {lvl : Nat} {x : W64} (hv : bit x 0 = true) (h : bit x 4 = false) :
    b.checkDesc true wr lvl (.word x) = .bad 5 := by
  simp only [Blk.checkDesc, hv, h]; rfl

theorem Blk.checkDesc_notWritable {b : Blk} {lvl : Nat} {x : W64} (hv : bit x 0 = true) (h : bit x 2 = false) :
    b.checkDesc false true lvl (.word x) = .bad 4 := by
  simp only [Blk.checkDesc, hv, h]; rfl

theorem Blk.checkDesc_rootLeaf {b : Blk} {x : W64} (hv : bit x 0 = true) (h : bit x 1 = true) :
    b.checkDesc false false 5 (.word x) = .bad 9 := by
  simp only [Blk.checkDesc, hv, h]; rfl

theorem Blk.checkDesc_pointer {b : Blk} {x : W64} (hv : bit x 0 = true) (h : bit x 1 = false) :
    b.checkDesc false false 3 (.word x) = .bad 8 ∧ b.checkDesc false false 4 (.word x) = .ptr := by
  simp only [Blk.checkDesc, hv, h]; exact ⟨rfl, rfl⟩

/-! ### What a walk reads of the block -/

/-- The checks ask the block for the regions that are active only. -/
theorem Blk.checkDesc_congr {b x : Blk} (h : x.sec = b.sec) (user wr : Bool) (lvl : Nat) (d : DescRead) :
    x.checkDesc user wr lvl d = b.checkDesc user wr lvl d := by
  cases d with
  | poison => rfl
  | word w =>
    have hactive (r : Nat) : x.active r = b.active r := by rw [Blk.active, Blk.active, h]
    simp only [Blk.checkDesc, hactive]

theorem Blk.walk_congr {b x : Blk} (h : x.sec = b.sec) (user wr : Bool) (lvl : Nat) (ds : List DescRead) :
    x.walk user wr lvl ds = b.walk user wr lvl ds := by
  induction ds generalizing lvl with
  | nil => rfl
  | cons d ds ih => simp only [Blk.walk, Blk.checkDesc_congr h, ih]

/-! ### A walk leaves its walker (R279) -/

/-- A change of the entry at place i that v does not see. -/
theorem map_changeAt {α β : Type} {v : α → β} {f : α → α} (h : ∀ x, v (f x) = v x) (l : List α) (i : Nat) :
    (l.take i ++ ((l.drop i).take 1).map f ++ l.drop (i + 1)).map v = l.map v := by
  have hcomp : v ∘ f = v := funext h
  rw [List.map_append, List.map_append, List.map_map, hcomp, ← List.map_append, ← List.take_add, ← List.map_append,
    List.take_append_drop]

/-- A walk without the privilege that it was started with. -/
def Walk.plain (x : Walk) : Walk := { x with user := false }

/-- The walks that are left once walk w has left its walker: without it, or with it at the end, where it starts again. -/
def Blk.walksLeft (b : Blk) (w : Walk) (again : Bool) : List Walk :=
  b.walks.filter (fun x => !(x.ctx = w.ctx && x.gran = w.gran)) ++ (if again && !w.reqs.isEmpty then [{ w with discard := false }] else [])

/-- The walks l, of which the one at place i takes the privilege of its context anew. -/
def Blk.freshAt (b : Blk) (i : Nat) (l : List Walk) : List Walk :=
  l.take i ++ ((l.drop i).take 1).map (fun x => { x with user := b.rb (0x40000 + 8 * x.ctx) 1 }) ++ l.drop (i + 1)

theorem Blk.map_freshAt (b : Blk) (i : Nat) (l : List Walk) : (b.freshAt i l).map Walk.plain = l.map Walk.plain :=
  map_changeAt (v := Walk.plain) (f := fun x => { x with user := b.rb (0x40000 + 8 * x.ctx) 1 }) (fun _ => rfl) l i

/-- No walk starts, or one does, and is counted. -/
theorem Blk.walkLeave_cases (b : Blk) (w : Walk) (again : Bool) :
    b.walkLeave w again = { b with walks := b.walksLeft w again } ∨
      ∃ i, b.walkLeave w again = { b.inc 0x40320 1 with walks := b.freshAt i (b.walksLeft w again) } := by
  unfold Blk.walkLeave
  extract_lets rest l fresh
  by_cases hstarts : (decide (l.length ≥ 16) || (again && !w.reqs.isEmpty)) = true
  · exact .inr ⟨_, if_pos hstarts⟩
  · exact .inl (if_neg hstarts)

theorem Blk.walkLeave_frame (b : Blk) (w : Walk) (again : Bool) :
    { b.walkLeave w again with walks := b.walks, regs := b.regs } = b := by
  obtain h | ⟨i, h⟩ := b.walkLeave_cases w again
  · rw [h]
  · rw [h]; rfl

theorem Blk.rb_walkLeave (b : Blk) (w : Walk) (again : Bool) {o : Nat} (i : Nat) (ho : o ≠ 0x40320) :
    (b.walkLeave w again).rb o i = b.rb o i := by
  obtain h | ⟨k, h⟩ := b.walkLeave_cases w again
  · rw [h]; rfl
  · rw [h]; exact congrArg (bit · i) ((b.reg_inc 0x40320 o 1).trans (if_neg ho))

theorem Blk.walks_walkLeave (b : Blk) (w : Walk) (again : Bool) :
    (b.walkLeave w again).walks.map Walk.plain = (b.walksLeft w again).map Walk.plain := by
  obtain h | ⟨i, h⟩ := b.walkLeave_cases w again
  · rw [h]
  · rw [h]; exact b.map_freshAt i _

theorem Blk.walkLeave_leaves {b : Blk} {w x : Walk} (hx : x ∈ (b.walkLeave w false).walks) : ¬ (x.ctx = w.ctx ∧ x.gran = w.gran) := by
  obtain ⟨y, hy, hyx⟩ := List.mem_map.mp (b.walks_walkLeave w false ▸ List.mem_map_of_mem hx)
  have hctx : y.ctx = x.ctx := (congrArg Walk.ctx hyx :)
  have hgran : y.gran = x.gran := (congrArg Walk.gran hyx :)
  have hother : ¬ y.ctx = w.ctx ∨ ¬ y.gran = w.gran := by
    simp only [Blk.walksLeft, Bool.false_and, Bool.false_eq_true, if_false, List.append_nil, List.mem_filter] at hy
    simpa using hy.2
  rw [← hctx, ← hgran]
  exact not_and_of_not_or_not hother

theorem Blk.walkLeave_restarts (b : Blk) {w : Walk} (h : w.reqs ≠ []) :
    ∃ x ∈ (b.walkLeave w true).walks, x.ctx = w.ctx ∧ x.gran = w.gran ∧ x.reqs = w.reqs ∧ x.discard = false := by
  have hback : { w with discard := false } ∈ b.walksLeft w true := by simp [Blk.walksLeft, h]
  obtain ⟨x, hx, hxw⟩ := List.mem_map.mp ((b.walks_walkLeave w true).symm ▸ List.mem_map_of_mem (f := Walk.plain) hback)
  exact ⟨x, hx, (congrArg Walk.ctx hxw :), (congrArg Walk.gran hxw :), (congrArg Walk.reqs hxw :), (congrArg Walk.discard hxw :)⟩

/-! ### The caches that a walk fills (R278, R279) -/

theorem Blk.walkFill_frame (b : Blk) (w : Walk) (ds : List DescRead) : { b.walkFill w ds with wcache := b.wcache, l2 := b.l2 } = b := by
  unfold Blk.walkFill
  split
  · dsimp only; split <;> split <;> rfl
  · rfl

theorem Blk.mem_fillL2 (b : Blk) (t : Tlb) : t ∈ (b.fillL2 t).l2 := by
  simp [Blk.fillL2, keepN]

/-- A walk whose descriptors let a read pass fills the L2 TLB with its leaf's translation. -/
theorem Blk.mem_walkFill {b : Blk} {w : Walk} {ds : List DescRead} {lvl : Nat} {d : W64} (h : b.walk w.user false 5 ds = .ok lvl d) :
    leafTlb w.ctx w.gran lvl d (allWritable (ds.take (6 - lvl))) ∈ (b.walkFill w ds).l2 := by
  simp only [Blk.walkFill, h, reduceCtorEq, if_false]
  exact Blk.mem_fillL2 _ _

/-! ### The access that waited on a walk (R286) -/

/-- The L1 TLB of the requester's core, if it has one, filled. -/
def Blk.fillL1Of (b : Blk) (r : Req) (t : Tlb) : Blk :=
  match r.core with
  | some c => b.fillL1 c t
  | none => b

theorem Blk.fillL1Of_frame (b : Blk) (r : Req) (t : Tlb) : { b.fillL1Of r t with l1 := b.l1 } = b := by
  unfold Blk.fillL1Of; split <;> rfl

section req
variable {b : Blk} {w : Walk} {ds : List DescRead} {r : Req} {va lvl : Nat} {wr : Bool} {d : W64}

theorem Blk.walkReq_ok (h : b.walk w.user wr 5 ds = .ok lvl d) : b.walkReq w ds (r, va, wr) =
    (b.fillL1Of r (leafTlb w.ctx w.gran lvl d (allWritable (ds.take (6 - lvl))))).walkRetry r := by
  simp only [Blk.walkReq, h]
  rfl

/-- A fault that is not resumable, or that meets a fault ring which is off, tells its access. -/
theorem Blk.walkReq_bad {kind : Nat} (h : b.walk w.user wr 5 ds = .fail kind lvl d) (hopen : b.endedOut r = none)
    (hfinal : resumable kind = false ∨ b.rb 0x11000 0 = false) : b.walkReq w ds (r, va, wr) = b.walkBad r w.ctx kind va wr := by
  have hfinal : (resumable kind && b.rb 0x11000 0) = false := Bool.and_eq_false_iff.mpr hfinal
  simp only [Blk.walkReq, h, hopen, hfinal, Bool.false_eq_true, if_false]

end req

/-! ### WALK_COMPLETE -/

theorem Blk.walkComplete_parity {b : Blk} (ctx gran : Nat) (descs : List DescRead) (hlive : b.live = true) :
    b.walkComplete ctx gran descs true = b.blockFatal 0x14 := by
  simp only [Blk.walkComplete, hlive, Bool.not_true, Bool.false_eq_true, if_false, if_true]

/-- The reads of a walk counted; k of its descriptors were in the walk cache. -/
def Blk.walkCounted (b : Blk) (w : Walk) (ds : List DescRead) (k : Nat) : Blk := b.inc 0x40328 (6 - b.walkLevel w ds - k)

/-- The block once walk w has left its walker and has filled the caches. -/
def Blk.walkEnded (b : Blk) (w : Walk) (ds : List DescRead) (k : Nat) : Blk :=
  ((b.walkCounted w ds k).walkLeave w false).walkFill w ds

section ends
variable {b : Blk} {ctx gran : Nat} {descs ds : List DescRead} {w : Walk} {r : Req} {va : Nat} {wr : Bool} (hlive : b.live = true)
  (hw : (b.walks.take 16).find? (fun w => w.ctx = ctx && w.gran = gran) = some w) (hreqs : w.reqs = [(r, va, wr)])
  (hds : ds = b.cachedDescs ctx gran ++ descs) (hlong : b.walk w.user wr 5 ds ≠ .short)
include hlive hw hreqs hds hlong

theorem Blk.walkComplete_ends (hkept : w.discard = false) : b.walkComplete ctx gran descs false =
    (b.walkEnded w ds (b.cachedDescs ctx gran).length).walkReq w ds (r, va, wr) := by
  subst hds
  simp only [Blk.walkComplete, hlive, hw, hreqs, hlong, hkept, List.any_cons, List.any_nil, decide_false, Bool.or_self, Bool.not_true,
    Bool.false_eq_true, if_false, List.foldl_cons, List.foldl_nil]
  rfl

theorem Blk.walkComplete_restarts (hmarked : w.discard = true) : b.walkComplete ctx gran descs false =
    (b.walkCounted w ds (b.cachedDescs ctx gran).length).walkLeave w true := by
  subst hds
  simp only [Blk.walkComplete, hlive, hw, hreqs, hlong, hmarked, List.any_cons, List.any_nil, decide_false, Bool.or_self, Bool.not_true,
    Bool.false_eq_true, if_false, if_true]
  rfl

end ends

section ended
variable (b : Blk) (w : Walk) (ds : List DescRead) (k : Nat)

theorem Blk.walkEnded_frame :
    { b.walkEnded w ds k with regs := b.regs, walks := b.walks, wcache := b.wcache, l2 := b.l2 } = b :=
  calc { b.walkEnded w ds k with regs := b.regs, walks := b.walks, wcache := b.wcache, l2 := b.l2 }
    _ = { (b.walkCounted w ds k).walkLeave w false with regs := b.regs, walks := b.walks, wcache := b.wcache, l2 := b.l2 } :=
      (congrArg (fun x : Blk => { x with regs := b.regs, walks := b.walks, wcache := b.wcache, l2 := b.l2 })
        (Blk.walkFill_frame _ w ds) :)
    _ = { b.walkCounted w ds k with regs := b.regs } :=
      (congrArg (fun x : Blk => { x with regs := b.regs, wcache := b.wcache, l2 := b.l2 })
        (Blk.walkLeave_frame (b.walkCounted w ds k) w false) :)
    _ = b := rfl

theorem Blk.walk_walkEnded (user wr : Bool) : (b.walkEnded w ds k).walk user wr 5 ds = b.walk user wr 5 ds := by
  have hsec : (b.walkEnded w ds k).sec = b.sec := (congrArg Blk.sec (b.walkEnded_frame w ds k) :)
  exact Blk.walk_congr hsec user wr 5 ds

theorem Blk.rb_walkEnded : (b.walkEnded w ds k).rb 0x11000 0 = b.rb 0x11000 0 :=
  calc (b.walkEnded w ds k).rb 0x11000 0
    _ = ((b.walkCounted w ds k).walkLeave w false).rb 0x11000 0 := (congrArg (Blk.rb · 0x11000 0) (Blk.walkFill_frame _ w ds) :)
    _ = (b.walkCounted w ds k).rb 0x11000 0 := Blk.rb_walkLeave _ w false 0 (by decide)
    _ = b.rb 0x11000 0 := congrArg (bit · 0) ((b.reg_inc 0x40328 0x11000 _).trans (if_neg (by decide)))

/-- The leaf that a walk for a read reaches is in the L2 TLB. -/
theorem Blk.mem_walkEnded {lvl : Nat} {d : W64} (h : b.walk w.user false 5 ds = .ok lvl d) :
    leafTlb w.ctx w.gran lvl d (allWritable (ds.take (6 - lvl))) ∈ (b.walkEnded w ds k).l2 := by
  have hsec : ((b.walkCounted w ds k).walkLeave w false).sec = b.sec := (congrArg Blk.sec (Blk.walkLeave_frame _ w false) :)
  exact Blk.mem_walkFill ((Blk.walk_congr hsec _ _ _ _).trans h)

theorem Blk.walkEnded_leaves {x : Walk} (hx : x ∈ (b.walkEnded w ds k).walks) : ¬ (x.ctx = w.ctx ∧ x.gran = w.gran) :=
  Blk.walkLeave_leaves (show x ∈ ((b.walkCounted w ds k).walkLeave w false).walks from
    (congrArg Blk.walks (Blk.walkFill_frame _ w ds) :) ▸ hx)

end ended

/-- Settles O36: `Blk.walkComplete_ends` and `Blk.walkComplete_restarts` say which block the event leaves, `Blk.walkReq_ok` and
`Blk.walkReq_bad` what its access is told; that nothing a walk has changed by then is read by its checks is `Blk.walk_walkEnded`. A parity
error of the fault table comes with the event in every state (log entry 140; R469, R472). -/
theorem walksComplete : Obligations.WalksComplete := by
  intro s ctx gran descs ds hlive
  refine ⟨?parity, fun w r va wr hw hreqs hds => ?walk,
    fun user wr lvl x => ⟨rfl, Blk.checkDesc_notValid, ?user, ?write, ?root, ?pointer⟩⟩
  case parity => rw [exec_walkComplete, Blk.walkComplete_parity _ _ _ hlive]
  case walk =>
    obtain ⟨hctx, hgran⟩ : w.ctx = ctx.val ∧ w.gran = gran.toNat := by simpa using List.find?_some hw
    have hframe (k : Nat) := s.blk.walkEnded_frame w ds k
    have hleaves (k : Nat) (x : Walk) (hx : x ∈ (s.blk.walkEnded w ds k).walks) : ¬ (x.ctx = ctx ∧ x.gran = gran.toNat) :=
      hctx ▸ hgran ▸ Blk.walkEnded_leaves _ _ _ _ hx
    refine ⟨fun lvl d hok hkept => ?ok, fun kind lvl d hfail hkept hopen hfinal => ?fails, fun hlong hmarked => ?restarts⟩
    case ok =>
      have hends := Blk.walkComplete_ends hlive hw hreqs hds (by simp [hok]) hkept
      have hgoes := hends.trans (Blk.walkReq_ok ((Blk.walk_walkEnded _ _ _ _ _ _).trans hok))
      have hl1 (b : Blk) := b.fillL1Of_frame r (leafTlb w.ctx w.gran lvl d (allWritable (ds.take (6 - lvl))))
      refine ⟨_, exec_next_congr (exec_walkComplete ctx gran descs false s) hgoes, fun hread => ?_,
        fun x hx => hleaves _ x ((congrArg Blk.walks (hl1 _) :) ▸ hx), (congrArg Blk.cores (hl1 _) :).trans (congrArg Blk.cores (hframe _) :),
        (congrArg Blk.cmds (hl1 _) :).trans (congrArg Blk.cmds (hframe _) :),
        (congrArg Blk.dev (hl1 _) :).trans (congrArg Blk.dev (hframe _) :)⟩
      have hread : s.blk.walk w.user false 5 ds = .ok lvl d := hread.elim (fun hwr => hwr ▸ hok) id
      rw [← hctx, ← hgran, (congrArg Blk.l2 (hl1 _) :)]
      exact Blk.mem_walkEnded _ _ _ _ hread
    case fails =>
      have hends := Blk.walkComplete_ends hlive hw hreqs hds (by simp [hfail]) hkept
      have hopen (k : Nat) : (s.blk.walkEnded w ds k).endedOut r = none := (congrArg (Blk.endedOut · r) (hframe k) :).trans hopen
      have htold := hends.trans (Blk.walkReq_bad ((Blk.walk_walkEnded _ _ _ _ _ _).trans hfail) (hopen _)
        (hfinal.imp_right (Blk.rb_walkEnded _ _ _ _).trans))
      exact ⟨_, exec_next_congr (exec_walkComplete ctx gran descs false s) (hctx ▸ htold), hleaves _,
        (congrArg Blk.cores (hframe _) :), (congrArg Blk.cmds (hframe _) :), (congrArg Blk.l1 (hframe _) :)⟩
    case restarts =>
      have hagain := Blk.walkComplete_restarts hlive hw hreqs hds hlong hmarked
      have hleft (k : Nat) := Blk.walkLeave_frame (s.blk.walkCounted w ds k) w true
      obtain ⟨x, hx, hxctx, hxgran, hxreqs, hxkept⟩ := Blk.walkLeave_restarts
        (s.blk.walkCounted w ds (s.blk.cachedDescs ctx gran.toNat).length) (w := w) (by simp [hreqs])
      exact ⟨_, exec_next_congr (exec_walkComplete ctx gran descs false s) hagain,
        ⟨x, hx, hxctx.trans hctx, hxgran.trans hgran, hxreqs, hxkept⟩, (congrArg Blk.l2 (hleft _) :), (congrArg Blk.l1 (hleft _) :)⟩
  case user => rintro hv rfl h; exact Blk.checkDesc_notUser hv h
  case write => rintro hv rfl rfl h; exact Blk.checkDesc_notWritable hv h
  case root => rintro hv rfl rfl h; exact Blk.checkDesc_rootLeaf hv h
  case pointer => rintro hv rfl rfl h; exact Blk.checkDesc_pointer hv h

end Sys2Proof.Machine
end

section
/-! PROOFS. Words of the sequencer: what a word leaves whose slot B ends it, and the operations that stay within its task context. -/
namespace Sys2Proof.Machine

/-! ### The answer of a step -/

/-- A step runs the front command with the rest of the queue, or idles. -/
theorem step_cons (c : Instr) (l : List Instr) (s : State) : step { s with pending := c :: l } = exec c { s with pending := l } := rfl

theorem step_nil {s : State} (h : s.pending = []) : step s = .next s := by simp [step, h]

/-- Settles O56: `step` takes the first command off its queue (log entry 11 for the empty one), and the table gives no command bits. -/
theorem stepRunsTheFrontCommand : Obligations.StepRunsTheFrontCommand :=
  ⟨fun c s => step_cons c s.pending s, fun _ => step_nil, fun _ _ _ => ⟨rfl, rfl⟩⟩

/-! ### A word that slot B ends (R298) -/

/-- The block after a word whose slot A holds NOP and whose slot B has the effect e. -/
def Blk.slotBDone (b : Blk) (c t : Nat) (e : Eff) : Blk := ((b.doEff c t {}).doEff c t e).retire c t (nextPc (b.task c t).pc {} e)

/-- Slot B ends a word whose slot A holds NOP; the evaluation of its operation may have changed the block. -/
theorem Blk.slotOp_done {b b' : Blk} {c : Fin 8} {t : Fin 4} {op : SOp} {e : Eff} (h : b.slotBEnds c t)
    (he : b.evalOp c t 0 0 op = (b', .ok e)) : b.slotOp ⟨c, t, .b⟩ op = b'.slotBDone c t e := by
  obtain ⟨hissue, hslot, hword⟩ := h
  have hnop : b.evalOp c t 0 0 .nop = (b, .ok {}) := rfl
  have hreserved := b.reservedOp_of_ok b' c t 0 0 op e he
  simp [Blk.slotOp, hissue, hslot, hword, Blk.issueWord, hnop, he, Ev.stops, hreserved, show b.reservedOp c t .nop = false from rfl,
    Blk.slotBDone]

/-- What an effect changes of its task context. -/
def Eff.inTask (e : Eff) (x : Task) : Task :=
  let x := match e.g with | some (i, v) => x.setGr i v | none => x
  let x := match e.s with | some (i, v) => if i = 16 then { x with epc := v } else { x with s := Tab.set 0 x.s (i - 8) v } | none => x
  let x := match e.prod with | some p => { x with prods := x.prods ++ [p] } | none => x
  { x with emu := x.emu && !e.eret, halted := x.halted || e.halt }

/-- The effect is on its task context alone. -/
structure Eff.TaskOnly (e : Eff) : Prop where
  st : e.st = none
  inv : e.inv = none
  send : e.send = none
  recv : e.recv = false
  f : e.f = none

theorem Blk.doEff_taskOnly {e : Eff} (h : e.TaskOnly) (b : Blk) (c t : Nat) : b.doEff c t e = b.updTask c t e.inTask := by
  obtain ⟨hst, hinv, hsend, hrecv, hf⟩ := h
  simp only [Blk.doEff, hst, hinv, hsend, hrecv, hf]
  rfl

/-- The empty effect of a NOP leaves the task context as it is. -/
theorem Blk.doEff_nop (b : Blk) (c t : Nat) : b.doEff c t {} = b.updTask c t (fun x => x) := b.doEff_g c t none none

/-- A word whose effect is on its task context alone changes nothing else but the count of words. -/
theorem Blk.slotBDone_taskOnly {e : Eff} (h : e.TaskOnly) (b : Blk) (c t : Nat) : WordFrame c t b (b.slotBDone c t e) ∧
    (b.slotBDone c t e).task c t = (e.inTask (b.task c t)).issued (nextPc (b.task c t).pc {} e) := by
  unfold Blk.slotBDone
  rw [Blk.doEff_nop, Blk.doEff_taskOnly h]
  exact ⟨((Blk.retire_frame _ _ _ _).updTask _).updTask _, by simp [Blk.task_retire]⟩

/-- Where a meaning keeps the build and the timebase, the answer holds its block. -/
theorem State.withBlk_blk {s : State} {b : Blk} (hbuild : b.build = s.blk.build) (htime : b.time = s.blk.time) : (s.withBlk b).blk = b := by
  rw [State.withBlk_eq hbuild htime]

theorem State.withBlk_pending (s : State) (b : Blk) : (s.withBlk b).pending = s.pending := rfl

theorem WordFrame.withBlk_blk {c t : Nat} {s : State} {b : Blk} (h : WordFrame c t s.blk b) : (s.withBlk b).blk = b :=
  State.withBlk_blk (congrArg Blk.build h.block :) (congrArg Blk.time h.block :)

section slotB
variable {s : State} {c : Fin 8} {t : Fin 4} {i : Instr} {op : SOp} {e : Eff} (h : s.blk.slotBEnds c t)
  (hi : exec i s = .next (s.withBlk (s.blk.slotOp ⟨c, t, .b⟩ op))) (he : s.blk.evalOp c t 0 0 op = (s.blk, .ok e))
include h hi he

/-- The answer of an operation of slot B whose effect is on its task context alone. -/
theorem exec_slotB_taskOnly (ho : e.TaskOnly) : ∃ s', exec i s = .next s' ∧ s'.pending = s.pending ∧ WordFrame c t s.blk s'.blk ∧
    s'.blk.task c t = (e.inTask (s.blk.task c t)).issued (nextPc (s.blk.task c t).pc {} e) := by
  obtain ⟨hframe, htask⟩ := Blk.slotBDone_taskOnly ho s.blk c t
  refine ⟨s.withBlk (s.blk.slotBDone c t e), exec_next_congr hi (Blk.slotOp_done h he), s.withBlk_pending _, ?_⟩
  rw [hframe.withBlk_blk]
  exact ⟨hframe, htask⟩

/-- The answer of an operation of slot B that writes one general register. -/
theorem exec_slotB_wroteG {rd : Nat} {v pc : W64} {j : Option W64} (hg : e = { g := some (rd, v), jump := j })
    (hpc : nextPc (s.blk.task c t).pc {} e = pc) : ∃ s', exec i s = .next s' ∧ s'.pending = s.pending ∧ WroteG c t rd v pc s.blk s'.blk := by
  have hwrote : WroteG c t rd v pc s.blk (s.blk.slotBDone c t e) := by
    rw [Blk.slotBDone, hpc, hg]
    exact Blk.wroteG s.blk c t rd v pc j
  refine ⟨s.withBlk (s.blk.slotBDone c t e), exec_next_congr hi (Blk.slotOp_done h he), s.withBlk_pending _, ?_⟩
  rw [hwrote.frame.withBlk_blk]
  exact hwrote

end slotB

/-! ### Register arithmetic (R324, R325) -/

theorem AluOp.eval_slt (a b : W64) : AluOp.slt.eval a b = if a.toInt < b.toInt then 1 else 0 := by
  simp [AluOp.eval, BitVec.slt]

theorem AluOp.eval_sltu (a b : W64) : AluOp.sltu.eval a b = if a.toNat < b.toNat then 1 else 0 := by
  simp [AluOp.eval, BitVec.ult]

/-- The amount of a shift by an immediate is below 64. -/
theorem shamt_toNat (sh : BitVec 6) : (sh.setWidth 64 : W64).toNat % 64 = sh.toNat := by
  have := sh.isLt
  rw [BitVec.toNat_setWidth]
  omega

section alu
variable {s : State} {c : Fin 8} {t : Fin 4} (h : s.blk.slotBEnds c t)
include h

/-- A register operation in slot B writes its value. -/
theorem exec_alu {i : Instr} {op : AluOp} {rd ra rb : Greg} {v : W64}
    (hi : exec i s = .next (s.withBlk (s.blk.slotOp ⟨c, t, .b⟩ (.alu op rd ra rb))))
    (hv : op.eval ((s.blk.task c t).gr ra) ((s.blk.task c t).gr rb) = v) :
    ∃ s', exec i s = .next s' ∧ s'.pending = s.pending ∧ WroteG c t rd v ((s.blk.task c t).pc + 16) s.blk s'.blk :=
  exec_slotB_wroteG h hi rfl (j := none) (by rw [← hv]; rfl) rfl

/-- The same for an operation with an immediate. -/
theorem exec_alui {i : Instr} {op : AluOp} {rd ra : Greg} {imm v : W64}
    (hi : exec i s = .next (s.withBlk (s.blk.slotOp ⟨c, t, .b⟩ (.alui op rd ra imm))))
    (hv : op.eval ((s.blk.task c t).gr ra) imm = v) :
    ∃ s', exec i s = .next s' ∧ s'.pending = s.pending ∧ WroteG c t rd v ((s.blk.task c t).pc + 16) s.blk s'.blk :=
  exec_slotB_wroteG h hi rfl (j := none) (by rw [← hv]; rfl) rfl

/-- A multiplication in slot B puts its product in flight. -/
theorem exec_mul {i : Instr} {sg : Bool} {ra rb : Greg} {v : W128}
    (hi : exec i s = .next (s.withBlk (s.blk.slotOp ⟨c, t, .b⟩ (.mul sg ra rb))))
    (hv : product sg ((s.blk.task c t).gr ra) ((s.blk.task c t).gr rb) = v) :
    ∃ s', exec i s = .next s' ∧ s'.pending = s.pending ∧ WordFrame c t s.blk s'.blk ∧
      s'.blk.task c t = { (s.blk.task c t).issued ((s.blk.task c t).pc + 16) with
        prods := (s.blk.task c t).prods ++ [v] } := by
  obtain ⟨s', hs, hq, hf, ht⟩ := exec_slotB_taskOnly h hi rfl ⟨rfl, rfl, rfl, rfl, rfl⟩
  refine ⟨s', hs, hq, hf, ht.trans ?_⟩
  subst hv
  simp [Eff.inTask, Task.issued, nextPc, Blk.task]

end alu

/-- A word of its own that writes one general register. -/
theorem Blk.wroteG_setGr (b : Blk) (c t rd : Nat) (v pc : W64) :
    WroteG c t rd v pc b ((b.updTask c t (fun x => x.setGr rd v)).retire c t pc) := by
  have htask : ((b.updTask c t (fun x => x.setGr rd v)).retire c t pc).task c t = ((b.task c t).setGr rd v).issued pc := by
    rw [Blk.task_retire, Blk.task_updTask_same]
  have hgr (r : Nat) : (((b.task c t).setGr rd v).issued pc).gr r = if r = rd ∧ r ≠ 0 then v else (b.task c t).gr r :=
    Task.gr_setGr (b.task c t) rd r v
  refine ⟨(Blk.retire_frame _ _ _ _).updTask _, ?_, fun r hr => ?_, ?_⟩
  · rw [htask, hgr]; by_cases h : rd = 0 <;> simp [h, Task.gr]
  · rw [htask, hgr, if_neg (fun h => hr h.1)]
  · rw [htask]; exact congrArg (fun x => x.issued pc) (Task.setGr_rest (b.task c t) rd v)

/-- MOVI64 is a word of its own. -/
theorem exec_movi64 {s : State} {c : Fin 8} {t : Fin 4} (rd : Greg) (imm : W64) (h : s.blk.canLong c t = true) :
    ∃ s', exec (.movi64 ⟨c, t⟩ rd imm) s = .next s' ∧ s'.pending = s.pending ∧
      WroteG c t rd imm ((s.blk.task c t).pc + 16) s.blk s'.blk := by
  have hwrote := s.blk.wroteG_setGr c t rd imm ((s.blk.task c t).pc + 16)
  refine ⟨s.withBlk ((s.blk.updTask c t (fun x => x.setGr rd imm)).retire c t ((s.blk.task c t).pc + 16)),
    upd_onlyIf_true (g := fun b => b.canLong c t)
      (fun b => (b.updTask c t (fun x => x.setGr rd imm)).retire c t ((b.task c t).pc + 16)) h, s.withBlk_pending _, ?_⟩
  rw [hwrote.frame.withBlk_blk]
  exact hwrote

/-- Settles O1: each operation is one of `exec_alu`, `exec_alui`, `exec_mul` and MOVI, and its value is that of `AluOp.eval`. -/
theorem integerOperations : Obligations.IntegerOperations := by
  rintro s c t rd ra a rfl
  refine ⟨fun h => ⟨fun rb b hb => ⟨?register, ?product⟩, fun imm i hi => ?immediate, fun sh => ?shift, fun imm => ?movi⟩,
    fun h imm => exec_movi64 rd imm h⟩
  case register =>
    subst hb
    simp only [List.forall_mem_cons, List.not_mem_nil, false_implies, implies_true, and_true]
    exact ⟨exec_alu h rfl rfl, exec_alu h rfl rfl, exec_alu h rfl rfl, exec_alu h rfl rfl, exec_alu h rfl rfl, exec_alu h rfl rfl,
      exec_alu h rfl rfl, exec_alu h rfl rfl, exec_alu h rfl rfl, exec_alu h rfl rfl, exec_alu h rfl rfl,
      exec_alu h rfl (AluOp.eval_slt _ _), exec_alu h rfl (AluOp.eval_sltu _ _)⟩
  case product =>
    have hprods (i : Instr) (sg : Bool) (hi : exec i s = .next (s.withBlk (s.blk.slotOp ⟨c, t, .b⟩ (.mul sg ra rb)))) :
        ∃ s', exec i s = .next s' ∧ s'.pending = s.pending ∧ WordFrame c t s.blk s'.blk ∧
          { s'.blk.task c t with prods := (s.blk.task c t).prods } = (s.blk.task c t).issued ((s.blk.task c t).pc + 16) := by
      obtain ⟨s', hs, hq, hf, ht⟩ := exec_mul h hi rfl
      exact ⟨s', hs, hq, hf, by rw [ht]; rfl⟩
    simp only [List.forall_mem_cons, List.not_mem_nil, false_implies, implies_true, and_true]
    exact ⟨hprods _ true rfl, hprods _ false rfl⟩
  case immediate =>
    subst hi
    simp only [List.forall_mem_cons, List.not_mem_nil, false_implies, implies_true, and_true]
    exact ⟨exec_alui h rfl rfl, exec_alui h rfl rfl, exec_alui h rfl rfl, exec_alui h rfl rfl, exec_alui h rfl rfl,
      exec_alui h rfl (AluOp.eval_slt _ _), exec_alui h rfl (AluOp.eval_sltu _ _)⟩
  case shift =>
    have hval {op : AluOp} {f : W64 → Nat → W64} (hop : ∀ a b, op.eval a b = f a (b.toNat % 64)) :
        op.eval ((s.blk.task c t).gr ra) (sh.setWidth 64) = f ((s.blk.task c t).gr ra) sh.toNat := by
      rw [hop, shamt_toNat]
    simp only [List.forall_mem_cons, List.not_mem_nil, false_implies, implies_true, and_true]
    exact ⟨exec_alui h rfl (hval (fun _ _ => rfl)), exec_alui h rfl (hval (fun _ _ => rfl)),
      exec_alui h rfl (hval (f := fun a n => a.sshiftRight n) (fun _ _ => rfl)),
      exec_alui h rfl (hval (f := fun a n => a.rotateLeft n) (fun _ _ => rfl))⟩
  case movi => exact exec_slotB_wroteG h rfl rfl (j := none) rfl rfl

/-! ### Products (R299) -/

/-- A product in flight lands. -/
theorem exec_productLand {s : State} {c : Fin 8} {t : Fin 4} (hlive : s.blk.coreLive c = true) :
    exec (.productLand ⟨c, t⟩) s = .next (s.withBlk (s.blk.productLand c t)) :=
  upd_onlyIf_true (fun b => b.productLand c t) (g := fun b => b.coreLive c) hlive

/-- Settles O2: a multiplication is `exec_mul`, and a landing changes the task context alone. -/
theorem productsLandInOrder : Obligations.ProductsLandInOrder := by
  refine fun s c t => ⟨fun ra rb h => ?_, fun p r hlive hprods => ?_⟩
  · simp only [List.forall_mem_cons, List.not_mem_nil, false_implies, implies_true, and_true]
    exact ⟨exec_mul h rfl rfl, exec_mul h rfl rfl⟩
  · refine ⟨s.withBlk (s.blk.productLand c t), exec_productLand hlive, ?_⟩
    rw [State.withBlk_blk (b := s.blk.productLand c t) rfl rfl]
    refine ⟨rfl, fun d hd => Blk.core_updTask_other _ _ _ hd, fun u hu => Blk.task_updTask_other _ _ _ hu, ?_⟩
    exact (Blk.task_updTask_same s.blk c t _).trans (by rw [hprods])

/-! ### Control transfers (R328, R331) -/

section jump
variable {s : State} {c : Fin 8} {t : Fin 4} {i : Instr} {op : SOp} (h : s.blk.slotBEnds c t)
  (hi : exec i s = .next (s.withBlk (s.blk.slotOp ⟨c, t, .b⟩ op)))
include h hi

/-- A word whose slot B jumps, or does not, and changes nothing else of its task context. -/
theorem exec_slotB_jump {j : Option W64} {pc : W64} (he : s.blk.evalOp c t 0 0 op = (s.blk, .ok { jump := j }))
    (hj : j.getD ((s.blk.task c t).pc + 16) = pc) :
    ∃ s', exec i s = .next s' ∧ s'.pending = s.pending ∧ WordFrame c t s.blk s'.blk ∧ s'.blk.task c t = (s.blk.task c t).issued pc := by
  obtain ⟨s', hs, hq, hf, ht⟩ := exec_slotB_taskOnly h hi he ⟨rfl, rfl, rfl, rfl, rfl⟩
  refine ⟨s', hs, hq, hf, ht.trans ?_⟩
  subst hj
  cases j <;> simp [Eff.inTask, Task.issued, nextPc]

end jump

section branch
variable {s : State} {c : Fin 8} {t : Fin 4} {i : Instr} (h : s.blk.slotBEnds c t)
include h

/-- A branch on two registers. -/
theorem exec_branch {cd : Cond} {ra rb : Greg} {off : W64} {w : Bool}
    (hi : exec i s = .next (s.withBlk (s.blk.slotOp ⟨c, t, .b⟩ (.br cd ra rb off))))
    (hw : cd.holds ((s.blk.task c t).gr ra) ((s.blk.task c t).gr rb) = w) :
    ∃ s', exec i s = .next s' ∧ WordFrame c t s.blk s'.blk ∧
      s'.blk.task c t = (s.blk.task c t).issued (if w then (s.blk.task c t).pc + off * 16 else (s.blk.task c t).pc + 16) := by
  subst hw
  obtain ⟨s', hs, -, hf, ht⟩ := exec_slotB_jump h hi rfl rfl
  refine ⟨s', hs, hf, ht.trans ?_⟩
  exact congrArg _ (apply_ite (fun j : Option W64 => j.getD ((s.blk.task c t).pc + 16)) _ _ _)

/-- A branch on a flag that needs not be waited for. -/
theorem exec_flagBranch {want : Bool} {fa : Nat} {off : W64} (hi : exec i s = .next (s.withBlk (s.blk.slotOp ⟨c, t, .b⟩ (.bf want fa off))))
    (hw : (s.blk.task c t).flagWaits fa = false) :
    ∃ s', exec i s = .next s' ∧ WordFrame c t s.blk s'.blk ∧ s'.blk.task c t = (s.blk.task c t).issued
      (if s.blk.flag c t fa = want then (s.blk.task c t).pc + off * 16 else (s.blk.task c t).pc + 16) := by
  obtain ⟨s', hs, -, hf, ht⟩ := exec_slotB_jump h hi (if_neg (by rw [Blk.task] at hw; simp [hw])) rfl
  refine ⟨s', hs, hf, ht.trans ?_⟩
  exact congrArg _ (apply_ite (fun j : Option W64 => j.getD ((s.blk.task c t).pc + 16)) _ _ _)

/-- A jump to a register: where the target is an address and a multiple of 16. -/
theorem exec_jalr {rd ra : Greg} {imm : BitVec 43} (hlow : ((s.blk.task c t).gr ra + imm43 imm).toNat < 2 ^ 57)
    (halign : ((s.blk.task c t).gr ra + imm43 imm).toNat % 16 = 0) :
    ∃ s', exec (.jalr ⟨c, t, .b⟩ rd ra imm) s = .next s' ∧ s'.pending = s.pending ∧
      WroteG c t rd ((s.blk.task c t).pc + 16) ((s.blk.task c t).gr ra + imm43 imm) s.blk s'.blk := by
  refine exec_slotB_wroteG h rfl (j := some _) ?_ rfl rfl
  exact (if_neg (Nat.not_le.mpr hlow)).trans (if_neg (not_not_intro halign))

/-- A return from the emulation handler. -/
theorem exec_eret (hemu : (s.blk.task c t).emu = true) :
    ∃ s', exec (.eret ⟨c, t, .b⟩) s = .next s' ∧ WordFrame c t s.blk s'.blk ∧
      s'.blk.task c t = { (s.blk.task c t).issued ((s.blk.task c t).epc + 16) with emu := false } := by
  obtain ⟨s', hs, -, hf, ht⟩ := exec_slotB_taskOnly h (i := .eret ⟨c, t, .b⟩) rfl (if_pos hemu) ⟨rfl, rfl, rfl, rfl, rfl⟩
  exact ⟨s', hs, hf, ht.trans (by simp [Eff.inTask, Task.issued, nextPc, Blk.task])⟩

end branch

theorem Cond.holds_lt (a b : W64) : Cond.lt.holds a b = decide (a.toInt < b.toInt) := rfl

theorem Cond.holds_ge (a b : W64) : Cond.ge.holds a b = decide (b.toInt ≤ a.toInt) :=
  decide_not.symm.trans (decide_eq_decide.mpr Int.not_lt)

theorem Cond.holds_geu (a b : W64) : Cond.geu.holds a b = decide (b.toNat ≤ a.toNat) :=
  decide_not.symm.trans (decide_eq_decide.mpr Nat.not_lt)

/-- Settles O3: each transfer is one of the lemmas above, and a condition is that of `Cond.holds`. -/
theorem controlTransfers : Obligations.ControlTransfers := by
  rintro s c t h x pc rfl rfl
  refine ⟨fun ra rb off a b ha hb => ?branch, fun fa off hw => ?flag, fun rd off => ?jal, fun rd ra imm tg htg halign hlow => ?jalr, exec_eret h⟩
  case branch =>
    subst ha hb
    simp only [List.forall_mem_cons, List.not_mem_nil, false_implies, implies_true, and_true]
    exact ⟨exec_branch h rfl rfl, exec_branch h rfl rfl, exec_branch h rfl (Cond.holds_lt _ _), exec_branch h rfl (Cond.holds_ge _ _),
      exec_branch h rfl rfl, exec_branch h rfl (Cond.holds_geu _ _)⟩
  case flag =>
    simp only [List.forall_mem_cons, List.not_mem_nil, false_implies, implies_true, and_true]
    exact ⟨exec_flagBranch h rfl hw, exec_flagBranch h rfl hw⟩
  case jal => exact exec_slotB_wroteG h rfl rfl (j := some _) rfl rfl
  case jalr => subst htg; exact exec_jalr h hlow halign

/-! ### Special registers (R326) -/

section special
variable {s : State} {c : Fin 8} {t : Fin 4} (h : s.blk.slotBEnds c t)
include h

/-- MFS of a special register that needs not be waited for. -/
theorem exec_mfs {rd : Greg} {sr : BitVec 6} {v : W64} (hv : s.blk.special c t sr.toNat = some v)
    (hp : sr.toNat < 8 ∨ 16 ≤ sr.toNat ∨ sr.toNat - 8 ∉ (s.blk.task c t).sPend) :
    ∃ s', exec (.mfs ⟨c, t, .b⟩ rd sr) s = .next s' ∧ s'.pending = s.pending ∧ WroteG c t rd v ((s.blk.task c t).pc + 16) s.blk s'.blk := by
  have hno : ¬ (8 ≤ sr.toNat ∧ sr.toNat < 16 ∧ ((s.blk.core c).task t).sPend.contains (sr.toNat - 8) = true) := by
    rw [List.contains_iff_mem]
    rintro ⟨hlo, hhi, hmem⟩
    exact hp.elim (Nat.not_lt.mpr hlo) (fun hp => hp.elim (Nat.not_le.mpr hhi) (fun hp => hp hmem))
  refine exec_slotB_wroteG h rfl (j := none) ?_ rfl rfl
  simp only [Blk.evalOp, hv, if_neg hno]

/-- MTS of a special register that a program may write. -/
theorem exec_mts {sr : BitVec 6} {ra : Greg} (hsr : (8 ≤ sr.toNat ∧ sr.toNat < 16) ∨ sr = 16) :
    ∃ s', exec (.mts ⟨c, t, .b⟩ sr ra) s = .next s' ∧ s'.pending = s.pending ∧ WordFrame c t s.blk s'.blk ∧
      s'.blk.task c t = if sr = 16 then { (s.blk.task c t).issued ((s.blk.task c t).pc + 16) with epc := (s.blk.task c t).gr ra }
        else { (s.blk.task c t).issued ((s.blk.task c t).pc + 16) with
          s := Tab.set 0 (s.blk.task c t).s (sr.toNat - 8) ((s.blk.task c t).gr ra) } := by
  have hnum : sr = 16 ↔ sr.toNat = 16 := BitVec.toNat_inj.symm
  rw [hnum] at hsr
  obtain ⟨s', hs, hq, hf, ht⟩ := exec_slotB_taskOnly h (i := .mts ⟨c, t, .b⟩ sr ra) rfl (if_pos hsr) ⟨rfl, rfl, rfl, rfl, rfl⟩
  refine ⟨s', hs, hq, hf, ht.trans ?_⟩
  rw [ite_of_iff hnum]
  by_cases h16 : sr.toNat = 16 <;> simp [Eff.inTask, Task.issued, nextPc, Blk.task, h16]

end special

/-- The special register 18 from its fields: core, task context, ring and GXACT. -/
theorem word_of_ids {v : W64} {c t r : Nat} {g : Bool} (hc : fld v 0 3 = c) (ht : fld v 3 2 = t) (hr : fld v 5 6 = r) (hg : bit v 11 = g)
    (hz : fld v 12 52 = 0) : BitVec.ofNat 64 (c + t <<< 3 + r <<< 5 + if g then 2048 else 0) = v := by
  have hlt := v.isLt
  subst hc ht hr hg
  apply BitVec.eq_of_toNat_eq
  rw [BitVec.toNat_ofNat]
  simp only [fld, bit, Nat.shiftLeft_eq, Nat.shiftRight_eq_div_pow, Nat.testBit_eq_decide_div_mod_eq, decide_eq_true_eq] at *
  split <;> omega

/-- Settles O5: the value of each special register is that of `Blk.special`. -/
theorem specialRegisters : Obligations.SpecialRegisters := by
  rintro s c t h x rfl
  refine ⟨fun rd sr v hv => ?_, fun sr ra hsr => exec_mts h hsr⟩
  obtain ⟨rfl, rfl⟩ | ⟨rfl, rfl⟩ | ⟨hlo, hhi, hp, rfl⟩ | ⟨rfl, rfl⟩ | ⟨rfl, rfl⟩ | ⟨m, rfl, hm, -, hc, ht, hr, hg, hz⟩ | ⟨rfl, rfl⟩ := hv
  · exact exec_mfs h rfl (.inl (by decide))
  · exact exec_mfs h rfl (.inl (by decide))
  · refine exec_mfs h ?_ (.inr (.inr hp))
    have h0 : sr.toNat ≠ 0 := by omega
    have h1 : sr.toNat ≠ 1 := by omega
    simp [Blk.special, h0, h1, hlo, hhi]
  · exact exec_mfs h rfl (.inr (.inl (by decide)))
  · exact exec_mfs h rfl (.inr (.inl (by decide)))
  · refine exec_mfs h ?_ (.inr (.inl (by decide)))
    rw [← word_of_ids hc ht hr hg hz]
    simp [Blk.special, hm, Blk.flag, Blk.eventFlag]
  · exact exec_mfs h rfl (.inr (.inl (by decide)))

/-! ### Flags (R301, R329) -/

/-- What a write of a flag leaves alone; f0 to f255 ignore it. -/
theorem Blk.setFlag_frame (b : Blk) (c n : Nat) (v : Bool) : { b.setFlag c n v with cores := b.cores, flags := b.flags } = b := by
  unfold Blk.setFlag
  split
  · rfl
  · split <;> rfl

theorem Blk.core_setFlag_other (b : Blk) (n : Nat) (v : Bool) {c d : Nat} (h : d ≠ c) : (b.setFlag c n v).core d = b.core d := by
  unfold Blk.setFlag
  split
  · rfl
  · split
    · exact Blk.core_updCore_other _ _ h
    · rfl

/-- The core of a flag write: its own flags f256 to f4095 alone. -/
theorem Blk.core_setFlag (b : Blk) (c n : Nat) (v : Bool) : (b.setFlag c n v).core c =
    if 256 ≤ n ∧ n < 4096 then { b.core c with flags := Tab.set false (b.core c).flags n v } else b.core c := by
  unfold Blk.setFlag
  by_cases h1 : n < 256
  · rw [if_pos h1, if_neg (by omega)]
  · rw [if_neg h1]
    by_cases h2 : n < 4096
    · rw [if_pos h2, if_pos (by omega), Blk.core_updCore_same]
    · rw [if_neg h2, if_neg (by omega)]
      rfl

theorem Blk.flags_setFlag (b : Blk) (c n : Nat) (v : Bool) : (b.setFlag c n v).flags =
    if 4096 ≤ n then Tab.set false b.flags n v else b.flags := by
  unfold Blk.setFlag
  by_cases h1 : n < 256
  · rw [if_pos h1, if_neg (by omega)]
  · rw [if_neg h1]
    by_cases h2 : n < 4096
    · rw [if_pos h2, if_neg (by omega)]
      rfl
    · rw [if_neg h2, if_pos (by omega)]

theorem Blk.task_setFlag (b : Blk) (c n u : Nat) (v : Bool) : (b.setFlag c n v).task c u = b.task c u := by
  rw [Blk.task, Blk.core_setFlag]
  split <;> rfl

/-- The flags that a core holds itself, and those that all cores share. -/
theorem Blk.flag_own (b : Blk) (c t : Nat) {m : Nat} (h1 : 256 ≤ m) (h2 : m < 4096) : b.flag c t m = Tab.get false (b.core c).flags m := by
  rw [Blk.flag, if_neg (by omega), if_pos h2]

theorem Blk.flag_shared (b : Blk) (c t : Nat) {m : Nat} (h : 4096 ≤ m) : b.flag c t m = Tab.get false b.flags m := by
  rw [Blk.flag, if_neg (by omega), if_neg (by omega)]

/-- A word that writes a flag, whatever else it changes of its task context. -/
theorem WroteF.of_setFlag {b b' : Blk} {c t n : Nat} {v : Bool} (f : Task → Task)
    (h : WordFrame c t ((b.updTask c t f).setFlag c n v) b') : WroteF c t n v b b' := by
  have hframe := Blk.setFlag_frame (b.updTask c t f) c n v
  have hregs : ((b.updTask c t f).setFlag c n v).regs = b.regs := (congrArg Blk.regs hframe :)
  have hcore : (b'.core c).flags = if 256 ≤ n ∧ n < 4096 then Tab.set false (b.core c).flags n v else (b.core c).flags := by
    refine (congrArg Core.flags h.core :).trans ?_
    rw [Blk.core_setFlag, Blk.core_updTask_same]
    split <;> rfl
  have hshared : b'.flags = if 4096 ≤ n then Tab.set false b.flags n v else b.flags :=
    (congrArg Blk.flags h.block :).trans (Blk.flags_setFlag _ c n v)
  refine ⟨?_, fun d hd => ?_, ?_, fun u hu => ?_, fun o ho => ?_, ?_, fun m h1 h2 => ?_, fun m h1 => ?_⟩
  · have hb := congrArg (fun x : Blk => { x with cores := b.cores, regs := b.regs, flags := b.flags }) h.block
    exact hb.trans (congrArg (fun x : Blk => { x with cores := b.cores, regs := b.regs, flags := b.flags }) hframe)
  · rw [h.cores d hd, Blk.core_setFlag_other _ _ _ hd, Blk.core_updTask_other _ _ _ hd]
  · have hk := congrArg (fun k : Core => { k with tasks := (b.core c).tasks, flags := (b.core c).flags }) h.core
    have hstep : ((b.updTask c t f).setFlag c n v).core c = { (b.core c).updTask t f with
        flags := (((b.updTask c t f).setFlag c n v).core c).flags } := by
      rw [Blk.core_setFlag, Blk.core_updTask_same]
      split <;> rfl
    rw [hstep] at hk
    exact hk
  · rw [h.tasks u hu, Blk.task_setFlag, Blk.task_updTask_other _ _ _ hu]
  · rw [h.regs o ho, Blk.reg, hregs]; rfl
  · rw [h.words, Blk.reg, hregs]; rfl
  · rw [Blk.flag_own _ _ _ h1 h2, Blk.flag_own _ _ _ h1 h2, hcore]
    by_cases hn : 256 ≤ n ∧ n < 4096
    · rw [if_pos hn, Tab.get_set]
    · rw [if_neg hn, if_neg (by omega)]
  · rw [Blk.flag_shared _ _ _ h1, Blk.flag_shared _ _ _ h1, hshared]
    by_cases hn : 4096 ≤ n
    · rw [if_pos hn, Tab.get_set]
    · rw [if_neg hn, if_neg (by omega)]

/-- The task context with the general register written that g names, if any. -/
def Task.wroteGr (x : Task) : Option (Nat × W64) → Task
  | some (i, v) => x.setGr i v
  | none => x

/-- A word that writes one flag, and one general register where g names it. -/
theorem Blk.slotBDone_wroteF (b : Blk) (c t n : Nat) (v : Bool) (g : Option (Nat × W64)) :
    WroteF c t n v b (b.slotBDone c t { g := g, f := some (n, v) }) ∧
    (b.slotBDone c t { g := g, f := some (n, v) }).task c t =
      ((b.task c t).wroteGr g).issued ((b.task c t).pc + 16) := by
  have heff : (b.doEff c t {}).doEff c t { g := g, f := some (n, v) } =
      ((b.updTask c t (fun x => x)).setFlag c n v).updTask c t (Eff.inTask { g := g }) := by
    rw [Blk.doEff_nop]; rfl
  unfold Blk.slotBDone
  rw [heff]
  refine ⟨.of_setFlag _ ((Blk.retire_frame _ _ _ _).updTask _), ?_⟩
  rw [Blk.task_retire, Blk.task_updTask_same, Blk.task_setFlag, Blk.task_updTask_same]
  cases g <;> simp [Eff.inTask, nextPc, Task.wroteGr]

theorem WroteF.withBlk_blk {c t n : Nat} {v : Bool} {s : State} {b : Blk} (h : WroteF c t n v s.blk b) : (s.withBlk b).blk = b :=
  State.withBlk_blk (congrArg Blk.build h.block :) (congrArg Blk.time h.block :)

section flag
variable {s : State} {c : Fin 8} {t : Fin 4} (h : s.blk.slotBEnds c t)
include h

/-- An operation of slot B that writes one flag, and one general register where g names it. -/
theorem exec_slotB_wroteF {i : Instr} {op : SOp} {n : Nat} {v : Bool} {g : Option (Nat × W64)}
    (hi : exec i s = .next (s.withBlk (s.blk.slotOp ⟨c, t, .b⟩ op)))
    (he : s.blk.evalOp c t 0 0 op = (s.blk, .ok { g := g, f := some (n, v) })) :
    ∃ s', exec i s = .next s' ∧ s'.pending = s.pending ∧ WroteF c t n v s.blk s'.blk ∧
      s'.blk.task c t = ((s.blk.task c t).wroteGr g).issued ((s.blk.task c t).pc + 16) := by
  obtain ⟨hwrote, htask⟩ := s.blk.slotBDone_wroteF c t n v g
  refine ⟨s.withBlk _, exec_next_congr hi (Blk.slotOp_done h he), s.withBlk_pending _, ?_⟩
  rw [hwrote.withBlk_blk]
  exact ⟨hwrote, htask⟩

/-- A flag operation whose sources need not be waited for. -/
theorem exec_flagOp {i : Instr} {op : FlagOp} {fd fa fb : Nat} {v : Bool}
    (hi : exec i s = .next (s.withBlk (s.blk.slotOp ⟨c, t, .b⟩ (.flag op fd fa fb))))
    (ha : (s.blk.task c t).flagWaits fa = false) (hb : (s.blk.task c t).flagWaits fb = false)
    (hv : op.value (s.blk.flag c t fd) (s.blk.flag c t fa) (s.blk.flag c t fb) = v) :
    ∃ s', exec i s = .next s' ∧ s'.pending = s.pending ∧ WroteF c t fd v s.blk s'.blk ∧
      s'.blk.task c t = (s.blk.task c t).issued ((s.blk.task c t).pc + 16) := by
  refine exec_slotB_wroteF h hi (g := none) ?_
  rw [Blk.task] at ha hb
  simp [Blk.evalOp, ha, hb, hv]

end flag

/-- No summary flag is awaited at f0. -/
theorem Task.flagWaits_zero (x : Task) : x.flagWaits 0 = false := rfl

/-- Settles O4: a flag is read before the word and written with it. -/
theorem flagOperations : Obligations.FlagOperations := by
  rintro s c t h x rfl
  refine ⟨fun fd fa fb d a b hd ha hb hwa hwb => ?ops, fun rg fb hw => ?frd, fun rg fb => exec_slotB_wroteF h rfl (g := none) rfl,
    fun rg fb hw => ?ftas⟩
  case ops =>
    subst hd ha hb
    simp only [List.forall_mem_cons, List.not_mem_nil, false_implies, implies_true, and_true]
    exact ⟨exec_flagOp h rfl rfl rfl rfl, exec_flagOp h rfl rfl rfl rfl, exec_flagOp h rfl rfl rfl rfl, exec_flagOp h rfl hwa hwb rfl,
      exec_flagOp h rfl hwa hwb rfl, exec_flagOp h rfl hwa hwb rfl, exec_flagOp h rfl hwa hwb rfl⟩
  case frd =>
    rw [Blk.task] at hw
    exact exec_slotB_wroteG h rfl (by simp [Blk.evalOp, hw]) (j := none) rfl rfl
  case ftas =>
    rw [Blk.task] at hw
    exact exec_slotB_wroteF h rfl (g := some (rg, _)) (by simp [Blk.evalOp, hw])

end Sys2Proof.Machine
end

section
/-! PROOFS. Waits, traps and courier words of the sequencer. -/
namespace Sys2Proof.Machine

/-- A block that differs from a state's own in its cores and registers alone is the state's block after it. -/
theorem State.withBlk_kept {s : State} {b : Blk} (h : { b with cores := s.blk.cores, regs := s.blk.regs } = s.blk) : (s.withBlk b).blk = b :=
  State.withBlk_blk (congrArg Blk.build h :) (congrArg Blk.time h :)

/-! ### Waits that are met, and HALT (R304, R306, R331) -/

section waits
variable {s : State} {c : Fin 8} {t : Fin 4} (h : s.blk.slotBEnds c t)
include h

/-- An operation of slot B without an effect ends its word. -/
theorem exec_slotB_nothing {i : Instr} {op : SOp} (hi : exec i s = .next (s.withBlk (s.blk.slotOp ⟨c, t, .b⟩ op)))
    (he : s.blk.evalOp c t 0 0 op = (s.blk, .ok {})) :
    ∃ s', exec i s = .next s' ∧ s'.pending = s.pending ∧ WordFrame c t s.blk s'.blk ∧
      s'.blk.task c t = (s.blk.task c t).issued ((s.blk.task c t).pc + 16) :=
  exec_slotB_jump h hi (j := none) he rfl

/-- HALT ends its word and stops the task context. -/
theorem exec_halt : ∃ s', exec (.halt ⟨c, t, .b⟩) s = .next s' ∧ s'.pending = s.pending ∧ WordFrame c t s.blk s'.blk ∧
    s'.blk.task c t = { (s.blk.task c t).issued ((s.blk.task c t).pc + 16) with halted := true } := by
  obtain ⟨s', hs, hq, hf, ht⟩ := exec_slotB_taskOnly h (i := .halt ⟨c, t, .b⟩) rfl rfl ⟨rfl, rfl, rfl, rfl, rfl⟩
  exact ⟨s', hs, hq, hf, ht.trans (by simp [Eff.inTask, Task.issued, nextPc])⟩

end waits

/-- Settles O11: an operation whose wait is met has no effect of its own. -/
theorem waitsMetAndHalt : Obligations.WaitsMetAndHalt := by
  rintro s c t h x rfl
  refine ⟨exec_slotB_nothing h rfl rfl, fun ra rb anc hmet => exec_slotB_nothing h rfl ?_, fun mask hfree => exec_slotB_nothing h rfl ?_,
    exec_halt h⟩
  · exact if_pos (by rw [decide_eq_true (by exact hmet), Bool.true_or])
  · refine if_neg ?_
    rw [Bool.not_eq_true, List.any_eq_false]
    exact fun n hn => by simp [hfree n hn]

/-! ### An AWAIT that is not met (R308, R377) -/

/-- The block once a word of task context t waits for anchor k to reach v. -/
def Blk.awaiting (b : Blk) (c t : Nat) (op : SOp) (k v : Nat) : Blk :=
  (b.holdWord c t .nop op).updTask c t (fun x => { x with st := .waiting, waitAnc := some (k, v) })

/-- A word whose slot B awaits an anchor waits for it. -/
theorem Blk.slotOp_awaits {b : Blk} {c : Fin 8} {t : Fin 4} {op : SOp} {k v : Nat} (h : b.slotBEnds c t)
    (hop : b.reservedOp c t op = false) (he : b.evalOp c t 0 0 op = (b, .await k v)) (hless : b.anchor k < v) :
    b.slotOp ⟨c, t, .b⟩ op = { b.awaiting c t op k v with waiters := b.waiters ++ [{ anchor := k, target := v, who := .task c t }] } := by
  obtain ⟨hissue, hslot, hword⟩ := h
  have hnop : b.evalOp c t 0 0 .nop = (b, .ok {}) := rfl
  have hwait := Blk.waitAnchor_waits (b := b.awaiting c t op k v) (w := { anchor := k, target := v, who := .task c t }) hless
  simp [Blk.slotOp, hissue, hslot, hword, Blk.issueWord, hnop, he, Ev.stops, hop, show b.reservedOp c t .nop = false from rfl]
  exact hwait

/-- What the wait leaves of the block and of its task context. -/
theorem Blk.awaiting_frame (b : Blk) (c t : Nat) (op : SOp) (k v : Nat) : { b.awaiting c t op k v with cores := b.cores } = b := by
  simp [Blk.awaiting, Blk.holdWord]

theorem Blk.task_awaiting (b : Blk) (c t : Nat) (op : SOp) (k v : Nat) : ∃ f w, (b.awaiting c t op k v).task c t =
    { b.task c t with slotA := none, word := w, waitFrom := f, st := .waiting, waitAnc := some (k, v) } := by
  rw [Blk.awaiting, Blk.task_updTask_same, Blk.holdWord, Blk.task_updTask_same]
  exact ⟨_, _, rfl⟩

/-- Settles O12: the word's evaluation answers a wait, and `Blk.slotOp_awaits` enters it. -/
theorem awaitEntersTheWaiters : Obligations.AwaitEntersTheWaiters := by
  rintro s c t h ra rb anc a tg ha htg hless hnew
  have he : s.blk.evalOp c t 0 0 (.await ra rb anc.toNat) = (s.blk, .await a tg) := by
    subst ha htg
    refine if_neg ?_
    rw [Bool.or_eq_true, decide_eq_true_eq, List.contains_iff_mem]
    exact not_or.mpr ⟨Nat.not_le.mpr hless, hnew⟩
  refine ⟨s.withBlk _, exec_next_congr (i := .await ⟨c, t, .b⟩ ra rb anc) rfl (Blk.slotOp_awaits h rfl he hless), s.withBlk_pending _, ?_⟩
  obtain ⟨f, w, htask⟩ := s.blk.task_awaiting c t (.await ra rb anc.toNat) a tg
  have hframe := s.blk.awaiting_frame c t (.await ra rb anc.toNat) a tg
  rw [State.withBlk_blk (b := { s.blk.awaiting c t (.await ra rb anc.toNat) a tg with
      waiters := s.blk.waiters ++ [{ anchor := a, target := tg, who := .task c t }] }) (congrArg Blk.build hframe :) (congrArg Blk.time hframe :)]
  have htask : Blk.task { s.blk.awaiting c t (.await ra rb anc.toNat) a tg with
      waiters := s.blk.waiters ++ [{ anchor := a, target := tg, who := .task c t }] } c t = _ := htask
  rw [htask]
  exact ⟨(congrArg (fun x : Blk => { x with waiters := s.blk.waiters }) hframe :), rfl, rfl, rfl, fun _ => rfl, rfl⟩

/-! ### Traps (R313) -/

/-- The task context that a trap has sent to the emulation handler at vec. -/
def Task.trapped (x : Task) (cause : Nat) (vec : W64) : Task :=
  { x with epc := x.pc, cause := BitVec.ofNat 64 (1 + cause), emu := true, pc := vec, slotA := none, word := none }

/-- The block whose core may have ended a single step of task context t. -/
def Blk.stepEnded (b : Blk) (c t : Nat) : Blk := b.updCore c (fun k => if k.stepOne = some t then { k with stepOne := none } else k)

theorem Blk.task_stepEnded (b : Blk) (c t u : Nat) : (b.stepEnded c t).task c u = b.task c u := by
  rw [Blk.task, Blk.stepEnded, Blk.core_updCore_same]
  split <;> rfl

/-- The block whose task context t has been sent to the emulation handler. -/
def Blk.trapped (b : Blk) (c t cause : Nat) : Blk :=
  ((b.stepEnded c t).updTask c t (fun x => x.trapped cause (b.reg (coreReg c 0x10)))).inc (coreReg c 0xB0) 1

theorem Blk.trapped_frame (b : Blk) (c t cause : Nat) : { b.trapped c t cause with cores := b.cores, regs := b.regs } = b := by
  simp [Blk.trapped, Blk.stepEnded]

theorem Blk.reg_trapped (b : Blk) (c t cause o : Nat) :
    (b.trapped c t cause).reg o = if o = coreReg c 0xB0 then b.reg (coreReg c 0xB0) + 1 else b.reg o :=
  (Blk.reg_inc _ _ o _).trans (by split <;> simp_all [Blk.stepEnded, Blk.reg])

/-- A trap with a handler, outside of it. -/
theorem Blk.trap_handled {b : Blk} {c t cause : Nat} (hemu : (b.task c t).emu = false) (hvec : b.reg (coreReg c 0x10) ≠ 0) :
    b.trap c t cause = b.trapped c t cause := by
  have hcond : ((b.task c t).emu || decide (b.reg (coreReg c 0x10) = 0)) = false := by rw [hemu, decide_eq_false hvec]; rfl
  unfold Blk.trap
  simp only [hcond]
  rfl

theorem exec_reservedOp {s : State} {c : Fin 8} {t : Fin 4} {w : W128} (hissue : s.blk.canIssue c t = true) (hcause : wordCause w.toNat ≠ 0) :
    exec (.reservedOp ⟨c, t⟩ w) s = .next (s.withBlk (s.blk.trap c t (wordCause w.toNat))) :=
  upd_onlyIf_true (g := fun b => b.canIssue c t && wordCause w.toNat ≠ 0) (fun b => b.trap c t (wordCause w.toNat)) (by simp [hissue, hcause])

/-- Settles O13: the trap is taken with a handler that is set and not entered. -/
theorem reservedWordsTrap : Obligations.ReservedWordsTrap := by
  intro s c t w hissue hcause hemu hvec
  refine ⟨s.withBlk _, exec_next_congr (exec_reservedOp hissue hcause) (Blk.trap_handled hemu hvec), s.withBlk_pending _, ?_⟩
  have hframe := s.blk.trapped_frame c t (wordCause w.toNat)
  rw [State.withBlk_kept hframe]
  have htask : (s.blk.trapped c t (wordCause w.toNat)).task c t = (s.blk.task c t).trapped (wordCause w.toNat) (s.blk.reg (coreReg c 0x10)) := by
    rw [Blk.trapped, Blk.task_inc, Blk.task_updTask_same, Blk.task_stepEnded]
  refine ⟨htask, congrArg Task.emu htask, fun u hu => ?_, ?_, fun o ho => ?_, hframe⟩
  · rw [Blk.trapped, Blk.task_inc, Blk.task_updTask_other _ _ _ hu, Blk.task_stepEnded]
  · rw [Blk.reg_trapped, if_pos rfl]
  · rw [Blk.reg_trapped, if_neg ho]

/-! ### Courier words (R331, R372, R373) -/

/-- The two halves of a courier entry. -/
theorem courier_halves (lo v : W32) : (lo.setWidth 64 ||| (v.setWidth 64 <<< 32) : W64) = v ++ lo := by
  ext i hi
  rw [BitVec.getElem_append]
  by_cases h : i < 32
  · simp [h]
  · simp [h, BitVec.getLsbD_of_ge lo i (by omega), BitVec.getLsbD_eq_getElem (x := v) (i := i - 32) (by omega)]

section courier
variable {b : Blk} {c : Nat}

theorem Blk.courierPut_first {id : Nat} {v : W32} (hq : b.qHeld 9 c c = false) (hroom : (b.core c).couOut.length < 2048)
    (hhalf : (b.core c).couHalf = none) :
    b.courierPut c id v = b.updCore c (fun k => { k with couHalf := some (v, id, b.time.toNat) }) := by
  simp [Blk.courierPut, hq, hhalf, hroom]

theorem Blk.courierPut_second {id m at_ : Nat} {v lo : W32} (hq : b.qHeld 9 c c = false) (hhalf : (b.core c).couHalf = some (lo, m, at_)) :
    b.courierPut c id v = b.updCore c (fun k => { k with couHalf := none, couOut := k.couOut ++ [(v ++ lo, 8)] }) := by
  simp [Blk.courierPut, hq, hhalf, courier_halves]

end courier

/-- The end of a word leaves its core but for the task contexts and the single step. -/
theorem Blk.core_retire (b : Blk) (c t : Nat) (pc : W64) : { (b.retire c t pc).core c with tasks := [], stepOne := none } =
    { b.core c with tasks := [], stepOne := none } :=
  (congrArg (fun k : Core => { k with tasks := [], stepOne := none }) (b.retire_frame c t pc).core :)

/-- A word whose effect changes its core by f and is otherwise on its task context: what it leaves. -/
theorem Blk.slotBDone_core {b : Blk} {c t : Nat} {e : Eff} {f : Core → Core} (hf : ∀ k, (f k).tasks = k.tasks)
    (he : ((b.doEff c t {}).doEff c t e) = ((b.doEff c t {}).updCore c f).updTask c t e.inTask) :
    { b.slotBDone c t e with cores := b.cores, regs := b.regs } = b ∧
    { (b.slotBDone c t e).core c with tasks := [], stepOne := none } = { f (b.doEff c t {} |>.core c) with tasks := [], stepOne := none } ∧
    (b.slotBDone c t e).task c t = (e.inTask (b.task c t)).issued (nextPc (b.task c t).pc {} e) := by
  rw [Blk.slotBDone, he, Blk.doEff_nop]
  refine ⟨?_, ?_, ?_⟩
  · simp [Blk.retire]
  · refine (Blk.core_retire _ c t _).trans ?_
    rw [Blk.core_updTask_same, Blk.core_updCore_same]
    rfl
  · simp only [Blk.task_retire, Blk.task_updTask_same]
    rw [Blk.task, Blk.core_updCore_same, Core.task, hf]
    exact congrArg (fun x : Task => (e.inTask x).issued _) (Blk.task_updTask_same _ _ _ _)

/-- The answer of a courier word in slot B: its core is changed by f, and its task context by the effect. -/
theorem exec_slotB_core {s : State} {c : Fin 8} {t : Fin 4} {i : Instr} {op : SOp} {e : Eff} {f : Core → Core} (h : s.blk.slotBEnds c t)
    (hi : exec i s = .next (s.withBlk (s.blk.slotOp ⟨c, t, .b⟩ op))) (he : s.blk.evalOp c t 0 0 op = (s.blk, .ok e))
    (hf : ∀ k, (f k).tasks = k.tasks)
    (hd : ((s.blk.doEff c t {}).doEff c t e) = ((s.blk.doEff c t {}).updCore c f).updTask c t e.inTask) :
    ∃ s', exec i s = .next s' ∧ s'.pending = s.pending ∧ { s'.blk with cores := s.blk.cores, regs := s.blk.regs } = s.blk ∧
      { s'.blk.core c with tasks := [], stepOne := none } = { f (s.blk.doEff c t {} |>.core c) with tasks := [], stepOne := none } ∧
      s'.blk.task c t = (e.inTask (s.blk.task c t)).issued (nextPc (s.blk.task c t).pc {} e) := by
  obtain ⟨hframe, hcore, htask⟩ := Blk.slotBDone_core hf hd
  refine ⟨s.withBlk _, exec_next_congr hi (Blk.slotOp_done h he), s.withBlk_pending _, ?_⟩
  rw [State.withBlk_kept hframe]
  exact ⟨hframe, hcore, htask⟩

/-- A NOP of slot A leaves the courier state of its core. -/
theorem Blk.courier_doEff_nop (b : Blk) (c t : Nat) : ((b.doEff c t {}).core c).couOut = (b.core c).couOut ∧
    ((b.doEff c t {}).core c).couHalf = (b.core c).couHalf ∧ ((b.doEff c t {}).core c).couIn = (b.core c).couIn := by
  rw [Blk.doEff_nop, Blk.core_updTask_same]
  exact ⟨rfl, rfl, rfl⟩

/-- The entry that SEND writes: the low half of a new one, or the high half of the one that waits. -/
def Core.sent (k : Core) (id now : Nat) (v : W32) : Core :=
  match k.couHalf with
  | some (lo, _, _) => { k with couHalf := none, couOut := k.couOut ++ [(v ++ lo, 8)] }
  | none => { k with couHalf := some (v, id, now) }

theorem Blk.courierPut_sent {b : Blk} {c : Nat} (id : Nat) (v : W32) (hq : b.qHeld 9 c c = false) (hroom : (b.core c).couOut.length < 2048) :
    b.courierPut c id v = b.updCore c (fun k => k.sent id b.time.toNat v) := by
  cases hhalf : (b.core c).couHalf with
  | none => rw [Blk.courierPut_first hq hroom hhalf]; simp [Blk.updCore, Core.sent, hhalf]
  | some p => rw [Blk.courierPut_second hq hhalf]; simp [Blk.updCore, Core.sent, hhalf]

/-- SEND in slot B, where the FIFO has room. -/
theorem exec_send {s : State} {c : Fin 8} {t : Fin 4} (h : s.blk.slotBEnds c t) (ra : Greg) (w : Bool) (hq : s.blk.qHeld 9 c c = false)
    (hroom : (s.blk.core c).couOut.length < 2048) :
    ∃ s', exec (.send ⟨c, t, .b⟩ ra w) s = .next s' ∧ s'.pending = s.pending ∧ { s'.blk with cores := s.blk.cores, regs := s.blk.regs } = s.blk ∧
      { s'.blk.core c with tasks := [], stepOne := none } =
        { (s.blk.doEff c t {} |>.core c).sent ((s.blk.task c t).cmd.getD 0) s.blk.time.toNat (((s.blk.task c t).gr ra).setWidth 32) with
          tasks := [], stepOne := none } ∧
      s'.blk.task c t = (s.blk.task c t).issued ((s.blk.task c t).pc + 16) := by
  obtain ⟨hout, hhalf, -⟩ := s.blk.courier_doEff_nop c t
  have heval : s.blk.evalOp c t 0 0 (.send ra w) = (s.blk, .ok { send := some (((s.blk.task c t).gr ra).setWidth 32) }) := by
    refine if_neg ?_
    rw [hq]
    cases (s.blk.core c).couHalf <;> simp <;> omega
  have heffect : (s.blk.doEff c t {}).doEff c t { send := some (((s.blk.task c t).gr ra).setWidth 32) } =
      ((s.blk.doEff c t {}).updCore c (fun k => k.sent ((s.blk.task c t).cmd.getD 0) s.blk.time.toNat
        (((s.blk.task c t).gr ra).setWidth 32))).updTask c t (Eff.inTask { send := some (((s.blk.task c t).gr ra).setWidth 32) }) := by
    have hput := (s.blk.doEff c t {}).courierPut_sent (c := c) ((s.blk.task c t).cmd.getD 0) (((s.blk.task c t).gr ra).setWidth 32)
      (by rw [Blk.doEff_nop]; exact hq) (by rw [hout]; exact hroom)
    have hcmd : ((s.blk.doEff c t {}).task c t).cmd = (s.blk.task c t).cmd := by rw [Blk.doEff_nop, Blk.task_updTask_same]
    have htime : (s.blk.doEff c t {}).time = s.blk.time := by rw [Blk.doEff_nop]; rfl
    rw [Blk.doEff, hcmd]
    simp only [hput, htime]
    rfl
  obtain ⟨s', hs, hp, hframe, hcore, htask⟩ := exec_slotB_core (i := .send ⟨c, t, .b⟩ ra w) h rfl heval
    (fun k => by unfold Core.sent; split <;> rfl) heffect
  refine ⟨s', hs, hp, hframe, hcore, htask.trans ?_⟩
  simp [Eff.inTask, nextPc]

/-- RECV in slot B, where the oldest entry is a word. -/
theorem exec_recv {s : State} {c : Fin 8} {t : Fin 4} (h : s.blk.slotBEnds c t) (rd : Greg) (w : Bool) {v : W32} {l : List (Option W32)}
    (hq : s.blk.qHeld 10 c c = false) (hin : (s.blk.core c).couIn = some v :: l) :
    ∃ s', exec (.recv ⟨c, t, .b⟩ rd w) s = .next s' ∧ s'.pending = s.pending ∧ { s'.blk with cores := s.blk.cores, regs := s.blk.regs } = s.blk ∧
      { s'.blk.core c with tasks := [], stepOne := none } =
        { (s.blk.doEff c t {} |>.core c) with couIn := (s.blk.doEff c t {} |>.core c).couIn.drop 1, tasks := [], stepOne := none } ∧
      s'.blk.task c t = ((s.blk.task c t).setGr rd (v.setWidth 64)).issued ((s.blk.task c t).pc + 16) := by
  obtain ⟨s', hs, hp, hframe, hcore, htask⟩ := exec_slotB_core (i := .recv ⟨c, t, .b⟩ rd w) (op := .recv rd w) h rfl
    (e := { g := some (rd.val, v.setWidth 64), recv := true }) (f := fun k => { k with couIn := k.couIn.drop 1 })
    (by simp [Blk.evalOp, hq, hin]) (fun _ => rfl) rfl
  refine ⟨s', hs, hp, hframe, hcore, htask.trans ?_⟩
  simp [Eff.inTask, nextPc]

/-- RECV where no word waits answers the tag that none is valid. -/
theorem exec_recv_none {s : State} {c : Fin 8} {t : Fin 4} (h : s.blk.slotBEnds c t) (rd : Greg)
    (hin : (s.blk.core c).couIn = [] ∨ ∃ l, (s.blk.core c).couIn = none :: l) :
    ∃ s', exec (.recv ⟨c, t, .b⟩ rd false) s = .next s' ∧ s'.pending = s.pending ∧
      WroteG c t rd 0x8000000000000000 ((s.blk.task c t).pc + 16) s.blk s'.blk := by
  refine exec_slotB_wroteG (op := .recv rd false) h rfl (e := { g := some (rd.val, 0x8000000000000000) }) ?_ (j := none) rfl rfl
  obtain hin | ⟨l, hin⟩ := hin <;> cases hq : s.blk.qHeld 10 c c <;> simp [Blk.evalOp, hq, hin]

/-- Settles O10: the packer takes the word of SEND, and RECV the oldest word of the FIFO. -/
theorem courierWords : Obligations.CourierWords := by
  rintro s c t h k x rfl rfl
  obtain ⟨hout, hhalf, hin⟩ := s.blk.courier_doEff_nop c t
  refine ⟨fun ra w hq hroom => ?send, fun rd w v l hq hcou => ?recv, exec_recv_none h⟩
  case send =>
    obtain ⟨s', hs, hp, hframe, hcore, htask⟩ := exec_send h ra w hq hroom
    refine ⟨s', hs, hp, hframe, fun hnone => ?_, fun lo m at_ hsome => ?_, ?_, htask⟩
    · have hk := hhalf.trans hnone
      simp only [Core.sent, hk] at hcore
      exact ⟨(congrArg Core.couOut hcore :).trans hout, (congrArg Core.couHalf hcore :)⟩
    · have hk := hhalf.trans hsome
      simp only [Core.sent, hk] at hcore
      exact ⟨(congrArg Core.couHalf hcore :), (congrArg Core.couOut hcore :).trans (by rw [hout])⟩
    · refine (congrArg Core.couIn hcore :).trans (Eq.trans ?_ hin)
      simp only [Core.sent]
      split <;> rfl
  case recv =>
    obtain ⟨s', hs, hp, hframe, hcore, htask⟩ := exec_recv h rd w hq hcou
    exact ⟨s', hs, hp, (congrArg Core.couIn hcore :).trans (by rw [hin, hcou]; rfl), (congrArg Core.couOut hcore :).trans hout, hframe, htask⟩

end Sys2Proof.Machine
end

section
/-! PROOFS. Task switches and the control of the sequencer caches. -/
namespace Sys2Proof.Machine

/-! ### Switching a task context in (R308, R196) -/

/-- The next READY task context is READY. -/
theorem Core.nextReady_ready {k : Core} {p : Nat → Bool} {t : Nat} (h : k.nextReady p = some t) : (k.task t).st = .ready := by
  have hfound := List.find?_some h
  simp only [Bool.and_eq_true, decide_eq_true_eq] at hfound
  exact hfound.1

/-- A task context without a waiting word has nothing to retry. -/
theorem Blk.retryWord_none {b : Blk} {c t : Nat} (h : (b.task c t).word = none) : b.retryWord c t = b := by
  rw [Blk.retryWord, h]
  split <;> rfl

/-- The block once program t of core c runs. -/
def Blk.ranNext (b : Blk) (c t : Nat) : Blk :=
  (b.updCore c (fun k => ({ k with last := t } : Core).updTask t (fun x => { x with st := .running, waitFrom := none }))).inc
    (coreReg c 0x88) 1

section ranNext
variable (b : Blk) (c t : Nat)

theorem Blk.ranNext_frame : { b.ranNext c t with cores := b.cores, regs := b.regs } = b := by simp [Blk.ranNext]

theorem Blk.core_ranNext : (b.ranNext c t).core c =
    ({ b.core c with last := t } : Core).updTask t (fun x => { x with st := .running, waitFrom := none }) := by
  rw [Blk.ranNext, Blk.core_inc, Blk.core_updCore_same]

theorem Blk.task_ranNext : (b.ranNext c t).task c t = { b.task c t with st := .running, waitFrom := none } := by
  rw [Blk.task, Blk.core_ranNext, Core.task_updTask_same]; rfl

theorem Blk.task_ranNext_other {u : Nat} (h : u ≠ t) : (b.ranNext c t).task c u = b.task c u := by
  rw [Blk.task, Blk.core_ranNext, Core.task_updTask_other _ _ h]; rfl

theorem Blk.reg_ranNext (o : Nat) : (b.ranNext c t).reg o = if o = coreReg c 0x88 then b.reg o + 1 else b.reg o :=
  Blk.reg_inc _ _ _ _

end ranNext

/-- Since when a task context that is switched in waits for elements: a built-in routine goes on waiting. -/
def Blk.waitsSince (b : Blk) (x : Task) : Option Nat :=
  if !x.prog && ((x.cmd.bind b.cmd).map (fun m => m.op = 0x10 && m.begun)).getD false then some b.time.toNat else none

theorem Blk.waitsSince_program (b : Blk) {x : Task} (h : x.prog = true) : b.waitsSince x = none := by simp [Blk.waitsSince, h]

/-- A program without a waiting word is switched in. -/
theorem Blk.switchIn_program {b : Blk} {c t : Nat} (hprog : (b.task c t).prog = true) (hword : (b.task c t).word = none) :
    b.switchIn c t = b.ranNext c t := by
  have hword' : ((b.ranNext c t).task c t).word = none := by rw [Blk.task_ranNext]; exact hword
  have hran : (b.updCore c (fun k => ({ k with last := t } : Core).updTask t (fun x => { x with st := .running, waitFrom := b.waitsSince x }))).inc
      (coreReg c 0x88) 1 = b.ranNext c t := by
    rw [Blk.ranNext, Blk.updCore, Core.updTask, show ({ b.core c with last := t } : Core).task t = b.task c t from rfl,
      b.waitsSince_program hprog]
    rfl
  exact (congrArg (fun x : Blk => x.retryWord c t) hran).trans (Blk.retryWord_none hword')

/-- TASK_SWITCH_IN on an idle sequencer. -/
theorem Blk.taskSwitchIn_ready {b : Blk} {c t : Nat} (hissue : b.seqIssues c = true) (hidle : (b.core c).idle = true)
    (hready : (b.core c).nextReady (fun t => !b.dbgHalted c || (b.core c).stepOne = some t) = some t) :
    b.taskSwitchIn c = b.switchIn c t := by
  simp only [Blk.taskSwitchIn, hissue, hidle, hready]
  rfl

/-! ### GX_SWITCH_OUT and GX_MODE_CHANGE (R196, R198) -/

/-- The block once task context t of core c waits for an element and its sequencer may run another. -/
def Blk.gxOut (b : Blk) (c t : Nat) : Blk := (b.updTask c t (fun x => { x with st := .waiting, waitFrom := none })).inc (coreReg c 0x758) 1

theorem Blk.gxSwitchOut_due {b : Blk} {c t u f : Nat} (hrun : (List.range 4).find? (fun t => ((b.core c).task t).st = .running) = some t)
    (hfrom : ((b.core c).task t).waitFrom = some f) (hissue : b.issues = true) (hup : b.coreUp c = true)
    (hact : b.rb (coreReg c 0x700) 1 = true) (hdue : f + max 16 (b.rf (coreReg c 0x700) 16 32) ≤ b.time.toNat)
    (hready : (b.core c).nextReady (fun _ => true) = some u) : b.gxSwitchOut c = (b.gxOut c t).switchIn c u := by
  have hdue' : decide (b.time.toNat ≥ f + b.gxwait c) = true := decide_eq_true hdue
  simp only [Blk.gxSwitchOut, hrun, hfrom, hissue, hup, hact, hdue', hready]
  rfl

theorem Blk.task_gxOut_other (b : Blk) (c : Nat) {t v : Nat} (h : v ≠ t) : (b.gxOut c t).task c v = b.task c v := by
  rw [Blk.gxOut, Blk.task_inc, Blk.task_updTask_other _ _ _ h]

theorem Blk.task_gxOut (b : Blk) (c t : Nat) : (b.gxOut c t).task c t = { b.task c t with st := .waiting, waitFrom := none } := by
  rw [Blk.gxOut, Blk.task_inc, Blk.task_updTask_same]

/-- The two switches together keep the build and the timebase. -/
theorem Blk.gxOut_ranNext_frame (b : Blk) (c t u : Nat) : { (b.gxOut c t).ranNext c u with cores := b.cores, regs := b.regs } = b := by
  simp [Blk.ranNext, Blk.gxOut]

/-- GXACT follows GX while every task context of the core is FREE. -/
theorem Blk.gxFollow_free {b : Blk} {c : Nat} (h : ∀ t, t < 4 → (b.task c t).st = .free) :
    b.gxFollow c = b.setFld (coreReg c 0x700) 1 1 (b.rf (coreReg c 0x700) 0 1) := by
  have hreg : 0x100700 + 0x10000 * c = coreReg c 0x700 := by unfold coreReg; omega
  rw [Blk.gxFollow, if_pos (List.all_eq_true.mpr fun t ht => decide_eq_true (h t (List.mem_range.mp ht))), hreg]

theorem Blk.gxFollow_held {b : Blk} {c : Nat} (h : ∃ t, t < 4 ∧ (b.task c t).st ≠ .free) : b.gxFollow c = b := by
  obtain ⟨t, ht, hst⟩ := h
  refine if_neg fun hall => hst ?_
  exact of_decide_eq_true (List.all_eq_true.mp hall t (List.mem_range.mpr ht))

/-- GX_MODE_CHANGE on a live core. -/
theorem exec_gxModeChange {s : State} {c : Fin 8} (h : s.blk.coreLive c = true) :
    exec (.gxModeChange c) s = .next (s.withBlk (s.blk.gxFollow c)) :=
  upd_onlyIf_true (g := fun b => b.coreLive c.val) (fun b => b.gxFollow c.val) h

/-- A bit that is copied into bit i of a register. -/
theorem Blk.rb_setFld_bit (b : Blk) (o j : Nat) {i : Nat} (hi : i < 64) : (b.setFld o i 1 (b.rf o j 1)).rb o i = b.rb o j := by
  rw [Blk.rb, Blk.setFld, Blk.reg_setReg_same, bit_putFld_one _ _ _ _ hi, if_pos rfl, Blk.rf, testBit_fld]
  simp [Blk.rb]

/-- Settles O15: each switch is `Blk.ranNext`, and GXACT is copied or left. -/
theorem taskSwitches : Obligations.TaskSwitches := by
  rintro s c k rfl
  refine ⟨fun t hissue hidle hready hword hprog => ?switch, fun t u f hrun hfrom hissue hup hact hdue hready hword hprog => ?out,
    fun hlive => ?mode⟩
  case switch =>
    have hframe := s.blk.ranNext_frame c t
    refine ⟨s.withBlk (s.blk.ranNext c t), exec_next_congr rfl ((Blk.taskSwitchIn_ready hissue hidle hready).trans
      (Blk.switchIn_program hprog hword)), s.withBlk_pending _, ?_⟩
    rw [State.withBlk_kept hframe]
    exact ⟨Blk.task_ranNext _ _ _, fun u hu => Blk.task_ranNext_other _ _ _ hu, congrArg Core.last (Blk.core_ranNext _ _ _),
      (Blk.reg_ranNext _ _ _ _).trans (if_pos rfl), hframe⟩
  case out =>
    have hne : u ≠ t := by
      rintro rfl
      have hst := List.find?_some hrun
      rw [decide_eq_true_eq] at hst
      rw [Core.nextReady_ready hready] at hst
      cases hst
    have hu : (s.blk.gxOut c t).task c u = s.blk.task c u := Blk.task_gxOut_other _ _ hne
    have hswitch := Blk.switchIn_program (b := s.blk.gxOut c t) (c := c) (t := u) (by rw [hu]; exact hprog) (by rw [hu]; exact hword)
    refine ⟨s.withBlk ((s.blk.gxOut c t).ranNext c u), exec_next_congr rfl
      ((Blk.gxSwitchOut_due hrun hfrom hissue hup hact hdue hready).trans hswitch), s.withBlk_pending _, ?_⟩
    rw [State.withBlk_kept (s.blk.gxOut_ranNext_frame c t u)]
    refine ⟨?_, ?_, fun v hv hvu => ?_, ?_⟩
    · rw [Blk.task_ranNext_other _ _ _ hne.symm, Blk.task_gxOut]; rfl
    · rw [Blk.task_ranNext, hu]; rfl
    · rw [Blk.task_ranNext_other _ _ _ hvu, Blk.task_gxOut_other _ _ hv]; rfl
    · rw [Blk.reg_ranNext, if_neg (coreReg_ne c (by decide)), Blk.gxOut, Blk.reg_inc, if_pos rfl]; rfl
  case mode =>
    refine ⟨s.withBlk (s.blk.gxFollow c), exec_gxModeChange hlive, s.withBlk_pending _, ?_⟩
    by_cases hfree : ∀ t, t < 4 → (s.blk.task c t).st = .free
    · rw [Blk.gxFollow_free hfree, State.withBlk_blk (by simp) (by simp)]
      refine ⟨fun _ => Blk.rb_setFld_bit _ _ _ (by decide), fun ⟨t, ht, hst⟩ => absurd (hfree t ht) hst, fun o ho => ?_, by simp⟩
      rw [Blk.reg_setFld, if_neg ho]
    · have hheld : ∃ t, t < 4 ∧ (s.blk.task c t).st ≠ .free := by push Not at hfree; exact hfree
      rw [Blk.gxFollow_held hheld, State.withBlk_blk rfl rfl]
      exact ⟨fun h => absurd h hfree, fun _ => rfl, fun _ _ => rfl, rfl⟩

/-! ### CK_SEQ_CTRL (R314, R315) -/

theorem bit_halfMask_full {i : Nat} (h : i < 64) : bit (halfMask .full) i = true := by
  have hmask : (halfMask .full).toNat = 2 ^ 64 - 1 := by decide
  rw [bit, hmask, Nat.testBit_two_pow_sub_one, decide_eq_true h]

theorem wrOne_full_bit (v : W64) {i : Nat} (h : i < 64) : wrOne .full v i = bit v i := by
  rw [wrOne, bit_halfMask_full h, Bool.and_true]; rfl

/-- A write of the whole register. -/
theorem Blk.seqCtrlWrite_full {b : Blk} {c : Nat} (v : W64) (ho : b.regOpen (coreReg c 0) = true) : b.seqCtrlWrite c .full v =
    ((if bit v 3 then (if bit v 2 then b.seqInval c false else b).seqInval c true else if bit v 2 then b.seqInval c false else b).seqEnable c 0
      (bit v 0)).seqEnable c 1 (bit v 1) := by
  simp only [Blk.seqCtrlWrite, ho, wrOne_full_bit v (show 2 < 64 by decide), wrOne_full_bit v (show 3 < 64 by decide), covers_zero]
  rfl

/-- An enable bit that is written as it stands does nothing. -/
theorem Blk.seqEnable_same {b : Blk} {c i : Nat} {v : Bool} (h : v = b.rb (coreReg c 0) i) : b.seqEnable c i v = b := by
  subst h
  unfold Blk.seqEnable
  cases b.rb (coreReg c 0) i <;> rfl

theorem Blk.seqInval_frame (b : Blk) (c : Nat) (data : Bool) (h : (b.core c).holds = false) : { b.seqInval c data with cores := b.cores } = b := by
  simp [Blk.seqInval, h]

theorem Blk.core_seqInval {b : Blk} {c : Nat} {data : Bool} (h : (b.core c).holds = false) : (b.seqInval c data).core c =
    if data then { b.core c with dc := { (b.core c).dc with busy := true, lines := [] } }
    else { b.core c with ic := { (b.core c).ic with busy := true, lines := [] } } := by
  simp [Blk.seqInval, h]

/-- A write that asks for one invalidate and leaves the enables. -/
theorem Blk.seqCtrlWrite_inval {b : Blk} {c : Nat} {v : W64} {data : Bool} (ho : b.regOpen (coreReg c 0) = true)
    (h0 : bit v 0 = b.rb (coreReg c 0) 0) (h1 : bit v 1 = b.rb (coreReg c 0) 1) (h2 : bit v 2 = !data) (h3 : bit v 3 = data)
    (hholds : (b.core c).holds = false) : b.seqCtrlWrite c .full v = b.seqInval c data := by
  have hreg : ∀ i, (b.seqInval c data).rb (coreReg c 0) i = b.rb (coreReg c 0) i := fun i => by
    rw [Blk.rb, Blk.rb, Blk.reg, Blk.reg, (congrArg Blk.regs (b.seqInval_frame c data hholds) :)]
  have hinval : (if bit v 3 then (if bit v 2 then b.seqInval c false else b).seqInval c true else if bit v 2 then b.seqInval c false else b) =
      b.seqInval c data := by rw [h2, h3]; cases data <;> rfl
  rw [Blk.seqCtrlWrite_full v ho, hinval, Blk.seqEnable_same (h0.trans (hreg 0).symm), Blk.seqEnable_same (h1.trans (hreg 1).symm)]

/-- The answer of a write that asks for one invalidate. -/
theorem exec_seqInval {s : State} {c : Fin 8} {v : W64} {data : Bool} {i : Instr}
    (hi : exec i s = .next (s.withBlk (s.blk.seqCtrlWrite c .full v))) (ho : s.blk.regOpen (coreReg c 0) = true)
    (h0 : bit v 0 = s.blk.rb (coreReg c 0) 0) (h1 : bit v 1 = s.blk.rb (coreReg c 0) 1) (h2 : bit v 2 = !data) (h3 : bit v 3 = data)
    (hholds : (s.blk.core c).holds = false) :
    ∃ s', exec i s = .next s' ∧ s'.pending = s.pending ∧ { s'.blk with cores := s.blk.cores } = s.blk ∧ s'.blk.core c =
      if data then { s.blk.core c with dc := { (s.blk.core c).dc with busy := true, lines := [] } }
      else { s.blk.core c with ic := { (s.blk.core c).ic with busy := true, lines := [] } } := by
  have hframe := s.blk.seqInval_frame c data hholds
  refine ⟨s.withBlk _, exec_next_congr hi (Blk.seqCtrlWrite_inval ho h0 h1 h2 h3 hholds), s.withBlk_pending _, ?_⟩
  rw [State.withBlk_blk (b := s.blk.seqInval c data) (congrArg Blk.build hframe :) (congrArg Blk.time hframe :)]
  exact ⟨hframe, Blk.core_seqInval hholds⟩

section enable
variable {b : Blk} {c : Nat} {v : W64} (ho : b.regOpen (coreReg c 0) = true) (h0 : bit v 0 = true) (hen : b.rb (coreReg c 0) 0 = false)
  (h1 : bit v 1 = b.rb (coreReg c 0) 1) (h2 : bit v 2 = false) (h3 : bit v 3 = false)
include ho h0 hen h1 h2 h3

theorem Blk.seqCtrlWrite_enables (hclean : (b.core c).ic.clean = true) (hidle : (b.core c).ic.busy = false) :
    b.seqCtrlWrite c .full v = b.setFld (coreReg c 0) 0 1 1 := by
  have hen0 : b.seqEnable c 0 true = b.setFld (coreReg c 0) 0 1 1 := by simp [Blk.seqEnable, hen, hclean, hidle]
  have hsame : (b.setFld (coreReg c 0) 0 1 1).rb (coreReg c 0) 1 = b.rb (coreReg c 0) 1 := by
    rw [Blk.rb, Blk.setFld, Blk.reg_setReg_same, bit_putFld_one _ _ _ _ (by decide), if_neg (by decide)]; rfl
  rw [Blk.seqCtrlWrite_full v ho, h0, h2, h3]
  exact (congrArg (fun x : Blk => x.seqEnable c 1 (bit v 1)) hen0).trans (Blk.seqEnable_same (h1.trans hsame.symm))

theorem Blk.seqCtrlWrite_refused (hbusy : (b.core c).ic.clean = false ∨ (b.core c).ic.busy = true) :
    b.seqCtrlWrite c .full v = b.seqEnerr c := by
  have hcond : ((b.core c).ic.clean && !(b.core c).ic.busy) = false := by
    obtain h | h := hbusy <;> simp [h]
  have hen0 : b.seqEnable c 0 true = b.seqEnerr c := by
    simp only [Blk.seqEnable, hen, if_pos, hcond]; rfl
  have hsame : (b.seqEnerr c).rb (coreReg c 0) 1 = b.rb (coreReg c 0) 1 := by
    rw [Blk.rb, Blk.seqEnerr, Blk.reg_setFld, if_neg (coreReg_ne c (by decide))]; rfl
  rw [Blk.seqCtrlWrite_full v ho, h0, h2, h3]
  exact (congrArg (fun x : Blk => x.seqEnable c 1 (bit v 1)) hen0).trans (Blk.seqEnable_same (h1.trans hsame.symm))

end enable

theorem SCache.done_busy {x : SCache} (h : x.busy = true) : x.done = { clean := true, busy := false, lines := [] } := by
  simp [SCache.done, h]

theorem SCache.done_idle {x : SCache} (h : x.busy = false) : x.done = x := by simp [SCache.done, h]

/-- SEQ_CACHE_INVAL_DONE on a core that is there and in a running block. -/
theorem exec_seqCacheInvalDone {s : State} {c : Fin 8} (hlive : s.blk.live = true) (hok : s.blk.coreOk c = true) :
    exec (.seqCacheInvalDone c) s = .next (s.withBlk (s.blk.updCore c (fun k => { k with ic := k.ic.done, dc := k.dc.done }))) :=
  upd_onlyIf_true (g := fun b => b.live && b.coreOk c.val) _ (by rw [hlive, hok]; rfl)

/-- Settles O16: what each write of CK_SEQ_CTRL asks for, and the end of an invalidate. -/
theorem sequencerCacheControl : Obligations.SequencerCacheControl := by
  rintro s c k v rfl
  refine ⟨fun ho => ⟨fun h0 h1 h2 h3 hholds => ?iinv, fun h0 h1 h2 h3 hholds => ?dinv, fun h0 hen h1 h2 h3 => ⟨fun hclean hidle => ?enable,
    fun hbusy => ?refused⟩⟩, fun hlive hok => ?done⟩
  case iinv =>
    obtain ⟨s', hs, hp, hframe, hcore⟩ := exec_seqInval (i := .iinv c .full v) (data := false) rfl ho h0 h1 h2 h3 hholds
    rw [if_neg Bool.false_ne_true] at hcore
    exact ⟨s', hs, hp, (congrArg Core.ic hcore :), (congrArg Core.dc hcore :), hframe⟩
  case dinv =>
    obtain ⟨s', hs, hp, hframe, hcore⟩ := exec_seqInval (i := .dinv c .full v) (data := true) rfl ho h0 h1 h2 h3 hholds
    rw [if_pos rfl] at hcore
    exact ⟨s', hs, hp, (congrArg Core.dc hcore :), (congrArg Core.ic hcore :), hframe⟩
  case enable =>
    refine ⟨s.withBlk _, exec_next_congr rfl (Blk.seqCtrlWrite_enables ho h0 hen h1 h2 h3 hclean hidle), s.withBlk_pending _, ?_⟩
    rw [State.withBlk_blk (by simp) (by simp)]
    exact ⟨(Blk.reg_setFld _ _ _ _ _ _).trans (if_pos rfl), fun o hne => (Blk.reg_setFld _ _ _ _ _ _).trans (if_neg hne), by simp⟩
  case refused =>
    refine ⟨s.withBlk _, exec_next_congr rfl (Blk.seqCtrlWrite_refused ho h0 hen h1 h2 h3 hbusy), ?_⟩
    rw [State.withBlk_blk (by simp [Blk.seqEnerr]) (by simp [Blk.seqEnerr]), Blk.seqEnerr]
    refine ⟨?_, (Blk.reg_setFld _ _ _ _ _ _).trans (if_neg (coreReg_ne c (by decide))), by simp⟩
    rw [Blk.rb, Blk.setFld, Blk.reg_setReg_same, bit_putFld_one _ _ _ _ (by decide), if_pos rfl]
    rfl
  case done =>
    refine ⟨s.withBlk _, exec_seqCacheInvalDone hlive hok, s.withBlk_pending _, ?_⟩
    rw [State.withBlk_blk (by simp) (by simp), Blk.core_updCore_same]
    exact ⟨SCache.done_busy, SCache.done_idle, SCache.done_busy, SCache.done_idle, by simp, fun d hd => Blk.core_updCore_other _ _ hd⟩

end Sys2Proof.Machine
end

section
/-! PROOFS. Loads, stores and line fills of the sequencer. -/
namespace Sys2Proof.Machine

/-! ### What a translation and a look-up leave of the block (R278, R310, R312) -/

/-- A translation that finds its page counts, and may fill the L1 TLB of its core. -/
theorem Blk.xl_ok_frame {b b1 : Blk} {r : Req} {ctx va : Nat} {wr : Bool} {tl : Tlb} {pa : Nat}
    (h : b.xl r ctx va wr = (b1, .ok tl pa)) : { b1 with regs := b.regs, l1 := b.l1 } = b := by
  unfold Blk.xl at h
  split at h
  · cases h
  split at h
  · cases h
  split at h
  · cases h
  cases hcore : r.core <;> simp only [hcore] at h
  case none =>
    split at h
    · cases h
    split at h <;> cases h
    simp
  case some c =>
    split at h
    · cases h; simp [Blk.fillL1]
    split at h
    · cases h
    split at h <;> cases h
    simp [Blk.fillL1]

/-- A parity error that is logged and corrected by a change f of the core. -/
theorem Blk.corrected_frame (b : Blk) (c : Nat) (v : W64) (f : Core → Core) :
    { ((((b.inc (coreReg c 0xA8) 1).log (coreReg c 0x18) 0 v).correctable).updCore c f) with regs := b.regs, cores := b.cores } = b := by
  simp [Blk.correctable]

/-- A parity error that does not stop the core changes its cache and counts. -/
theorem Blk.seqParity_frame {b b1 : Blk} {c : Nat} {data : Bool} {set : Nat} {par : SeqParity} (h : b.seqParity c data set par = (b1, false)) :
    { b1 with regs := b.regs, cores := b.cores } = b ∧ ∀ i, b1.rb (coreReg c 0) i = b.rb (coreReg c 0) i := by
  have h1440 : coreReg c 0 ≠ 0x1440 := by unfold coreReg; omega
  cases par with
  | none => cases h; exact ⟨rfl, fun _ => rfl⟩
  | err w =>
    simp only [Blk.seqParity] at h
    generalize (if data = true then (b.core c).dc else (b.core c).ic).way set w.val = l at h
    split at h
    · cases h; exact ⟨rfl, fun _ => rfl⟩
    split at h
    · cases h
    · cases h
      refine ⟨b.corrected_frame _ _ _, fun i => ?_⟩
      rw [Blk.rb, Blk.rb, Blk.reg_updCore, Blk.correctable, Blk.reg_inc, if_neg h1440, Blk.reg_log_other _ _ _ (coreReg_ne c (by decide)),
        Blk.reg_inc, if_neg (coreReg_ne c (by decide))]

/-- A look-up that finds the line makes it youngest, or takes what an uncached read has returned. -/
theorem Blk.dataLine_frame {b b2 : Blk} {c t : Nat} {host : Bool} {line cr : Nat} {par : SeqParity} {d : Sect}
    (h : b.dataLine c t host line cr par = (b2, .data d)) :
    { b2 with regs := b.regs, cores := b.cores } = b ∧ ∀ i, b2.rb (coreReg c 0) i = b.rb (coreReg c 0) i := by
  obtain ⟨b1, hparity⟩ : ∃ b1, (if b.rb (coreReg c 0) 1 then b.seqParity c true (line % 256) par else (b, false)) = (b1, false) := by
    simp only [Blk.dataLine] at h
    split at h
    · cases h
    · exact ⟨_, ‹_›⟩
  have hframe : { b1 with regs := b.regs, cores := b.cores } = b ∧ ∀ i, b1.rb (coreReg c 0) i = b.rb (coreReg c 0) i := by
    split at hparity
    · exact Blk.seqParity_frame hparity
    · cases hparity; exact ⟨rfl, fun _ => rfl⟩
  simp only [Blk.dataLine, hparity] at h
  split at h
  · cases h
    exact ⟨(by simp : _ = { b1 with regs := b.regs, cores := b.cores }).trans hframe.1, hframe.2⟩
  split at h <;> cases h
  exact hframe

/-- The answer of a word of slot B whose evaluation has changed the block from the state's own to b. -/
theorem exec_slotB_evaluated {s : State} {b : Blk} {c : Fin 8} {t : Fin 4} {i : Instr} {op : SOp} {e : Eff} (h : s.blk.slotBEnds c t)
    (hi : exec i s = .next (s.withBlk (s.blk.slotOp ⟨c, t, .b⟩ op))) (he : s.blk.evalOp c t 0 0 op = (b, .ok e))
    (hbuild : (b.slotBDone c t e).build = s.blk.build) (htime : (b.slotBDone c t e).time = s.blk.time) :
    ∃ s', exec i s = .next s' ∧ s'.pending = s.pending ∧ s'.blk = b.slotBDone c t e :=
  ⟨s.withBlk (b.slotBDone c t e), exec_next_congr hi (Blk.slotOp_done h he), s.withBlk_pending _, State.withBlk_blk hbuild htime⟩

/-- A block that differs from another in its cores and registers alone. -/
theorem Blk.kept_of_frame {b b' : Blk} (h : { b' with cores := b.cores, regs := b.regs } = b) :
    b'.build = b.build ∧ b'.time = b.time ∧ b'.dev = b.dev ∧ b'.host = b.host :=
  ⟨(congrArg Blk.build h :), (congrArg Blk.time h :), (congrArg Blk.dev h :), (congrArg Blk.host h :)⟩

/-- Translations and look-ups keep the build and the timebase. -/
theorem Blk.accessed_keeps {b b1 b2 : Blk} {r : Req} {ctx va pa : Nat} {wr : Bool} {tl : Tlb} (hxl : b.xl r ctx va wr = (b1, .ok tl pa))
    (h2 : { b2 with regs := b1.regs, cores := b1.cores } = b1) : b2.build = b.build ∧ b2.time = b.time := by
  have h1 := Blk.xl_ok_frame hxl
  exact ⟨(congrArg Blk.build h2 :).trans (congrArg Blk.build h1 :), (congrArg Blk.time h2 :).trans (congrArg Blk.time h1 :)⟩

/-! ### Loads (R309, R327) -/

section access
variable {s : State} {c : Fin 8} {t : Fin 4} (h : s.blk.slotBEnds c t) {rd ra : Greg} {imm : BitVec 43} {par : SeqParity} {va : Nat}
  (hva : va = ((s.blk.task c t).gr ra + imm.signExtend 64).toNat) (hlow : va < 2 ^ 57) {b1 : Blk} {tl : Tlb} {pa : Nat}
include h hva hlow

/-- A load in slot B whose line is at hand. -/
theorem exec_load {b2 : Blk} {d : Sect} {size : Nat} {sg : Bool} {i : Instr} {v : W64}
    (hxl : s.blk.xl (.seqData c t) (s.blk.taskCtx c t) va false = (b1, .ok tl pa))
    (hline : b1.dataLine c t (!tl.dev) (pa / 64) tl.cr par = (b2, .data d))
    (hi : exec i s = .next (s.withBlk (s.blk.slotOp ⟨c, t, .b⟩ (.load size sg rd ra (imm43 imm) par))))
    (hv : loadVal sg size (leNat (((Sect.bytes d).drop (pa % 64)).take size)) = v) (halign : va % size = 0) :
    ∃ s', exec i s = .next s' ∧ s'.pending = s.pending ∧ WroteG c t rd v ((b2.task c t).pc + 16) b2 s'.blk := by
  have heval : s.blk.evalOp c t 0 0 (.load size sg rd ra (imm43 imm) par) = (b2, .ok { g := some (rd.val, v) }) := by
    subst hva
    simp only [Blk.taskCtx, Blk.task] at hxl hlow halign
    simp only [Blk.evalOp, imm43, if_neg (Nat.not_le.mpr hlow), halign, hxl, hline, hv]
    rfl
  have hwrote : WroteG c t rd v ((b2.task c t).pc + 16) b2 (b2.slotBDone c t { g := some (rd.val, v) }) :=
    Blk.wroteG b2 c t rd v _ none
  obtain ⟨hbuild, htime⟩ := Blk.accessed_keeps hxl (Blk.dataLine_frame hline).1
  obtain ⟨hb, ht, -⟩ := Blk.kept_of_frame hwrote.frame.block
  obtain ⟨s', hs, hp, hblk⟩ := exec_slotB_evaluated h hi heval (hb.trans hbuild) (ht.trans htime)
  exact ⟨s', hs, hp, hblk ▸ hwrote⟩

end access

/-- Sign extension of the low w bits of a number. -/
theorem sext64_eq_signExtend {w : Nat} (v : Nat) (hlow : w ≤ 64) : sext64 w v = (BitVec.ofNat w v).signExtend 64 := by
  have hpow : 2 ^ w ≤ 2 ^ 64 := Nat.pow_le_pow_right (by decide) hlow
  have hlt : v % 2 ^ w < 2 ^ w := Nat.mod_lt _ (by positivity)
  apply BitVec.eq_of_toNat_eq
  rw [BitVec.toNat_signExtend, BitVec.toNat_setWidth, BitVec.msb_eq_decide, BitVec.toNat_ofNat, Nat.mod_eq_of_lt (hlt.trans_le hpow)]
  simp only [sext64, ge_iff_le, decide_eq_true_eq]
  split
  · rw [BitVec.toNat_ofNat, Nat.mod_eq_of_lt (by omega)]; omega
  · rw [BitVec.toNat_ofNat, Nat.mod_eq_of_lt (by omega)]; omega

/-- Settles O6: `exec_load` for each size and extension. -/
theorem loadsReadMemory : Obligations.LoadsReadMemory := by
  rintro s c t h rd ra imm par va hva hlow b1 b2 tl pa d hxl hline byte hbyte
  simp only [List.forall_mem_cons, List.not_mem_nil, false_implies, implies_true, and_true]
  refine ⟨exec_load h hva hlow hxl hline (sg := true) rfl ?_, exec_load h hva hlow hxl hline (sg := false) rfl ?_,
    exec_load h hva hlow hxl hline (sg := true) rfl ?_, exec_load h hva hlow hxl hline (sg := false) rfl ?_,
    exec_load h hva hlow hxl hline (sg := true) rfl ?_, exec_load h hva hlow hxl hline (sg := false) rfl ?_,
    exec_load h hva hlow hxl hline (sg := false) rfl ?_⟩
  case' refine_1 | refine_3 | refine_5 => rw [hbyte]; exact sext64_eq_signExtend _ (by decide)
  all_goals rw [hbyte]; rfl

/-! ### Stores (R309, R327) -/

/-- A word whose operation stores. -/
theorem Blk.doEff_store (b : Blk) (c t : Nat) (x : SeqStore) : b.doEff c t { st := some x } = (b.seqStore c t x).updTask c t (fun y => y) := by
  have hid : Eff.inTask { st := some x } = fun y => y := by funext y; simp [Eff.inTask]
  rw [← hid]; rfl

/-- A store word leaves of its block what the store leaves, and its own end. -/
theorem Blk.slotBDone_store (b : Blk) (c t : Nat) (x : SeqStore) : b.slotBDone c t { st := some x } =
    (((b.updTask c t (fun y => y)).seqStore c t x).updTask c t (fun y => y)).retire c t ((b.task c t).pc + 16) := by
  rw [Blk.slotBDone, Blk.doEff_store, Blk.doEff_nop]
  rfl

/-- The store of a word of slot B: its place, its translation and the bytes of its register. -/
def Task.storing (x : Task) (size rd va pa : Nat) (tl : Tlb) : SeqStore :=
  { dev := tl.dev, pa := pa, cr := tl.cr, va := va, tlb := tl, bytes := leBytes size (x.gr rd).toNat }

section evalStore
variable {b b1 : Blk} {c t rd ra size va pa : Nat} {imm : BitVec 43} {par : SeqParity} {tl : Tlb}
  (hva : va = ((b.task c t).gr ra + imm.signExtend 64).toNat) (hlow : va < 2 ^ 57) (halign : va % size = 0)
  (hxl : b.xl (.seqData c t) (b.taskCtx c t) va true = (b1, .ok tl pa))
include hva hlow halign hxl

theorem Blk.evalOp_store_cached {b2 : Blk} {d : Sect} (hen : b1.rb (coreReg c 0) 1 = true)
    (hline : b1.dataLine c t (!tl.dev) (pa / 64) tl.cr par = (b2, .data d)) :
    b.evalOp c t 0 0 (.store size rd ra (imm43 imm) par) = (b2, .ok { st := some ((b.task c t).storing size rd va pa tl) }) := by
  subst hva
  simp only [Blk.taskCtx, Blk.task] at hxl hlow halign
  simp only [Blk.evalOp, imm43, if_neg (Nat.not_le.mpr hlow), halign, hxl, hen, hline]
  rfl

theorem Blk.evalOp_store_uncached (hen : b1.rb (coreReg c 0) 1 = false)
    (hplace : (tl.dev && if tierOf pa < 3 then !b1.paRange pa size else (b1.window pa).isNone) = false) :
    b.evalOp c t 0 0 (.store size rd ra (imm43 imm) par) = (b1, .ok { st := some ((b.task c t).storing size rd va pa tl) }) := by
  subst hva
  simp only [Blk.taskCtx, Blk.task] at hxl hlow halign
  simp only [Blk.evalOp, imm43, if_neg (Nat.not_le.mpr hlow), halign, hxl, hen, hplace]
  rfl

end evalStore

/-- The line of way w of a set with bytes stored into it. -/
def SCache.stored (x : SCache) (pa w : Nat) (bytes : List Byte) : SCache :=
  x.upd (pa / 64 % 256) w (fun l => { l with dirty := true, age := 0, data := patchSect l.data (pa % 64) bytes })

theorem SCache.way_upd (x : SCache) (set w : Nat) (f : SLine → SLine) : (x.upd set w f).way set w = f (x.way set w) :=
  Tab.get_set_same _ _ _ _

theorem SCache.get_upd_other (x : SCache) {set w k : Nat} (f : SLine → SLine) (h : k ≠ 4 * set + w) :
    Tab.get {} (x.upd set w f).lines k = Tab.get {} x.lines k := Tab.get_set_other _ _ _ _ h

theorem Blk.seqStore_cached {b : Blk} {c t w : Nat} {x : SeqStore} (hen : b.rb (coreReg c 0) 1 = true)
    (hfind : (b.core c).dc.find (!x.dev) (x.pa / 64) = some w) :
    b.seqStore c t x = b.updCore c (fun k => { k with dc := k.dc.stored x.pa w x.bytes }) := by
  simp only [Blk.seqStore, hen, hfind]
  rfl

theorem Blk.dc_retire (b : Blk) (c t : Nat) (pc : W64) : ((b.retire c t pc).core c).dc = (b.core c).dc :=
  (congrArg Core.dc (b.core_retire c t pc) :)

/-- What a store into a line leaves of the block, its cache and its task context. -/
theorem Blk.slotBDone_cached {b : Blk} {c t w : Nat} {x : SeqStore} (hen : b.rb (coreReg c 0) 1 = true)
    (hfind : (b.core c).dc.find (!x.dev) (x.pa / 64) = some w) :
    { b.slotBDone c t { st := some x } with cores := b.cores, regs := b.regs } = b ∧
    ((b.slotBDone c t { st := some x }).core c).dc = (b.core c).dc.stored x.pa w x.bytes ∧
    (b.slotBDone c t { st := some x }).task c t = (b.task c t).issued ((b.task c t).pc + 16) := by
  have hcore := Blk.core_updTask_same b c t (fun y => y)
  have hstore : ((b.updTask c t (fun y => y)).seqStore c t x) = (b.updTask c t (fun y => y)).updCore c (fun k => { k with dc := k.dc.stored x.pa w x.bytes }) :=
    Blk.seqStore_cached hen (by rw [hcore]; exact hfind)
  rw [Blk.slotBDone_store, hstore]
  refine ⟨by simp [Blk.retire], ?_, ?_⟩
  · rw [Blk.dc_retire, Blk.core_updTask_same, Blk.core_updCore_same, hcore]
    rfl
  · rw [Blk.task_retire, Blk.task_updTask_same, Blk.task, Blk.core_updCore_same]
    exact congrArg (fun y : Task => y.issued _) (Blk.task_updTask_same b c t (fun y => y))

/-- Where the store goes past the cache, the block keeps its cores; a word's end adds its count. -/
theorem Blk.slotBDone_uncached {b b' : Blk} {c t : Nat} {x : SeqStore} (hstore : (b.updTask c t (fun y => y)).seqStore c t x = b')
    (hcores : b'.cores = (b.updTask c t (fun y => y)).cores) :
    { b.slotBDone c t { st := some x } with cores := b'.cores, regs := b'.regs } = b' ∧
    (b.slotBDone c t { st := some x }).task c t = (b.task c t).issued ((b.task c t).pc + 16) := by
  rw [Blk.slotBDone_store, hstore]
  refine ⟨by simp [Blk.retire], ?_⟩
  have htask : b'.task c t = b.task c t := by
    rw [Blk.task, Blk.core, hcores]
    exact Blk.task_updTask_same b c t (fun y => y)
  rw [Blk.task_retire, Blk.task_updTask_same, htask]

theorem Blk.seqStore_host {b : Blk} {c t : Nat} {x : SeqStore} (hen : b.rb (coreReg c 0) 1 = false) (hdev : x.tlb.dev = false) :
    b.seqStore c t x = b.hostWrite x.pa x.bytes := by
  simp [Blk.seqStore, hen, Blk.doParts, hdev]

theorem Blk.seqStore_dev {b : Blk} {c t : Nat} {x : SeqStore} (hen : b.rb (coreReg c 0) 1 = false) (hdev : x.tlb.dev = true)
    (htier : tierOf x.pa < 3) : b.seqStore c t x = b.passWrite x.tlb.cr x.pa x.bytes := by
  simp [Blk.seqStore, hen, Blk.doParts, hdev, htier]

/-- The store instructions and their sizes. -/
theorem exec_storeInstr {s : State} {c : Fin 8} {t : Fin 4} {rd ra : Greg} {imm : BitVec 43} {par : SeqParity} {p : (Slot → Greg → Greg → BitVec 43 → SeqParity → Instr) × Nat}
    (hp : p ∈ [(Instr.stb, 1), (Instr.sth, 2), (Instr.stw, 4), (Instr.std, 8)]) :
    exec (p.1 ⟨c, t, .b⟩ rd ra imm par) s = .next (s.withBlk (s.blk.slotOp ⟨c, t, .b⟩ (.store p.2 rd ra (imm43 imm) par))) ∧
      p.2 ∣ 8 := by
  simp only [List.mem_cons, List.not_mem_nil, or_false] at hp
  obtain rfl | rfl | rfl | rfl := hp
  · exact ⟨rfl, by decide⟩
  · exact ⟨rfl, by decide⟩
  · exact ⟨rfl, by decide⟩
  · exact ⟨rfl, by decide⟩

/-- An aligned access of up to eight bytes stays in its sector. -/
theorem sectorsOf_aligned {pa n : Nat} (hn : n ∣ 8) (h : pa % n = 0) : sectorsOf pa n = [pa / 64] := by
  have hpos : 0 < n := Nat.pos_of_dvd_of_pos hn (by decide)
  have hlow : pa % 64 / n * n = pa % 64 := Nat.div_mul_cancel ((Nat.dvd_mod_iff (hn.trans (by decide))).mpr (Nat.dvd_of_mod_eq_zero h))
  have hfull : 64 / n * n = 64 := Nat.div_mul_cancel (hn.trans (by decide))
  have hlt : pa % 64 / n < 64 / n := by
    refine Nat.lt_of_mul_lt_mul_right (a := n) ?_
    rw [hlow, hfull]
    exact Nat.mod_lt _ (by decide)
  have hroom : pa % 64 + n ≤ 64 := by
    calc pa % 64 + n = (pa % 64 / n + 1) * n := by rw [Nat.add_mul, hlow, Nat.one_mul]
      _ ≤ 64 / n * n := Nat.mul_le_mul_right _ hlt
      _ = 64 := hfull
  have hlast : (pa + n - 1) / 64 = pa / 64 := by omega
  rw [sectorsOf, if_neg hpos.ne', hlast, Nat.add_sub_cancel_left]
  rfl

theorem leBytes_length (n v : Nat) : (leBytes n v).length = n := by
  induction n generalizing v with
  | zero => rfl
  | succ n ih => rw [leBytes, List.length_cons, ih]

section storeWord
variable {s : State} {c : Fin 8} {t : Fin 4} (h : s.blk.slotBEnds c t) {i : Instr} {op : SOp} {x : SeqStore}
  (hi : exec i s = .next (s.withBlk (s.blk.slotOp ⟨c, t, .b⟩ op))) {b : Blk} (he : s.blk.evalOp c t 0 0 op = (b, .ok { st := some x }))
  (hbuild : b.build = s.blk.build) (htime : b.time = s.blk.time)
include h hi he hbuild htime

/-- The answer of a store whose line the data cache holds. -/
theorem exec_store_cached {w : Nat} (hen : b.rb (coreReg c 0) 1 = true) (hfind : (b.core c).dc.find (!x.dev) (x.pa / 64) = some w) :
    ∃ s', exec i s = .next s' ∧ s'.pending = s.pending ∧ { s'.blk with cores := b.cores, regs := b.regs } = b ∧
      (s'.blk.core c).dc = (b.core c).dc.stored x.pa w x.bytes ∧ s'.blk.task c t = (b.task c t).issued ((b.task c t).pc + 16) := by
  have hdone := Blk.slotBDone_cached (t := t) hen hfind
  obtain ⟨hb, ht, -⟩ := Blk.kept_of_frame hdone.1
  obtain ⟨s', hs, hp, hblk⟩ := exec_slotB_evaluated h hi he (hb.trans hbuild) (ht.trans htime)
  exact ⟨s', hs, hp, hblk ▸ hdone⟩

/-- The answer of a store that goes past the cache and leaves b'. -/
theorem exec_store_uncached {b' : Blk} (hstore : (b.updTask c t (fun y => y)).seqStore c t x = b')
    (hkeeps : b'.build = b.build ∧ b'.time = b.time ∧ b'.cores = (b.updTask c t (fun y => y)).cores) :
    ∃ s', exec i s = .next s' ∧ s'.pending = s.pending ∧ { s'.blk with cores := b'.cores, regs := b'.regs } = b' ∧
      s'.blk.task c t = (b.task c t).issued ((b.task c t).pc + 16) := by
  obtain ⟨hb', ht', hcores⟩ := hkeeps
  have hdone := Blk.slotBDone_uncached hstore hcores
  obtain ⟨hb, ht, -⟩ := Blk.kept_of_frame hdone.1
  obtain ⟨s', hs, hp, hblk⟩ := exec_slotB_evaluated h hi he (hb.trans (hb'.trans hbuild)) (ht.trans (ht'.trans htime))
  exact ⟨s', hs, hp, hblk ▸ hdone⟩

end storeWord

/-- Settles O7: a store goes to its line, or through to its memory (`Blk.slotBDone_cached`, `Blk.slotBDone_uncached`). -/
theorem storesWriteMemory : Obligations.StoresWriteMemory := by
  rintro s c t h rd ra imm par va hva hlow b1 tl pa hxl hpa p hp halign bytes rfl
  obtain ⟨hi, hsize⟩ := exec_storeInstr (s := s) (c := c) (t := t) (rd := rd) (ra := ra) (imm := imm) (par := par) hp
  have hlength := leBytes_length p.2 ((s.blk.task c t).gr rd).toNat
  refine ⟨fun b2 d w hen hline hfind => ?cached, fun hen hdev => ?host, fun hen hdev htier hrange henc => ?dev⟩
  case cached =>
    obtain ⟨hframe2, hregs⟩ := Blk.dataLine_frame hline
    obtain ⟨hbuild, htime⟩ := Blk.accessed_keeps hxl hframe2
    obtain ⟨s', hs, hp, hframe, hdc, htask⟩ := exec_store_cached h hi (Blk.evalOp_store_cached hva hlow halign hxl hen hline) hbuild htime
      ((hregs 1).trans hen) hfind
    refine ⟨s', hs, hp, hframe, ?_, fun k hk => ?_, htask⟩
    · rw [hdc]; exact SCache.way_upd _ _ _ _
    · rw [hdc]; exact SCache.get_upd_other _ _ hk
  case host =>
    obtain ⟨hbuild, htime⟩ := Blk.accessed_keeps hxl rfl
    obtain ⟨s', hs, hp, hframe, htask⟩ := exec_store_uncached h hi
      (Blk.evalOp_store_uncached hva hlow halign hxl hen (by rw [hdev]; rfl)) hbuild htime (Blk.seqStore_host hen hdev) ⟨rfl, rfl, rfl⟩
    obtain ⟨-, -, hdev', hhost⟩ := Blk.kept_of_frame hframe
    refine ⟨s', hs, hp, hdev', fun a => ?_, htask⟩
    rw [Blk.hostByte, hhost]
    refine (devStore_get _ _ _ _).trans ?_
    rw [Task.storing, hlength]
    rfl
  case dev =>
    obtain ⟨hbuild, htime⟩ := Blk.accessed_keeps hxl rfl
    have hpass := (b1.updTask c t (fun y => y)).passWrite_frame tl.cr pa (leBytes p.2 ((s.blk.task c t).gr rd).toNat)
    obtain ⟨-, hwrite, -, hsame⟩ := (b1.updTask c t (fun y => y)).passWrite_reaches tl.cr pa (leBytes p.2 ((s.blk.task c t).gr rd).toNat)
    obtain ⟨s', hs, hp, hframe, htask⟩ := exec_store_uncached h hi
      (Blk.evalOp_store_uncached hva hlow halign hxl hen (by simp [htier, hrange])) hbuild htime (Blk.seqStore_dev hen hdev htier)
      ⟨(congrArg Blk.build hpass :), (congrArg Blk.time hpass :), (congrArg Blk.cores hpass :)⟩
    obtain ⟨-, -, hdev', hhost⟩ := Blk.kept_of_frame hframe
    refine ⟨s', hs, hp, hhost.trans hsame, fun a => ?_, htask⟩
    rw [Blk.devByte, hdev', Task.storing, hwrite]
    have hsector : ∀ x ∈ sectorsOf pa (leBytes p.2 ((s.blk.task c t).gr rd).toNat).length, (b1.updTask c t (fun y => y)).enc tl.cr (64 * x) = false := by
      rw [hlength, sectorsOf_aligned hsize (by rw [← Nat.mod_mod_of_dvd pa hsize, hpa, Nat.mod_mod_of_dvd va hsize, halign])]
      rintro x hx
      rw [List.mem_singleton.mp hx]
      exact henc
    have hbyte := Blk.devByte_devWrite _ _ _ _ hsector a
    rw [hlength] at hbyte
    exact hbyte

end Sys2Proof.Machine
end

section
/-! PROOFS. Line fills of the sequencer caches. -/
namespace Sys2Proof.Machine

/-! ### The line that a fill puts in (R79, R310) -/

/-- The two caches hold the same lines, whatever their ages, their dirty bits and their data. -/
def SCache.SameLines (x y : SCache) : Prop := ∀ k, (Tab.get {} y.lines k).valid = (Tab.get {} x.lines k).valid ∧
  (Tab.get {} y.lines k).host = (Tab.get {} x.lines k).host ∧ (Tab.get {} y.lines k).line = (Tab.get {} x.lines k).line

theorem SCache.SameLines.refl (x : SCache) : x.SameLines x := fun _ => ⟨rfl, rfl, rfl⟩

theorem SCache.SameLines.trans {x y z : SCache} (h : x.SameLines y) (h' : y.SameLines z) : x.SameLines z := fun k => by
  obtain ⟨hv, hh, hl⟩ := h k
  obtain ⟨hv', hh', hl'⟩ := h' k
  exact ⟨hv'.trans hv, hh'.trans hh, hl'.trans hl⟩

theorem SCache.SameLines.find {x y : SCache} (h : x.SameLines y) (host : Bool) (line : Nat) : y.find host line = x.find host line := by
  unfold SCache.find
  congr 1
  funext w
  obtain ⟨hv, hh, hl⟩ := h (4 * (line % 256) + w)
  simp only [hv, hh, hl]

/-- A change of one line that keeps what it holds. -/
theorem SCache.sameLines_set (x : SCache) (k : Nat) (l : SLine) (hv : l.valid = (Tab.get {} x.lines k).valid)
    (hh : l.host = (Tab.get {} x.lines k).host) (hl : l.line = (Tab.get {} x.lines k).line) :
    x.SameLines { x with lines := Tab.set {} x.lines k l } := fun j => by
  rw [Tab.get_set]
  split
  · next hj => subst hj; exact ⟨hv, hh, hl⟩
  · exact ⟨rfl, rfl, rfl⟩

/-- Ageing keeps the lines. -/
theorem SCache.sameLines_older (x : SCache) (set : Nat) : x.SameLines (x.older set) := by
  have hage (y : SCache) (w : Nat) : y.SameLines (y.upd set w (fun l => { l with age := min 3 (l.age + 1) })) :=
    y.sameLines_set _ _ rfl rfl rfl
  exact ((hage _ _).trans (hage _ _)).trans ((hage _ _).trans (hage _ _))

/-- The way that a fill takes is one of four, and finding it keeps the lines. -/
theorem SCache.victim_spec (x : SCache) (set n : Nat) : x.SameLines (x.victim set n).1 ∧ (x.victim set n).2 < 4 := by
  induction n generalizing x with
  | zero => exact ⟨.refl x, Nat.zero_lt_succ 3⟩
  | succ n ih =>
    rw [SCache.victim]
    split
    · next w hw => exact ⟨.refl x, List.mem_range.mp (List.mem_of_find?_eq_some hw)⟩
    split
    · next w hw => exact ⟨.refl x, List.mem_range.mp (List.mem_of_find?_eq_some hw)⟩
    · obtain ⟨hsame, hway⟩ := ih (x.older set)
      exact ⟨(x.sameLines_older set).trans hsame, hway⟩

/-- The line as a fill leaves it. -/
def filledLine (host : Bool) (line cr : Nat) (d : Sect) : SLine :=
  { valid := true, host := host, line := line, cr := cr, age := 1, data := d }

/-- A line that a cache did not hold is found where a fill has put it. -/
theorem SCache.find_filled {x : SCache} {host : Bool} {line w : Nat} (cr : Nat) (d : Sect) (hnone : x.find host line = none) (hw : w < 4) :
    (x.upd (line % 256) w (fun _ => filledLine host line cr d)).find host line = some w := by
  have hget (v : Nat) : Tab.get {} (x.upd (line % 256) w (fun _ => filledLine host line cr d)).lines (4 * (line % 256) + v) =
      if v = w then filledLine host line cr d else Tab.get {} x.lines (4 * (line % 256) + v) := by
    refine (Tab.get_set ({} : SLine) x.lines (4 * (line % 256) + w) (4 * (line % 256) + v) (filledLine host line cr d)).trans ?_
    simp only [Nat.add_left_cancel_iff]
  have hsome : ((x.upd (line % 256) w (fun _ => filledLine host line cr d)).find host line).isSome = true := by
    refine List.find?_isSome.mpr ⟨w, List.mem_range.mpr hw, ?_⟩
    rw [hget, if_pos rfl]
    simp [filledLine]
  obtain ⟨v, hv⟩ := Option.isSome_iff_exists.mp hsome
  have hmem := List.mem_of_find?_eq_some hv
  have hholds := List.find?_some hv
  by_cases hvw : v = w
  · rw [hv, hvw]
  · rw [hget, if_neg hvw] at hholds
    exact absurd hholds (List.find?_eq_none.mp hnone v hmem)

/-! ### What a fill leaves of the block -/

/-- The bytes of a line on their way to its memory. -/
def Blk.lineOut (b : Blk) (l : SLine) : Blk :=
  if l.host then b.hostWrite (64 * l.line) (Sect.bytes l.data) else b.passWrite l.cr (64 * l.line) (Sect.bytes l.data)

theorem Blk.core_lineOut (b : Blk) (l : SLine) (c : Nat) : (b.lineOut l).core c = b.core c := by
  unfold Blk.lineOut
  split
  · rfl
  · rw [Blk.core, (congrArg Blk.cores (b.passWrite_frame l.cr (64 * l.line) (Sect.bytes l.data)) :)]; rfl

/-- A write-back of a line changes its dirty bit alone of the core. -/
theorem Blk.writeBack_core (b : Blk) (c key : Nat) : ∃ x : SCache, (b.core c).dc.SameLines x ∧
    (b.writeBack c key).core c = { b.core c with dc := x } := by
  by_cases hdirty : (!(Tab.get {} (b.core c).dc.lines key).valid || !(Tab.get {} (b.core c).dc.lines key).dirty) = true
  · exact ⟨_, .refl _, by rw [show b.writeBack c key = b from if_pos hdirty]⟩
  · refine ⟨_, (b.core c).dc.sameLines_set key { Tab.get {} (b.core c).dc.lines key with dirty := false } rfl rfl rfl, ?_⟩
    have hwrite : b.writeBack c key = ((b.lineOut (Tab.get {} (b.core c).dc.lines key)).updCore c (fun k => { k with dc := { k.dc with
        lines := Tab.set {} k.dc.lines key { Tab.get {} (b.core c).dc.lines key with dirty := false } } })).inc (coreReg c 0xA0) 1 :=
      if_neg hdirty
    rw [hwrite, Blk.core_inc, Blk.core_updCore_same, Blk.core_lineOut]

/-- A fill of the data cache with a line that it does not hold. -/
theorem Blk.fillLine_data {b : Blk} {c line : Nat} {host : Bool} (cr : Nat) (d : Sect) (hnone : (b.core c).dc.find host line = none) :
    ∃ (x : SCache) (w : Nat), (b.fillLine c true host line cr d).core c = { b.core c with dc := x } ∧ x.find host line = some w ∧
      x.way (line % 256) w = filledLine host line cr d := by
  obtain ⟨hvictim, hway⟩ := (b.core c).dc.victim_spec (line % 256) 4
  generalize hv : (b.core c).dc.victim (line % 256) 4 = v at hvictim hway
  obtain ⟨x, hback, hcore⟩ := (b.updCore c (fun k => { k with dc := v.1 })).writeBack_core c (4 * (line % 256) + v.2)
  rw [Blk.core_updCore_same] at hback hcore
  have hnone' : x.find host line = none := by rw [(hvictim.trans hback).find, hnone]
  refine ⟨x.upd (line % 256) v.2 (fun _ => filledLine host line cr d), v.2, ?_, SCache.find_filled cr d hnone' hway, SCache.way_upd _ _ _ _⟩
  have hfill : b.fillLine c true host line cr d = ((b.updCore c (fun k => { k with dc := v.1 })).writeBack c (4 * (line % 256) + v.2)).updCore c
      (fun k => { k with dc := k.dc.upd (line % 256) v.2 (fun _ => filledLine host line cr d) }) := by rw [← hv]; rfl
  rw [hfill, Blk.core_updCore_same, hcore]

/-- A fill of the instruction cache with a line that it does not hold. -/
theorem Blk.fillLine_instr {b : Blk} {c line : Nat} {host : Bool} (cr : Nat) (d : Sect) (hnone : (b.core c).ic.find host line = none) :
    ∃ (x : SCache) (w : Nat), (b.fillLine c false host line cr d).core c = { b.core c with ic := x } ∧ x.find host line = some w ∧
      x.way (line % 256) w = filledLine host line cr d ∧ (b.fillLine c false host line cr d).regs = b.regs := by
  obtain ⟨hvictim, hway⟩ := (b.core c).ic.victim_spec (line % 256) 4
  generalize hv : (b.core c).ic.victim (line % 256) 4 = v at hvictim hway
  have hnone' : v.1.find host line = none := by rw [hvictim.find, hnone]
  have hfill : b.fillLine c false host line cr d = (b.updCore c (fun k => { k with ic := v.1 })).updCore c
      (fun k => { k with ic := k.ic.upd (line % 256) v.2 (fun _ => filledLine host line cr d) }) := by rw [← hv]; rfl
  refine ⟨v.1.upd (line % 256) v.2 (fun _ => filledLine host line cr d), v.2, ?_, SCache.find_filled cr d hnone' hway, SCache.way_upd _ _ _ _,
    by rw [hfill]; rfl⟩
  rw [hfill, Blk.core_updCore_same, Blk.core_updCore_same]

/-! ### The returns (R310, R311) -/

/-- A returned line that the data cache does not hold. -/
theorem Blk.loadMissReturn_fills {b : Blk} {c t line cr : Nat} {host : Bool} {r : Resp} {d : Sect} (hwant : (b.task c t).want = some (host, line, cr))
    (hshut : b.shutAt c (!host) (64 * line) = false) (hnone : (b.core c).dc.find host line = none) (hen : b.rb (coreReg c 0) 1 = true)
    (hdata : b.lineData host line cr r = .ok d) :
    b.loadMissReturn c t r .none = ((b.updTask c t (fun x => { x with want := none })).fillLine c true host line cr d).retryWord c t := by
  have hdata' : (b.updTask c t (fun x => { x with want := none })).lineData host line cr r = .ok d := hdata
  have hen' : (b.updTask c t (fun x => { x with want := none })).rb (coreReg c 0) 1 = true := hen
  have hnone' : ((b.updTask c t (fun x => { x with want := none })).core c).dc.find host line = none := by
    rw [Blk.core_updTask_same]; exact hnone
  simp only [Blk.loadMissReturn, hwant, hshut, hdata', hen', Blk.seqParity, hnone', Bool.false_eq_true, if_false, if_true, Option.isSome_none]

/-- A returned line that the instruction cache does not hold. -/
theorem Blk.fetchReturn_fills {b b1 : Blk} {c t pa : Nat} {m : Cmd} {tl : Tlb} {r : Resp} {d : Sect} (hcmd : (b.task c t).cmd.bind b.cmd = some m)
    (hxl : b.xl (.seqFetch c t) m.ctx (b.task c t).pc.toNat false = (b1, .ok tl pa)) (hen : b1.rb (coreReg c 0) 0 = true)
    (hnone : (b1.core c).ic.find (!tl.dev) (pa / 64) = none) (hshut : b1.shutAt c tl.dev pa = false)
    (hdata : (b1.inc (coreReg c 0x90) 1).lineData (!tl.dev) (pa / 64) tl.cr r = .ok d) :
    b.fetchReturn c t r .none = (b1.inc (coreReg c 0x90) 1).fillLine c false (!tl.dev) (pa / 64) tl.cr d := by
  simp only [Blk.fetchReturn, hcmd, hxl, hen, if_pos, Blk.seqParity, hnone, hshut, hdata]
  rfl

/-- Settles O8: the returned line is filled where the cache did not hold it. -/
theorem sequencerMissesFill : Obligations.SequencerMissesFill := by
  intro s c t r
  refine ⟨fun host line cr d hlive hfatal hwant hshut hnone hen hdata => ?load, fun m b1 tl pa d hissue hprog hstop hcmd hxl hen hnone hshut hdata => ?fetch⟩
  case load =>
    have hnone' : ((s.blk.updTask c t (fun x => { x with want := none })).core c).dc.find host line = none := by
      rw [Blk.core_updTask_same]; exact hnone
    obtain ⟨x, w, hcore, hfind, hway⟩ := Blk.fillLine_data cr d hnone'
    have hexec : exec (.loadMissReturn ⟨c, t⟩ r .none) s = .next (s.withBlk (s.blk.loadMissReturn c t r .none)) :=
      upd_onlyIf_true (g := fun b => b.coreLive c.val && !(b.core c.val).fatal) (fun b => b.loadMissReturn c t r .none) (by rw [hlive, hfatal]; rfl)
    refine ⟨_, w, exec_next_congr hexec (Blk.loadMissReturn_fills hwant hshut hnone hen hdata), ?_, ?_, ?_⟩
    · rw [Blk.task, hcore]
      exact Blk.task_updTask_same _ _ _ _
    · rw [hcore]; exact hfind
    · rw [hcore]; exact hway
  case fetch =>
    obtain ⟨x, w, hcore, hfind, hway, hregs⟩ := Blk.fillLine_instr (b := b1.inc (coreReg c 0x90) 1) tl.cr d hnone
    have hexec : exec (.instructionFetchReturn ⟨c, t⟩ r .none) s = .next (s.withBlk (s.blk.fetchReturn c t r .none)) :=
      upd_onlyIf_true (g := fun b => b.seqIssues c.val && (b.task c.val t.val).prog && !(b.task c.val t.val).stop)
        (fun b => b.fetchReturn c t r .none) (by rw [hissue, hprog, hstop]; rfl)
    refine ⟨_, w, exec_next_congr hexec (Blk.fetchReturn_fills hcmd hxl hen hnone hshut hdata), ?_, ?_, ?_, ?_⟩
    · rw [Blk.reg, hregs]
      exact (Blk.reg_inc _ _ _ _).trans (if_pos rfl)
    · rw [hcore]; exact hfind
    · rw [hcore]; exact hway
    · rw [hcore]; rfl

end Sys2Proof.Machine
end

section
/-! PROOFS. The slots of dispatcher commands are checked before their effect. -/
namespace Sys2Proof.Machine

/-- A dispatcher command that is to begin: its deadline, the version of its slot, the checks of its slot, then its effect. -/
theorem Blk.disp_checks {b : Blk} {id op : Nat} {m : Cmd} (h : DispReady b id op m) (bad : Cmd → Bool) (act : Blk → Cmd → Blk) :
    b.disp id op bad act = if b.dlHit m then (b.begun id).endCmd id .deadline
      else if fld (m.par 0) 0 4 ≠ 1 then (b.begun id).failCmd id 0x50
      else if bad m then (b.begun id).failCmd id 0x51
      else act (b.begun id) m := by
  obtain ⟨hcmd, hlive, hdisp, hop, hphase, hfresh, hgoing⟩ := h
  have hbegins : (!b.live || !m.isDisp || decide (m.op ≠ op) || decide (m.phase ≠ .disp) || m.begun || m.ending) = false := by
    simp [hlive, hdisp, hop, hphase, hfresh, hgoing]
  simp only [Blk.disp, hcmd, hbegins]
  rfl

/-- What a dispatcher command answers that a check refuses. -/
theorem exec_disp_refused {s : State} {i : Instr} {id op : Nat} {m : Cmd} {bad : Cmd → Bool} {act : Blk → Cmd → Blk} (h : DispReady s.blk id op m)
    (hi : exec i s = .next (s.withBlk (s.blk.disp id op bad act))) :
    (s.blk.dlHit m = true → exec i s = .next (s.withBlk ((s.blk.begun id).endCmd id .deadline))) ∧
    (s.blk.dlHit m = false → fld (m.par 0) 0 4 ≠ 1 → exec i s = .next (s.withBlk ((s.blk.begun id).failCmd id 0x50))) ∧
    (s.blk.dlHit m = false → fld (m.par 0) 0 4 = 1 → bad m = true → exec i s = .next (s.withBlk ((s.blk.begun id).failCmd id 0x51))) := by
  rw [hi, Blk.disp_checks h]
  refine ⟨fun ht => ?_, fun ht hv => ?_, fun ht hv hb => ?_⟩
  · rw [if_pos ht]
  · rw [if_neg (by simp [ht]), if_pos hv]
  · rw [if_neg (by simp [ht]), if_neg (by simp [hv]), if_pos hb]

/-- Settles O29: the six commands share the checks of `Blk.disp`. -/
theorem dispatcherSlotsAreChecked : Obligations.DispatcherSlotsAreChecked := by
  intro s id m
  simp only [List.forall_mem_cons, List.not_mem_nil, false_implies, implies_true, and_true]
  exact ⟨fun h => exec_disp_refused h rfl, fun h => exec_disp_refused h (exec_resume id s), fun h => exec_disp_refused h rfl,
    fun h => exec_disp_refused h (exec_abort h.cmd h.fresh), fun h => exec_disp_refused h (exec_anchor id s),
    fun h => exec_disp_refused h (exec_anchorWait id s)⟩

end Sys2Proof.Machine
end

section
/-! PROOFS. Rings: doorbells, the reading of entries and the registers of the rings. -/
namespace Sys2Proof.Machine

/-! ### Fields of registers -/

theorem fld_lt {w : Nat} (x : BitVec w) (lo n : Nat) : fld x lo n < 2 ^ n := Nat.mod_lt _ (by positivity)

theorem Blk.rb_setFld (b : Blk) (o p j : Nat) {lo n : Nat} (v : Nat) (h : lo + n ≤ 64) :
    (b.setFld o lo n v).rb p j = if p = o ∧ lo ≤ j ∧ j < lo + n then v.testBit (j - lo) else b.rb p j := by
  rw [Blk.rb, Blk.reg_setFld]
  by_cases hp : p = o
  · rw [if_pos hp, bit_putFld _ _ _ h]
    simp only [hp, true_and]
    rfl
  · rw [if_neg hp, if_neg (fun hc => hp hc.1)]
    rfl

theorem Blk.rf_setFld_same (b : Blk) (o : Nat) {lo n : Nat} (v : Nat) (h : lo + n ≤ 64) : (b.setFld o lo n v).rf o lo n = v % 2 ^ n := by
  rw [Blk.rf, Blk.reg_setFld, if_pos rfl]
  refine Nat.eq_of_testBit_eq fun j => ?_
  rw [testBit_fld, bit_putFld _ _ _ h, Nat.testBit_mod_two_pow, Nat.add_sub_cancel_left]
  by_cases hj : j < n
  · rw [if_pos ⟨by omega, by omega⟩]
  · simp [hj]

theorem Blk.rf_setFld_other (b : Blk) {o p lo n lo' n' : Nat} (v : Nat) (h : lo + n ≤ 64) (hd : p ≠ o ∨ lo' + n' ≤ lo ∨ lo + n ≤ lo') :
    (b.setFld o lo n v).rf p lo' n' = b.rf p lo' n' := by
  rw [Blk.rf, Blk.reg_setFld]
  split
  · next hp => exact fld_putFld_other _ _ h (hd.resolve_left (not_not_intro hp))
  · rfl

theorem Blk.fieldWrite_frame (b : Blk) (o : Nat) (h : Half) (v : W64) : { b.fieldWrite o h v with regs := b.regs } = b := by
  unfold Blk.fieldWrite; split <;> rfl

theorem Blk.reg_fieldWrite_other (b : Blk) {o p : Nat} (h : Half) (v : W64) (hne : p ≠ o) : (b.fieldWrite o h v).reg p = b.reg p := by
  unfold Blk.fieldWrite
  split
  · rfl
  · exact Blk.reg_setReg_other _ _ hne

/-- The masks of the RW and the W1C bits of the register at an offset. -/
def regMasks (o : Nat) : Option (W64 × W64) := (regAt o).map (fun x => (x.1.mask (fun f => f.acc = .rw), x.1.mask (fun f => f.acc = .w1c)))

/-- A RW bit takes what the write spells where it covers it. -/
theorem Blk.rb_fieldWrite (b : Blk) {o j : Nat} {rw : W64} (h : Half) (v : W64) (hm : regMasks o = some (rw, 0)) (hj : bit rw j = true) :
    (b.fieldWrite o h v).rb o j = if covers h j then bit (halfVal h v) j else b.rb o j := by
  obtain ⟨⟨r, i, k⟩, hr, hmask⟩ := Option.map_eq_some_iff.mp hm
  obtain ⟨hrw, hw1c⟩ := Prod.mk.inj hmask
  have hlt : j < 64 := by
    by_contra hge
    rw [bit, BitVec.testBit_toNat, BitVec.getLsbD_of_ge _ _ (by omega)] at hj
    cases hj
  have hj : rw.getLsbD j = true := by simpa only [bit, BitVec.testBit_toNat] using hj
  rw [Blk.fieldWrite, hr, Blk.rb, Blk.reg_setReg_same]
  simp only [fieldsAfter, hrw, hw1c, covers, Blk.rb, bit, BitVec.testBit_toNat, BitVec.getLsbD_and, BitVec.getLsbD_or, BitVec.getLsbD_not, hj,
    hlt, decide_true, Bool.true_and]
  by_cases hcov : (halfMask h).getLsbD j = true
  · simp [hcov]
  · simp [hcov]

/-- A written 1 sets a RW bit. -/
theorem Blk.rb_fieldWrite_one (b : Blk) {o j : Nat} {rw : W64} {h : Half} {v : W64} (hm : regMasks o = some (rw, 0)) (hj : bit rw j = true)
    (hone : wrOne h v j = true) : (b.fieldWrite o h v).rb o j = true := by
  obtain ⟨hval, hcov⟩ := Bool.and_eq_true_iff.mp hone
  rw [Blk.rb_fieldWrite b h v hm hj, if_pos (show covers h j = true from hcov), hval]

/-! ### Doorbells (R349, R432) -/

theorem Blk.ring_ringHalt (b : Blk) (n k : Nat) : (b.ringHalt n).ring k = b.ring k := rfl

theorem Blk.rb_ringHalt (b : Blk) (n : Nat) : (b.ringHalt n).rb (ringReg n 24) 17 = ((b.ring n).stop || (b.ring n).held) := by
  rw [Blk.ringHalt, Blk.rb_setFld _ _ _ _ _ (by decide), if_pos ⟨rfl, by decide, by decide⟩]
  cases (b.ring n).stop || (b.ring n).held <;> rfl

theorem Blk.reg_ringHalt_other (b : Blk) {n o : Nat} (h : o ≠ ringReg n 24) : (b.ringHalt n).reg o = b.reg o := by
  rw [Blk.ringHalt, Blk.reg_setFld, if_neg h]

/-- What waking leaves of the block: only its power state can change. -/
theorem Blk.wakeUp_frame (b : Blk) : { b.wakeUp with pwr := b.pwr } = b := by
  unfold Blk.wakeUp; split <;> rfl

theorem Blk.wakeUp_state (b : Blk) : b.wakeUp.pwr.st = if b.pwr.st = .doze then .resume else b.pwr.st := by
  unfold Blk.wakeUp
  split
  · next h => rw [if_pos h]
  · next h => rw [h]; rfl
  · next h _ => rw [if_neg h]

theorem Blk.wakeUp_run {b : Blk} (h : b.pwr.st = .run) : b.wakeUp = b := by simp [Blk.wakeUp, h]

/-- The block that has been woken where CK_PWR_CTRL says so. -/
def Blk.dbWoken (b : Blk) : Blk := if b.rb 0x2000 8 then b.wakeUp else b

theorem Blk.dbWoken_frame (b : Blk) : { b.dbWoken with pwr := b.pwr } = b := by
  unfold Blk.dbWoken; split
  · exact b.wakeUp_frame
  · rfl

theorem Blk.dbWoken_state (b : Blk) : b.dbWoken.pwr.st = if b.rb 0x2000 8 ∧ b.pwr.st = .doze then .resume else b.pwr.st := by
  unfold Blk.dbWoken
  by_cases h : b.rb 0x2000 8 = true
  · rw [if_pos h, Blk.wakeUp_state]; simp only [h, true_and]
  · rw [if_neg h, if_neg (fun hc => h hc.1)]

section doorbell
variable {b : Blk} {n : Nat} {h : Half} {v : W64} (hreset : b.resetting = false) (hhalt : b.pwr.halt = false) (hcov : covers h 0 = true)
  (hen : b.ringEn n = true)
include hreset hhalt hcov hen

theorem Blk.doorbell_cases : b.doorbell n h v = if !b.ctxEn n || b.dbBad n (fld (halfVal h v) 0 17) then b.dbWoken.event 0x11 n 0 0 [halfVal h v]
    else b.dbWoken.dbTake n (fld (halfVal h v) 0 17) := by
  have hframe := b.dbWoken_frame
  have hreg (o : Nat) : b.dbWoken.reg o = b.reg o := by rw [Blk.reg, (congrArg Blk.regs hframe :)]; rfl
  have hring (k : Nat) : b.dbWoken.ring k = b.ring k := by rw [Blk.ring, (congrArg Blk.rings hframe :)]; rfl
  have hen' : b.dbWoken.ringEn n = true := by rw [Blk.ringEn, Blk.rb, hreg]; exact hen
  have hctx : b.dbWoken.ctxEn n = b.ctxEn n := by rw [Blk.ctxEn, Blk.rb, hreg]; rfl
  have hbad (t : Nat) : b.dbWoken.dbBad n t = b.dbBad n t := by rw [Blk.dbBad, Blk.ringHead, Blk.rf, hreg, hring]; rfl
  rw [← hctx, ← hbad]
  simp only [Blk.doorbell, hreset, hhalt, hcov]
  show (if !b.dbWoken.ringEn n then b.dbWoken else _) = _
  rw [hen']
  rfl

end doorbell

/-- What a taken doorbell leaves of the block. -/
theorem Blk.dbTake_frame (b : Blk) (n t : Nat) : { b.dbTake n t with rings := b.rings, regs := b.regs } = b := by
  simp [Blk.dbTake, Blk.ringHalt]

theorem Blk.ring_dbTake (b : Blk) (n t : Nat) : (b.dbTake n t).ring n =
    { b.ring n with tail := t, stop := false, refused := false, tries := 0, again := none, part := [] } := by
  rw [Blk.dbTake, Blk.ring_ringHalt, Blk.ring_updRing_same]

theorem Blk.ring_dbTake_other (b : Blk) {n k : Nat} (t : Nat) (h : k ≠ n) : (b.dbTake n t).ring k = b.ring k := by
  rw [Blk.dbTake, Blk.ring_ringHalt, Blk.ring_updRing_other _ _ h]

theorem Blk.rb_dbTake (b : Blk) (n t : Nat) : (b.dbTake n t).rb (ringReg n 24) 17 = (b.ring n).held := by
  rw [Blk.dbTake, Blk.rb_ringHalt, Blk.ring_updRing_same]; rfl

theorem Blk.reg_dbTake_other (b : Blk) {n o : Nat} (t : Nat) (h : o ≠ ringReg n 24) : (b.dbTake n t).reg o = b.reg o :=
  (Blk.reg_ringHalt_other _ h).trans rfl

theorem exec_doorbell (n : Fin 64) (h : Half) (v : W64) (s : State) : exec (.doorbell n h v) s = .next (s.withBlk (s.blk.doorbell n h v)) := rfl

/-! ### Reading entries (R343, R345, R349) -/

section read
variable {b b1 : Blk} {n va pos : Nat} {r : Resp} {ws : List W64} {w : Sect}

/-- The read of a ring's next entry, where no part of a command has been read. -/
theorem Blk.ringRead_entry (hreads : b.ringReads n = true) (hpart : (b.ring n).part = []) (hpos : pos = b.ringHead n)
    (hva : va = (b.ring n).base.toNat + 64 * (pos % (b.ring n).size)) (hw : w = sectOf (wordBytes ws))
    (hwords : b.words (.ring n) n { blocks := [(va / 64, r)] } va 8 = (b1, .ok ws)) : b.ringRead n r = b1.ringTake n w := by
  have hmod : (b.ringHead n + (b.ring n).part.length) % ringMod = pos := by
    rw [hpart, hpos]
    exact Nat.mod_eq_of_lt (fld_lt _ _ _)
  subst hva hw
  simp only [Blk.ringRead, hreads, hmod, hwords]
  rfl

variable {x : Ring} (hx : b.ring n = x) (hhead : b.ringHead n = pos) (hpart : x.part = [])
include hx hhead hpart

theorem Blk.ringTake_stale (hphase : bit w 4 ≠ phaseAt x.log2 pos) : b.ringTake n w =
    if x.tries < b.rf 0x20800 0 8 then b.updRing n (fun y => { y with tries := y.tries + 1, again := some b.time.toNat })
    else (b.ringStop n).event 0x10 n 0 0 [ringQ2 0x52 0 pos] := by
  simp only [Blk.ringTake, hx, hhead, hpart, if_pos hphase]

theorem Blk.ringTake_copies (hphase : bit w 4 = phaseAt x.log2 pos) (hext : fld w 5 2 = 0) (hahead : 1 ≤ ahead pos x.tail) :
    b.ringTake n w = b.ringCopy n [w] := by
  simp only [Blk.ringTake, hx, hhead, hpart, hphase, hext]
  rw [if_neg (by simp), if_neg (by omega)]
  rfl

end read

/-- The command that an entry without extension slots spells. -/
def Blk.entryCmd (b : Blk) (n : Nat) (w : Sect) : Cmd :=
  { id := b.nextCmd, ring := n, pos := b.ringHead n, cdVa := (b.ring n).base.toNat + 64 * (b.ringHead n % (b.ring n).size)
    cd := Sect.words w, ext := []
    cbase := (b.ring n).cbase, clog := (b.ring n).log2, dbase := (b.ring n).dbase, dcount := (b.ring n).dcount }

/-- The block after the copy of a command of one entry. -/
def Blk.entryCopied (b : Blk) (n : Nat) (w : Sect) : Blk :=
  (({ b with cmds := b.cmds ++ [b.entryCmd n w], nextCmd := b.nextCmd + 1, sec := { b.sec with zero := false } } : Blk).updRing n (fun x => { x with
    copied := (x.copied + 1) % ringMod, part := [], tries := 0
    marks := x.marks.filter (fun p => decide (1 ≤ ahead (b.ringHead n) p)) })).setFld (ringReg n 24) 0 17 ((b.ringHead n + 1) % ringMod)

theorem Blk.ringCopy_one {b : Blk} {n : Nat} (w : Sect) (hmark : b.ringHead n ∉ (b.ring n).marks) : b.ringCopy n [w] = b.entryCopied n w := by
  have hmark : (b.ring n).marks.contains (b.ringHead n) = false := by simpa using hmark
  simp only [Blk.ringCopy, hmark]
  simp [Blk.entryCopied, Blk.entryCmd]

theorem Blk.ring_entryCopied (b : Blk) (n : Nat) (w : Sect) : ((b.entryCopied n w).ring n).copied = ((b.ring n).copied + 1) % 2 ^ 17 := by
  rw [Blk.entryCopied, Blk.ring_setFld, Blk.ring_updRing_same]
  rfl

theorem Blk.ringHead_entryCopied (b : Blk) (n : Nat) (w : Sect) : (b.entryCopied n w).ringHead n = (b.ringHead n + 1) % 2 ^ 17 := by
  rw [Blk.ringHead, Blk.entryCopied, Blk.rf_setFld_same _ _ _ (by decide)]
  exact Nat.mod_mod _ _

theorem Blk.reg_entryCopied_other (b : Blk) {n o : Nat} (w : Sect) (h : o ≠ ringReg n 24) : (b.entryCopied n w).reg o = b.reg o := by
  rw [Blk.entryCopied, Blk.reg_setFld, if_neg h]; rfl

theorem Blk.doorbellRetry {s : State} {n : Fin 64} {t : Nat} (hagain : (s.blk.ring n).again = some t) (hissue : s.blk.issues = true)
    (hdue : t + 64 ≤ s.blk.time.toNat) :
    exec (.doorbellRetry n) s = .next (s.withBlk (s.blk.updRing n (fun y => { y with again := none }))) := by
  refine exec_next_congr (i := .doorbellRetry n) rfl ?_
  simp only [hagain, hissue, decide_eq_true hdue]
  rfl

/-- Settles O30: a doorbell is processed at once in every state, and one written by its high half alone does nothing (log entry 89). -/
theorem ringsAreRead : Obligations.RingsAreRead := by
  rintro s n h v r x rfl
  refine ⟨fun hreset hhalt hcov hen => ⟨fun hctx hgood => ?taken, fun hrun hbad => ?refused⟩, fun hcov => ?high,
    fun b1 ws w va pos hreads hpart hpos hva hw hx hhead hwords => ⟨fun hphase htries => ?again, fun hphase htries => ?stops,
      fun hphase hext hahead hmark => ?copies⟩, fun t => Blk.doorbellRetry⟩
  case taken =>
    have hframe := s.blk.dbWoken_frame
    have hring (k : Nat) : s.blk.dbWoken.ring k = s.blk.ring k := by rw [Blk.ring, (congrArg Blk.rings hframe :)]; rfl
    have hreg (o : Nat) : s.blk.dbWoken.reg o = s.blk.reg o := by rw [Blk.reg, (congrArg Blk.regs hframe :)]; rfl
    have htake := s.blk.dbWoken.dbTake_frame n (fld (halfVal h v) 0 17)
    refine ⟨s.blk.dbWoken.dbTake n (fld (halfVal h v) 0 17), exec_next_congr (exec_doorbell n h v s) ((Blk.doorbell_cases hreset hhalt hcov hen).trans
      (if_neg (by rw [hctx, hgood]; decide))), ?_, fun k hk => ?_, ?_, fun o ho => ?_, ?_, ?_⟩
    · rw [Blk.ring_dbTake, hring]
    · rw [Blk.ring_dbTake_other _ _ hk, hring]
    · rw [Blk.rb_dbTake, hring]
    · rw [Blk.reg_dbTake_other _ _ ho, hreg]
    · rw [(congrArg Blk.pwr htake :), Blk.dbWoken_state]
    · exact (congrArg (fun y : Blk => { y with rings := s.blk.rings, regs := s.blk.regs, pwr := s.blk.pwr }) htake :).trans
        (congrArg (fun y : Blk => { y with rings := s.blk.rings, regs := s.blk.regs }) hframe :)
  case refused =>
    refine exec_next_congr (exec_doorbell n h v s) ((Blk.doorbell_cases hreset hhalt hcov hen).trans ?_)
    have hwoken : s.blk.dbWoken = s.blk := by
      rw [Blk.dbWoken, Blk.wakeUp_run hrun, ite_self]
    rw [hwoken, if_pos]
    obtain hctx | hbad := hbad
    · rw [hctx]; rfl
    · rw [hbad, Bool.or_true]
  case high =>
    refine exec_next_congr (exec_doorbell n h v s) (b' := s.blk) ?_
    simp [Blk.doorbell, hcov]
  case again =>
    refine exec_next_congr (i := .ringEntryRead n r) rfl ((Blk.ringRead_entry hreads hpart hpos hva hw hwords).trans ?_)
    rw [Blk.ringTake_stale hx hhead hpart hphase, if_pos htries]
  case stops =>
    refine exec_next_congr (i := .ringEntryRead n r) rfl ((Blk.ringRead_entry hreads hpart hpos hva hw hwords).trans ?_)
    rw [Blk.ringTake_stale hx hhead hpart hphase, if_neg (Nat.not_lt.mpr htries)]
  case copies =>
    have hmark' : b1.ringHead n ∉ (b1.ring n).marks := by rw [hx, hhead]; exact hmark
    refine ⟨b1.entryCopied n w, b1.entryCmd n w, exec_next_congr (i := .ringEntryRead n r) rfl
      ((Blk.ringRead_entry hreads hpart hpos hva hw hwords).trans ((Blk.ringTake_copies hx hhead hpart hphase hext hahead).trans
        (Blk.ringCopy_one w hmark'))), rfl, rfl, rfl, hhead, ?_, rfl, rfl, rfl, ?_, ?_, ?_, rfl, rfl, ?_, ?_,
        fun o => b1.reg_entryCopied_other w, rfl, rfl⟩
    · rw [hva, ← hhead, ← hx]; rfl
    · rw [← hx]; rfl
    · rw [← hx]; rfl
    · rw [← hx]; rfl
    · rw [Blk.ringHead_entryCopied, hhead]
    · rw [Blk.ring_entryCopied, hx]

end Sys2Proof.Machine
end

section
/-! PROOFS. The registers of rings, fault and event rings, and messages. -/
namespace Sys2Proof.Machine

theorem ringReg_ne (n : Nat) {x y : Nat} (h : x ≠ y) : ringReg n x ≠ ringReg n y := by
  unfold ringReg; omega

/-! ### CK_RING_BASE (R340) -/

/-- The block whose ring n has just been enabled from its registers as b1 holds them. -/
def Blk.ringEnabled (b1 : Blk) (n : Nat) : Blk := (((b1.setFld (ringReg n 0) 0 1 0).setFld (ringReg n 0) 0 1 1)).ringTakeUp n

theorem Blk.ringBaseWrite_enables {b : Blk} {n : Nat} {h : Half} {v : W64} (ho : b.regOpen (ringReg n 0) = true) (hen : b.ringEn n = false)
    (hone : wrOne h v 0 = true) (hbusy : b.ringBusy n = false) : b.ringBaseWrite n h v = (b.fieldWrite (ringReg n 0) h v).ringEnabled n := by
  have hframe := b.fieldWrite_frame (ringReg n 0) h v
  have hbusy' : ((b.fieldWrite (ringReg n 0) h v).setFld (ringReg n 0) 0 1 0).ringBusy n = false := by
    have hring : (b.fieldWrite (ringReg n 0) h v).ring n = b.ring n := by rw [Blk.ring, (congrArg Blk.rings hframe :)]; rfl
    rw [Blk.ringBusy, Blk.ring_setFld, hring, Blk.setFld_cmds, (congrArg Blk.cmds hframe :)]
    exact hbusy
  simp only [Blk.ringBaseWrite, ho, hen, hone, hbusy']
  rfl

theorem Blk.ringBaseWrite_disables {b : Blk} {n : Nat} {h : Half} {v : W64} (ho : b.regOpen (ringReg n 0) = true) (hen : b.ringEn n = true)
    (hcov : covers h 0 = true) (hzero : bit (halfVal h v) 0 = false) :
    b.ringBaseWrite n h v = (b.setFld (ringReg n 0) 0 1 0).updRing n (fun x => { x with part := [], tries := 0, again := none }) := by
  simp only [Blk.ringBaseWrite, ho, hen, hcov, hzero]
  rfl

section enabled
variable (b : Blk) (n : Nat)

theorem Blk.ringEnabled_frame : { b.ringEnabled n with regs := b.regs, rings := b.rings } = b := by
  simp [Blk.ringEnabled, Blk.ringTakeUp]

/-- A field above bit 0 is taken as the write has left it. -/
theorem Blk.rf_enabling {o lo n' : Nat} (h : o ≠ ringReg n 0 ∨ 1 ≤ lo) :
    ((b.setFld (ringReg n 0) 0 1 0).setFld (ringReg n 0) 0 1 1).rf o lo n' = b.rf o lo n' := by
  rw [Blk.rf_setFld_other _ _ (by decide) (h.imp_right .inr), Blk.rf_setFld_other _ _ (by decide) (h.imp_right .inr)]

theorem Blk.ring_ringEnabled : (b.ringEnabled n).ring n = {
    base := BitVec.ofNat 64 (4096 * b.rf (ringReg n 0) 12 45), log2 := clamp 6 16 (b.rf (ringReg n 0) 1 5)
    cbase := BitVec.ofNat 64 (4096 * b.rf (ringReg n 8) 12 45), dbase := BitVec.ofNat 64 (4096 * b.rf (ringReg n 16) 19 45)
    dcount := min 65536 (b.rf (ringReg n 16) 0 17), marks := (b.ring n).marks } := by
  rw [Blk.ringEnabled, Blk.ringTakeUp, Blk.ring_setReg, Blk.ring_updRing_same, Blk.rf_enabling _ _ (.inr (by decide)),
    Blk.rf_enabling _ _ (.inr (by decide)), Blk.rf_enabling _ _ (.inr (by decide)), Blk.rf_enabling _ _ (.inr (by decide)),
    Blk.rf_enabling _ _ (.inl (ringReg_ne n (by decide)))]
  rfl

theorem Blk.ring_ringEnabled_other {k : Nat} (h : k ≠ n) : (b.ringEnabled n).ring k = b.ring k := by
  rw [Blk.ringEnabled, Blk.ringTakeUp, Blk.ring_setReg, Blk.ring_updRing_other _ _ h]
  rfl

theorem Blk.reg_ringEnabled (o : Nat) : (b.ringEnabled n).reg o = if o = ringReg n 24 then 0 else
    ((b.setFld (ringReg n 0) 0 1 0).setFld (ringReg n 0) 0 1 1).reg o := Blk.reg_setReg _ _ _ _

theorem Blk.ringEn_ringEnabled : (b.ringEnabled n).ringEn n = true := by
  rw [Blk.ringEn, Blk.rb, Blk.reg_ringEnabled, if_neg (ringReg_ne n (by decide))]
  exact (Blk.rb_setFld _ _ _ _ _ (by decide)).trans (if_pos ⟨rfl, by decide, by decide⟩)

theorem Blk.reg_ringEnabled_other {o : Nat} (h0 : o ≠ ringReg n 0) (h24 : o ≠ ringReg n 24) : (b.ringEnabled n).reg o = b.reg o := by
  rw [Blk.reg_ringEnabled, if_neg h24, Blk.reg_setFld, if_neg h0, Blk.reg_setFld, if_neg h0]

/-- HEAD and CTAIL start at 0. -/
theorem Blk.rf_ringEnabled_head (lo n' : Nat) : (b.ringEnabled n).rf (ringReg n 24) lo n' = 0 := by
  rw [Blk.rf, Blk.reg_ringEnabled, if_pos rfl]
  simp [fld]

end enabled

/-! ### Fault and event rings (R358) -/

/-- The RW bits of CK_FRING_BASE and CK_ERING_BASE hold EN. -/
theorem regMasks_fring : regMasks 0x11000 = some (0xFFFFFFFFFF01F, 0) := by decide +kernel
theorem regMasks_ering : regMasks 0x11010 = some (0xFFFFFFFFFF03F, 0) := by decide +kernel

theorem Blk.recRingWrite_enables {b : Blk} {o : Nat} {h : Half} {v : W64} (take : Blk → Blk) (ho : b.regOpen o = true) (hoff : b.rb o 0 = false)
    (hon : (b.fieldWrite o h v).rb o 0 = true) : b.recRingWrite o h v take = take (b.fieldWrite o h v) := by
  simp only [Blk.recRingWrite, ho, hoff, hon]
  rfl

/-- The fault ring takes its fields. -/
def Blk.fringTaken (b : Blk) : Blk :=
  { b.setFld 0x11008 32 17 0 with fringLog := clamp 6 12 (b.rf 0x11000 1 4), fringBase := 4096 * b.rf 0x11000 12 40 }

/-- The event ring takes its fields. -/
def Blk.eringTaken (b : Blk) : Blk :=
  { b.setFld 0x11018 24 24 0 with eringLog := clamp 12 24 (b.rf 0x11010 1 5), eringBase := 4096 * b.rf 0x11010 12 40 }

theorem Blk.rf_fringTaken (b : Blk) (o lo n : Nat) : b.fringTaken.rf o lo n = (b.setFld 0x11008 32 17 0).rf o lo n := rfl
theorem Blk.rf_eringTaken (b : Blk) (o lo n : Nat) : b.eringTaken.rf o lo n = (b.setFld 0x11018 24 24 0).rf o lo n := rfl
theorem Blk.rb_fringTaken (b : Blk) (o i : Nat) : b.fringTaken.rb o i = (b.setFld 0x11008 32 17 0).rb o i := rfl
theorem Blk.rb_eringTaken (b : Blk) (o i : Nat) : b.eringTaken.rb o i = (b.setFld 0x11018 24 24 0).rb o i := rfl

theorem Blk.fringTaken_frame {b b0 : Blk} (h : { b with regs := b0.regs } = b0) :
    { b.fringTaken with regs := b0.regs, fringLog := b0.fringLog, fringBase := b0.fringBase } = b0 :=
  (congrArg (fun y : Blk => { y with fringLog := b0.fringLog, fringBase := b0.fringBase }) h :)

theorem Blk.eringTaken_frame {b b0 : Blk} (h : { b with regs := b0.regs } = b0) :
    { b.eringTaken with regs := b0.regs, eringLog := b0.eringLog, eringBase := b0.eringBase } = b0 :=
  (congrArg (fun y : Blk => { y with eringLog := b0.eringLog, eringBase := b0.eringBase }) h :)

theorem Blk.ringEnabled_regsRings {b b0 : Blk} (n : Nat) (h : { b with regs := b0.regs } = b0) :
    { b.ringEnabled n with regs := b0.regs, rings := b0.rings } = b0 :=
  (congrArg (fun y : Blk => { y with regs := b0.regs, rings := b0.rings }) (b.ringEnabled_frame n) :).trans
    (congrArg (fun y : Blk => { y with rings := b0.rings }) h :)

/-! ### Messages (R360) -/

theorem Blk.msiRelease_sends {b : Blk} {i : Nat} (hheld : b.rb (msi1 i) 32 = true) (hmask : b.rb (msi0 i) 1 = false) (hen : b.rb (msi0 i) 0 = true) :
    b.msiRelease i = (b.setFld (msi1 i) 32 1 0).message i := by
  simp [Blk.msiRelease, hheld, hmask, hen]

theorem Blk.msiRelease_waits {b : Blk} {i : Nat} (h : b.rb (msi1 i) 32 = false ∨ b.rb (msi0 i) 1 = true ∨ b.rb (msi0 i) 0 = false) :
    b.msiRelease i = b := by
  refine if_neg ?_
  obtain h | h | h := h <;> simp [h]

theorem Blk.msiWrite_open {b : Blk} {i : Nat} {word1 : Bool} {h : Half} {v : W64} (ho : b.regOpen (if word1 then msi1 i else msi0 i) = true) :
    b.msiWrite i word1 h v = (b.fieldWrite (if word1 then msi1 i else msi0 i) h v).msiRelease i := if_pos ho

theorem Blk.rb_message (b : Blk) (i o j : Nat) : (b.message i).rb o j = b.rb o j := rfl

theorem Blk.host_message (b : Blk) (i : Nat) :
    (b.message i).host = devStore (4 * b.rf (msi0 i) 2 50) (leBytes 4 (b.rf (msi1 i) 0 32)) b.host := rfl

/-- Settles O33: an enable takes the fields as the write has left them; the marks of a ring survive its enable (log entry 89). -/
theorem ringRegistersEnable : Obligations.RingRegistersEnable := by
  intro s h v
  refine ⟨fun n ho => ⟨fun hen hone hbusy => ?enable, fun hen hcov hzero => ?disable⟩, fun ho hoff hone => ?fring, fun ho hoff hone => ?ering,
    fun i word1 b1 ho hb1 => ⟨fun hheld hmask hen => ?sends, fun hwait => ?waits⟩⟩
  case enable =>
    have hframe := s.blk.fieldWrite_frame (ringReg n 0) h v
    have hring (k : Nat) : (s.blk.fieldWrite (ringReg n 0) h v).ring k = s.blk.ring k := by rw [Blk.ring, (congrArg Blk.rings hframe :)]; rfl
    refine ⟨_, (s.blk.fieldWrite (ringReg n 0) h v).ringEnabled n, exec_next_congr (i := .ringEnable n h v) rfl
      (Blk.ringBaseWrite_enables ho hen hone hbusy), rfl, ?_, Blk.ringEn_ringEnabled _ _, Blk.rf_ringEnabled_head _ _ _ _,
      Blk.rf_ringEnabled_head _ _ _ _, fun k hk => ?_, fun o h0 h24 => ?_, ?_⟩
    · rw [Blk.ring_ringEnabled, hring]
    · rw [Blk.ring_ringEnabled_other _ _ hk, hring]
    · rw [Blk.reg_ringEnabled_other _ _ h0 h24, Blk.reg_fieldWrite_other _ _ _ h0]
    · exact Blk.ringEnabled_regsRings n hframe
  case disable =>
    refine ⟨_, exec_next_congr (i := .ringDisable n h v) rfl (Blk.ringBaseWrite_disables ho hen hcov hzero), ?_, Blk.ring_updRing_same _ _ _,
      fun k hk => Blk.ring_updRing_other _ _ hk, fun o ho => ?_, by simp⟩
    · rw [Blk.reg_updRing, Blk.reg_setFld, if_pos rfl]
    · rw [Blk.reg_updRing, Blk.reg_setFld, if_neg ho]
  case fring =>
    have hon := s.blk.rb_fieldWrite_one regMasks_fring (by decide) hone
    have hframe := s.blk.fieldWrite_frame 0x11000 h v
    refine ⟨_, (s.blk.fieldWrite 0x11000 h v).fringTaken, exec_next_congr (i := .faultRingEnable h v) rfl
      (congrArg Blk.ftRetry (Blk.recRingWrite_enables _ ho hoff hon)), rfl, rfl, rfl, ?_, ?_, ?_⟩
    · rw [Blk.rf_fringTaken, Blk.rf_setFld_same _ _ _ (by decide), Nat.zero_mod]
    · rw [Blk.rb_fringTaken, Blk.rb_setFld _ _ _ _ _ (by decide), if_neg (by decide), hon]
    · exact Blk.fringTaken_frame hframe
  case ering =>
    have hon := s.blk.rb_fieldWrite_one regMasks_ering (by decide) hone
    have hframe := s.blk.fieldWrite_frame 0x11010 h v
    refine ⟨_, (s.blk.fieldWrite 0x11010 h v).eringTaken, exec_next_congr (i := .eventRingEnable h v) rfl
      (Blk.recRingWrite_enables _ ho hoff hon), rfl, rfl, rfl, ?_, ?_, ?_⟩
    · rw [Blk.rf_eringTaken, Blk.rf_setFld_same _ _ _ (by decide), Nat.zero_mod]
    · rw [Blk.rb_eringTaken, Blk.rb_setFld _ _ _ _ _ (by decide), if_neg (by decide), hon]
    · exact Blk.eringTaken_frame hframe
  case sends =>
    have hne : msi0 i ≠ msi1 i := by unfold msi0 msi1; omega
    subst hb1
    refine ⟨_, exec_next_congr (i := .msiWrite i word1 h v) rfl ((Blk.msiWrite_open ho).trans (Blk.msiRelease_sends hheld hmask hen)), ?_, ?_⟩
    · rw [Blk.rb_message, Blk.rb_setFld _ _ _ _ _ (by decide), if_pos ⟨rfl, by decide, by decide⟩]
      rfl
    · rw [Blk.host_message, Blk.rf_setFld_other _ _ (by decide) (.inl hne), Blk.rf_setFld_other _ _ (by decide) (.inr (.inl (by decide)))]
      rfl
  case waits =>
    subst hb1
    exact exec_next_congr (i := .msiWrite i word1 h v) rfl ((Blk.msiWrite_open ho).trans (Blk.msiRelease_waits hwait))

end Sys2Proof.Machine
end

section
/-! PROOFS. Completions: the record, the completion word and the interrupt of a command, and a refused write. -/
namespace Sys2Proof.Machine

/-! ### A completed command leaves the block (R306, R355) -/

theorem Blk.gxFollow_rings (b : Blk) (c : Nat) : (b.gxFollow c).rings = b.rings := by
  unfold Blk.gxFollow; split <;> rfl

/-- Taking commands off a work queue leaves the rings. -/
theorem Blk.place_rings (n c : Nat) (b : Blk) : (b.place n c).rings = b.rings := by
  induction n generalizing b with
  | zero => rfl
  | succ n ih =>
    unfold Blk.place
    split
    · rfl
    split
    · rfl
    split
    · rw [ih]; rfl
    split
    · rfl
    · rw [ih]; rfl

theorem Blk.release_rings (b : Blk) (m : Cmd) : (b.release m).rings = b.rings := by
  unfold Blk.release
  split
  · rfl
  simp only [Blk.place_rings, Blk.gxFollow_rings, Blk.updCore_rings]
  split
  · split <;> rfl
  · rfl

theorem Blk.countStatus_rings (b : Blk) (st : Nat) : (b.countStatus st).rings = b.rings := by
  unfold Blk.countStatus
  split <;> split <;> rfl

/-- The record that a command leaves for its ring. -/
def Cmd.ringRec (m : Cmd) : Rec := { w := m.record, caddr := m.caddr, irq := m.irq, cbase := m.cbase, clog := m.clog, pos := m.pos }

theorem Blk.retireCmd_leaves (b : Blk) (m : Cmd) : (∀ x ∈ (b.retireCmd m).cmds, x.id ≠ m.id) ∧
    ((b.retireCmd m).ring m.ring).recs = (b.ring m.ring).recs ++ [m.ringRec] := by
  refine ⟨fun x hx => of_decide_eq_true (List.mem_filter.mp hx).2, ?_⟩
  have hring : ((b.countStatus m.status).release m).ring m.ring = b.ring m.ring := by
    rw [Blk.ring, Blk.release_rings, Blk.countStatus_rings]; rfl
  rw [← hring]
  exact congrArg Ring.recs (Blk.ring_updRing_same ({ (b.countStatus m.status).release m with
    cmds := ((b.countStatus m.status).release m).cmds.filter (fun x => x.id ≠ m.id) } : Blk) m.ring
    (fun x => { x with recs := x.recs ++ [m.ringRec] }))

theorem Blk.commandComplete_retires {b b1 : Blk} {id : Nat} {m m1 : Cmd} (hlive : b.live = true) (hcmd : b.cmd id = some m)
    (hown : m.served = none) (hdone : b.cmdDone m = true) (hpark : m.park = none ∨ m.ending = true)
    (hadds : (b.progClean m).addTotals m = (b1, true)) (hcmd1 : b1.cmd id = some m1) : b.commandComplete id = b1.retireCmd m1 := by
  have hpark : (m.park.isSome && !m.ending) = false := by obtain h | h := hpark <;> simp [h]
  simp only [Blk.commandComplete, hcmd, hlive, hown, hdone, hpark, hadds, hcmd1]
  rfl

/-! ### Records and words are written (R343, R356) -/

section acks
variable {b b1 : Blk} {n : Nat} {r : Rec} {rest : List Rec} {ps : List WPart} (hopen : b.complOpen n = true)
include hopen

/-- The ring once its oldest record has been written: the word follows where the command has one. -/
theorem Blk.recAck_writes {q0 : W64} (hrecs : (b.ring n).recs = r :: rest) (hq0 : q0 = qw r.w 0 ||| (if phaseAt r.clog (b.ctail n) then 16 else 0))
    (hwrite : b.xlWrite (.compl n) n (r.va (b.ctail n)) (wordBytes (q0 :: r.w.drop 1)) = (b1, .parts ps)) : b.recAck n =
      (if r.caddr = 0 && r.irq then (((b1.doParts none ps).setFld (ringReg n 24) 32 17 ((b.ctail n + 1) % ringMod)).updRing n (fun x => { x with
        recs := rest, words := if r.caddr = 0 then x.words else x.words ++ [{ r with place := b.ctail n, q0 := q0 }] })).trigger n
      else ((b1.doParts none ps).setFld (ringReg n 24) 32 17 ((b.ctail n + 1) % ringMod)).updRing n (fun x => { x with
        recs := rest, words := if r.caddr = 0 then x.words else x.words ++ [{ r with place := b.ctail n, q0 := q0 }] })).ringFreed n := by
  subst hq0
  simp only [Blk.recAck, hrecs, hopen, hwrite]
  rfl

theorem Blk.wordAck_writes (hwords : (b.ring n).words = r :: rest)
    (hwrite : b.xlWrite (.cword n) n r.caddr.toNat (wordBytes [r.q0]) = (b1, .parts ps)) : b.wordAck n =
      (if r.irq then ((b1.doParts none ps).updRing n (fun x => { x with words := rest })).trigger n
        else (b1.doParts none ps).updRing n (fun x => { x with words := rest })).ringFreed n := by
  simp only [Blk.wordAck, hwords, hopen, hwrite]
  rfl

theorem Blk.complRefused_word (poison : Bool) (hwords : (b.ring n).words = r :: rest) :
    b.complRefused n poison = b.complBad n (if poison then 0x40 else 0x32) r.place r.caddr.toNat := by
  simp only [Blk.complRefused, hopen, hwords]
  rfl

theorem Blk.complRefused_record (poison : Bool) (hwords : (b.ring n).words = []) (hrecs : (b.ring n).recs = r :: rest) :
    b.complRefused n poison = b.complBad n (if poison then 0x40 else 0x32) (b.ctail n) (r.va (b.ctail n)) := by
  simp only [Blk.complRefused, hopen, hwords, hrecs]
  rfl

end acks

/-- The block whose ring n holds its completion writes since one was refused. -/
def Blk.complHeld (b : Blk) (n : Nat) : Blk := (b.updRing n (fun x => { x with refused := true, held := true })).ringHalt n

/-- What a refused completion write leaves before its event. -/
theorem Blk.complHeld_spec (b : Blk) (n : Nat) : (b.complHeld n).ring n = { b.ring n with refused := true, held := true } ∧
    (b.complHeld n).rb (ringReg n 24) 17 = true ∧ (b.complHeld n).cmds = b.cmds := by
  have hring : (b.updRing n (fun x => { x with refused := true, held := true })).ring n = { b.ring n with refused := true, held := true } :=
    Blk.ring_updRing_same _ _ _
  refine ⟨hring, ?_, rfl⟩
  rw [Blk.complHeld, Blk.rb_ringHalt, hring, Bool.or_true]

/-! ### CHEAD (R342, R343) -/

/-- CK_RING_CHEAD of every ring holds CHEAD as its only RW field. -/
theorem regMasks_chead : ∀ n : Fin 64, regMasks (ringReg n 32) = some (0x1FFFF, 0) := by decide +kernel

theorem Blk.rf_cheadWrite (b : Blk) (n : Fin 64) (h : Half) (v : W64) : (b.fieldWrite (ringReg n 32) h v).rf (ringReg n 32) 0 17 =
    if h = .high then b.rf (ringReg n 32) 0 17 else fld v 0 17 := by
  have hbit (j : Nat) (hj : j < 17) := b.rb_fieldWrite (j := j) h v (regMasks_chead n) (by revert j; decide)
  cases h with
  | full =>
    exact fld_congr fun j _ hj => (hbit j hj).trans (if_pos (bit_halfMask_full (by omega)))
  | low =>
    refine fld_congr fun j _ hj => ((hbit j hj).trans (if_pos (by revert j; decide))).trans ?_
    have hmask : (0xFFFFFFFF : W64).getLsbD j = true := by revert j; decide
    simp only [halfVal, bit, BitVec.testBit_toNat, BitVec.getLsbD_and, hmask, Bool.and_true]
  | high => exact fld_congr fun j _ hj => (hbit j hj).trans (if_neg (by revert j; decide))

theorem exec_cheadWrite {s : State} {n : Fin 64} (h : Half) (v : W64) (ho : s.blk.regOpen (ringReg n 32) = true) :
    exec (.cheadWrite n h v) s = .next (s.withBlk (s.blk.fieldWrite (ringReg n 32) h v)) :=
  upd_onlyIf_true (g := fun b => b.regOpen (ringReg n.val 32)) (fun b => b.fieldWrite (ringReg n.val 32) h v) ho

/-- Settles O32: the task context of a completed command is cleared (log entry 97), and held writes that succeed end the halt (log entry 89). -/
theorem completionsAreWritten : Obligations.CompletionsAreWritten := by
  intro s
  refine ⟨fun id m b1 m1 hlive hcmd hown hdone hpark hadds hcmd1 => ?complete, fun n r rest q0 b1 ps hrecs hopen hq0 hwrite => ?record,
    fun n r rest b1 ps hwords hopen hwrite => ?word, fun n poison r rest hopen => ⟨fun hwords => ?refusedWord, fun hwords hrecs => ?refusedRecord⟩,
    fun n h v ho => ?chead⟩
  case complete =>
    obtain ⟨hgone, hrecs⟩ := b1.retireCmd_leaves m1
    have hid := Cmd.id_of_cmd hcmd1
    refine ⟨b1.retireCmd m1, exec_next_congr (i := .commandComplete id) rfl
      (Blk.commandComplete_retires hlive hcmd hown hdone hpark hadds hcmd1), hid ▸ hgone, hrecs, ?_⟩
    subst hid
    rfl
  case record =>
    refine ⟨_, _, exec_next_congr (i := .completionRecordAck n) rfl (Blk.recAck_writes hopen hrecs hq0 hwrite), ?_, rfl, fun hc => ?_, fun hc => ?_⟩
    · exact (Blk.rf_setFld_same _ _ _ (by decide)).trans (Nat.mod_mod _ _)
    · simp only [hc, if_true, decide_true, Bool.true_and]
      rfl
    · simp only [hc, if_false, decide_false, Bool.false_and, Bool.false_eq_true]
      rfl
  case word =>
    exact ⟨_, exec_next_congr (i := .completionWordAck n) rfl (Blk.wordAck_writes hopen hwords hwrite), rfl⟩
  case refusedWord =>
    obtain ⟨hring, hhalt, hcmds⟩ := s.blk.complHeld_spec n
    exact ⟨s.blk.complHeld n, exec_next_congr (i := .completionWriteRefused n poison) rfl (Blk.complRefused_word hopen poison hwords), hring,
      hhalt, hcmds⟩
  case refusedRecord =>
    obtain ⟨hring, hhalt, hcmds⟩ := s.blk.complHeld_spec n
    exact ⟨s.blk.complHeld n, exec_next_congr (i := .completionWriteRefused n poison) rfl (Blk.complRefused_record hopen poison hwords hrecs), hring,
      hhalt, hcmds⟩
  case chead =>
    refine ⟨_, exec_cheadWrite h v ho, fun hlow => ?_, fun hhigh => ?_, fun o ho => Blk.reg_fieldWrite_other _ _ _ ho, Blk.fieldWrite_frame _ _ _ _⟩
    · rw [Blk.rf_cheadWrite, if_neg hlow]
    · rw [Blk.rf_cheadWrite, if_pos hhigh]

end Sys2Proof.Machine
end

section
/-! PROOFS. Courier FIFOs and queue resets. -/
namespace Sys2Proof.Machine

/-- Two changes of a core that agree on it. -/
theorem Blk.updCore_congr {b : Blk} {c : Nat} {f g : Core → Core} (h : f (b.core c) = g (b.core c)) : b.updCore c f = b.updCore c g := by
  rw [Blk.updCore, h]; rfl

/-! ### CK_COUR_OUT (R367, R374) -/

section pop
variable {b : Blk} {c : Nat} (hreset : b.resetting = false) (hnap : b.pwr.st ≠ .nap) (hok : b.coreOk c = true)
include hreset hnap hok

theorem Blk.couPop_empty (h : b.qHeld 9 c c = true ∨ (b.core c).couOut = []) : b.couPop c = (b.setReg (couReg c 8) 0, 0) := by
  have hnone : (if b.qHeld 9 c c then [] else (b.core c).couOut) = [] := by
    obtain h | h := h
    · rw [if_pos h]
    · rw [h, ite_self]
  simp only [Blk.couPop, hreset, hnap, hok, hnone]
  rfl

theorem Blk.couPop_oldest {v : W64} {n : Nat} {l : List (W64 × Nat)} (hq : b.qHeld 9 c c = false) (h : (b.core c).couOut = (v, n) :: l) :
    b.couPop c = ((b.updCore c (fun k => { k with couOut := l })).setReg (couReg c 8) (BitVec.ofNat 64 (1 + n <<< 4)), v) := by
  simp only [Blk.couPop, hreset, hnap, hok, hq, h]
  rfl

end pop

/-! ### CK_COUR_IN (R373) -/

/-- The words that a write of CK_COUR_IN spells; none where it covers the high half alone. -/
def couWords (h : Half) (v : W64) : Option (List W32) :=
  match h with
  | .full => some [v.extractLsb' 0 32, v.extractLsb' 32 32]
  | .low => some [v.extractLsb' 0 32]
  | .high => none

theorem Blk.couIn_words {b : Blk} {c : Nat} {h : Half} {v : W64} {ws : List W32} (ho : b.regOpen (couReg c 24) = true)
    (hws : couWords h v = some ws) : b.couIn c h v = b.couEnter c ws := by
  cases h <;> cases hws <;> simp [Blk.couIn, ho]

theorem Blk.couIn_high {b : Blk} {c : Nat} {v : W64} : b.couIn c .high v = b := by
  unfold Blk.couIn; split <;> rfl

/-! ### Messages (R373) -/

section message
variable {b : Blk} {c : Nat} (ho : b.regOpen (couReg c 32) = true)
include ho

theorem Blk.couOpenMsg_full (hopen : (b.core c).couOpen = none) (hfree : b.couFree c = 0) : b.couOpenMsg c = b.couOver c := by
  simp [Blk.couOpenMsg, ho, hopen, hfree]

theorem Blk.couOpenMsg_opens (hopen : (b.core c).couOpen = none) (hfree : b.couFree c ≠ 0) :
    b.couOpenMsg c = b.updCore c (fun k => { k with couIn := k.couIn ++ [none], couOpen := some 0 }) := by
  simp [Blk.couOpenMsg, ho, hopen, hfree]

theorem Blk.couOpenMsg_open {n : Nat} (hopen : (b.core c).couOpen = some n) : b.couOpenMsg c = b.couFerr c := by
  simp [Blk.couOpenMsg, ho, hopen]

theorem Blk.couCloseMsg_closed (hopen : (b.core c).couOpen = none) : b.couCloseMsg c = b.couFerr c := by
  simp [Blk.couCloseMsg, ho, hopen]

theorem Blk.couCloseMsg_open {n : Nat} (hopen : (b.core c).couOpen = some n) : b.couCloseMsg c = b.updCore c (fun k =>
    { k with couIn := k.couIn.map (fun x => some (x.getD (BitVec.ofNat 32 n))), couOpen := none }) := by
  simp only [Blk.couCloseMsg, ho, hopen]
  refine (if_neg (by decide)).trans (Blk.updCore_congr (congrArg (fun l => { b.core c with couIn := l, couOpen := none })
    (List.map_congr_left fun x _ => ?_)))
  cases x <;> rfl

end message

/-! ### The packer's waiting half (R370, R372) -/

theorem Blk.courierHalf_waiting {b : Blk} {c n since : Nat} {lo : W32} (h : (b.core c).couHalf = some (lo, n, since)) :
    b.courierHalf c = b.updCore c (fun k => { k with couHalf := none, couOut := k.couOut ++ [(lo.setWidth 64, 4)] }) :=
  Blk.updCore_congr (by rw [h])

/-- COURIER_FLUSH of a core whose packer holds a half. -/
theorem exec_courierFlush {s : State} {c : Fin 8} {n since : Nat} {lo : W32} (h : (s.blk.core c).couHalf = some (lo, n, since)) (hlive : s.blk.live = true)
    (hq : s.blk.qHeld 9 c c = false) : exec (.courierFlush c) s = .next (s.withBlk (
      if since + max 16 (s.blk.rf (couReg c 40) 0 16) ≤ s.blk.time.toNat then s.blk.courierHalf c else s.blk)) := by
  refine exec_next_congr (i := .courierFlush c) rfl ?_
  simp only [h, hlive, hq, Bool.not_false, Bool.and_self, Bool.true_and, decide_eq_true_eq]

/-! ### Queue resets (R365, R371) -/

theorem Blk.queueReset_starts {b : Blk} {cls index core kind : Nat} (hlive : b.live = true) (hq : b.qExists cls index core = true) (hkind : kind ≠ 3)
    (hfree : b.qHeld cls (qCore cls index core) index = false) : b.queueReset cls index core kind =
      { b with qrst := b.qrst ++ [{ cls := cls, index := index, core := qCore cls index core, kind := kind }] } := by
  simp [Blk.queueReset, hlive, hq, hkind, hfree]

theorem Blk.qHeld_appended (b : Blk) (r : QReset) : ({ b with qrst := b.qrst ++ [r] } : Blk).qHeld r.cls r.core r.index = true := by
  simp [Blk.qHeld]

/-- The queue's items have been discarded, and the reset is logged and told. -/
theorem Blk.queueResetDone_only {b : Blk} {cls index core k : Nat} {r : QReset} (hlive : b.live = true) (hk : k = qCore cls index core)
    (hone : b.qrst = [r]) (hcls : r.cls = cls) (hcore : r.core = k) (hindex : r.index = index) : b.queueResetDone cls index core =
      ((({ b with qrst := b.qrst.erase r } : Blk).qDiscard r |>.log 0x1208 0
        (BitVec.ofNat 64 (r.kind <<< 2 + cls <<< 8 + index <<< 16 + k <<< 32))).inc 0x1210 1).event 0x42 0 k 0
          [BitVec.ofNat 64 (cls + index <<< 8)] := by
  subst hk
  have hfind : b.qrst.find? (fun r => r.cls = cls && r.core = qCore cls index core && r.index = index) = some r := by
    simp [hone, hcls, hcore, hindex]
  simp only [Blk.queueResetDone, hfind, hlive]
  rfl

/-- A reset stream queue is free. -/
theorem Blk.sq_resetStream (b : Blk) (c q : Nat) : ((b.resetStream c q).sq c q).st = .free := by
  by_cases hfree : (b.sq c q).st = .free
  · rw [show b.resetStream c q = b from if_pos hfree]; exact hfree
  · rw [Blk.resetStream]
    simp only [hfree, if_false]
    rw [Blk.sq_updSq_same]

/-- The queue of each class is empty once its items are discarded. -/
theorem Blk.qDiscard_empties (b : Blk) (r : QReset) :
    (r.cls = 2 → ((b.qDiscard r).sq r.core r.index).st = .free) ∧ (r.cls = 3 → ((b.qDiscard r).core r.core).tq = []) ∧
    (r.cls = 4 → ((b.qDiscard r).core r.core).iq = [] ∧ ((b.qDiscard r).core r.core).feed = []) ∧
    (r.cls = 6 → ((b.qDiscard r).core r.core).workq = []) ∧ (r.cls = 8 → (b.qDiscard r).evPath = []) ∧
    (r.cls = 9 → ((b.qDiscard r).core r.core).couOut = [] ∧ (b.qDiscard r).rf (couReg r.core 16) 16 1 = 0) ∧
    (r.cls = 10 → ((b.qDiscard r).core r.core).couIn = [] ∧ ((b.qDiscard r).core r.core).couOpen = none ∧
      (b.qDiscard r).rf (couReg r.core 16) 48 1 = 0) := by
  refine ⟨fun h => ?_, fun h => ?_, fun h => ?_, fun h => ?_, fun h => ?_, fun h => ?_, fun h => ?_⟩
  · rw [show b.qDiscard r = b.resetStream r.core r.index by simp [Blk.qDiscard, h]]
    exact b.sq_resetStream _ _
  · rw [show b.qDiscard r = b.resetTq r.core by simp [Blk.qDiscard, h], Blk.resetTq, Blk.core_updCore_same]
  · rw [show b.qDiscard r = b.resetArrayQ r.core by simp [Blk.qDiscard, h], Blk.resetArrayQ, Blk.core_updCore_same]
    exact ⟨rfl, rfl⟩
  · rw [show b.qDiscard r = (b.failAll (b.core r.core).workq).updCore r.core (fun k => { k with workq := [] }) by simp [Blk.qDiscard, h],
      Blk.core_updCore_same]
  · rw [show b.qDiscard r = ({ b with evPath := [] } : Blk).lost b.evPath.length by simp [Blk.qDiscard, h]]
    rfl
  · rw [show b.qDiscard r = (b.updCore r.core (fun k => { k with couOut := [] })).setFld (couReg r.core 16) 16 1 0 by simp [Blk.qDiscard, h],
      Blk.core_setFld, Blk.core_updCore_same, Blk.rf_setFld_zero _ _ (by decide)]
    exact ⟨rfl, rfl⟩
  · rw [show b.qDiscard r = (b.updCore r.core (fun k => { k with couIn := [], couOpen := none })).setFld (couReg r.core 16) 48 1 0 by
        simp [Blk.qDiscard, h], Blk.core_setFld, Blk.core_updCore_same, Blk.rf_setFld_zero _ _ (by decide)]
    exact ⟨rfl, rfl, rfl⟩

/-- Settles O46: an OPEN without room sets IOVR, and a pop works in Doze and not in Nap (log entry 100). -/
theorem queuesKeepOrderAndReset : Obligations.QueuesKeepOrderAndReset := by
  refine ⟨fun s c hreset hnap hok => ⟨fun hnone => ?popNone, fun v n l hq hout => ?pop⟩,
    fun s c h v ws ho hfull hlow => ⟨fun hhigh => ?high, fun hh hroom => ?overflow, fun hh hroom => ?enter⟩,
    fun s c ho => ⟨fun hopen hfree => exec_next_congr (i := .openMsg c) rfl (Blk.couOpenMsg_full ho hopen hfree),
      fun hopen hfree => exec_next_congr (i := .openMsg c) rfl (Blk.couOpenMsg_opens ho hopen hfree),
      fun n hopen => ⟨exec_next_congr (i := .openMsg c) rfl (Blk.couOpenMsg_open ho hopen),
        exec_next_congr (i := .closeMsg c) rfl (Blk.couCloseMsg_open ho hopen)⟩,
      fun hopen => exec_next_congr (i := .closeMsg c) rfl (Blk.couCloseMsg_closed ho hopen)⟩,
    fun s c lo n since hhalf hlive hq => ⟨fun hdue => ?flush, fun hearly => ?early⟩,
    fun s cls index c kind k hlive hexists hk => ⟨fun hkind hheld => ?reset, fun r hone hcls hcore hindex => ?done⟩⟩
  case popNone =>
    have hpop := Blk.couPop_empty hreset hnap hok hnone
    exact ⟨congrArg Prod.snd hpop, exec_next_congr (i := .courierPop c) rfl (congrArg Prod.fst hpop)⟩
  case pop =>
    have hpop := Blk.couPop_oldest hreset hnap hok hq hout
    exact ⟨congrArg Prod.snd hpop, exec_next_congr (i := .courierPop c) rfl (congrArg Prod.fst hpop)⟩
  case high =>
    subst hhigh
    exact exec_next_congr (i := .courierInWrite c .high v) (b' := s.blk) rfl Blk.couIn_high
  case overflow =>
    have hws : couWords h v = some ws := by cases h <;> simp_all [couWords]
    exact exec_next_congr (i := .courierInWrite c h v) rfl ((Blk.couIn_words ho hws).trans (if_pos hroom))
  case enter =>
    have hws : couWords h v = some ws := by cases h <;> simp_all [couWords]
    refine ⟨_, exec_next_congr (i := .courierInWrite c h v) rfl ((Blk.couIn_words ho hws).trans (if_neg (Nat.not_lt.mpr hroom))), ?_⟩
    rw [Blk.core_updCore_same]
    exact ⟨rfl, rfl, rfl, fun d hd => Blk.core_updCore_other _ _ hd, rfl⟩
  case flush => rw [exec_courierFlush hhalf hlive hq, if_pos hdue, Blk.courierHalf_waiting hhalf]
  case early =>
    rw [exec_courierFlush hhalf hlive hq, if_neg (Nat.not_le.mpr hearly)]
    rfl
  case reset =>
    subst hk
    have hkind : kind.toNat ≠ 3 := fun h => hkind (BitVec.eq_of_toNat_eq h)
    exact ⟨_, exec_next_congr (i := .queueReset cls index c kind) rfl (Blk.queueReset_starts hlive hexists hkind hheld),
      s.blk.qHeld_appended { cls := cls.toNat, index := index.toNat, core := qCore cls.toNat index.toNat c, kind := kind.toNat }, rfl, rfl⟩
  case done =>
    obtain ⟨h2, h3, h4, h6, h8, h9, h10⟩ := ({ s.blk with qrst := s.blk.qrst.erase r } : Blk).qDiscard_empties r
    rw [hcls] at h8
    rw [hcls, hcore] at h2 h3 h4 h6 h9 h10
    rw [hindex] at h2
    refine ⟨_, exec_next_congr (i := .queueResetDone cls index c) rfl (Blk.queueResetDone_only hlive hk hone hcls hcore hindex), ?_⟩
    have hcls2 {n : Nat} (h : cls = BitVec.ofNat 8 n) (hn : n < 256) : cls.toNat = n := by rw [h, BitVec.toNat_ofNat, Nat.mod_eq_of_lt hn]
    exact ⟨fun h => h2 (hcls2 h (by decide)), fun h => h3 (hcls2 h (by decide)), fun h => h4 (hcls2 h (by decide)), fun h => h6 (hcls2 h (by decide)),
      fun h => h8 (hcls2 h (by decide)), fun h => h9 (hcls2 h (by decide)), fun h => h10 (hcls2 h (by decide))⟩

end Sys2Proof.Machine
end

section
/-! PROOFS. The states of a Litha port. -/
namespace Sys2Proof.Machine

/-! ### Changes of one port -/

/-- A change of one port, whose value is given. -/
theorem OnlyPort.of_updPort {b : Blk} {p : Nat} {f : Port → Port} {x : Port} (h : f (b.port p) = x) : OnlyPort p x b (b.updPort p f) :=
  h ▸ OnlyPort.updPort b p f

/-- A port that holds nothing for a response or a multicast falls; nothing else of the block is changed. -/
theorem Blk.portDown_only {b : Blk} {p : Nat} (h : (b.port p).quiet) : OnlyPort p (b.port p).fall b (b.portDown p) := by
  rw [Blk.portDown_quiet b p h]
  exact OnlyPort.updPort b p Port.fall

theorem OnlyPort.time {p : Nat} {x : Port} {b b' : Blk} (h : OnlyPort p x b b') : b'.time = b.time := (congrArg Blk.time h.block :)

theorem OnlyPort.regs {p : Nat} {x : Port} {b b' : Blk} (h : OnlyPort p x b b') : b'.regs = b.regs := (congrArg Blk.regs h.block :)

theorem OnlyPort.portEn {p : Nat} {x : Port} {b b' : Blk} (h : OnlyPort p x b b') (q : Nat) : b'.portEn q = b.portEn q := by
  simp only [Blk.portEn, Blk.rb, Blk.reg, h.regs]

/-- Counting beside a change of a port. -/
theorem OnlyPort.inc {p : Nat} {x : Port} {b b' : Blk} (h : OnlyPort p x b b') (o k : Nat) : OnlyPort p x (b.inc o k) (b'.inc o k) := by
  refine ⟨h.port, h.others, ?_⟩
  have hreg : b'.reg o = b.reg o := by rw [Blk.reg, h.regs]; rfl
  have hset : b'.inc o k = { b' with regs := (b.inc o k).regs } := by rw [Blk.inc, hreg, Blk.setReg, h.regs]; rfl
  rw [hset]
  exact (congrArg (fun z : Blk => { z with regs := (b.inc o k).regs }) h.block :)

theorem OnlyPort.portOn {p : Nat} {x : Port} {b b' : Blk} (h : OnlyPort p x b b') (hr : x.rst = (b.port p).rst) : b'.portOn p = b.portOn p := by
  have hbuild : b'.build = b.build := (congrArg Blk.build h.block :)
  have hpwr : b'.pwr = b.pwr := (congrArg Blk.pwr h.block :)
  simp only [Blk.portOn, Blk.live, Blk.resetting, hbuild, hpwr, h.port, hr]

/-- One more change of the same port. -/
theorem OnlyPort.next {p : Nat} {x y : Port} {b b' : Blk} (h : OnlyPort p x b b') {f : Port → Port} (hf : f x = y) :
    OnlyPort p y b (b'.updPort p f) := h.trans (OnlyPort.of_updPort (by rw [h.port, hf]))

/-- A quiet port falls, its failure is kept, and an enabled one trains again. -/
theorem Blk.portDown_again {b : Blk} {p : Nat} (e : Nat) (h : (b.port p).quiet) (hen : b.portEn p = true) :
    OnlyPort p (({ (b.port p).fall with err := e } : Port).training b.time.toNat) b (((b.portDown p).portErr p e).portAgain p) := by
  have herr : OnlyPort p { (b.port p).fall with err := e } b ((b.portDown p).portErr p e) := (Blk.portDown_only h).next rfl
  rw [Blk.portAgain, if_pos ((herr.portEn p).trans hen), Blk.portTrain, herr.time]
  exact herr.next rfl

/-- A quiet port for which there is no version falls and waits for a write of EN. -/
theorem Blk.noVersion_only {b : Blk} {p : Nat} (h : (b.port p).quiet) :
    OnlyPort p { (b.port p).fall with err := 2, hold := true } b (b.noVersion p) :=
  ((Blk.portDown_only h).next (y := { (b.port p).fall with err := 2 }) rfl).next rfl

theorem Blk.trainFail_only (b : Blk) (p e : Nat) :
    OnlyPort p { b.port p with err := e, since := b.time.toNat + 250000 } (b.inc (pcnt p 10) 1) (b.trainFail p e) :=
  (OnlyPort.of_updPort (b := b.inc (pcnt p 10) 1) (x := { b.port p with err := e }) (f := fun x => { x with err := e }) rfl).next rfl

/-- A block that differs from another in its registers alone. -/
theorem Blk.kept_of_regs {b b' : Blk} (h : { b' with regs := b.regs } = b) :
    b'.lx = b.lx ∧ b'.time = b.time ∧ ∀ p, b'.portOn p = b.portOn p := by
  have hbuild : b'.build = b.build := (congrArg Blk.build h :)
  have hpwr : b'.pwr = b.pwr := (congrArg Blk.pwr h :)
  have hlx : b'.lx = b.lx := (congrArg Blk.lx h :)
  exact ⟨hlx, (congrArg Blk.time h :), fun p => by simp only [Blk.portOn, Blk.live, Blk.resetting, Blk.port, hbuild, hpwr, hlx]⟩

/-! ### A write of CK_LX_PCTRL (R381, R390, R411) -/

/-- The optical engine of port p follows EN. -/
def Blk.pctrlEngine (b : Blk) (p : Nat) : Blk :=
  b.updPort p (fun x =>
    if !b.rb (pctrl p) 0 then { x with oerst := true }
    else if x.oerst then { x with oerst := false, oeSince := b.time.toNat }
    else x)

/-- What a write of CK_LX_PCTRL does after EN and LASER have had their effect. -/
def Blk.pctrlRest (b : Blk) (p : Nat) (h : Half) (v : W64) : Blk :=
  if wrOne h v 2 && ((b.pctrlEngine p).oeRelease p).portOn p && (((b.pctrlEngine p).oeRelease p).port p).st = .active then
    ((b.pctrlEngine p).oeRelease p).portRetrain p
  else (b.pctrlEngine p).oeRelease p

/-- A write of the low half: EN or LASER at 0 takes the port DOWN. -/
theorem Blk.pctrlWrite_low {b b1 : Blk} {p : Nat} {h : Half} {v : W64} (ho : b.regOpen (pctrl p) = true) (hh : h ≠ .high)
    (hb1 : b1 = (b.fieldWrite (pctrl p) h v).setFld (pctrl p) 5 2 0) : b.pctrlWrite p h v =
      (if b1.portEn p then b1.updPort p (fun x => { x with hold := false })
        else if (b1.port p).st ≠ .down then (b1.updPort p (fun x => { x with hold := false })).portDown p
        else b1.updPort p (fun x => { x with hold := false })).pctrlRest p h v := by
  subst hb1
  have hcov : covers h 0 = true := (covers_zero h).trans (decide_eq_true hh)
  have hst : ((((b.fieldWrite (pctrl p) h v).setFld (pctrl p) 5 2 0).updPort p (fun x => { x with hold := false })).port p).st =
      (((b.fieldWrite (pctrl p) h v).setFld (pctrl p) 5 2 0).port p).st := by rw [Blk.port_updPort_same]
  simp only [Blk.pctrlWrite, ho, hcov]
  rw [← hst]
  rfl

section rest
variable {b : Blk} {p : Nat} (h : Half) (v : W64)

theorem Blk.pctrlRest_idle (hwait : (b.pctrlEngine p).oeRelease p = b.pctrlEngine p) (hst : ((b.pctrlEngine p).port p).st ≠ .active) :
    b.pctrlRest p h v = b.pctrlEngine p := by
  rw [Blk.pctrlRest, hwait, decide_eq_false hst, Bool.and_false, if_neg Bool.false_ne_true]

theorem Blk.pctrlRest_retrains (hwait : (b.pctrlEngine p).oeRelease p = b.pctrlEngine p) (hst : ((b.pctrlEngine p).port p).st = .active)
    (hv : wrOne h v 2 = true) (hon : (b.pctrlEngine p).portOn p = true) : b.pctrlRest p h v = (b.pctrlEngine p).portRetrain p := by
  rw [Blk.pctrlRest, hwait, decide_eq_true hst, hv, hon, Bool.and_self, Bool.and_self, if_pos rfl]

/-- The engine of an enabled port that was reset is released. -/
theorem Blk.pctrlEngine_releases (hen : b.rb (pctrl p) 0 = true) (hoe : (b.port p).oerst = true) :
    OnlyPort p { b.port p with oerst := false, oeSince := b.time.toNat } b (b.pctrlEngine p) :=
  OnlyPort.of_updPort (by simp [hen, hoe])

theorem Blk.pctrlEngine_resets (hen : b.rb (pctrl p) 0 = false) : OnlyPort p { b.port p with oerst := true } b (b.pctrlEngine p) :=
  OnlyPort.of_updPort (by simp [hen])

theorem Blk.pctrlEngine_stays (hen : b.rb (pctrl p) 0 = true) (hoe : (b.port p).oerst = false) : OnlyPort p (b.port p) b (b.pctrlEngine p) :=
  OnlyPort.of_updPort (by simp [hen, hoe])

end rest

/-- An optical engine is not released before its time, nor that of a port that is not enabled or not DOWN. -/
theorem Blk.oeRelease_waits {b : Blk} {p : Nat} (h : b.portEn p = false ∨ (b.port p).st ≠ .down ∨ b.time.toNat < (b.port p).oeSince + 25000) :
    b.oeRelease p = b := by
  refine if_neg ?_
  obtain h | h | h := h
  · simp [h]
  · simp [h]
  · simp [show ¬ (b.port p).oeSince + 25000 ≤ b.time.toNat by omega]

theorem wrOne_low {h : Half} {v : W64} (hh : h ≠ .high) : wrOne h v 2 = bit v 2 := by
  cases h with
  | full => exact wrOne_full_bit v (by decide)
  | low =>
    have hmask : (0xFFFFFFFF : W64).getLsbD 2 = true := by decide
    simp only [wrOne, halfVal, halfMask, bit, BitVec.testBit_toNat, BitVec.getLsbD_and, hmask, Bool.and_true]
  | high => exact absurd rfl hh

section pctrl
variable {b b1 : Blk} {p : Nat} {h : Half} {v : W64} {x : Port} (ho : b.regOpen (pctrl p) = true) (hh : h ≠ .high)
  (hb1 : b1 = (b.fieldWrite (pctrl p) h v).setFld (pctrl p) 5 2 0) (hx : b1.port p = x)
include ho hh hb1 hx

/-- EN of a DOWN port whose engine is reset. -/
theorem Blk.pctrlWrite_releases (hen : b1.portEn p = true) (hst : x.st = .down) (hoe : x.oerst = true) :
    OnlyPort p { x with hold := false, oerst := false, oeSince := b1.time.toNat } b1 (b.pctrlWrite p h v) := by
  have hhold : OnlyPort p { x with hold := false } b1 (b1.updPort p (fun x => { x with hold := false })) := OnlyPort.of_updPort (by rw [hx])
  have hengine := Blk.pctrlEngine_releases (b := b1.updPort p (fun x => { x with hold := false })) (p := p)
    (Bool.and_eq_true_iff.mp hen).1 (by rw [hhold.port]; exact hoe)
  rw [hhold.port] at hengine
  have hwait : ((b1.updPort p (fun x => { x with hold := false })).pctrlEngine p).oeRelease p = (b1.updPort p (fun x => { x with hold := false })).pctrlEngine p :=
    Blk.oeRelease_waits (.inr (.inr (by rw [hengine.port, hengine.time]; exact Nat.lt_add_of_pos_right (by decide))))
  rw [Blk.pctrlWrite_low ho hh hb1, if_pos hen, Blk.pctrlRest_idle h v hwait (by rw [hengine.port]; exact hst ▸ LkState.noConfusion)]
  exact hhold.trans hengine

/-- EN or LASER at 0 of a port that is not DOWN and holds nothing. -/
theorem Blk.pctrlWrite_falls (hen : b1.rb (pctrl p) 0 = false) (hst : x.st ≠ .down) (hquiet : x.quiet) :
    OnlyPort p { x.fall with hold := false, oerst := true } b1 (b.pctrlWrite p h v) := by
  have hoff : b1.portEn p = false := by rw [Blk.portEn, hen, Bool.false_and]
  have hhold : OnlyPort p { x with hold := false } b1 (b1.updPort p (fun x => { x with hold := false })) := OnlyPort.of_updPort (by rw [hx])
  have hdown := hhold.trans (Blk.portDown_only (b := b1.updPort p (fun x => { x with hold := false })) (by rw [hhold.port]; exact hquiet))
  rw [hhold.port] at hdown
  have hengine := hdown.trans (Blk.pctrlEngine_resets (b := (b1.updPort p (fun x => { x with hold := false })).portDown p) (p := p)
    (by rw [Blk.rb, Blk.reg, hdown.regs]; exact hen))
  rw [hdown.port] at hengine
  have hwait := Blk.oeRelease_waits (.inl ((hengine.portEn p).trans hoff))
  rw [Blk.pctrlWrite_low ho hh hb1, if_neg (by rw [hoff]; decide), if_pos (by rw [hx]; exact hst), Blk.pctrlRest_idle h v hwait
    (by rw [hengine.port]; exact LkState.noConfusion)]
  exact hengine

/-- RETRAIN of an ACTIVE port that stays enabled. -/
theorem Blk.pctrlWrite_retrains (hon : b1.portOn p = true) (hen : b1.portEn p = true) (hst : x.st = .active) (hoe : x.oerst = false) (hv : bit v 2 = true) :
    OnlyPort p (({ x with hold := false } : Port).retraining b1.time.toNat) (b1.inc (pcnt p 6) 1) (b.pctrlWrite p h v) := by
  have hhold : OnlyPort p { x with hold := false } b1 (b1.updPort p (fun x => { x with hold := false })) := OnlyPort.of_updPort (by rw [hx])
  have hengine := Blk.pctrlEngine_stays (b := b1.updPort p (fun x => { x with hold := false })) (p := p)
    (Bool.and_eq_true_iff.mp hen).1 (by rw [hhold.port]; exact hoe)
  rw [hhold.port] at hengine
  have hall := hhold.trans hengine
  have hwait := Blk.oeRelease_waits (.inr (.inl (by rw [hall.port]; exact hst ▸ LkState.noConfusion)))
  rw [Blk.pctrlWrite_low ho hh hb1, if_pos hen, Blk.pctrlRest_retrains h v hwait (by rw [hall.port]; exact hst) ((wrOne_low hh).trans hv)
    ((hall.portOn (x := { x with hold := false }) (by rw [hx])).trans hon)]
  have hretrain := ((b1.updPort p (fun x => { x with hold := false })).pctrlEngine p).portRetrain_only p
  rw [hall.port, hall.time] at hretrain
  exact (hall.inc _ _).trans hretrain

end pctrl

/-! ### Lock, negotiation and their timeouts (R381, R390 to R392) -/

section states
variable {b : Blk} {p : Nat} {x : Port} (hx : b.port p = x) (hon : b.portOn p = true)
include hx hon

theorem Blk.oeRelease_trains (hst : x.st = .down) (hen : b.portEn p = true) (hhold : x.hold = false) (hoe : x.oerst = false)
    (hdue : x.oeSince + 25000 ≤ b.time.toNat) : b.oeRelease p = b.portTrain p := by
  simp only [Blk.oeRelease, hx, hon, hst, hen, hhold, hoe, hdue]
  rfl

theorem Blk.laneLock_dark (hlol : x.lol = true) : b.laneLock p = b := by
  simp only [Blk.laneLock, hx, hon, hlol]; rfl

theorem Blk.laneLock_train (hlol : x.lol = false) (hst : x.st = .train) (hdue : x.since ≤ b.time.toNat) :
    OnlyPort p { x with st := .negotiate, since := b.time.toNat, confSent := none } b (b.laneLock p) := by
  have hlock : b.laneLock p = b.updPort p (fun x => { x with st := .negotiate, since := b.time.toNat, confSent := none }) := by
    simp only [Blk.laneLock, hx, hon, hlol, hst, hdue]; rfl
  rw [hlock]
  exact OnlyPort.of_updPort (by rw [hx])

theorem Blk.laneLock_retrain (hlol : x.lol = false) (hst : x.st = .retrain) : OnlyPort p { x with locked := true } b (b.laneLock p) := by
  have hlock : b.laneLock p = b.updPort p (fun x => { x with locked := true }) := by
    simp only [Blk.laneLock, hx, hon, hlol, hst]; rfl
  rw [hlock]
  exact OnlyPort.of_updPort (by rw [hx])

/-- The port that an ADVERT of version 1 has told of its partner. -/
theorem Blk.advert_takes {vmask node port : Nat} {enc : Bool} {free : List Nat} (hst : x.st = .negotiate) (hnode : node ≠ 0xFFFF)
    (hver : vmask % 2 ≠ 0) : b.advert p vmask enc node port free =
      b.updPort p (fun x => { x with confSent := some 1, pnode := node, pport := port, penc := enc, pfree := free }) := by
  simp only [Blk.advert, hx, hon, hst, hnode, hver]; rfl

theorem Blk.advert_version {vmask node port : Nat} {enc : Bool} {free : List Nat} (hst : x.st = .negotiate) (hnode : node ≠ 0xFFFF)
    (hver : vmask % 2 = 0) : b.advert p vmask enc node port free = b.noVersion p := by
  simp only [Blk.advert, hx, hon, hst, hnode, hver]; rfl

theorem Blk.advert_nobody {vmask port : Nat} {enc : Bool} {free : List Nat} (hst : x.st = .negotiate) :
    b.advert p vmask enc 0xFFFF port free = ((b.portDown p).portErr p 3).portAgain p := by
  simp only [Blk.advert, hx, hon, hst]; rfl

theorem Blk.confirm_other {vsel : Nat} (hst : x.st = .negotiate) (hver : vsel ≠ 1) : b.confirm p vsel = b.noVersion p := by
  simp only [Blk.confirm, hx, hon, hst, if_pos hver]; rfl

theorem Blk.confirm_early (hst : x.st = .negotiate) (hsent : x.confSent = none) : b.confirm p 1 = b := by
  simp only [Blk.confirm, hx, hon, hst, hsent]; rfl

theorem Blk.confirm_version {v : Nat} (hst : x.st = .negotiate) (hsent : x.confSent = some v) : b.confirm p 1 =
    (b.updPort p (fun x => { x with
      st := .active, since := b.time.toNat, ver := v, credit := (List.range 5).map (fun i => x.pfree.getD i 0)
      txSeq := 0, rxSeq := 0, nak := false, sinceAck := 0, progress := b.time.toNat })).pumpAll p := by
  simp only [Blk.confirm, hx, hon, hst, hsent]; rfl

/-- Loss of light of a port in each state. -/
theorem Blk.lossOfLight_cases : (x.st = .train → OnlyPort p { x with lol := true, err := 6, since := b.time.toNat + 250000 } (b.inc (pcnt p 10) 1) (b.lossOfLight p)) ∧
    (x.st = .active → OnlyPort p (({ x with lol := true } : Port).retraining b.time.toNat) (b.inc (pcnt p 6) 1) (b.lossOfLight p)) ∧
    (x.st ≠ .train → x.st ≠ .active → OnlyPort p { x with lol := true } b (b.lossOfLight p)) := by
  have hdark : OnlyPort p { x with lol := true } b (b.updPort p (fun x => { x with lol := true })) := OnlyPort.of_updPort (by rw [hx])
  have hst : ((b.updPort p (fun x => { x with lol := true })).port p).st = x.st := by rw [hdark.port]
  refine ⟨fun h => ?_, fun h => ?_, fun h h' => ?_⟩
  · have hfail := (b.updPort p (fun x => { x with lol := true })).trainFail_only p 6
    rw [hdark.port] at hfail
    have hloss : b.lossOfLight p = (b.updPort p (fun x => { x with lol := true })).trainFail p 6 := by
      simp only [Blk.lossOfLight, hon, hst, h]; rfl
    rw [hloss]
    exact (hdark.inc _ _).trans hfail
  · have hretrain := (b.updPort p (fun x => { x with lol := true })).portRetrain_only p
    rw [hdark.port] at hretrain
    have hloss : b.lossOfLight p = (b.updPort p (fun x => { x with lol := true })).portRetrain p := by
      simp only [Blk.lossOfLight, hon, hst, h]; rfl
    rw [hloss]
    exact (hdark.inc _ _).trans hretrain
  · have hloss : b.lossOfLight p = b.updPort p (fun x => { x with lol := true }) := by
      simp only [Blk.lossOfLight, hon]
      rw [if_neg (by simp)]
      split
      · next hc => exact absurd (hst.symm.trans hc) h
      · next hc => exact absurd (hst.symm.trans hc) h'
      · rfl
    rw [hloss]
    exact hdark

end states

/-! ### RESYNC (R390) -/

/-- Multicasts that end on a port leave the ports and the time. -/
theorem foldl_mcEnd_keeps (l : List Nat) (b : Blk) : (l.foldl (fun b id => b.mcEnd id) b).lx.ports = b.lx.ports ∧
    (l.foldl (fun b id => b.mcEnd id) b).time = b.time := by
  induction l generalizing b with
  | nil => exact ⟨rfl, rfl⟩
  | cons id l ih => exact ih (b.mcEnd id)

/-- What an acknowledgement leaves of the replay buffer, and of the time. -/
theorem Blk.ackTo_found {b : Blk} {p seq i : Nat} (h : (b.port p).replayBuf.findIdx? (fun f => f.seq = seq) = some i) :
    ((b.ackTo p seq).port p).replayBuf = (b.port p).replayBuf.drop (i + 1) := by
  simp only [Blk.ackTo, h]
  rw [Blk.port, (foldl_mcEnd_keeps _ _).1]
  exact congrArg Port.replayBuf (Blk.port_updPort_same _ _ _)

theorem Blk.ackTo_none {b : Blk} {p seq : Nat} (h : ∀ f ∈ (b.port p).replayBuf, f.seq ≠ seq) : b.ackTo p seq = b := by
  have hnone : (b.port p).replayBuf.findIdx? (fun f => f.seq = seq) = none := by
    simpa [List.findIdx?_eq_none_iff] using h
  simp only [Blk.ackTo, hnone]

theorem Blk.ackTo_time (b : Blk) (p seq : Nat) : (b.ackTo p seq).time = b.time := by
  unfold Blk.ackTo
  simp only
  split
  · rfl
  · exact (foldl_mcEnd_keeps _ _).2

section resync
variable {b : Blk} {p : Nat} {x : Port} (hx : b.port p = x) (hon : b.portOn p = true) (hst : x.st = .retrain) (hlocked : x.locked = true)
include hx hon hst hlocked

theorem Blk.resync_stranger {node port last : Nat} {free : List Nat} (h : node ≠ x.pnode ∨ port ≠ x.pport) :
    b.resync p node port free last = ((b.portDown p).portErr p 3).portAgain p := by
  have hother : (decide (node ≠ x.pnode) || decide (port ≠ x.pport)) = true := by simpa using h
  simp only [Blk.resync, hx, hon, hst, hlocked, hother]; rfl

theorem Blk.resync_partner {last : Nat} {free : List Nat} : b.resync p x.pnode x.pport free last =
    ((b.ackTo p last).updPort p (fun x => { x with
      st := .active, since := (b.ackTo p last).time.toNat, nak := false, progress := (b.ackTo p last).time.toNat
      credit := (List.range 5).map (fun i => if i = 4 then x.credit.getD 4 0 else free.getD i 0)
      replayBuf := x.replayBuf.map (fun f => { f with sends := 1 }), resend := x.replayBuf.map (·.seq) })).pumpAll p := by
  simp only [Blk.resync, hx, hon, hst, hlocked]
  rw [if_neg (by simp), if_neg (by simp)]

end resync

/-- Settles O47: a partner with node FFFFh takes the port DOWN and then to TRAIN, and loss of light in NEGOTIATE or RETRAIN sets LOL alone
(log entry 106). -/
theorem portsChangeState : Obligations.PortsChangeState := by
  rintro s p x now hx rfl hon
  have hx := hx.symm
  refine ⟨fun h v b1 ho hh hb1 => ?pctrl, fun hst hen hhold hoe => ⟨fun hdue => ?release, fun hearly => ?early⟩, fun hlol => ?dark,
    fun hlol hst hdue => ⟨_, exec_next_congr (i := .laneLock p) rfl rfl, Blk.laneLock_train hx hon hlol hst hdue⟩,
    fun hlol hst => ⟨_, exec_next_congr (i := .laneLock p) rfl rfl, Blk.laneLock_retrain hx hon hlol hst⟩,
    fun hst hdue => ?trainTimeout, fun hst => ⟨fun hdue => ?negotiateTimeout, fun vm enc node port free => ?advert, fun vsel => ?confirm⟩,
    ⟨_, exec_next_congr (i := .lossOfLight p) rfl rfl, Blk.lossOfLight_cases hx hon⟩, ?cleared, fun hst => ?fec,
    fun hst => ⟨fun hdue hquiet hen => ?retrainTimeout, fun node port free last hlocked => ?resync⟩⟩
  case pctrl =>
    have hframe : { b1 with regs := s.blk.regs } = s.blk := by subst hb1; exact s.blk.fieldWrite_frame (pctrl p) h v
    obtain ⟨hlx, htime, hlive⟩ := Blk.kept_of_regs hframe
    have hx1 : b1.port p = x := by rw [Blk.port, hlx]; exact hx
    have hon1 : b1.portOn p = true := (hlive p).trans hon
    rw [← htime]
    exact ⟨fun hen hst hoe => ⟨_, exec_next_congr (i := .linkEnable p h v) rfl rfl, Blk.pctrlWrite_releases ho hh hb1 hx1 hen hst hoe⟩,
      fun hen hst hquiet => ⟨_, exec_next_congr (i := .linkEnable p h v) rfl rfl, Blk.pctrlWrite_falls ho hh hb1 hx1 hen hst hquiet⟩,
      fun hen hst hoe hv => ⟨_, exec_next_congr (i := .retrain p h v) rfl rfl, Blk.pctrlWrite_retrains ho hh hb1 hx1 hon1 hen hst hoe hv⟩⟩
  case release =>
    exact ⟨_, exec_next_congr (i := .oeResetRelease p) rfl (Blk.oeRelease_trains hx hon hst hen hhold hoe hdue), OnlyPort.of_updPort (by rw [hx]; rfl)⟩
  case early => exact exec_next_congr (i := .oeResetRelease p) (b' := s.blk) rfl (Blk.oeRelease_waits (.inr (.inr (by rw [hx]; exact hearly))))
  case dark => exact exec_next_congr (i := .laneLock p) (b' := s.blk) rfl (Blk.laneLock_dark hx hon hlol)
  case trainTimeout =>
    have hfail := s.blk.trainFail_only p 1
    rw [hx] at hfail
    refine ⟨_, exec_next_congr (i := .trainTimeout p) rfl ?_, hfail⟩
    simp only [hx, hon, hst, hdue]; rfl
  case negotiateTimeout =>
    refine ⟨s.blk.portTrain p, exec_next_congr (i := .negotiateTimeout p) rfl ?_, OnlyPort.of_updPort (by rw [hx]; rfl)⟩
    simp only [hx, hon, hst, hdue]; rfl
  case advert =>
    have hfree : node ≠ 0xFFFF → node.toNat ≠ 0xFFFF := fun h hc => h (BitVec.eq_of_toNat_eq hc)
    have hver : vm.getLsbD 0 = decide (vm.toNat % 2 = 1) := by
      rw [← BitVec.testBit_toNat, Nat.testBit_zero]
    refine ⟨fun hnode hvm => ?_, fun hnode hvm hquiet => ?_, fun hnode hquiet hen => ?_⟩
    · refine ⟨_, exec_next_congr (i := .advert p vm enc node port free) rfl (Blk.advert_takes hx hon hst (hfree hnode) ?_),
        OnlyPort.of_updPort (by rw [hx])⟩
      rw [hver, decide_eq_true_eq] at hvm
      omega
    · have hnone := Blk.noVersion_only (b := s.blk) (p := p) (by rw [hx]; exact hquiet)
      rw [hx] at hnone
      refine ⟨_, exec_next_congr (i := .advert p vm enc node port free) rfl (Blk.advert_version hx hon hst (hfree hnode) ?_), hnone⟩
      rw [hver, decide_eq_false_iff_not] at hvm
      omega
    · subst hnode
      have hagain := Blk.portDown_again (b := s.blk) (p := p) 3 (by rw [hx]; exact hquiet) hen
      rw [hx] at hagain
      exact ⟨_, exec_next_congr (i := .advert p vm enc 0xFFFF port free) rfl (Blk.advert_nobody hx hon hst), hagain⟩
  case confirm =>
    refine ⟨fun hver hquiet => ?_, fun hver hsent => ?_, fun ver hver hsent => ?_⟩
    · have hnone := Blk.noVersion_only (b := s.blk) (p := p) (by rw [hx]; exact hquiet)
      rw [hx] at hnone
      exact ⟨_, exec_next_congr (i := .confirm p vsel) rfl (Blk.confirm_other hx hon hst (fun hc => hver (BitVec.eq_of_toNat_eq hc))), hnone⟩
    · subst hver
      exact exec_next_congr (i := .confirm p 1) (b' := s.blk) rfl (Blk.confirm_early hx hon hst hsent)
    · subst hver
      exact ⟨_, exec_next_congr (i := .confirm p 1) rfl (Blk.confirm_version hx hon hst hsent), OnlyPort.of_updPort (by rw [hx])⟩
  case cleared =>
    refine ⟨s.blk.updPort p (fun x => { x with lol := false }), ?_, OnlyPort.of_updPort (by rw [hx])⟩
    exact upd_onlyIf_true (g := fun b => b.portOn p.val) (fun b => b.updPort p.val (fun x => { x with lol := false })) hon
  case fec =>
    have hretrain := s.blk.portRetrain_only p
    rw [hx] at hretrain
    exact ⟨_, upd_onlyIf_true (g := fun b => b.portOn p.val && (b.port p.val).st = .active) (fun b => b.portRetrain p.val)
      (by simp only [hx, hon, hst]; rfl), hretrain⟩
  case retrainTimeout =>
    have hagain := Blk.portDown_again (b := s.blk) (p := p) 4 (by rw [hx]; exact hquiet) hen
    rw [hx] at hagain
    refine ⟨_, exec_next_congr (i := .retrainTimeout p) rfl ?_, hagain⟩
    simp only [hx, hon, hst, hdue]; rfl
  case resync =>
    refine ⟨fun hother hquiet hen => ?_, fun a y hnode hport ha hy => ?_⟩
    · have hagain := Blk.portDown_again (b := s.blk) (p := p) 3 (by rw [hx]; exact hquiet) hen
      rw [hx] at hagain
      exact ⟨_, exec_next_congr (i := .resync p node port free last) rfl (Blk.resync_stranger hx hon hst hlocked hother), hagain⟩
    · subst ha hy
      have hpartner := Blk.resync_partner hx hon hst hlocked (last := last.toNat) (free := free.map (·.toNat))
      rw [← hnode, ← hport] at hpartner
      refine ⟨_, exec_next_congr (i := .resync p node port free last) rfl hpartner, OnlyPort.of_updPort ?_, fun i hi => ?_, fun hnone => ?_⟩
      · rw [Blk.ackTo_time]
        have hfree (i : Nat) : (free.map (·.toNat)).getD i 0 = (free.getD i 0).toNat :=
          List.getD_map free (0 : BitVec 16) (fun n => n.toNat)
        simp only [hfree]
      · rw [Blk.ackTo_found (by rw [hx]; exact hi), hx]
      · rw [Blk.ackTo_none (by rw [hx]; exact hnone), hx]

end Sys2Proof.Machine
end

section
/-! PROOFS. The link tables and the management bus registers. -/
namespace Sys2Proof.Machine

/-! ### CK_LX_TADDR (R403, R410) -/

/-- The address lies beyond the last entry of its table. -/
theorem lxEntries_beyond {t i : Nat} (h : t = 0 ∧ 3840 ≤ i ∨ t = 1 ∧ 4096 ≤ i ∨ t = 3 ∧ 1024 ≤ i ∨ 4 ≤ t) : lxEntries t ≤ i := by
  unfold lxEntries
  obtain ⟨rfl, hi⟩ | ⟨rfl, hi⟩ | ⟨rfl, hi⟩ | ht := h
  · exact hi
  · exact hi
  · exact hi
  · rw [if_neg (by omega), if_neg (by omega), if_neg (by omega), if_neg (by omega)]
    exact Nat.zero_le _

theorem Blk.taddrWrite_closed {b : Blk} {h : Half} {v : W64} (ho : b.regOpen 0x70020 = false) : b.taddrWrite h v = b := by
  simp [Blk.taddrWrite, ho]

/-- A write of CK_LX_TADDR loads the entry that it addresses. -/
theorem Blk.taddrWrite_loads {b a : Blk} {h : Half} {v : W64} (ho : b.regOpen 0x70020 = true) (ha : a = b.fieldWrite 0x70020 h v) {e : W64 × W64}
    (he : a.lxEntry = e) : b.taddrWrite h v = (a.setReg 0x70028 e.1).setReg 0x70030 e.2 := by
  subst ha he
  simp [Blk.taddrWrite, ho]

/-- The two words of entry `i` of table `t`. -/
def Links.entry (l : Links) (t i : Nat) : W64 × W64 := match t with
  | 0 => (Tab.get 0 l.wrt i, 0)
  | 1 => (Tab.get 0 l.rwt0 i, Tab.get 0 l.rwt1 i)
  | 2 => (Tab.get 0 l.rt i, 0)
  | _ => (Tab.get 0 l.mc i, 0)

section entry
variable {a : Blk} {t i : Nat} (ht : a.rf 0x70020 16 3 = t) (hi : a.rf 0x70020 0 16 = i)
include ht hi

theorem Blk.lxEntry_beyond (h : lxEntries t ≤ i) : a.lxEntry = (0, 0) := by
  simp only [Blk.lxEntry, ht, hi, if_pos h]

theorem Blk.lxEntry_in (h : i < lxEntries t) : a.lxEntry = a.lx.entry t i := by
  simp only [Blk.lxEntry, ht, hi, if_neg (Nat.not_le.mpr h)]
  rfl

end entry

/-! ### CK_LX_TDATA1 (R403) -/

/-- The tables after a commit of the words `x` and `y` to entry `i` of table `t`, without their reserved bits. -/
def Links.committed (l : Links) (t i : Nat) (x y : W64) : Links := match t with
  | 0 => { l with wrt := Tab.set 0 l.wrt i (x &&& 0x00000FFFFFFF0001) }
  | 1 => { l with rwt0 := Tab.set 0 l.rwt0 i (x &&& 0x00003FFFFFFFFF1F), rwt1 := Tab.set 0 l.rwt1 i (y &&& 0xFFFF003F001FFFFF) }
  | 2 => { l with rt := Tab.set 0 l.rt i (x &&& 0xFFF) }
  | _ => { l with mc := Tab.set 0 l.mc i (x &&& 0x3FF) }

section commit
variable {b a : Blk} {h : Half} {v : W64} {t i : Nat} (ho : b.regOpen 0x70030 = true) (ha : a = b.fieldWrite 0x70030 h v)
  (ht : b.rf 0x70020 16 3 = t) (hi : b.rf 0x70020 0 16 = i)
include ho ha ht hi

theorem Blk.tdata1Write_beyond (hout : lxEntries t ≤ i) : b.tdata1Write h v = a := by
  have hrf (lo n : Nat) : a.rf 0x70020 lo n = b.rf 0x70020 lo n := by rw [ha, Blk.rf, Blk.reg_fieldWrite_other _ _ _ (by decide)]; rfl
  simp only [Blk.tdata1Write, ho, ← ha, hrf, ht, hi, if_pos hout]
  rfl

/-- Both words are committed to the entry that CK_LX_TADDR addresses. -/
theorem Blk.tdata1Write_in (hin : i < lxEntries t) : b.tdata1Write h v = { a with lx := a.lx.committed t i (b.reg 0x70028) (a.reg 0x70030) } := by
  have hrf (lo n : Nat) : a.rf 0x70020 lo n = b.rf 0x70020 lo n := by rw [ha, Blk.rf, Blk.reg_fieldWrite_other _ _ _ (by decide)]; rfl
  have hreg : a.reg 0x70028 = b.reg 0x70028 := by rw [ha, Blk.reg_fieldWrite_other _ _ _ (by decide)]
  simp only [Blk.tdata1Write, ho, ← ha, hrf, ht, hi, hreg, if_neg (Nat.not_le.mpr hin)]
  rfl

end commit

/-! ### The management bus (R382) -/

theorem Blk.mgmtWrite_open {b a : Blk} {h : Half} {v : W64} (ho : b.regOpen 0x70040 = true) (ha : a = b.fieldWrite 0x70040 h v) :
    b.mgmtWrite h v = if wrOne h v 24 then { a with lx := { a.lx with mgmtBusy := true } } else a := by
  subst ha
  simp [Blk.mgmtWrite, ho]

/-- The end of the transaction that runs. -/
theorem Blk.mgmtDone_ends {b a : Blk} (nack : Bool) (data : Byte) (hlive : b.live = true) (hbusy : b.lx.mgmtBusy = true)
    (ha : a = { b with lx := { b.lx with mgmtBusy := false } }) : b.mgmtDone nack data =
      if nack then a.setFld 0x70040 26 1 1 else if b.rb 0x70040 7 then a.setFld 0x70040 16 8 data.toNat else a := by
  subst ha
  simp only [Blk.mgmtDone, hlive, hbusy]
  rfl

/-- Settles O49: an address beyond a table loads 0 and its commit is ignored, GO while BUSY leaves the transaction that runs, and reserved
bits are not kept (log entry 111). -/
theorem linkTablesAreAddressed : Obligations.LinkTablesAreAddressed := by
  intro s h v a t i
  refine ⟨fun hclosed => exec_next_congr (i := .ckLxTaddrWrite h v) (b' := s.blk) rfl (Blk.taddrWrite_closed hclosed), fun ho ha ht hi => ?load,
    fun ho ha ht hi => ?commit, fun ho ha => ⟨fun hgo => ?go, fun hgo => ?idle⟩, fun nack data b hlive hb => ?done⟩
  case load =>
    have hload {e : W64 × W64} (he : a.lxEntry = e) : exec (.ckLxTaddrWrite h v) s = .next (s.withBlk ((a.setReg 0x70028 e.1).setReg 0x70030 e.2)) :=
      exec_next_congr (i := .ckLxTaddrWrite h v) rfl (Blk.taddrWrite_loads ho ha he)
    have hin := Blk.lxEntry_in ht.symm hi.symm
    refine ⟨fun h0 hlt => ?_, fun h1 hlt => ?_, fun h2 => ?_, fun h3 hlt => ?_, fun hout => hload (Blk.lxEntry_beyond ht.symm hi.symm (lxEntries_beyond hout))⟩
    · rw [h0] at hin; exact hload (hin hlt)
    · rw [h1] at hin; exact hload (hin hlt)
    · rw [h2] at hin; exact hload (hin (hi ▸ fld_lt _ _ _))
    · rw [h3] at hin; exact hload (hin hlt)
  case commit =>
    have hin := Blk.tdata1Write_in ho ha ht.symm hi.symm
    refine ⟨fun h0 hlt => ?_, fun h1 hlt => ?_, fun h2 => ?_, fun h3 hlt => ?_, fun hout => ?_⟩
    · rw [h0] at hin; exact exec_next_congr (i := .ckLxTdata1Write h v) rfl (hin hlt)
    · rw [h1] at hin; exact exec_next_congr (i := .ckLxTdata1Write h v) rfl (hin hlt)
    · rw [h2] at hin; exact exec_next_congr (i := .ckLxTdata1Write h v) rfl (hin (hi ▸ fld_lt _ _ _))
    · rw [h3] at hin; exact exec_next_congr (i := .ckLxTdata1Write h v) rfl (hin hlt)
    · exact exec_next_congr (i := .ckLxTdata1Write h v) rfl (Blk.tdata1Write_beyond ho ha ht.symm hi.symm (lxEntries_beyond hout))
  case go => exact exec_next_congr (i := .goWrite h v) rfl ((Blk.mgmtWrite_open ho ha).trans (if_pos hgo))
  case idle => exact exec_next_congr (i := .goWrite h v) rfl ((Blk.mgmtWrite_open ho ha).trans (if_neg (by rw [hgo]; decide)))
  case done =>
    refine ⟨fun hidle => ?_, fun hbusy hnack => ?_, fun hbusy hnack hread => ?_, fun hbusy hnack hwrite => ?_⟩
    · refine exec_next_congr (i := .mgmtTransactionDone nack data) (b' := s.blk) rfl ?_
      simp [Blk.mgmtDone, hidle]
    · exact exec_next_congr (i := .mgmtTransactionDone nack data) rfl ((Blk.mgmtDone_ends nack data hlive hbusy hb).trans (if_pos hnack))
    · refine exec_next_congr (i := .mgmtTransactionDone nack data) rfl ((Blk.mgmtDone_ends nack data hlive hbusy hb).trans ?_)
      rw [hnack, hread]; rfl
    · refine exec_next_congr (i := .mgmtTransactionDone nack data) rfl ((Blk.mgmtDone_ends nack data hlive hbusy hb).trans ?_)
      rw [hnack, hwrite]; rfl

end Sys2Proof.Machine
end

section
/-! PROOFS. Flits, acknowledgement and replay, escape and transit. -/
namespace Sys2Proof.Machine

/-! ### A received flit by its state, codewords and CRC (R383, R389) -/

@[simp] theorem Port.discard_fecWin (x : Port) (pool : Option Nat) : (x.discard pool).fecWin = x.fecWin := by
  cases pool <;> rfl

/-- A port whose flit had a bad codeword: a DATA flit is discarded. -/
def Blk.badFecAt (b : Blk) (p : Nat) (h : W64) : Blk :=
  let c := b.updPort p (fun x => { x with fecWin := b.time.toNat :: x.fecWin.filter (fun t => decide (b.time.toNat < t + 250000)) })
  if fld h 0 2 = 1 then c.updPort p (fun x => x.discard (flitPool h)) else c

theorem Blk.badFecAt_only {b : Blk} {p : Nat} {h : W64} {x y : Port} (hx : b.port p = x) {fw : List Nat}
    (hfw : fw = b.time.toNat :: x.fecWin.filter (fun t => decide (b.time.toNat < t + 250000)))
    (hy : y = (if fld h 0 2 = 1 then ({ x with fecWin := fw } : Port).discard (flitPool h) else { x with fecWin := fw })) :
    OnlyPort p y b (b.badFecAt p h) := by
  have hwin : OnlyPort p { x with fecWin := fw } b (b.updPort p (fun x => { x with fecWin := b.time.toNat :: x.fecWin.filter (fun t => decide (b.time.toNat < t + 250000)) })) :=
    OnlyPort.of_updPort (by rw [hx, hfw])
  subst hy
  unfold Blk.badFecAt
  split
  · exact hwin.next rfl
  · exact hwin

section flit
variable {b a : Blk} {p : Nat} {f : Flit} {h : W64} {x : Port} (hx : b.port p = x)
include hx

theorem Blk.flitIn_ignored (hst : x.st = .down ∨ x.st = .train) : b.flitIn p f = b := by
  simp only [Blk.flitIn, hx]
  obtain hst | hst := hst <;> rw [hst] <;> exact if_pos (by simp)

variable (hon : b.portOn p = true) (ha : a = b.inc (pcnt p 2) f.corrected) (hh : h = f.bits.extractLsb' 0 64)
include hon ha hh

/-- A flit with a bad codeword counts, a DATA flit is discarded, and the port retrains where its window is full. -/
theorem Blk.flitIn_badFec (hst : x.st = .active) (hbad : f.badFec = true) {fw : List Nat} {y : Port}
    (hfw : fw = b.time.toNat :: x.fecWin.filter (fun t => decide (b.time.toNat < t + 250000)))
    (hy : y = (if fld h 0 2 = 1 then ({ x with fecWin := fw } : Port).discard (flitPool h) else { x with fecWin := fw })) :
    (fw.length ≤ 64 → OnlyPort p y (a.inc (pcnt p 3) 1) (b.flitIn p f)) ∧
    (64 < fw.length → OnlyPort p (y.retraining b.time.toNat) ((a.inc (pcnt p 3) 1).inc (pcnt p 6) 1) (b.flitIn p f)) := by
  have hbad' := Blk.badFecAt_only (b := a.inc (pcnt p 3) 1) (p := p) (h := h) (x := x) (y := y) (fw := fw) 
    (by rw [ha, Blk.port_inc, Blk.port_inc, hx]) (by rw [ha, Blk.inc_time, Blk.inc_time, hfw]) hy
  have hlen : y.fecWin = fw := by rw [hy]; split <;> simp
  have hin : b.flitIn p f = if 64 < fw.length then ((a.inc (pcnt p 3) 1).badFecAt p h).portRetrain p else (a.inc (pcnt p 3) 1).badFecAt p h := by
    rw [← hlen, ← hbad'.port]
    simp only [Blk.flitIn, hx, hon, hst, hbad, ← hh, ← ha, Blk.badFecAt, Blk.inc_time, decide_true, Bool.true_and, decide_eq_true_eq, if_true]
    rw [if_neg (by decide)]
    split <;> rfl
  rw [hin]
  refine ⟨fun hle => by rw [if_neg (by omega)]; exact hbad', fun hlt => ?_⟩
  have hretrain := ((a.inc (pcnt p 3) 1).badFecAt p h).portRetrain_only p
  rw [hbad'.port, hbad'.time, ha, Blk.inc_time, Blk.inc_time] at hretrain
  rw [if_pos hlt, ha]
  rw [ha] at hbad'
  exact (hbad'.inc _ _).trans hretrain

theorem Blk.flitIn_badCrc (hst : x.st = .active) (hgood : f.badFec = false) (hcrc : crc32 (Flit.bytes f.bits 0 252) ≠ f.bits.extractLsb' 2016 32)
    (hdata : fld h 0 2 = 1) : b.flitIn p f = (a.inc (pcnt p 4) 1).updPort p (fun x => x.discard (flitPool h)) := by
  simp only [Blk.flitIn, hx, hon, hst, hgood, if_pos hcrc, ← hh, hdata, ← ha]
  rfl

theorem Blk.flitIn_active (hst : x.st = .active) (hgood : f.badFec = false) (hcrc : crc32 (Flit.bytes f.bits 0 252) = f.bits.extractLsb' 2016 32) :
    b.flitIn p f = a.activeFlit p h f.bits := by
  simp only [Blk.flitIn, hx, hon, hst, hgood, if_neg (not_not.mpr hcrc), ← hh, ← ha]
  rfl

theorem Blk.flitIn_control (hst : x.st = .negotiate) (hgood : f.badFec = false)
    (hcrc : crc32 (Flit.bytes f.bits 0 252) = f.bits.extractLsb' 2016 32) (hctrl : fld h 0 2 = 2) : b.flitIn p f = a.ctrlFlit p f.bits := by
  simp only [Blk.flitIn, hx, hon, hst, hgood, if_neg (not_not.mpr hcrc), ← hh, ← ha, hctrl]
  rfl

end flit

/-! ### What lies in a good flit of an ACTIVE port (R385 to R389, R409) -/

section active
variable {a : Blk} {p pool : Nat} {h : W64} {bits : BitVec 2048} {x : Port} (hx : a.port p = x) (hdata : fld h 0 2 = 1) (hpool : flitPool h = some pool)
include hx hdata hpool

theorem Blk.activeFlit_outOfOrder (hseq : fld h 8 16 ≠ x.rxSeq) :
    a.activeFlit p h bits = (a.updPort p (fun x => x.discard (some pool))).flitFields p h := by
  simp only [Blk.activeFlit, hdata, hpool, hx]
  exact if_pos hseq

theorem Blk.activeFlit_unopened (hseq : fld h 8 16 = x.rxSeq) (hopen : x.openFlit h bits = none) :
    a.activeFlit p h bits = (a.inc (pcnt p 7) 1).updPort p (fun x => x.discard (some pool)) := by
  simp only [Blk.activeFlit, hdata, hpool, hx, hopen]
  exact if_neg (not_not.mpr hseq)

theorem Blk.activeFlit_accepts {l : List Byte} (hseq : fld h 8 16 = x.rxSeq) (hopen : x.openFlit h bits = some l) :
    a.activeFlit p h bits = (a.acceptFlit p pool h l).flitFields p h := by
  simp only [Blk.activeFlit, hdata, hpool, hx, hopen]
  exact if_neg (not_not.mpr hseq)

end active

theorem Blk.activeFlit_idle {a : Blk} {p : Nat} {h : W64} {bits : BitVec 2048} (hidle : fld h 0 2 = 0) : a.activeFlit p h bits = a.flitFields p h := by
  simp only [Blk.activeFlit, hidle]

/-- The block after the acknowledgement of a header. -/
def Blk.flitAck (b : Blk) (p : Nat) (h : W64) : Blk := if bit h 40 then b.ackTo p (fld h 24 16) else b

/-- The pool that the credits of a header are for. -/
theorem Blk.flitFields_credit (b : Blk) (p : Nat) {h : W64} {i : Nat}
    (hi : fld h 42 2 = 0 ∧ i = fld h 44 1 ∨ fld h 42 2 = 1 ∧ i = 2 + fld h 44 1 ∨ fld h 42 2 = 2 ∧ i = 4) {c : Blk}
    (hc : c = (b.flitAck p h).updPort p (fun x => { x with
      credit := (List.range 5).map (fun k => x.credit.getD k 0 + if k = i then fld h 45 12 else 0) })) :
    b.flitFields p h = if bit h 41 then c.replay p else c.pumpAll p := by
  subst hc
  obtain ⟨hv, rfl⟩ | ⟨hv, rfl⟩ | ⟨hv, rfl⟩ := hi <;> simp only [Blk.flitFields, Blk.flitAck, hv] <;> rfl

/-! ### An accepted flit (R386 to R389) -/

section sweep
variable (b : Blk) (p : Nat)

/-- What a port keeps while messages leave its buffers. -/
structure Port.SameLink (x y : Port) : Prop where
  rxSeq : y.rxSeq = x.rxSeq
  nak : y.nak = x.nak
  st : y.st = x.st

theorem Port.SameLink.trans {x y z : Port} (h : x.SameLink y) (k : y.SameLink z) : x.SameLink z :=
  ⟨k.rxSeq.trans h.rxSeq, k.nak.trans h.nak, k.st.trans h.st⟩

theorem Port.consume_sameLink (x : Port) (pool : Nat) : x.SameLink (x.consume pool) := by
  unfold Port.consume
  split <;> exact ⟨rfl, rfl, rfl⟩

theorem Blk.sweepPort_sameLink (n : Nat) : (b.port p).SameLink ((b.sweepPort n p).port p) := by
  induction n generalizing b with
  | zero => exact ⟨rfl, rfl, rfl⟩
  | succ n ih =>
    unfold Blk.sweepPort
    simp only
    split
    · exact ⟨rfl, rfl, rfl⟩
    · refine Port.SameLink.trans ?_ (ih _)
      rw [Blk.port_updPort_same]
      split <;> exact Port.consume_sameLink _ _

theorem Port.head_single {x : Port} {pool : Nat} {m : LMsg} (hrx : x.rx = [(pool, m)]) (i : Nat) : x.head i = if pool = i then some m else none := by
  simp only [Port.head, hrx, List.find?_singleton, decide_eq_true_eq]
  split <;> rfl

/-- A single message of its pool stays in its buffer. -/
theorem Blk.sweepPort_single {b : Blk} {p pool : Nat} {m : LMsg} (hrx : (b.port p).rx = [(pool, m)]) (hfits : m.fits pool = true)
    (hserving : m.serving = none) (n : Nat) : b.sweepPort n p = b := by
  cases n with
  | zero => rfl
  | succ n =>
    unfold Blk.sweepPort
    simp only [Port.head_single hrx]
    split
    · rfl
    · next i hleaves =>
      have hleaves := List.find?_some hleaves
      by_cases hi : pool = i
      · subst hi; simp [hfits, hserving] at hleaves
      · simp [hi] at hleaves

end sweep

theorem Blk.takePayload_sameLink (b : Blk) (p pool : Nat) (enc : Bool) (l : List Byte) : (b.port p).SameLink ((b.takePayload p pool enc l).port p) := by
  unfold Blk.takePayload
  simp only
  refine Port.SameLink.trans ?_ (Blk.sweepPort_sameLink _ _ _)
  rw [apply_ite (fun c : Blk => c.port p), Blk.port_inc, ite_self, Blk.port_updPort_same]
  split <;> exact ⟨rfl, rfl, rfl⟩

/-- The one message that a payload brings to an empty port waits in its buffer. -/
theorem Blk.takePayload_brings {b : Blk} {p pool : Nat} {enc : Bool} {l : List Byte} {m : LMsg} {n : Nat} (hrx : (b.port p).rx = [])
    (hbytes : (b.port p).rxBytes = []) (hcut : cutMsgs enc 32 ([], false) l [] 0 = ([m], ([], false), n, 0)) (hfits : m.fits pool = true)
    (hserving : m.serving = none) : ((b.takePayload p pool enc l).port p).rx = [(pool, m)] := by
  unfold Blk.takePayload
  simp only [hbytes, List.find?_nil, Option.map_none, Option.getD_none, hcut, if_true]
  rw [Blk.sweepPort_single (pool := pool) (m := m) ?_ hfits hserving] <;>
  · rw [Blk.port_updPort_same]
    simp only [hrx]
    split <;> rfl

/-- What the acceptance of a flit in order does to its port before its payload is taken. -/
def Port.accepting (x : Port) (h : W64) : Port :=
  let step := fun (k : Option LinkKey) (s : Bool) => if bit h 5 && bit h 6 = s then k.map (fun y => { y with rx := y.rx + 1 }) else k
  let x := { x with rxSeq := (x.rxSeq + 1) % 65536, nak := false, sinceAck := x.sinceAck + 1, k0 := step x.k0 false, k1 := step x.k1 true }
  if 32 ≤ x.sinceAck then x.sendAck else x

theorem Blk.acceptFlit_accepting (b : Blk) (p pool : Nat) (h : W64) (l : List Byte) :
    b.acceptFlit p pool h l = ((b.inc (pcnt p 1) 1).updPort p (fun x => x.accepting h)).takePayload p pool (bit h 5) l := rfl

theorem Port.accepting_keeps (x : Port) (h : W64) : (x.accepting h).rxSeq = (x.rxSeq + 1) % 65536 ∧ (x.accepting h).nak = false ∧
    (x.accepting h).st = x.st ∧ (x.accepting h).rx = x.rx ∧ (x.accepting h).rxBytes = x.rxBytes := by
  unfold Port.accepting
  simp only
  split <;> exact ⟨rfl, rfl, rfl, rfl, rfl⟩

/-- An accepted flit: the next sequence number is awaited, no NAK is due, and a message that it brings whole waits. -/
theorem Blk.acceptFlit_port (b : Blk) (p pool : Nat) (h : W64) (l : List Byte) {x : Port} (hx : b.port p = x) :
    ((b.acceptFlit p pool h l).port p).rxSeq = (x.rxSeq + 1) % 65536 ∧ ((b.acceptFlit p pool h l).port p).nak = false ∧
    ((b.acceptFlit p pool h l).port p).st = x.st ∧
    (∀ (m : LMsg) (n : Nat), x.rx = [] → x.rxBytes = [] → cutMsgs (bit h 5) 32 ([], false) l [] 0 = ([m], ([], false), n, 0) →
      m.fits pool = true → m.serving = none → ((b.acceptFlit p pool h l).port p).rx = [(pool, m)]) := by
  obtain ⟨hseq, hnak, hst, hrx, hbytes⟩ := x.accepting_keeps h
  have hport : ((b.inc (pcnt p 1) 1).updPort p (fun x => x.accepting h)).port p = x.accepting h := by
    rw [Blk.port_updPort_same, Blk.port_inc, hx]
  have hsame := ((b.inc (pcnt p 1) 1).updPort p (fun x => x.accepting h)).takePayload_sameLink p pool (bit h 5) l
  rw [hport] at hsame
  rw [Blk.acceptFlit_accepting]
  refine ⟨hsame.rxSeq.trans hseq, hsame.nak.trans hnak, hsame.st.trans hst, fun m n hempty hnone hcut hfits hserving => ?_⟩
  exact Blk.takePayload_brings (by rw [hport, hrx, hempty]) (by rw [hport, hbytes, hnone]) hcut hfits hserving

/-! ### Replay (R389) -/

section replay
variable {b : Blk} {p : Nat} {x : Port} (hx : b.port p = x)
include hx

theorem Blk.replay_nothing (hempty : x.replayBuf = []) : b.replay p = b := by
  simp only [Blk.replay, hx, hempty]; rfl

/-- A flit that has been sent again 8 times without being acknowledged retrains the port. -/
theorem Blk.replay_exhausted (hsends : ∃ f ∈ x.replayBuf, 9 ≤ f.sends) :
    OnlyPort p (({ x with err := 5 } : Port).retraining b.time.toNat) (b.inc (pcnt p 6) 1) (b.replay p) := by
  have hne : x.replayBuf.isEmpty = false := by
    obtain ⟨f, hf, _⟩ := hsends
    rw [List.isEmpty_eq_false_iff]; exact List.ne_nil_of_mem hf
  have hany : x.replayBuf.any (fun f => decide (9 ≤ f.sends)) = true := by simpa using hsends
  have hrep : b.replay p = (b.portErr p 5).portRetrain p := by simp only [Blk.replay, hx, hne, hany]; rfl
  have herr : OnlyPort p { x with err := 5 } b (b.portErr p 5) := OnlyPort.of_updPort (by rw [hx])
  have hretrain := (b.portErr p 5).portRetrain_only p
  rw [herr.port, herr.time] at hretrain
  rw [hrep]
  exact (herr.inc _ _).trans hretrain

theorem Blk.replay_again (hne : x.replayBuf ≠ []) (hsends : ∀ f ∈ x.replayBuf, f.sends < 9) : b.replay p =
    ((b.inc (pcnt p 5) 1).updPort p (fun x => { x with resend := x.replayBuf.map (fun f => f.seq), progress := b.time.toNat })).pumpAll p := by
  have hany : x.replayBuf.any (fun f => decide (9 ≤ f.sends)) = false := by simpa using hsends
  simp only [Blk.replay, hx, List.isEmpty_eq_false_iff.mpr hne, hany]
  rfl

end replay

/-! ### A message leaves in flits (R385 to R387) -/

/-- A port after the first flit of its only message, which is not confidential, with the last credit of its pool. -/
def Port.sentOne (x : Port) (m : TxMsg) (now : Nat) : Port :=
  { x with
    tx := if m.bytes.length ≤ 242 then [] else [{ m with bytes := m.bytes.drop 242, part := true }]
    txSeq := (x.txSeq + 1) % 65536, progress := if x.replayBuf.isEmpty then now else x.progress
    replayBuf := x.replayBuf ++ [{ seq := x.txSeq, pool := m.pool, enc := none, bytes := m.bytes.take 242,
                                   last := if m.bytes.length ≤ 242 then m.mc else none, req := m.req }]
    credit := x.credit.set m.pool 0 }

theorem Port.sentOne_credit (x : Port) (m : TxMsg) (now : Nat) : ∀ y ∈ (x.sentOne m now).tx, (x.sentOne m now).credit.getD y.pool 0 = 0 := by
  intro y hy
  have hpool : y.pool = m.pool := by
    simp only [Port.sentOne] at hy
    split at hy
    · exact absurd hy List.not_mem_nil
    · rw [List.mem_singleton.mp hy]
  rw [hpool]
  simp only [Port.sentOne, List.getD_eq_getElem?_getD, List.getElem?_set_self']
  cases x.credit[m.pool]? <;> rfl

theorem Blk.updPort_congr {b : Blk} {p : Nat} {f g : Port → Port} (h : f (b.port p) = g (b.port p)) : b.updPort p f = b.updPort p g := by
  rw [Blk.updPort, Blk.updPort, h]

section pump
variable {b : Blk} {p : Nat} {x : Port} {m : TxMsg} (hx : b.port p = x)
include hx

theorem Blk.pumpAgain_nothing (hresend : x.resend = []) (n : Nat) : b.pumpAgain n p = b := by
  cases n with
  | zero => rfl
  | succ n => simp only [Blk.pumpAgain, hx, hresend]

/-- Without a credit of its pool nothing new leaves. -/
theorem Blk.pumpNew_stops (hcredit : ∀ m ∈ x.tx, x.credit.getD m.pool 0 = 0) (n : Nat) : b.pumpNew n p = b := by
  cases n with
  | zero => rfl
  | succ n =>
    have hnone : x.tx.find? (fun m => x.credit.getD m.pool 0 > 0 && (!m.conf || b.portEnc p) && (x.tx.find? (fun y => y.pool = m.pool)) = some m) = none := by
      rw [List.find?_eq_none]
      intro m hm
      rw [hcredit m hm]
      simp
    simp only [Blk.pumpNew, hx, hnone, ite_self]

theorem Blk.pumpNew_one (htx : x.tx = [m]) (hcredit : x.credit.getD m.pool 0 = 1) (hconf : m.conf = false) (hroom : x.replayBuf.length < 4096)
    (n : Nat) : b.pumpNew (n + 1) p = ((b.updPort p (fun x => x.sentOne m b.time.toNat)).inc (pcnt p 0) 1).pumpNew n p := by
  have hfind : x.tx.find? (fun m => x.credit.getD m.pool 0 > 0 && (!m.conf || b.portEnc p) && (x.tx.find? (fun y => y.pool = m.pool)) = some m) = some m := by
    rw [htx, List.find?_singleton, hcredit, hconf]
    simp
  have hidx : [m].findIdx (fun y => y = m) = 0 := by simp
  have hrest : (m.bytes.drop 242).isEmpty = decide (m.bytes.length ≤ 242) := by
    rw [Bool.eq_iff_iff, List.isEmpty_iff, List.drop_eq_nil_iff, decide_eq_true_eq]
  simp only [Blk.pumpNew, hx, hfind, if_neg (Nat.not_le.mpr hroom)]
  refine congrArg (fun c : Blk => (c.inc (pcnt p 0) 1).pumpNew n p) (Blk.updPort_congr ?_)
  simp only [hx, hidx, hconf, flitRoom, htx, Bool.false_eq_true, Bool.false_and, if_false, hrest, hcredit, decide_eq_true_eq, Port.sentOne]
  rfl

/-- One credit lets one flit of the only message leave. -/
theorem Blk.pumpAll_one (hst : x.st = .active) (hresend : x.resend = []) (htx : x.tx = [m]) (hcredit : x.credit.getD m.pool 0 = 1)
    (hconf : m.conf = false) (hroom : x.replayBuf.length < 4096) :
    OnlyPort p (x.sentOne m b.time.toNat) (b.inc (pcnt p 0) 1) (b.pumpAll p) := by
  have hsent : OnlyPort p (x.sentOne m b.time.toNat) (b.inc (pcnt p 0) 1) ((b.updPort p (fun x => x.sentOne m b.time.toNat)).inc (pcnt p 0) 1) :=
    (OnlyPort.of_updPort (by rw [hx])).inc _ _
  have hall : b.pumpAll p = b.pumpNew (m.bytes.length / 226 + 1) p := by
    have hflits : x.txFlits = m.bytes.length / 226 + 1 := by simp [Port.txFlits, htx]
    simp only [Blk.pumpAll, Blk.pump, hx, hst, Blk.pumpAgain_nothing hx hresend, hresend, hflits, List.isEmpty_nil, if_true]
    rfl
  rw [hall, Blk.pumpNew_one hx htx hcredit hconf hroom, Blk.pumpNew_stops hsent.port (x.sentOne_credit m _)]
  exact hsent

end pump

/-! ### The loss of a request (R407) -/

section timeout
variable {b : Blk} {tag : Nat} {r : LReq} (hr : b.lx.reqs.find? (fun r => r.tag = tag) = some r)
include hr

theorem Blk.requestTimeout_early (hearly : b.time.toNat < r.sentAt + b.rf 0x70010 0 32) : b.requestTimeout tag = b := by
  simp only [Blk.requestTimeout, hr, decide_eq_false (Nat.not_le.mpr hearly), Bool.and_false]
  rfl

theorem Blk.requestTimeout_due (hlive : b.live = true) (hdue : r.sentAt + b.rf 0x70010 0 32 ≤ b.time.toNat) :
    b.requestTimeout tag = (({ b with lx := { b.lx with reqs := b.lx.reqs.erase r } } : Blk).inc 0x70100 1).lxFail r 0x60 := by
  simp only [Blk.requestTimeout, hr, hlive, decide_eq_true hdue, Blk.lxLost]
  rfl

end timeout

theorem Blk.lxFail_write (b : Blk) {r : LReq} {id st : Nat} (hcmd : r.cmd = some id) (hkind : r.kind = .write (some id)) :
    b.lxFail r st = b.failCmd id st := by
  simp only [Blk.lxFail, hcmd, hkind]

/-! ### Escape (R405) -/

section escape
variable {b : Blk} {p k q : Nat} {x : Port} {m : TxMsg} (hx : b.port p = x) (hon : b.portOn p = true) (hm : x.tx.find? (fun m => m.pool = k) = some m)
  (hq : q = fld (Tab.get 0 b.lx.rt m.dst) 8 3) (hst : x.st = .active) (hcredit : x.credit.getD k 0 = 0) (hpart : m.part = false)
  (hmc : m.mc = none) (hty : m.bytes.headD 0 ≠ 6) (hvalid : bit (Tab.get 0 b.lx.rt m.dst) 11 = true) (hconf : m.conf = false)
include hx hon hm hq hst hcredit hpart hmc hty hvalid hconf

theorem Blk.escape_moves : b.escape p k = ((((b.inc (pcnt p 8) 1).updPort p (fun x => { x with tx := x.tx.erase m })).updPort q
    (fun x => { x with tx := x.tx ++ [{ m with pool := k + 2 }] })).pumpAll q) := by
  subst hq
  simp only [Blk.escape, hx, hm, hon, hst, hcredit, hpart, hmc, hty, hvalid, hconf]
  rfl

end escape

/-- Two ports of a block, one after the other. -/
theorem Blk.updPort_two (b : Blk) {p q : Nat} (h : q ≠ p) (f g : Port → Port) : ((b.updPort p f).updPort q g).port p = f (b.port p) ∧
    ((b.updPort p f).updPort q g).port q = g (b.port q) ∧ ∀ d, d ≠ p → d ≠ q → ((b.updPort p f).updPort q g).port d = b.port d := by
  refine ⟨?_, ?_, fun d hp hq => ?_⟩
  · rw [Blk.port_updPort_other _ _ h.symm, Blk.port_updPort_same]
  · rw [Blk.port_updPort_same, Blk.port_updPort_other _ _ h]
  · rw [Blk.port_updPort_other _ _ hq, Blk.port_updPort_other _ _ hp]

/-! ### Transit (R404) -/

/-- The head of pool k of port p is in transit. -/
def Blk.leaves (b : Blk) (p k : Nat) : Bool :=
  match (b.port p).head k with
  | some m => decide (m.ty ≠ 6) && decide (m.dst ≠ b.node)
  | none => false

/-- The first head in transit is taken. -/
theorem Blk.transit_takes {b : Blk} {p i : Nat} {m : LMsg} (hhead : HeadIs b p i m) (hfirst : (List.range 4).find? (b.leaves p) = some i) :
    b.transit p = match (if m.hops = 0 then none else b.hop m i) with
      | none => (b.inc (pcnt p 9) 1).consume p i
      | some (q, j) =>
        if m.conf && !b.portEnc q then (b.inc (pcnt p 9) 1).consume p i
        else (b.consume p i).lxPush q j (m.words.set 0 (putFld (qw m.words 0) 9 6 (m.hops - 1))) m.conf none none := by
  have htransit : b.transit p = match (List.range 4).find? (b.leaves p) with
      | none => b
      | some i => match (b.port p).head i with
        | none => b
        | some m => match (if m.hops = 0 then none else b.hop m i) with
          | none => (b.inc (pcnt p 9) 1).consume p i
          | some (q, j) =>
            if m.conf && !b.portEnc q then (b.inc (pcnt p 9) 1).consume p i
            else (b.consume p i).lxPush q j (m.words.set 0 (putFld (qw m.words 0) 9 6 (m.hops - 1))) m.conf none none := by
    simp only [Blk.transit, hhead.on, hhead.swept]
    rfl
  rw [htransit, hfirst]
  simp only [hhead.head]

section transit
variable {b : Blk} {p i : Nat} {m : LMsg} (hhead : HeadIs b p i m) (hi : i < 4) (hty : m.ty ≠ 6) (hdst : m.dst ≠ b.node) (hconf : m.conf = false)
  (hfirst : ∀ k y, k < i → (b.port p).head k = some y → y.ty = 6 ∨ y.dst = b.node)
include hhead hi hty hdst hconf hfirst

omit hconf in
theorem Blk.transit_first : (List.range 4).find? (b.leaves p) = some i := by
  have hat : b.leaves p i = true := by simp [Blk.leaves, hhead.head, hty, hdst]
  have hbefore (k : Nat) (hk : k < i) : b.leaves p k = false := by
    unfold Blk.leaves
    split
    · next y hy => obtain h | h := hfirst k y hk hy <;> simp [h]
    · rfl
  rw [List.find?_range_eq_some]
  exact ⟨hat, List.mem_range.mpr hi, fun k hk => by rw [hbefore k hk]; rfl⟩

omit hconf in
theorem Blk.transit_dropped (hnone : m.hops = 0 ∨ b.hop m i = none) : b.transit p = (b.inc (pcnt p 9) 1).consume p i := by
  have hout : (if m.hops = 0 then none else b.hop m i) = none := by
    obtain h | h := hnone
    · rw [if_pos h]
    · rw [h, ite_self]
  rw [Blk.transit_takes hhead (Blk.transit_first hhead hi hty hdst hfirst), hout]

theorem Blk.transit_copied {q j : Nat} (hhops : m.hops ≠ 0) (hhop : b.hop m i = some (q, j)) : b.transit p =
    (b.consume p i).lxPush q j (m.words.set 0 (putFld (qw m.words 0) 9 6 (m.hops - 1))) false none none := by
  rw [Blk.transit_takes hhead (Blk.transit_first hhead hi hty hdst hfirst), if_neg hhops, hhop]
  simp only [hconf, Bool.false_and, Bool.false_eq_true, if_false]

end transit

/-! ### What is stated of flits -/

/-- Settles O48: TYPE and pool of a flit in a bad codeword are trusted (log entry 105), each such flit counts one codeword (log entry 103),
and a flit that has been sent 9 times retrains the port at the next trigger. -/
theorem flitsCarryMessages : Obligations.FlitsCarryMessages := by
  rintro s p x now hx rfl hon
  have hx := hx.symm
  refine ⟨fun f a h pool ha hh => ?flit, fun hst => ?ack, fun hst hdue => ?replay, fun m hst hresend htx hcredit hconf hroom =>
    Blk.pumpAll_one hx hst hresend htx hcredit hconf hroom, fun tag r b hr hb => ?timeout, fun resp k q m hk hm hq hst hcredit hpart hmc hty hvalid hconf hqp => ?escape,
    fun i m hhead hi hty hdst hconf hfirst => ?transit⟩
  case flit =>
    have hax : a.port p = x := by rw [ha, Blk.port_inc, hx]
    have hstep {b' : Blk} (hin : s.blk.flitIn p f = b') : exec (.flitReceive p f) s = .next (s.withBlk b') :=
      exec_next_congr (i := .flitReceive p f) rfl hin
    have hdiscard (c : Blk) (hc : c.port p = x) (i : Option Nat) : OnlyPort p (x.discard i) c (c.updPort p (fun x => x.discard i)) :=
      OnlyPort.of_updPort (by rw [hc])
    refine ⟨fun hst => hstep (Blk.flitIn_ignored hx hst), fun fw y hst hbad hfw hy => ⟨_, hstep rfl, Blk.flitIn_badFec hx hon ha hh hst hbad hfw hy⟩,
      fun hst hgood hcrc hdata => ⟨_, hstep (Blk.flitIn_badCrc hx hon ha hh hst hgood hcrc hdata), hdiscard _ ((Blk.port_inc _ _ _ _).trans hax) _⟩,
      fun hst hgood hcrc => ?_, fun hst hgood hcrc hctrl hconfirm => ?_⟩
    · have hin := Blk.flitIn_active hx hon ha hh hst hgood hcrc
      refine ⟨fun hdata hpool => ⟨fun hseq => ?_, fun hseq hopen => ?_, fun l hseq hopen => ?_⟩, fun b1 i hidle hb1 hi => ?_⟩
      · exact ⟨_, hstep (hin.trans (Blk.activeFlit_outOfOrder hax hdata hpool hseq)), hdiscard _ hax _⟩
      · exact ⟨_, hstep (hin.trans (Blk.activeFlit_unopened hax hdata hpool hseq hopen)), hdiscard _ ((Blk.port_inc _ _ _ _).trans hax) _⟩
      · exact ⟨_, hstep (hin.trans (Blk.activeFlit_accepts hax hdata hpool hseq hopen)), a.acceptFlit_port p pool h l hax⟩
      · subst hb1
        exact ⟨_, hstep (hin.trans ((Blk.activeFlit_idle hidle).trans (a.flitFields_credit p hi rfl))), OnlyPort.of_updPort rfl⟩
    · refine hstep ((Blk.flitIn_control hx hon ha hh hst hgood hcrc hctrl).trans ?_)
      simp only [Blk.ctrlFlit, List.drop_zero, hconfirm]
      rfl
  case ack =>
    exact ⟨_, upd_onlyIf_true (g := fun b => b.portOn p.val && (b.port p.val).st = .active) (fun b => b.updPort p.val Port.sendAck)
      (by simp only [hx, hon, hst]; rfl), OnlyPort.of_updPort (by rw [hx]; rfl)⟩
  case replay =>
    have hstep {b' : Blk} (hrep : s.blk.replay p = b') : exec (.replayTimeout p) s = .next (s.withBlk b') := by
      refine exec_next_congr (i := .replayTimeout p) rfl (Eq.trans ?_ hrep)
      simp only [hx, hon, hst, hdue]; rfl
    refine ⟨fun hempty => hstep (Blk.replay_nothing hx hempty), fun hsends => ⟨_, hstep rfl, Blk.replay_exhausted hx hsends⟩,
      fun hne hsends => ⟨_, hstep (Blk.replay_again hx hne hsends), OnlyPort.of_updPort (by rw [Blk.port_inc, hx])⟩⟩
  case timeout =>
    subst hb
    refine ⟨fun hearly => exec_next_congr (i := .requestTimeout tag) (b' := s.blk) rfl (Blk.requestTimeout_early hr hearly),
      fun hdue => ⟨exec_next_congr (i := .requestTimeout tag) rfl (Blk.requestTimeout_due hr ?_ hdue),
        fun id hcmd hkind => Blk.lxFail_write _ hcmd hkind⟩⟩
    simp only [Blk.portOn, Bool.and_eq_true] at hon
    exact hon.1.1
  case escape =>
    have hports := (s.blk.inc (pcnt p 8) 1).updPort_two hqp (fun x => { x with tx := x.tx.erase m }) (fun x => { x with tx := x.tx ++ [{ m with pool := k + 2 }] })
    rw [Blk.port_inc, hx] at hports
    obtain ⟨hfrom, hto, hothers⟩ := hports
    have hmoves := Blk.escape_moves hx hon hm hq hst hcredit hpart hmc hty hvalid hconf
    exact ⟨_, exec_next_congr (i := .escapeTimeout p resp) rfl (by rw [← hk]; exact hmoves), hfrom, hto, hothers, rfl⟩
  case transit =>
    rw [← hx] at hfirst
    refine ⟨fun hnone => exec_next_congr (i := .transitForward p) rfl (Blk.transit_dropped hhead hi hty hdst hfirst hnone),
      fun q j hhops hhop => exec_next_congr (i := .transitForward p) rfl (Blk.transit_copied hhead hi hty hdst hconf hfirst hhops hhop)⟩

end Sys2Proof.Machine
end

section
/-! PROOFS. Responses reach the requests that they answer. -/
namespace Sys2Proof.Machine

/-! ### The response that is next to be taken (R407) -/

/-- The head of pool k of port p is a response of a type for this chip. -/
def Blk.responseAt (b : Blk) (p ty k : Nat) : Bool :=
  match (b.port p).head k with
  | some m => decide (m.ty = ty) && decide (m.dst = b.node)
  | none => false

theorem Blk.responseAt_first {b : Blk} {p i ty : Nat} {m : LMsg} (hhead : (b.port p).head i = some m) (hty : m.ty = ty) (hhere : m.dst = b.node)
    (hpool : i = 1 ∨ (i = 3 ∧ ∀ y, (b.port p).head 1 = some y → y.ty ≠ ty)) : [1, 3].find? (b.responseAt p ty) = some i := by
  have hat : b.responseAt p ty i = true := by simp [Blk.responseAt, hhead, hty, hhere]
  obtain rfl | ⟨rfl, hother⟩ := hpool
  · rw [List.find?_cons_of_pos hat]
  · have hskip : b.responseAt p ty 1 = false := by
      unfold Blk.responseAt
      split
      · next y hy => simp [hother y hy]
      · rfl
    rw [List.find?_cons_of_neg (by rw [hskip]; decide), List.find?_cons_of_pos hat]

section response
variable {b : Blk} {p i ty : Nat} {m : LMsg} {f : Blk → LReq → LMsg → Blk}

/-- The first response of its type is taken. -/
theorem Blk.response_takes (hhead : HeadIs b p i m) (hfirst : [1, 3].find? (b.responseAt p ty) = some i) :
    b.response p ty f = match (b.consume p i).lx.reqs.find? (fun r => r.tag = m.tag && r.kind.answers ty) with
      | none => (b.consume p i).inc 0x70108 1
      | some r =>
        if m.hi 0 8 = 0 || (m.hi 0 8 = 0x40 && ty = 0x81) then
          f { b.consume p i with lx := { (b.consume p i).lx with reqs := (b.consume p i).lx.reqs.erase r } } r m
        else ({ b.consume p i with lx := { (b.consume p i).lx with reqs := (b.consume p i).lx.reqs.erase r } } : Blk).lxFail r (lxStatus (m.hi 0 8)) := by
  have hresponse : b.response p ty f = match [1, 3].find? (b.responseAt p ty) with
      | none => b
      | some i => match (b.port p).head i with
        | none => b
        | some m => match (b.consume p i).lx.reqs.find? (fun r => r.tag = m.tag && r.kind.answers ty) with
          | none => (b.consume p i).inc 0x70108 1
          | some r =>
            if m.hi 0 8 = 0 || (m.hi 0 8 = 0x40 && ty = 0x81) then
              f { b.consume p i with lx := { (b.consume p i).lx with reqs := (b.consume p i).lx.reqs.erase r } } r m
            else ({ b.consume p i with lx := { (b.consume p i).lx with reqs := (b.consume p i).lx.reqs.erase r } } : Blk).lxFail r (lxStatus (m.hi 0 8)) := by
    simp only [Blk.response, hhead.on, hhead.swept]
    rfl
  rw [hresponse, hfirst]
  simp only [hhead.head]

theorem Blk.response_stray (hhead : HeadIs b p 1 m) (hty : m.ty = ty) (hhere : m.dst = b.node)
    (hnone : ∀ r ∈ (b.consume p 1).lx.reqs, r.tag ≠ m.tag) : b.response p ty f = (b.consume p 1).inc 0x70108 1 := by
  have hfind : (b.consume p 1).lx.reqs.find? (fun r => r.tag = m.tag && r.kind.answers ty) = none :=
    List.find?_eq_none.mpr fun r hr => by simp [hnone r hr]
  rw [Blk.response_takes hhead (Blk.responseAt_first hhead.head hty hhere (.inl rfl)), hfind]

variable {r : LReq} {b' : Blk} (hr : ResponseIs b p i ty m r b')
include hr

theorem Blk.response_open : b.response p ty f =
    if m.hi 0 8 = 0 || (m.hi 0 8 = 0x40 && ty = 0x81) then f b' r m else b'.lxFail r (lxStatus (m.hi 0 8)) := by
  rw [Blk.response_takes hr.toHeadIs (Blk.responseAt_first hr.head hr.typ hr.here hr.pool), hr.open_, hr.taken]

/-- A response with a status fails its request. -/
theorem Blk.response_fails {st : Nat} (hst : st = m.hi 0 8) (hne : st ≠ 0) (hread : st ≠ 0x40 ∨ ty ≠ 0x81) : b.response p ty f =
    b'.lxFail r (if st = 0x32 ∨ st = 0x33 ∨ st = 0x51 then st else 0x61) := by
  subst hst
  have hno : ¬ (decide (m.hi 0 8 = 0) || (decide (m.hi 0 8 = 0x40) && decide (ty = 0x81))) = true := by simp [hne]; tauto
  rw [Blk.response_open hr, if_neg hno]
  simp only [lxStatus, Bool.or_eq_true, decide_eq_true_eq, or_assoc]

theorem Blk.response_gives (hok : m.hi 0 8 = 0) : b.response p ty f = f b' r m := by
  rw [Blk.response_open hr, hok]; rfl

end response

/-! ### What a response gives (R394, R397, R418) -/

section read
variable {b : Blk} {r : LReq} {m : LMsg} {c j k : Nat} {t : TSlot} {x : Piece} (ht : (b.core c).slot j = some t) (hx : t.pieces[k]? = some x)
include ht hx

theorem Blk.giveRead_data (hok : m.hi 0 8 = 0) {l : List Byte} (hl : l = ((wordBytes m.body).drop (x.pa % 8)).take x.len) (hlen : l.length = x.len) :
    b.giveRead r m c j k = b.updSlot c j (fun t => { t with pieces := t.pieces.set k { x with byte := some l, bad := [] } }) := by
  subst hl
  simp only [Blk.giveRead, ht, hx, hok, ne_eq, not_true_eq_false, if_false]
  exact if_neg (not_not.mpr hlen)

theorem Blk.giveRead_length (hok : m.hi 0 8 = 0) {l : List Byte} (hl : l = ((wordBytes m.body).drop (x.pa % 8)).take x.len) (hlen : l.length ≠ x.len) :
    b.giveRead r m c j k = b.lxFail r 0x61 := by
  subst hl
  simp only [Blk.giveRead, ht, hx, hok, ne_eq, not_true_eq_false, if_false]
  exact if_pos hlen

theorem Blk.giveRead_poison (hbad : m.hi 0 8 = 0x40) : b.giveRead r m c j k = b.updSlot c j (fun t => { t with
    pieces := t.pieces.set k { x with byte := some (List.replicate x.len 0), bad := sectorsOf x.pa x.len } }) := by
  simp only [Blk.giveRead, ht, hx, hbad]
  simp

end read

section pool
variable {b : Blk} {r : LReq} {m : LMsg} {c q : Nat} {bags : List (Nat × List Nat)} {l : List Byte} {ords : List Nat}

theorem Blk.givePool_ended (hords : ords = bags.flatMap (fun g => g.2)) (hend : (b.sq c q).ended = true) :
    b.givePool r m c q bags = (b.freeRemote c q true ords).finishPass c q := by
  subst hords
  simp only [Blk.givePool, hend]
  rfl

variable (hl : l = wordBytes (m.body.drop 1)) (hords : ords = bags.flatMap (fun g => g.2)) (hend : (b.sq c q).ended = false)
  (hst : (b.sq c q).st = .active) (hcmd : r.cmd = some (b.sq c q).owner)
include hl hords hend hst hcmd

theorem Blk.givePool_goesOn : b.givePool r m c q bags =
    if l.length ≠ (8 + upTo 8 (b.sq c q).laneBytes) * bags.length then b.lxFail r 0x61
    else Blk.joinAll c q (8 + upTo 8 (b.sq c q).laneBytes) bags l
      ((b.freeRemote c q false ords).updCmd (b.sq c q).owner (fun x => x.addCounts (qw m.body 0))) := by
  subst hl hords
  simp only [Blk.givePool, hend, hst, hcmd]
  exact if_neg (by simp)

theorem Blk.givePool_length (hlen : l.length ≠ (8 + upTo 8 (b.sq c q).laneBytes) * bags.length) : b.givePool r m c q bags = b.lxFail r 0x61 := by
  rw [Blk.givePool_goesOn hl hords hend hst hcmd, if_pos hlen]

/-- The record of the only bag is joined into it. -/
theorem Blk.givePool_joins {k : Nat} {a : Blk} (hbags : bags = [(k, ords)]) (hlen : l.length = 8 + upTo 8 (b.sq c q).laneBytes)
    (ha : a = (b.freeRemote c q false ords).updCmd (b.sq c q).owner (fun x => x.addCounts (qw m.body 0))) :
    b.givePool r m c q bags = a.joinRec c q k ords l := by
  have hone : (8 + upTo 8 (b.sq c q).laneBytes) * bags.length = l.length := by rw [hbags, hlen]; simp
  rw [Blk.givePool_goesOn hl hords hend hst hcmd, hone, if_neg (by simp), ← ha, hbags, ← hlen]
  simp only [Blk.joinAll, List.take_length]

end pool

section join
variable (b : Blk) (c q k : Nat) (ords : List Nat) (l : List Byte)

theorem Blk.joinRec_poisoned (hfailed : (b.sq c q).hasFailed k = false) (hbad : leNat ((l.drop 4).take 1) = 0x40) :
    b.joinRec c q k ords l = ords.foldl (fun b e => b.deliver c q e k none) (b.failBag c q k 0x40 0xFFFFFFFFFFFFFFFF) := by
  simp only [Blk.joinRec, hfailed, hbad]
  rfl

theorem Blk.joinRec_failed (hfailed : (b.sq c q).hasFailed k = true) :
    b.joinRec c q k ords l = ords.foldl (fun b e => b.deliver c q e k none) b := by
  simp only [Blk.joinRec, hfailed]
  rfl

end join

theorem Blk.updSq_congr {b : Blk} {c q : Nat} {f g : SQ → SQ} (h : f (b.sq c q) = g (b.sq c q)) : b.updSq c q f = b.updSq c q g := by
  refine Blk.updCore_congr ?_
  rw [Core.updSq, Core.updSq]
  rw [show f ((b.core c).sq q) = g ((b.core c).sq q) from h]

section grad
variable {b a : Blk} {r : LReq} {c q n : Nat} {ords : List (Nat × Nat)}

theorem Blk.giveGrad_ended (hend : (b.sq c q).ended = true) : b.giveGrad r c q n ords = b := by
  simp only [Blk.giveGrad, hend]
  rfl

variable (ha : a = b.updSq c q (fun x => { x with nulls := x.nulls + n })) (hend : (b.sq c q).ended = false) (hst : (b.sq c q).st = .active)
  (hcmd : r.cmd = some (b.sq c q).owner)
include ha hend hst hcmd

theorem Blk.giveGrad_none : b.giveGrad r c q n [] = a.scatEnd c q { blocks := [] } := by
  subst ha
  simp only [Blk.giveGrad, hend, hst, hcmd]
  simp

theorem Blk.giveGrad_one {o u : Nat} {x : Elem} (hmode : (b.sq c q).elemMode = false) (hx : (b.sq c q).flight.find? (fun y => y.ord = o) = some x) :
    b.giveGrad r c q n [(o, u)] =
      (((a.updSq c q (fun y => y)).scatSettled c q x (((a.sq c q).bagOf o).getD 0)).scatEnd c q { blocks := [] }) := by
  have hflight : (a.sq c q).flight.find? (fun y => y.ord = o) = some x := by rw [ha, Blk.sq_updSq_same]; exact hx
  have hmode' : (a.sq c q).elemMode = false := by rw [ha, Blk.sq_updSq_same]; exact hmode
  have hkeep : a.updSq c q (fun s => { s with grads := if s.elemMode then s.grads.filter (fun g => g.1 ≠ o) else s.grads }) =
      a.updSq c q (fun y => y) := Blk.updSq_congr (by simp [hmode'])
  rw [← hkeep]
  subst ha
  simp only [Blk.giveGrad, hend, hst, hcmd, List.foldl_cons, List.foldl_nil, hflight]
  simp

end grad

/-- Each event of a response takes it by its type. -/
theorem exec_response {s : State} {p : Fin 8} {ev : Instr} {ty : Nat}
    (hev : (ev, ty) ∈ [(Instr.rdResp p, 0x81), (.wrAck p, 0x82), (.rpoolResp p, 0x83), (.rgradAck p, 0x84), (.asigAck p, 0x85)]) :
    ∃ f : Blk → LReq → LMsg → Blk, ∀ b', s.blk.response p ty f = b' → exec ev s = .next (s.withBlk b') := by
  simp only [List.mem_cons, Prod.mk.injEq, List.not_mem_nil, or_false] at hev
  obtain ⟨rfl, rfl⟩ | ⟨rfl, rfl⟩ | ⟨rfl, rfl⟩ | ⟨rfl, rfl⟩ | ⟨rfl, rfl⟩ := hev
  · exact ⟨_, fun _ h => exec_next_congr (i := .rdResp p) rfl h⟩
  · exact ⟨_, fun _ h => exec_next_congr (i := .wrAck p) rfl h⟩
  · exact ⟨_, fun _ h => exec_next_congr (i := .rpoolResp p) rfl h⟩
  · exact ⟨_, fun _ h => exec_next_congr (i := .rgradAck p) rfl h⟩
  · exact ⟨_, fun _ h => exec_next_congr (i := .asigAck p) rfl h⟩

section gives
variable {s : State} {p : Fin 8} {i : Nat} {m : LMsg} {r : LReq} {b b' : Blk}

theorem exec_rdResp_gives {c j k : Nat} (hr : ResponseIs s.blk p i 0x81 m r b) (hkind : r.kind = .read c j k)
    (hst : m.hi 0 8 = 0 ∨ m.hi 0 8 = 0x40) (h : b.giveRead r m c j k = b') : exec (.rdResp p) s = .next (s.withBlk b') := by
  refine exec_next_congr (i := .rdResp p) rfl ((Blk.response_open hr).trans ?_)
  rw [if_pos (by obtain hst | hst := hst <;> rw [hst] <;> rfl)]
  simp only [hkind, h]

theorem exec_rpoolResp_gives {c q : Nat} {bags : List (Nat × List Nat)} (hr : ResponseIs s.blk p i 0x83 m r b) (hok : m.hi 0 8 = 0)
    (hkind : r.kind = .rpool c q bags) (h : b.givePool r m c q bags = b') : exec (.rpoolResp p) s = .next (s.withBlk b') := by
  refine exec_next_congr (i := .rpoolResp p) rfl ((Blk.response_gives hr hok).trans ?_)
  simp only [hkind, h]

theorem exec_rgradAck_gives {c q node n : Nat} {ords : List (Nat × Nat)} (hr : ResponseIs s.blk p i 0x84 m r b) (hok : m.hi 0 8 = 0)
    (hkind : r.kind = .rgrad c q node n ords) (h : b.giveGrad r c q n ords = b') : exec (.rgradAck p) s = .next (s.withBlk b') := by
  refine exec_next_congr (i := .rgradAck p) rfl ((Blk.response_gives hr hok).trans ?_)
  simp only [hkind, h]

end gives

/-- Settles O51: a response of the wrong length acts as 61h, as does the status 40h of a response that gives no data (log entry 109). -/
theorem responsesReachTheirRequests : Obligations.ResponsesReachTheirRequests := by
  intro s p i m
  refine ⟨fun ev ty hev => ?_, fun r b c j k t x l hr hkind ht hx => ?_, fun r b hr hok => ?_, fun r b c q bags l ords hr hok hkind hl hords => ?_,
    fun r b a c q node n ords hr hok hkind ha => ?_, fun r b hr hok => ?_, fun hhead hsub => ?_⟩
  · obtain ⟨f, hexec⟩ := exec_response (s := s) hev
    refine ⟨fun hhead hty hhere hi hnone => ?_, fun r b st hr hst hne hread => hexec _ (Blk.response_fails hr hst hne hread)⟩
    subst hi
    exact hexec _ (Blk.response_stray hhead hty hhere hnone)
  · exact ⟨fun hok hl hlen => exec_rdResp_gives hr hkind (.inl hok) (Blk.giveRead_data ht hx hok hl hlen),
      fun hok hl hlen => exec_rdResp_gives hr hkind (.inl hok) (Blk.giveRead_length ht hx hok hl hlen),
      fun hbad => exec_rdResp_gives hr hkind (.inr hbad) (Blk.giveRead_poison ht hx hbad)⟩
  · exact exec_next_congr (i := .wrAck p) rfl (Blk.response_gives hr hok)
  · refine ⟨fun hend => exec_rpoolResp_gives hr hok hkind (Blk.givePool_ended hords hend), fun hend hst hcmd =>
      ⟨fun hlen => exec_rpoolResp_gives hr hok hkind (Blk.givePool_length hl hords hend hst hcmd hlen), fun k a hbags hlen ha => ?_⟩⟩
    exact ⟨exec_rpoolResp_gives hr hok hkind (Blk.givePool_joins hl hords hend hst hcmd hbags hlen ha),
      fun hfailed hbad => a.joinRec_poisoned c q k ords l hfailed hbad, fun hfailed => a.joinRec_failed c q k ords l hfailed⟩
  · refine ⟨fun hend => exec_rgradAck_gives hr hok hkind (Blk.giveGrad_ended hend), fun hend hst hcmd => ⟨fun hnone => ?_, fun o u x hone hmode hx => ?_⟩⟩
    · subst hnone
      exact exec_rgradAck_gives hr hok hkind (Blk.giveGrad_none ha hend hst hcmd)
    · subst hone
      exact exec_rgradAck_gives hr hok hkind (Blk.giveGrad_one ha hend hst hcmd hmode hx)
  · have hgives {b' : Blk} (h : _ = b') : exec (.asigAck p) s = .next (s.withBlk b') :=
      exec_next_congr (i := .asigAck p) rfl ((Blk.response_gives hr hok).trans h)
    refine ⟨fun c t tag a hkind hcmd ha htag hsent => hgives ?_, fun c t tag hkind hcmd => hgives ?_, fun id hkind => hgives ?_⟩
    · have hany : (b.task c t).asigs.any (fun a => a.tag = tag && a.sent) = true :=
        List.any_eq_true.mpr ⟨a, ha, by rw [htag, hsent]; simp⟩
      simp only [hkind, hcmd, hany]
      simp
    · simp only [hkind, hcmd]
      simp
    · simp only [hkind]
  · refine exec_next_congr (i := .echoReply p) rfl ?_
    simp only [Blk.mgmt, hhead.on, hhead.swept, hhead.head, hsub]
    rfl

end Sys2Proof.Machine
end

section
/-! PROOFS. Requests of partner chips are served. -/
namespace Sys2Proof.Machine

/-! ### The request that is next to be taken (R394, R431) -/

/-- The head of pool k of port p is a request of a type for this chip that is not yet served. -/
def Blk.requestAt (b : Blk) (p ty k : Nat) : Bool :=
  match (b.port p).head k with
  | some m => decide (m.ty = ty) && (decide (ty = 6) || decide (m.dst = b.node)) && m.serving.isNone
  | none => false

theorem RequestIs.first {b : Blk} {p i ty : Nat} {m : LMsg} (h : RequestIs b p i ty m) : [0, 2].find? (b.requestAt p ty) = some i := by
  have hhere : (decide (ty = 6) || decide (m.dst = b.node)) = true := by simpa using h.here
  have hat : b.requestAt p ty i = true := by simp only [Blk.requestAt, h.head, h.typ, hhere, h.fresh]; simp
  obtain hi | ⟨hi, hother⟩ := h.pool
  · rw [hi] at hat ⊢
    rw [List.find?_cons_of_pos hat]
  · have hskip : b.requestAt p ty 0 = false := by
      unfold Blk.requestAt
      split
      · next y hy => simp [hother y hy]
      · rfl
    rw [hi] at hat ⊢
    rw [List.find?_cons_of_neg (by rw [hskip]; decide), List.find?_cons_of_pos hat]

section request
variable {b : Blk} {p i ty : Nat} {m : LMsg} {f : Blk → Nat → LMsg → Blk}

theorem Blk.request_scans (hissues : b.issues = true) (hon : b.portOn p = true) (hswept : b.sweepPort (b.port p).rx.length p = b) :
    b.request p ty f = match [0, 2].find? (b.requestAt p ty) with
      | none => b
      | some i => match (b.port p).head i with
        | none => b
        | some m => f b i m := by
  simp only [Blk.request, hissues, hon, hswept]
  rfl

theorem Blk.request_takes (h : RequestIs b p i ty m) : b.request p ty f = f b i m := by
  rw [Blk.request_scans h.issues h.on h.swept, h.first]
  simp only [h.head]

/-- An empty port gives no request. -/
theorem Blk.request_empty (hissues : b.issues = true) (hon : b.portOn p = true) (hrx : (b.port p).rx = []) : b.request p ty f = b := by
  have hat (k : Nat) : b.requestAt p ty k = false := by simp [Blk.requestAt, Port.head, hrx]
  have hnone : [0, 2].find? (b.requestAt p ty) = none := List.find?_eq_none.mpr fun k _ => by simp [hat k]
  rw [Blk.request_scans hissues hon (by rw [hrx]; rfl), hnone]

end request

/-! ### RD, WR and ASIG (R394, R401, R402) -/

theorem Blk.refuse_status (b : Blk) {m : LMsg} {ty rty st : Nat} (hty : m.ty = ty) (hrty : 0x80 + ty = rty) (hst : st ≠ 0x33) :
    b.refuse m st = b.lxRespond m.src rty m.tag st [] false := by
  rw [Blk.refuse, if_neg hst, hty, hrty]

/-- A request outside every window is counted. -/
theorem Blk.refuse_window (b : Blk) {m : LMsg} {ty rty : Nat} (hty : m.ty = ty) (hrty : 0x80 + ty = rty) :
    b.refuse m 0x33 = (b.inc 0x70110 1).lxRespond m.src rty m.tag 0x33 [] false := by
  rw [Blk.refuse, if_pos rfl, hty, hrty]

section rwtAddr
variable {b : Blk} {e : W64 × W64} {w perm off n : Nat} {enc : Bool} (he : e = b.rwt w)
include he

theorem Blk.rwtAddr_invalid (h : bit e.1 0 = false) : b.rwtAddr w perm off n enc = (0x33, 0) := by
  simp only [Blk.rwtAddr, ← he, h]; rfl

variable (hv : bit e.1 0 = true)
include hv

theorem Blk.rwtAddr_barred (h : bit e.1 perm = false) : b.rwtAddr w perm off n enc = (0x32, 0) := by
  simp only [Blk.rwtAddr, ← he, hv, h]; rfl

variable (hperm : bit e.1 perm = true)
include hperm

theorem Blk.rwtAddr_beyond (h : fld e.2 0 21 * 4096 < off + n) : b.rwtAddr w perm off n enc = (0x32, 0) := by
  simp only [Blk.rwtAddr, ← he, hv, hperm]
  simp [h]

theorem Blk.rwtAddr_inside (hopen : fld e.1 8 4 = 0) (h : off + n ≤ fld e.2 0 21 * 4096) (hpa : b.paRange (fld e.1 12 34 * 4096 + off) n = true) :
    b.rwtAddr w perm off n enc = (0, fld e.1 12 34 * 4096 + off) := by
  simp only [Blk.rwtAddr, ← he, hv, hperm, hpa, hopen]
  simp [Nat.not_lt.mpr h]

end rwtAddr

section rd
variable {b b1 : Blk} {p i w off n cr : Nat} {m : LMsg} {poison : Bool} (hb1 : b1 = b.consume p i) (hw : w = m.hi 0 12)
  (hoff : off = fld (qw m.words 2) 0 32) (hn : n = fld (qw m.words 2) 32 13)
include hb1 hw hoff hn

omit hw in
theorem Blk.serveRd_malformed (h : m.len ≠ 24 ∨ rwBad off n = true) : b.serveRd p i m poison = b1.refuse m 0x51 := by
  subst hb1 hoff hn
  simp only [Blk.serveRd]
  exact if_pos (by simpa using h)

/-- A well formed RD by what its window answers. -/
theorem Blk.serveRd_window (hlen : m.len = 24) (hrw : rwBad off n = false) {st pa : Nat} (h : b1.rwtAddr w 1 off n m.enc = (st, pa)) :
    (st ≠ 0 → b.serveRd p i m poison = b1.refuse m st) ∧
    (st = 0 → poison = true → b.serveRd p i m poison = b1.refuse m 0x40) ∧
    (st = 0 → poison = false → b1.devBad pa n = false → fld (b1.rwt w).1 8 4 = 0 →
      b.serveRd p i m poison = b1.lxRespond m.src 0x81 m.tag 0 (bytesWords n (b1.devRead 0 pa n)) false) := by
  subst hb1 hw hoff hn
  have hform : ¬ (decide (m.len ≠ 24) || rwBad (fld (qw m.words 2) 0 32) (fld (qw m.words 2) 32 13)) = true := by rw [hlen, hrw]; decide
  cases st with
  | zero =>
    refine ⟨fun hne => absurd rfl hne, fun _ hpoison => ?_, fun _ hclean hbad hkey => ?_⟩
    · simp only [Blk.serveRd, if_neg hform, h, hpoison]
      rfl
    · simp only [Blk.serveRd, if_neg hform, h, hclean, hbad, hkey]
      cases (b.consume p i).route m.src <;> rfl
  | succ k =>
    refine ⟨fun _ => ?_, fun hz => absurd hz (Nat.succ_ne_zero k), fun hz => absurd hz (Nat.succ_ne_zero k)⟩
    simp only [Blk.serveRd, if_neg hform, h]

omit hw in
theorem Blk.serveWr_malformed (h : m.len ≠ 24 + n ∨ rwBad off n = true) : b.serveWr p i m = b1.refuse m 0x51 := by
  subst hb1 hoff hn
  simp only [Blk.serveWr]
  exact if_pos (by simpa using h)

theorem Blk.serveWr_placed (hlen : m.len = 24 + n) (hrw : rwBad off n = false) {pa : Nat} (h : b1.rwtAddr w 2 off n m.enc = (0, pa)) :
    b.serveWr p i m = (b1.passWrite (fld (b1.rwt w).1 8 4) pa (wordBytes (m.words.drop 3))).lxRespond m.src 0x82 m.tag 0 [] false := by
  subst hb1 hw hoff hn
  simp only [Blk.serveWr, hlen, hrw, h]
  simp

end rd

/-! ### Multicasts (R400, R406) -/

section mcast
variable {b b1 : Blk} {p i : Nat} {m : LMsg} {e : W64} (hb1 : b1 = b.consume p i) (he : e = Tab.get 0 b1.lx.mc (m.hi 0 10))
include hb1 he

theorem Blk.serveMcast_closed (hv : bit e 9 = false) : b.serveMcast p i m = b1.inc 0x70118 1 := by
  subst hb1 he
  simp only [Blk.serveMcast, hv]
  rfl

variable (hv : bit e 9 = true)
include hv

/-- A write that this chip alone receives. -/
theorem Blk.serveMcast_local {pa : Nat} (hlocal : bit e 8 = true) (hnone : ∀ q, q < 8 → q ≠ p → bit e q = false) (hsub : m.hi 10 2 = 0)
    (h : b1.rwtAddr (fld (qw m.words 2) 0 12) 2 (fld (qw m.words 3) 0 32) (fld (qw m.words 3) 32 13) m.enc = (0, pa)) :
    b.serveMcast p i m = (b1.passWrite (fld (b1.rwt (fld (qw m.words 2) 0 12)).1 8 4) pa
      ((wordBytes (m.words.drop 4)).take (fld (qw m.words 3) 32 13))).inc 0x70220 1 := by
  have hports : (List.range 8).filter (fun q => q ≠ p && bit e q) = [] :=
    List.filter_eq_nil_iff.mpr fun q hq => by
      by_cases hqp : q = p
      · simp [hqp]
      · simp [hnone q (List.mem_range.mp hq) hqp]
  subst hb1
  simp only [Blk.serveMcast, ← he, hv, hlocal, Blk.mcForward, hports, Blk.mcDeliver, hsub, h]
  rfl

/-- A multicast that goes on by one port. -/
theorem Blk.serveMcast_passes {q : Nat} (hlocal : bit e 8 = false) (hq : q < 8) (hqp : q ≠ p) (hone : ∀ d, d < 8 → d ≠ p → (bit e d = true ↔ d = q)) :
    (m.hops = 0 → b.serveMcast p i m = b1.inc 0x70118 1) ∧
    (m.hops ≠ 0 → b1.portActive q = true → m.conf = false →
      b.serveMcast p i m = b1.lxPush q i (m.words.set 0 (putFld (qw m.words 0) 9 6 (m.hops - 1))) false none none) := by
  have hports : (List.range 8).filter (fun d => d ≠ p && bit e d) = [q] := by
    have heq : ∀ d ∈ List.range 8, (decide (d ≠ p) && bit e d) = decide (d = q) := fun d hd => by
      by_cases hdp : d = p
      · rw [hdp]; simp [Ne.symm hqp]
      · rw [Bool.eq_iff_iff]; simp [hdp, hone d (List.mem_range.mp hd) hdp]
    rw [List.filter_congr heq]
    interval_cases q <;> rfl
  subst hb1
  refine ⟨fun hhops => ?_, fun hhops hactive hconf => ?_⟩
  · simp only [Blk.serveMcast, ← he, hv, hlocal, Blk.mcForward, hports, hhops]
    rfl
  · simp only [Blk.serveMcast, ← he, hv, hlocal, Blk.mcForward, hports, hconf, List.foldl_cons, List.foldl_nil]
    simp [hhops, hactive]

end mcast

/-! ### RPOOL and RGRAD (R395 to R399) -/

/-- The command that serves request m, which came in on port p. -/
def Blk.serving (b : Blk) (p : Nat) (m : LMsg) (isPool : Bool) : Served :=
  { port := p, src := m.src, tag := m.tag, isPool := isPool, words := m.words, table := fld (b.rwt (m.hi 0 12)).2 48 16
    conf := fld (b.rwt (m.hi 0 12)).1 8 4 ≠ 0 }

theorem Blk.servePool_refused {b : Blk} {p i : Nat} {m : LMsg} (h : b.poolWindow m ≠ 0) :
    b.servePool p i m = (b.consume p i).refuse m (b.poolWindow m) := by
  simp only [Blk.servePool]
  exact if_pos h

/-- A request that passes its window becomes a command. -/
theorem Blk.servePool_queued {b b2 : Blk} {p i c : Nat} {m : LMsg} {isPool : Bool} {y : Cmd} (hwin : b.poolWindow m = 0)
    (hty : m.ty = if isPool then 3 else 4) (hid : y.id = b.nextCmd)
    (hy : y = { id := y.id, ring := fld (b.rwt (m.hi 0 12)).2 32 6, cd := [0x800000000], served := some (b.serving p m isPool)
                dbase := (b.ring (fld (b.rwt (m.hi 0 12)).2 32 6)).dbase, dcount := (b.ring (fld (b.rwt (m.hi 0 12)).2 32 6)).dcount })
    (hcore : b.chooseCore y = some c)
    (hb2 : b2 = (if isPool then (b.consume p i).inc 0x70208 1 else b.updPort p (fun z => { z with rx := z.rx.map (fun e =>
      if e.1 = i && e.2 = m then (e.1, { e.2 with serving := some y.id }) else e) }))) :
    b.servePool p i m = ({ b2 with cmds := b2.cmds ++ [y], nextCmd := b.nextCmd + 1, sec := { b2.sec with zero := false } } : Blk).enqueue y.id c false := by
  have hpool : decide (m.ty = 3) = isPool := by rw [hty]; cases isPool <;> rfl
  rw [hid] at hy hb2 ⊢
  subst hy hb2
  simp only [Blk.serving, ← hpool] at hcore
  simp only [Blk.servePool, hwin, hcore, Blk.serving, ← hpool]
  rfl

/-- The command is a served one of port p that has not begun. -/
def Cmd.startsAt (y : Cmd) (p : Nat) (isPool : Bool) : Bool :=
  match y.served with
  | some x => decide (x.port = p) && decide (x.isPool = isPool) && !y.begun
  | none => false

theorem Cmd.startsAt_served (y : Cmd) (p : Nat) (isPool : Bool) : (y.startsAt p isPool && y.served.isSome) = y.startsAt p isPool := by
  unfold Cmd.startsAt
  cases y.served <;> simp

/-- The only served command of the block, which came in on port p, may start. -/
theorem Blk.servedAll_one {b : Blk} {p id : Nat} {isPool : Bool} {rd : View} {y : Cmd} {x : Served} (hcmd : b.cmd id = some y)
    (hone : b.cmds.filter (fun z => z.served.isSome) = [y]) (hx : y.served = some x) (hbegun : y.begun = false) (hport : x.port = p)
    (hpool : x.isPool = isPool) : b.servedAll p isPool rd = b.servedGo id rd := by
  have hstarts : y.startsAt p isPool = true := by simp [Cmd.startsAt, hx, hport, hpool, hbegun]
  have hlist : b.cmds.filter (fun z => z.startsAt p isPool) = [y] := by
    have hsub := congrArg (List.filter (fun z => z.startsAt p isPool)) hone
    simpa only [List.filter_filter, Cmd.startsAt_served, List.filter_singleton, hstarts, cond_true] using hsub
  have hall : b.servedAll p isPool rd = ((b.cmds.filter (fun z => z.startsAt p isPool)).map (fun z => z.id)).foldl (fun b id => b.servedGo id rd) b := rfl
  rw [hall, hlist, ← Cmd.id_of_cmd hcmd]
  rfl

section go
variable {b b' : Blk} {id c t : Nat} {rd : View} {y : Cmd} {x : Served} {tab : TableCopy} (hcmd : b.cmd id = some y) (hx : y.served = some x)
  (hbegun : y.begun = false) (hending : y.ending = false) (hpark : y.park = none) (hheld : y.held = some (c, t)) (hissues : b.unitIssues c = true)
  (hhalt : b.dbgHalted c = false) (hrun : (b.task c t).st = .running) (htable : b.servedTable id rd x.table = (b', .ok tab))
include hcmd hx hbegun hending hpark hheld hissues hhalt hrun htable

theorem Blk.servedGo_starts (hgood : x.bad b' tab = none) :
    b.servedGo id rd = (b'.updCmd id (fun z => { z with begun := true })).servedBind y x c t tab := by
  simp only [Blk.servedGo, hcmd, hx, hheld, hbegun, hending, hpark, hissues, hhalt, hrun, htable, hgood]
  rfl

theorem Blk.servedGo_fails {st : Nat} (hbad : x.bad b' tab = some st) : b.servedGo id rd = b'.failCmd id st := by
  simp only [Blk.servedGo, hcmd, hx, hheld, hbegun, hending, hpark, hissues, hhalt, hrun, htable, hbad]
  rfl

end go

/-! ### The response of a served command (R396) -/

theorem Blk.servedReply_cases (b : Blk) (z : Cmd) (x : Served) :
    (z.ending = true → b.servedReply z x = b.lxRespond x.src (if x.isPool then 0x83 else 0x84) x.tag (z.fail.getD 0x7F) [] false) ∧
    (z.ending = false → x.isPool = false → b.servedReply z x = b.lxRespond x.src 0x84 x.tag 0 [BitVec.ofNat 64 z.applied] false) ∧
    (z.ending = false → x.isPool = true → x.conf = false → b.servedReply z x = b.lxRespond x.src 0x83 x.tag 0 (z.poolReply x) false) := by
  refine ⟨fun hend => ?_, fun hend hpool => ?_, fun hend hpool hconf => ?_⟩
  · simp only [Blk.servedReply, hend, if_true]
  · simp only [Blk.servedReply, hend, hpool]; rfl
  · simp only [Blk.servedReply, hend, hpool, hconf]
    cases b.route x.src <;> rfl

theorem Blk.servedSend_ends {b b' : Blk} {id : Nat} {y z : Cmd} {x : Served} (hcmd : b.cmd id = some y) (hx : y.served = some x) (hlive : b.live = true)
    (hcore : ∀ c t, y.held = some (c, t) → b.coreRst c = false) (hwrites : b.writesDone id = true) (hpass : b.hasPass y (fun q => q.owner = id) = false)
    (hdone : y.begun = true ∨ y.ending = true) (hpark : y.park = none ∨ y.ending = true) (htotals : b.addTotals y = (b', true))
    (hcmd' : b'.cmd id = some z) {b2 : Blk} (hb2 : b2 = { (b'.servedReply z x).release z with cmds := ((b'.servedReply z x).release z).cmds.filter (fun y => y.id ≠ id) }) :
    b.servedSend id = b2.sweepPort ((b2.port x.port).rx.length) x.port := by
  subst hb2
  have hbegun : (y.begun || y.ending) = true := by simpa using hdone
  have hfree : (y.park.isSome && !y.ending) = false := by obtain h | h := hpark <;> simp [h]
  simp only [Blk.servedSend, hcmd, hx, hlive, hwrites, hpass, hbegun, hfree]
  rw [if_neg ?_]
  · simp only [htotals, hcmd']
  · cases hheld : y.held with
    | none => simp
    | some e => simp [hcore e.1 e.2 hheld]

theorem exec_request {s : State} {p : Fin 8} {isPool : Bool} {rd : View} {ev : Instr} (hev : ev = (if isPool then .rpool p rd else .rgrad p rd)) :
    exec ev s = .next (s.withBlk ((s.blk.request p (if isPool then 3 else 4) (fun b i m => b.servePool p i m)).servedAll p isPool rd)) := by
  subst hev
  cases isPool
  · exact exec_next_congr (i := .rgrad p rd) rfl rfl
  · exact exec_next_congr (i := .rpool p rd) rfl rfl

/-- Settles O50: malformed requests are answered with 51h (log entry 108). -/
theorem partnerRequestsAreServed : Obligations.PartnerRequestsAreServed := by
  intro s p i m b1 hb1
  refine ⟨fun w off n cr pa hw hoff hn hcr => ⟨fun hreq => ?rd, fun hreq => ?wr⟩, fun e w off n pm he hv hperm hkey =>
    ⟨fun hout => Blk.rwtAddr_beyond he hv hperm hout, fun hin hpa => Blk.rwtAddr_inside he hv hperm hkey hin hpa⟩, fun hreq hlen hact => ?asig,
    fun e hreq he => ?mcast, fun isPool rd ev ty hev hty => ?pool, fun id y z x b hcmd hx hlive hcore hwrites hpass hdone hpark htotals hz => ?send,
    fun hhead hsub hi => ?echo⟩
  case rd =>
    subst hcr
    have hstep (poison : Bool) {b' : Blk} (h : s.blk.serveRd p i m poison = b') : exec (.rdMsg p poison) s = .next (s.withBlk b') :=
      exec_next_congr (i := .rdMsg p poison) rfl ((Blk.request_takes hreq).trans h)
    have hwindow (poison : Bool) (hlen : m.len = 24) (hrw : rwBad off n = false) {st pa : Nat} (h : b1.rwtAddr w 1 off n m.enc = (st, pa)) :=
      Blk.serveRd_window (poison := poison) hb1 hw hoff hn hlen hrw h
    have hrefuse {st : Nat} (hst : st ≠ 0x33) := b1.refuse_status hreq.typ (rty := 0x81) rfl hst
    refine ⟨fun poison hbad => hstep poison ((Blk.serveRd_malformed hb1 hoff hn hbad).trans (hrefuse (by decide))),
      fun poison hlen hrw hv => hstep poison (((hwindow poison hlen hrw (Blk.rwtAddr_invalid rfl hv)).1 (by decide)).trans (b1.refuse_window hreq.typ rfl)),
      fun poison hlen hrw hv hperm => hstep poison (((hwindow poison hlen hrw (Blk.rwtAddr_barred rfl hv hperm)).1 (by decide)).trans (hrefuse (by decide))),
      fun hlen hrw haddr => ⟨hstep true (((hwindow true hlen hrw haddr).2.1 rfl rfl).trans (hrefuse (by decide))),
        fun hclean hkey => hstep false ((hwindow false hlen hrw haddr).2.2 rfl rfl hclean hkey)⟩⟩
  case wr =>
    subst hcr
    have hstep {b' : Blk} (h : s.blk.serveWr p i m = b') : exec (.wrMsg p) s = .next (s.withBlk b') :=
      exec_next_congr (i := .wrMsg p) rfl ((Blk.request_takes hreq).trans h)
    exact ⟨fun hbad => hstep ((Blk.serveWr_malformed hb1 hoff hn hbad).trans (b1.refuse_status hreq.typ rfl (by decide))),
      fun hlen hrw haddr => hstep (Blk.serveWr_placed hb1 hw hoff hn hlen hrw haddr)⟩
  case asig =>
    subst hb1
    refine exec_next_congr (i := .remoteAsig p) rfl ((Blk.request_takes hreq).trans ?_)
    simp only [Blk.serveAsig, hlen]
    exact if_neg (by simpa using hact)
  case mcast =>
    have hstep {b' : Blk} (h : s.blk.serveMcast p i m = b') : exec (.mcast p) s = .next (s.withBlk b') :=
      exec_next_congr (i := .mcast p) rfl ((Blk.request_takes hreq).trans h)
    refine ⟨fun hv => hstep (Blk.serveMcast_closed hb1 he hv),
      fun pa hv hlocal hnone hsub haddr => hstep (Blk.serveMcast_local hb1 he hv hlocal hnone hsub haddr), fun q hv hlocal hq hqp hone => ?_⟩
    obtain ⟨hlost, hpasses⟩ := Blk.serveMcast_passes hb1 he hv hlocal hq hqp hone
    exact ⟨fun hhops => hstep (hlost hhops), fun hhops hactive hconf => hstep (hpasses hhops hactive hconf)⟩
  case pool =>
    have hexec := exec_request (s := s) hev
    rw [← hty] at hexec
    refine ⟨fun hreq hwin => ?_, fun x y c b2 hreq hwin hx hid hserved hring hcd hy hcore hb2 => ?_,
      fun id c t y x b tab hissues hon hrx hcmd hone hx hbegun hending hpark hheld hup hhalt hrun hport hpool htable => ?_⟩
    · rw [hexec, Blk.request_takes hreq, Blk.servePool_refused hwin, hb1]
    · rw [hexec, Blk.request_takes hreq, Blk.servePool_queued (b2 := b2) hwin (hreq.typ.trans hty) hid ?_ hcore (by rw [hb2, hb1])]
      rw [hring, hcd, hx] at hy
      exact hy
    · have hunit : s.blk.unitIssues c = true := by rw [Blk.unitIssues, hissues, hup]; rfl
      have hgo : exec ev s = .next (s.withBlk (s.blk.servedGo id rd)) := by
        rw [hexec, Blk.request_empty hissues hon hrx, Blk.servedAll_one hcmd hone hx hbegun hport hpool]
      exact ⟨fun hgood => hgo.trans (by rw [Blk.servedGo_starts hcmd hx hbegun hending hpark hheld hunit hhalt hrun htable hgood]),
        fun st hbad => hgo.trans (by rw [Blk.servedGo_fails hcmd hx hbegun hending hpark hheld hunit hhalt hrun htable hbad])⟩
  case send =>
    exact ⟨_, _, exec_next_congr (i := .servedResponseSend id) rfl
      (Blk.servedSend_ends hcmd hx hlive hcore hwrites hpass hdone hpark htotals hz rfl), rfl, b.servedReply_cases z x⟩
  case echo =>
    subst hb1 hi
    refine exec_next_congr (i := .echo p) rfl ?_
    simp only [Blk.mgmt, hhead.on, hhead.swept, hhead.head, hsub]
    rw [if_neg (by decide), if_pos trivial]

end Sys2Proof.Machine
end

section
/-! PROOFS. Power-on, block, core and link resets. -/
namespace Sys2Proof.Machine

/-- A block reset during the scrub that follows the clearing of the last region key (R458) leaves device memory to read as zero. -/
theorem Blk.blkReset_scrubbing {b : Blk} (cause : Nat) (hst : b.pwr.st ≠ .off) (hrst : b.pwr.rst ≠ .por) (hscrub : b.sec.scrub = true) :
    (b.blkReset cause).sec.zero = true := by
  have hno : ¬ (decide (b.pwr.st = .off) || decide (b.pwr.rst = .por)) = true := by simp [hst, hrst]
  rw [Blk.blkReset, if_neg hno]
  simp [Blk.guarded, hscrub]

/-- Refutes O53: the statement takes `zero` from the region keys that are left, but a block reset also sets it where none is left and the
scrub of the last one's clearing still runs. -/
theorem not_resetsLeaveWhatTheyKeep : ¬ Obligations.ResetsLeaveWhatTheyKeep := by
  intro h
  obtain ⟨-, -, -, -, hreset, -⟩ := h { blk := { sec := { keys := [], busy := true, scrub := true, zero := false }, pwr := { st := .run, rst := .none } }, pending := [] }
  have hkept := (hreset 2).2 (by decide) (by decide)
  have hzero := Blk.blkReset_scrubbing (b := { sec := { keys := [], busy := true, scrub := true, zero := false }, pwr := { st := .run, rst := .none } }) 2
    (by decide) (by decide) rfl
  rw [hkept] at hzero
  exact absurd hzero (by decide)

end Sys2Proof.Machine
end

section
/-! PROOFS. Region and link keys, and the scrub. -/
namespace Sys2Proof.Machine

/-! ### A write of CK_SEC_KCMD (R449, R466) -/

/-- The block after a commit: CK_SEC_KDATA is zero. -/
def Blk.committed (b : Blk) : Blk := { b with sec := { b.sec with kdata := [] } }

theorem Blk.kcmdWrite_ignored {b : Blk} {v : W64} (h : b.regOpen 0x80008 = false ∨ b.sec.busy = true ∨ fld v 0 2 = 0 ∨ fld v 0 2 = 3) :
    b.kcmdWrite .full v = b := by
  unfold Blk.kcmdWrite
  split
  · rfl
  · next hopen =>
    simp only [Bool.or_eq_true, Bool.not_eq_true', not_or, Bool.not_eq_false, Bool.not_eq_true] at hopen
    obtain ⟨⟨ho, -⟩, hbusy⟩ := hopen
    obtain h | h | h | h := h
    · exact absurd (h.symm.trans ho) (by decide)
    · exact absurd (hbusy.symm.trans h) (by decide)
    · simp only [h]
    · simp only [h]

section commit
variable {b : Blk} {v : W64} (ho : b.regOpen 0x80008 = true) (hbusy : b.sec.busy = false)
include ho hbusy

theorem Blk.kcmdWrite_loadRegion (hop : fld v 0 2 = 1) (hlink : bit v 2 = false) : b.kcmdWrite .full v = (b.loadRegion (fld v 4 4)).committed := by
  simp only [Blk.kcmdWrite, ho, hbusy, hop, hlink]
  rfl

theorem Blk.kcmdWrite_clearRegion (hop : fld v 0 2 = 2) (hlink : bit v 2 = false) : b.kcmdWrite .full v = (b.clearRegion (fld v 4 4)).committed := by
  simp only [Blk.kcmdWrite, ho, hbusy, hop, hlink]
  rfl

theorem Blk.kcmdWrite_loadLink (hop : fld v 0 2 = 1) (hlink : bit v 2 = true) :
    b.kcmdWrite .full v = (b.loadLink (fld v 8 3) (bit v 11)).committed := by
  simp only [Blk.kcmdWrite, ho, hbusy, hop, hlink]
  rfl

theorem Blk.kcmdWrite_clearLink (hop : fld v 0 2 = 2) (hlink : bit v 2 = true) :
    b.kcmdWrite .full v = (b.clearLink (fld v 8 3) (bit v 11)).committed := by
  simp only [Blk.kcmdWrite, ho, hbusy, hop, hlink]
  rfl

end commit

/-! ### Keys of regions (R448, R458) -/

section region
variable {b : Blk} {r : Nat}

theorem Blk.loadRegion_refused (h : r = 0 ∨ b.active r = true ∨ b.kdataNat 0 4 = b.kdataNat 4 4) : b.loadRegion r = b.kerr :=
  if_pos (by simpa [or_assoc] using h)

theorem Blk.loadRegion_loads (hr : r ≠ 0) (hkey : b.active r = false) (hdata : b.kdataNat 0 4 ≠ b.kdataNat 4 4) :
    b.loadRegion r = { b with sec := { b.sec with keys := Tab.set 0 b.sec.keys r (BitVec.ofNat 512 (b.kdataNat 0 8)) } } :=
  if_neg (by simp [hr, hkey, hdata])

variable {last : Bool} (hlast : last = true ↔ ∀ e ∈ b.sec.keys, e.1 = r)
include hlast

theorem Blk.last_eq : b.sec.keys.all (fun e => e.1 = r) = last := by
  rw [Bool.eq_iff_iff, hlast]; simp

theorem Blk.clearRegion_refused (h : b.active r = false ∨ b.cmdsOpen = true ∨ (last = true ∧ b.coOpen = true)) : b.clearRegion r = b.kerr := by
  simp only [Blk.clearRegion, Blk.last_eq hlast]
  exact if_pos (by simpa [or_assoc] using h)

theorem Blk.clearRegion_clears (hkey : b.active r = true) (hcmds : b.cmdsOpen = false) (hco : last = false ∨ b.coOpen = false) : b.clearRegion r =
    { b with
      sec := { b.sec with keys := Tab.del b.sec.keys r, busy := true, scrub := last }
      l2 := b.l2.filter (fun t => t.cr ≠ r)
      l1 := b.l1.foldl (fun a e => Tab.set [] a e.1 (e.2.filter (fun t => t.cr ≠ r))) []
      rc := { b.rc with inv := true } } := by
  have hno : ¬ (!b.active r || b.cmdsOpen || (last && b.coOpen)) = true := by
    obtain h | h := hco <;> simp [hkey, hcmds, h]
  simp only [Blk.clearRegion, Blk.last_eq hlast, if_neg hno]

end region

/-- A region whose key is gone is not active. -/
theorem active_del (keys : Tab (BitVec 512)) (r : Nat) : (Tab.del keys r).any (fun p => p.1 == r) = false := by
  rw [List.any_eq_false]
  intro e he
  simp [Tab.del_keys keys r e he]

/-! ### Keys of links (R455) -/

section link
variable {b : Blk} {p : Nat} {sl : Bool}

theorem Blk.loadLink_refused (h : b.build.litha ≤ p ∨ ((b.port p).key sl).isSome = true ∨ b.kdataNat 4 4 ≠ 0) : b.loadLink p sl = b.kerr :=
  if_pos (by simpa [or_assoc] using h)

theorem Blk.loadLink_loads (hp : p < b.build.litha) (hkey : ((b.port p).key sl).isSome = false) (hdata : b.kdataNat 4 4 = 0) :
    b.loadLink p sl = b.setKey p sl (some { key := BitVec.ofNat 256 (b.kdataNat 0 4) }) :=
  if_neg (by simp only [hkey, hdata]; simpa using hp)

theorem Blk.clearLink_refused (h : b.build.litha ≤ p ∨ (b.port p).key sl = none ∨ (sl = b.txSlot p ∧ (b.port p).st = .active)) :
    b.clearLink p sl = b.kerr :=
  if_pos (by simpa [or_assoc] using h)

theorem Blk.clearLink_clears (hp : p < b.build.litha) (hkey : ((b.port p).key sl).isSome = true)
    (huse : sl ≠ b.txSlot p ∨ (b.port p).st ≠ .active) : b.clearLink p sl = b.setKey p sl none :=
  if_neg (by
    have hsome : ((b.port p).key sl).isNone = false := by rw [← Option.not_isSome, hkey]; rfl
    obtain h | h := huse <;> simp [hsome, h, hp])

theorem Blk.port_setKey_same (b : Blk) (p : Nat) (sl : Bool) (k : Option LinkKey) :
    (b.setKey p sl k).port p = if sl then { b.port p with k1 := k } else { b.port p with k0 := k } := by
  rw [Blk.setKey, Blk.port_updPort_same]

theorem Blk.port_setKey_other (b : Blk) {p q : Nat} (sl : Bool) (k : Option LinkKey) (h : q ≠ p) : (b.setKey p sl k).port q = b.port q := by
  rw [Blk.setKey, Blk.port_updPort_other _ _ h]

theorem Blk.setKey_frame (b : Blk) (p : Nat) (sl : Bool) (k : Option LinkKey) : { b.setKey p sl k with lx := b.lx } = b := by
  simp only [Blk.setKey, Blk.updPort]

theorem Blk.committed_kdata (b : Blk) : b.committed.sec.kdata = [] := rfl

theorem Blk.port_committed (b : Blk) (q : Nat) : b.committed.port q = b.port q := rfl

theorem Blk.committed_frame {b b' : Blk} (h : { b' with lx := b.lx } = b) : { b'.committed with lx := b.lx, sec := b.sec } = b :=
  (congrArg (fun z : Blk => { z with sec := b.sec }) h :)

/-- What a change of one key slot leaves. -/
theorem Blk.setKey_keeps (b : Blk) (p : Nat) (sl : Bool) (k : Option LinkKey) : ((b.setKey p sl k).committed.port p).key sl = k ∧
    ((b.setKey p sl k).committed.port p).key (!sl) = (b.port p).key (!sl) ∧ (∀ q, q ≠ p → (b.setKey p sl k).committed.port q = b.port q) ∧
    (b.setKey p sl k).committed.sec.kdata = [] ∧ { (b.setKey p sl k).committed with lx := b.lx, sec := b.sec } = b := by
  refine ⟨?_, ?_, fun q hq => (Blk.port_committed _ _).trans (b.port_setKey_other sl k hq), Blk.committed_kdata _, Blk.committed_frame (b.setKey_frame p sl k)⟩
  · rw [Blk.port_committed, Blk.port_setKey_same]; cases sl <;> rfl
  · rw [Blk.port_committed, Blk.port_setKey_same]; cases sl <;> rfl

end link

/-! ### The scrub (R457, R458) -/

/-- No core holds a received courier word. -/
theorem scrubbed_couIn (l : List (Nat × Core)) (t : Tab Core) (ht : ∀ k, (Tab.get {} t k).couIn = []) (k : Nat) :
    (Tab.get {} (l.foldl (fun t e => Tab.set {} t e.1 e.2.scrubbed) t) k).couIn = [] := by
  induction l generalizing t with
  | nil => exact ht k
  | cons e l ih =>
    refine ih _ fun j => ?_
    by_cases hj : j = e.1
    · rw [hj, Tab.get_set_same]; rfl
    · rw [Tab.get_set_other _ _ _ _ hj]; exact ht j

/-- The replay and receive buffers of a port are empty. -/
def Port.emptied (x : Port) : Prop := x.replayBuf = [] ∧ x.rx = [] ∧ x.rxBytes = []

theorem Port.owe_emptied {x : Port} (h : x.emptied) (i n : Nat) : (x.owe i n).emptied := h

theorem Port.scrubbed_emptied (x : Port) : x.scrubbed.emptied := by
  have howe (l : List (Nat × Nat)) (y : Port) (hy : y.emptied) : (l.foldl (fun x f => x.owe f.1 1) y).emptied := by
    induction l generalizing y with
    | nil => exact hy
    | cons f l ih => exact ih _ (Port.owe_emptied hy f.1 1)
  exact howe x.rxFlits _ ⟨rfl, rfl, rfl⟩

/-- Every port that is scrubbed has its buffers empty, and nothing but the ports is changed. -/
theorem foldl_scrubbed (l : List Nat) (b : Blk) : (∀ q, q ∈ l ∨ (b.port q).emptied → ((l.foldl (fun b p => b.updPort p Port.scrubbed) b).port q).emptied) ∧
    ∃ x, l.foldl (fun b p => b.updPort p Port.scrubbed) b = { b with lx := x } := by
  induction l generalizing b with
  | nil => exact ⟨fun q h => h.resolve_left List.not_mem_nil, b.lx, rfl⟩
  | cons p l ih =>
    obtain ⟨hports, x, hx⟩ := ih (b.updPort p Port.scrubbed)
    refine ⟨fun q hq => hports q ?_, x, hx⟩
    by_cases hqp : q = p
    · right; rw [hqp, Blk.port_updPort_same]; exact Port.scrubbed_emptied _
    · rw [Blk.port_updPort_other _ _ hqp]
      exact hq.imp_left fun h => (List.mem_cons.mp h).resolve_left hqp

theorem Blk.kerr_committed (b : Blk) : b.kerr.committed = { b.setFld 0x80000 18 1 1 with sec := { b.sec with kdata := [] } } := rfl

/-- Each event of a commit is a write of CK_SEC_KCMD. -/
theorem exec_commit {s : State} {v : W64} {ev : W64 → Instr} (hev : ev ∈ [Instr.keyLoadRegion, .keyClearRegion, .keyLoadLink, .keyClearLink]) :
    exec (ev v) s = .next (s.withBlk (s.blk.kcmdWrite .full v)) := by
  simp only [List.mem_cons, List.not_mem_nil, or_false] at hev
  obtain rfl | rfl | rfl | rfl := hev
  · exact exec_next_congr (i := .keyLoadRegion v) rfl rfl
  · exact exec_next_congr (i := .keyClearRegion v) rfl rfl
  · exact exec_next_congr (i := .keyLoadLink v) rfl rfl
  · exact exec_next_congr (i := .keyClearLink v) rfl rfl

/-- Settles O54: a clear of a region is refused while commands are open, served ones apart, and a scrub drops what links hold (log entry 116). -/
theorem keysAreCommitted : Obligations.KeysAreCommitted := by
  rintro s v r p sl a rfl rfl rfl ha
  refine ⟨fun ev hev => ?commit, fun hlive => ⟨fun hbusy hinv hscrub => ?done, fun h => ?waits, fun hscrub => ?none, fun hscrub => ?scrub⟩⟩
  case commit =>
    have hstep {b' : Blk} (h : s.blk.kcmdWrite .full v = b') : exec (ev v) s = .next (s.withBlk b') := (exec_commit hev).trans (by rw [h])
    have herr {c : Blk} (h : c = s.blk.kerr) : c.committed = a := by rw [h, ha, Blk.kerr_committed]
    refine ⟨fun h => hstep (b' := s.blk) (Blk.kcmdWrite_ignored h), fun ho hbusy => ⟨fun hop hlink => ?_, fun last hop hlink hlast => ?_,
      fun hop hlink => ?_, fun hop hlink => ?_⟩⟩
    · have hwrite := Blk.kcmdWrite_loadRegion ho hbusy hop hlink
      refine ⟨fun h => hstep (hwrite.trans (herr (Blk.loadRegion_refused h))), fun hr hkey hdata => hstep (hwrite.trans ?_)⟩
      rw [Blk.loadRegion_loads hr hkey hdata]
      simp only [Blk.committed]
    · have hwrite := Blk.kcmdWrite_clearRegion ho hbusy hop hlink
      refine ⟨fun h => hstep (hwrite.trans (herr (Blk.clearRegion_refused hlast h))), fun hkey hcmds hco =>
        ⟨_, hstep (hwrite.trans (congrArg Blk.committed (Blk.clearRegion_clears hlast hkey hcmds hco))), ?_, ?_, rfl, rfl, rfl⟩⟩
      · exact Bool.and_eq_false_imp.mpr fun _ => active_del s.blk.sec.keys (fld v 4 4)
      · exact fun t ht => of_decide_eq_true (List.mem_filter.mp ht).2
    · have hwrite := Blk.kcmdWrite_loadLink ho hbusy hop hlink
      refine ⟨fun h => hstep (hwrite.trans (herr (Blk.loadLink_refused h))), fun hp hkey hdata =>
        ⟨_, hstep (hwrite.trans (congrArg Blk.committed (Blk.loadLink_loads hp hkey hdata))), s.blk.setKey_keeps _ _ _⟩⟩
    · have hwrite := Blk.kcmdWrite_clearLink ho hbusy hop hlink
      refine ⟨fun h => hstep (hwrite.trans (herr (Blk.clearLink_refused h))), fun hp hkey huse =>
        ⟨_, hstep (hwrite.trans (congrArg Blk.committed (Blk.clearLink_clears hp hkey huse))), s.blk.setKey_keeps _ _ _⟩⟩
  case done =>
    exact upd_onlyIf_true (g := fun b => b.live && b.sec.busy && !b.rc.inv && !b.sec.scrub) (fun b => { b with sec := { b.sec with busy := false } })
      (by rw [hlive, hbusy, hinv, hscrub]; rfl)
  case waits =>
    refine upd_id _ s (if_neg ?_)
    obtain h | h | h := h <;> simp [h]
  case none => exact upd_id _ s (if_neg (by simp [hscrub]))
  case scrub =>
    obtain ⟨hports, x, hx⟩ := foldl_scrubbed (List.range s.blk.build.litha) { s.blk with
      cores := s.blk.cores.foldl (fun t e => Tab.set {} t e.1 e.2.scrubbed) []
      rc := { s.blk.rc with lines := [], vict := [], sketch := [], incs := 0, clean := true }
      co := []
      sec := { s.blk.sec with scrub := false, zero := true } }
    refine ⟨s.blk.scrubDone, upd_onlyIf_true (g := fun b => b.live && b.sec.scrub) Blk.scrubDone (by rw [hlive, hscrub]; rfl), ?_⟩
    have hframe : s.blk.scrubDone = _ := hx
    refine ⟨by rw [hframe], by rw [hframe], by rw [hframe], by rw [hframe], by rw [hframe], by rw [hframe], fun e _ => ?_, fun q hq => ?_⟩
    · rw [hframe]
      exact scrubbed_couIn s.blk.cores [] (fun _ => rfl) e.1
    · exact hports q (.inl (List.mem_range.mpr hq))

end Sys2Proof.Machine
end

section
/-! PROOFS. The test access port, the debug access bus, halt and step. -/
namespace Sys2Proof.Machine

/-! ### The test access port (R459, R461) -/

theorem Blk.tap_off {b : Blk} (h : b.pwr.st = .off) (f : Debug → Debug) : b.tap f = b := if_pos h

theorem Blk.tap_on {b : Blk} (h : b.pwr.st ≠ .off) (f : Debug → Debug) : b.tap f = { b with dbg := f b.dbg } := if_neg h

/-! ### The debug access bus (R460, R463) -/

/-- What the debug port holds after a request that is answered with data d and tag t: the response to the request before it leaves. -/
def Debug.answered (old now : Debug) (d : W64) (t : Nat) : Debug :=
  { now with ir := .dabacc, dr := old.respData.toNat + old.respTag <<< 64, respData := d, respTag := t }

section dabacc
variable {s : State} {req : BitVec 105} (hpow : s.blk.pwr.st ≠ .off)
include hpow

theorem exec_dabacc_answers {c : Blk} {d : W64} {t : Nat}
    (h : s.blk.dab (fld req 0 40) (bit req 40) (req.extractLsb' 41 64) = (c.respond d t, false)) :
    exec (.dabacc req) s = .next (s.withBlk { c with dbg := s.blk.dbg.answered c.dbg d t }) := by
  have hexec : exec (.dabacc req) s = execDabacc req s := rfl
  rw [hexec, execDabacc]
  simp only [h, if_neg hpow]
  rfl

theorem exec_dabacc_refuses {c : Blk} (h : s.blk.dab (fld req 0 40) (bit req 40) (req.extractLsb' 41 64) = (c, true)) :
    exec (.dabacc req) s = .refused .debugStore := by
  have hexec : exec (.dabacc req) s = execDabacc req s := rfl
  rw [hexec, execDabacc]
  simp only [h, if_neg hpow]
  rfl

end dabacc

section dab
variable {b : Blk} {addr space core off : Nat} {wr : Bool} {v : W64} (haddr : addr < 2 ^ 40) (hspace : space = addr / 2 ^ 36)
  (hcore : core = addr / 2 ^ 33 % 8) (hoff : off = addr % 2 ^ 33)
include haddr hspace hcore hoff

theorem Blk.dab_cases : b.dab addr wr v =
    if !b.rb 0x90000 0 && !(space = 0 && wr && off = 0x90000) then (b.respond 0 3, false)
    else if space = 0 then (b.dabWindow off wr v, false)
    else if 5 < space || ((space = 2 || space = 3 || space = 4) && !b.coreOk core) then (b.respond 0 3, false)
    else if !b.clocked then (b.respond 0 2, false)
    else if !wr then (b.dabStore space off, false)
    else if b.guarded then (b.respond 0 1, false)
    else (b, true) := by
  have hmod : addr / 2 ^ 36 % 16 = space := by omega
  rw [Blk.dab]
  simp only [hmod, ← hcore, ← hoff]

/-- Detached, only a write of CK_DBG_CTRL is taken. -/
theorem Blk.dab_detached (hdet : b.rb 0x90000 0 = false) (hother : ¬ (space = 0 ∧ wr = true ∧ off = 0x90000)) :
    b.dab addr wr v = (b.respond 0 3, false) := by
  rw [Blk.dab_cases haddr hspace hcore hoff, hdet]
  have hno : (decide (space = 0) && wr && decide (off = 0x90000)) = false := by
    rw [Bool.eq_false_iff]
    simpa [and_assoc] using hother
  rw [hno]
  rfl

variable (hatt : b.rb 0x90000 0 = true)
include hatt

theorem Blk.dab_attached : b.dab addr wr v =
    if space = 0 then (b.dabWindow off wr v, false)
    else if 5 < space || ((space = 2 || space = 3 || space = 4) && !b.coreOk core) then (b.respond 0 3, false)
    else if !b.clocked then (b.respond 0 2, false)
    else if !wr then (b.dabStore space off, false)
    else if b.guarded then (b.respond 0 1, false)
    else (b, true) := by
  rw [Blk.dab_cases haddr hspace hcore hoff, hatt]
  exact if_neg (by simp)

theorem Blk.dab_window (hzero : space = 0) : b.dab addr wr v = (b.dabWindow off wr v, false) := by
  rw [Blk.dab_attached haddr hspace hcore hoff hatt, if_pos hzero]

theorem Blk.dab_absent (h : 5 < space ∨ ((space = 2 ∨ space = 3 ∨ space = 4) ∧ b.coreOk core = false)) :
    b.dab addr wr v = (b.respond 0 3, false) := by
  rw [Blk.dab_attached haddr hspace hcore hoff hatt, if_neg (by omega)]
  exact if_pos (by simpa [or_assoc] using h)

theorem Blk.dab_store (hlo : 1 ≤ space) (hhi : space ≤ 5) (hpresent : space = 1 ∨ space = 5 ∨ b.coreOk core = true) : b.dab addr wr v =
    if !b.clocked then (b.respond 0 2, false)
    else if !wr then (b.dabStore space off, false)
    else if b.guarded then (b.respond 0 1, false)
    else (b, true) := by
  have hno : ¬ (decide (5 < space) || ((decide (space = 2) || decide (space = 3) || decide (space = 4)) && !b.coreOk core)) = true := by
    simp only [Bool.or_eq_true, Bool.and_eq_true, decide_eq_true_eq, Bool.not_eq_true']
    rintro (h | ⟨h, hc⟩)
    · omega
    · obtain h' | h' | h' := hpresent
      · omega
      · omega
      · exact absurd (hc.symm.trans h') (by decide)
  rw [Blk.dab_attached haddr hspace hcore hoff hatt, if_neg (by omega), if_neg hno]

end dab

section window
variable {b : Blk} {off : Nat} {v : W64} (halign : off % 8 = 0) (hlt : off < 0x200000)
include halign hlt

theorem Blk.dabWindow_guarded (hg : b.guarded = true) (hdbg : isDbg off = false) : b.dabWindow off true v = b.respond 0 1 := by
  simp only [Blk.dabWindow, if_neg (Nat.not_le.mpr hlt), if_neg (not_not.mpr halign), hg, hdbg]
  rfl

theorem Blk.dabWindow_writes (h : b.guarded = false ∨ isDbg off = true) : b.dabWindow off true v = (b.regWrite off .full v true).respond 0 0 := by
  have hno : ¬ (b.guarded && !isDbg off) = true := by obtain h | h := h <;> simp [h]
  simp only [Blk.dabWindow, if_neg (Nat.not_le.mpr hlt), if_neg (not_not.mpr halign), if_neg hno]
  rfl

theorem Blk.dabWindow_reads (h : off < 0xA0000 ∨ 0xA0200 ≤ off) : b.dabWindow off false v = b.respond (b.regRead off) 0 := by
  have hout : (decide (0xA0000 ≤ off ∧ off < 0xA0200) && decide (off % 64 = 0)) = false := by
    rw [decide_eq_false (by omega), Bool.false_and]
  simp only [Blk.dabWindow, if_neg (Nat.not_le.mpr hlt), if_neg (not_not.mpr halign), hout]
  rfl

theorem Blk.dabWindow_courier (hlo : 0xA0000 ≤ off) (hhi : off < 0xA0200) (hfirst : off % 64 = 0) (hg : b.guarded = true)
    (hpresent : b.regPresent off = true) (hrst : b.resetting = false) : b.dabWindow off false v = b.respond 0 1 := by
  have hout : (decide (0xA0000 ≤ off ∧ off < 0xA0200) && decide (off % 64 = 0)) = true := by
    rw [decide_eq_true ⟨hlo, hhi⟩, decide_eq_true hfirst]; rfl
  simp only [Blk.dabWindow, if_neg (Nat.not_le.mpr hlt), if_neg (not_not.mpr halign), hout, hg, hpresent, hrst]
  rfl

end window

section store
variable {b : Blk} {space off : Nat}

theorem Blk.dabStore_guarded (hg : b.guarded = true) (h : space ≠ 4 ∨ Config.dabOpen off = false) : b.dabStore space off = b.respond 0 1 := by
  have hbar : (b.guarded && !(decide (space = 4) && Config.dabOpen off)) = true := by
    obtain h | h := h <;> simp [hg, h]
  exact if_pos hbar

theorem Blk.dabStore_open (hg : b.guarded = false) :
    b.dabStore space off = if b.sec.zero then b.respond 0 0 else b.freed.respond b.freeW 0 := by
  rw [Blk.dabStore, hg, Bool.false_and, if_neg Bool.false_ne_true]

end store

/-! ### CK_DBG_CTRL (R461, R464) -/

theorem wrOne_wake (h : Half) (v : W64) : wrOne h v 1 = true ↔ h ≠ .high ∧ bit v 1 = true := by
  cases h with
  | full =>
    rw [wrOne_full_bit v (by decide)]
    exact ⟨fun hv => ⟨Half.noConfusion, hv⟩, fun hv => hv.2⟩
  | low =>
    have hmask : (0xFFFFFFFF : W64).getLsbD 1 = true := by decide
    simp only [wrOne, halfVal, halfMask, bit, BitVec.testBit_toNat, BitVec.getLsbD_and, hmask, Bool.and_true]
    exact ⟨fun hv => ⟨Half.noConfusion, hv⟩, fun hv => hv.2⟩
  | high =>
    have hmask : bit (halfMask .high) 1 = false := by decide
    rw [wrOne, hmask, Bool.and_false]
    exact ⟨fun hv => absurd hv (by decide), fun hv => absurd rfl hv.1⟩

/-- CK_DBG_CTRL is there in every build. -/
theorem Blk.regPresent_dbgCtrl (b : Blk) : b.regPresent 0x90000 = true := by
  have hplace : (regAt 0x90000).map (fun x => (x.1.base, x.1.s1, x.1.isl)) = some (0x90000, 0, .K) := by decide +kernel
  obtain ⟨⟨r, i, j⟩, hr, hmap⟩ := Option.map_eq_some_iff.mp hplace
  simp only [Prod.mk.injEq] at hmap
  obtain ⟨hbase, hstep, hisl⟩ := hmap
  simp only [Blk.regPresent, hr, hbase, hstep, hisl]
  rfl

theorem Blk.dbgCtrlWrite_attach {b : Blk} {v : W64} (hrst : b.resetting = false) :
    b.dbgCtrlWrite .full v true = if bit v 1 then (b.fieldWrite 0x90000 .full v).pwrRequest 3 else b.fieldWrite 0x90000 .full v := by
  have hopen : b.dbgOpen 0x90000 true = true := by simp [Blk.dbgOpen, b.regPresent_dbgCtrl, hrst]
  simp only [Blk.dbgCtrlWrite, hopen, wrOne_full_bit v (show 1 < 64 by decide)]
  rfl

theorem Blk.dbgCtrlWrite_wake {b : Blk} {h : Half} {v : W64} (ho : b.regOpen 0x90000 = true) :
    b.dbgCtrlWrite h v false = if h ≠ .high ∧ bit v 1 = true then b.pwrRequest 3 else b := by
  have hopen : b.dbgOpen 0x90000 false = true := ho
  simp only [Blk.dbgCtrlWrite, hopen, wrOne_wake]
  rfl

/-! ### CK_DBG_CORE (R462, R467) -/

/-- The registers of another block do not decide whether it is live. -/
theorem Blk.live_of_regs {b b' : Blk} (h : { b' with regs := b.regs } = b) : b'.live = b.live := by
  have hpwr : b'.pwr = b.pwr := (congrArg Blk.pwr h :)
  simp only [Blk.live, Blk.resetting, hpwr]

theorem Blk.units_of_regs {b b' : Blk} (h : { b' with regs := b.regs } = b) :
    (∀ c u, b'.task c u = b.task c u) ∧ b'.issues = b.issues ∧ ∀ c, b'.coreUp c = b.coreUp c := by
  have hcores : b'.cores = b.cores := (congrArg Blk.cores h :)
  have hpwr : b'.pwr = b.pwr := (congrArg Blk.pwr h :)
  have hbuild : b'.build = b.build := (congrArg Blk.build h :)
  refine ⟨fun c u => ?_, ?_, fun c => ?_⟩
  · simp only [Blk.task, Blk.core, hcores]
  · simp only [Blk.issues, Blk.live_of_regs h, hpwr]
  · simp only [Blk.coreUp, Blk.coreOk, Blk.core, hcores, hbuild]

theorem Blk.rf_bit0 (b : Blk) (o : Nat) : b.rf o 0 1 = (b.rb o 0).toNat := by
  rw [Blk.rf, Blk.rb, fld, bit, Nat.testBit_zero, Nat.shiftRight_zero, Nat.pow_one]
  obtain h | h := Nat.mod_two_eq_zero_or_one (b.reg o).toNat <;> rw [h] <;> rfl

theorem Blk.haltSync_halts {b : Blk} {c : Nat} (h : b.rb (0x90100 + 8 * c) 0 = true) : b.haltSync c = b.setFld (0x90100 + 8 * c) 4 1 1 := by
  have hrf : b.rf (0x90100 + 8 * c) 0 1 = 1 := by rw [Blk.rf_bit0, h]; rfl
  have hrb : (b.setFld (0x90100 + 8 * c) 4 1 1).rb (0x90100 + 8 * c) 0 = true := by
    rw [Blk.rb_setFld _ _ _ _ _ (by decide), if_neg (by omega), h]
  simp only [Blk.haltSync, hrf, hrb, if_true]

theorem Blk.haltSync_runs {b : Blk} {c : Nat} (h : b.rb (0x90100 + 8 * c) 0 = false) :
    b.haltSync c = (b.setFld (0x90100 + 8 * c) 4 1 0).updCore c (fun k => { k with stepOne := none }) := by
  have hrf : b.rf (0x90100 + 8 * c) 0 1 = 0 := by rw [Blk.rf_bit0, h]; rfl
  have hrb : (b.setFld (0x90100 + 8 * c) 4 1 0).rb (0x90100 + 8 * c) 0 = false := by
    rw [Blk.rb_setFld _ _ _ _ _ (by decide), if_neg (by omega), h]
  simp only [Blk.haltSync, hrf, hrb, Bool.false_eq_true, if_false]

section core
variable {b a : Blk} {c : Nat} {h : Half} {v : W64} (ho : b.regOpen (0x90100 + 8 * c) = true) (ha : a = b.fieldWrite (0x90100 + 8 * c) h v) (hlive : b.live = true)
include ho ha hlive

theorem Blk.dbgCoreWrite_live : b.dbgCoreWrite c h v false =
    if wrOne h v 1 && (a.haltSync c).live && (a.haltSync c).rb (0x90100 + 8 * c) 4 then (a.haltSync c).stepTask c ((a.haltSync c).rf (0x90100 + 8 * c) 2 2)
    else a.haltSync c := by
  have hopen : b.dbgOpen (0x90100 + 8 * c) false = true := ho
  have halive : a.live = true := by rw [ha, Blk.live_of_regs (b.fieldWrite_frame _ h v), hlive]
  simp only [Blk.dbgCoreWrite, hopen, ← ha, halive]
  rfl

theorem Blk.dbgCoreWrite_noStep (hstep : wrOne h v 1 = false) : b.dbgCoreWrite c h v false = a.haltSync c := by
  rw [Blk.dbgCoreWrite_live ho ha hlive, hstep]
  rfl

theorem Blk.dbgCoreWrite_step (hstep : wrOne h v 1 = true) (hreq : a.rb (0x90100 + 8 * c) 0 = true) {a' : Blk} (ha' : a' = a.setFld (0x90100 + 8 * c) 4 1 1) :
    b.dbgCoreWrite c h v false = a'.stepTask c (a'.rf (0x90100 + 8 * c) 2 2) := by
  have hhalt : a.haltSync c = a' := (Blk.haltSync_halts hreq).trans ha'.symm
  have halive : a'.live = true := by
    rw [ha', ← hlive, ← Blk.live_of_regs (b.fieldWrite_frame (0x90100 + 8 * c) h v), ← ha]
    exact Blk.live_of_regs rfl
  have hhalted : a'.rb (0x90100 + 8 * c) 4 = true := by
    rw [ha', Blk.rb_setFld _ _ _ _ _ (by decide), if_pos (by omega)]; decide
  rw [Blk.dbgCoreWrite_live ho ha hlive, hhalt, hstep, halive, hhalted]
  rfl

end core

/-! ### One word of a halted core (R462) -/

theorem iter_same {α : Type} {f : Nat → α → α} {a : α} (n : Nat) (h : ∀ i, i < n → f i a = a) : iter n f a = a := by
  induction n with
  | zero => rfl
  | succ n ih => rw [iter, ih fun i hi => h i (by omega), h n (by omega)]

/-- The core runs one word of task context t. -/
def Blk.stepsOne (b : Blk) (c t : Nat) : Blk := b.updCore c (fun k => { k with stepOne := some t })

theorem Blk.task_stepsOne (b : Blk) (c t u : Nat) : (b.stepsOne c t).task c u = b.task c u := by
  rw [Blk.stepsOne, Blk.task, Blk.core_updCore_same]; rfl

section step
variable {b : Blk} {c t : Nat}

theorem Blk.stepTask_free (h : (b.task c t).st = .free) : b.stepTask c t = b := if_pos h

variable (hothers : ∀ u, u < 4 → u ≠ t → (b.task c u).st ≠ .running) (hst : (b.task c t).st ≠ .free)
include hothers hst

theorem Blk.stepTask_alone : b.stepTask c t =
    if (b.stepsOne c t).seqIssues c && (b.task c t).st = .ready then (b.stepsOne c t).switchIn c t else b.stepsOne c t := by
  have hiter : iter 4 (fun i b => if i ≠ t && (b.task c i).st = .running then b.updTask c i (fun x => { x with st := .ready }) else b)
      (b.stepsOne c t) = b.stepsOne c t := by
    refine iter_same 4 fun i hi => if_neg ?_
    rw [Blk.task_stepsOne]
    simpa using hothers i hi
  rw [Blk.stepTask, if_neg hst]
  simp only
  rw [show b.updCore c (fun k => { k with stepOne := some t }) = b.stepsOne c t from rfl, hiter, Blk.task_stepsOne]

theorem Blk.stepTask_stays (h : (b.task c t).st = .running ∨ (b.task c t).st = .waiting) : b.stepTask c t = b.stepsOne c t := by
  rw [Blk.stepTask_alone hothers hst]
  obtain h | h := h <;> rw [h] <;> simp

theorem Blk.stepTask_switches (h : (b.task c t).st = .ready) (hissues : b.issues = true) (hup : b.coreUp c = true) :
    b.stepTask c t = (b.stepsOne c t).switchIn c t := by
  have hseq : (b.stepsOne c t).seqIssues c = true := by
    have hcore : (b.stepsOne c t).core c = { b.core c with stepOne := some t } := Blk.core_updCore_same _ _ _
    have hup' : (b.stepsOne c t).coreUp c = true := by rw [← hup, Blk.coreUp, hcore]; rfl
    have hissues' : (b.stepsOne c t).issues = true := hissues
    rw [Blk.seqIssues, hissues', hup', hcore]
    simp
  rw [Blk.stepTask_alone hothers hst, hseq, h]
  rfl

end step

theorem exec_dbgCore {s : State} {c : Fin 8} {h : Half} {v : W64} {ev : Fin 8 → Half → W64 → Instr} (hev : ev ∈ [Instr.haltreq, .dbgStep]) :
    exec (ev c h v) s = .next (s.withBlk (s.blk.dbgCoreWrite c h v false)) := by
  simp only [List.mem_cons, List.not_mem_nil, or_false] at hev
  obtain rfl | rfl := hev
  · exact exec_next_congr (i := .haltreq c h v) rfl rfl
  · exact exec_next_congr (i := .dbgStep c h v) rfl rfl

/-- Settles O55: no clock is told before the guard (log entry 117), an absent core is answered ERR (log entry 118), and a write of a store
is refused where the block is Open (log entry 119). -/
theorem debugPortActs : Obligations.DebugPortActs := by
  intro s
  refine ⟨fun hoff ev hev => ?off, fun hon => ⟨?bypass, ?idcode, ?trst, fun l => ?sample, fun l => ?extest,
    fun req addr space core off wr v ans haddr hspace hcore hoff hwr hv hans => ?dabacc⟩, fun v b hrst hb => ?attach, fun h v ho => ?wake,
    fun c h v b t ev hev ho hb hlive => ?core⟩
  case off =>
    simp only [List.mem_cons, List.not_mem_nil, or_false] at hev
    obtain rfl | rfl | rfl := hev
    · exact exec_next_congr (i := .bypass) (b' := s.blk) rfl (Blk.tap_off hoff _)
    · exact exec_next_congr (i := .idcode) (b' := s.blk) rfl (Blk.tap_off hoff _)
    · exact exec_next_congr (i := .dbgTrst) (b' := s.blk) rfl (if_pos hoff)
  case bypass => exact exec_next_congr (i := .bypass) rfl (Blk.tap_on hon _)
  case idcode => exact exec_next_congr (i := .idcode) rfl (Blk.tap_on hon _)
  case trst => exact exec_next_congr (i := .dbgTrst) rfl ((if_neg hon).trans (Blk.tap_on (b := s.blk.setReg 0x90000 0) hon _))
  case sample => exact exec_next_congr (i := .samplePreload l) rfl (Blk.tap_on hon _)
  case extest => exact exec_next_congr (i := .extest l) rfl (Blk.tap_on hon _)
  case dabacc =>
    have hlt : addr < 2 ^ 40 := haddr ▸ fld_lt _ _ _
    have hstep {c : Blk} {d : W64} {t : Nat} (hc : c.dbg = s.blk.dbg) (h : s.blk.dab addr wr v = (c.respond d t, false)) :
        exec (.dabacc req) s = .next (s.withBlk { c with dbg := s.blk.dbg.answered s.blk.dbg d t }) := by
      rw [haddr, hwr, hv] at h
      rw [exec_dabacc_answers hon h, hc]
    subst hans
    refine ⟨fun hdet hother => hstep rfl (Blk.dab_detached hlt hspace hcore hoff hdet hother), fun hatt => ⟨fun hzero halign hin =>
      ⟨fun hw hg hd => ?_, fun hw h => ⟨_, rfl, fun hc => ?_⟩, fun hw h => ?_, fun hw hlo hhi hfirst hg hp hrst => ?_⟩,
      fun h => hstep rfl (Blk.dab_absent hlt hspace hcore hoff hatt h), fun hlo hhi hp => ?_⟩⟩
    · subst hw
      exact hstep rfl ((Blk.dab_window hlt hspace hcore hoff hatt hzero).trans (by rw [Blk.dabWindow_guarded halign hin hg hd]))
    · subst hw
      exact hstep hc ((Blk.dab_window hlt hspace hcore hoff hatt hzero).trans (by rw [Blk.dabWindow_writes halign hin h]))
    · subst hw
      exact hstep rfl ((Blk.dab_window hlt hspace hcore hoff hatt hzero).trans (by rw [Blk.dabWindow_reads halign hin h]))
    · subst hw
      exact hstep rfl ((Blk.dab_window hlt hspace hcore hoff hatt hzero).trans (by rw [Blk.dabWindow_courier halign hin hlo hhi hfirst hg hp hrst]))
    · have hstore := Blk.dab_store (wr := wr) (v := v) hlt hspace hcore hoff hatt hlo hhi hp
      refine ⟨fun hclk => ?_, fun hclk => ⟨fun hg h => ?_, fun hg hw hz => ?_, fun hg hw hz => ?_, fun hg hw => ?_⟩⟩
      · rw [hclk] at hstore
        exact hstep rfl hstore
      · rw [hclk, hg] at hstore
        cases wr with
        | true => exact hstep rfl hstore
        | false =>
          rw [Blk.dabStore_guarded hg (h.resolve_left Bool.false_ne_true)] at hstore
          exact hstep rfl hstore
      · subst hw
        rw [hclk, Blk.dabStore_open hg, hz] at hstore
        exact hstep rfl hstore
      · subst hw
        rw [hclk, Blk.dabStore_open hg, hz] at hstore
        exact hstep (c := s.blk.freed) rfl hstore
      · rw [hclk, hg, hw] at hstore
        exact exec_dabacc_refuses hon (c := s.blk) (by rw [← haddr, ← hwr, ← hv, hw]; exact hstore)
  case attach =>
    subst hb
    exact exec_next_congr (i := .attach v) rfl (Blk.dbgCtrlWrite_attach hrst)
  case wake => exact exec_next_congr (i := .wake h v) rfl (Blk.dbgCtrlWrite_wake ho)
  case core =>
    have hexec {b' : Blk} (hw : s.blk.dbgCoreWrite c h v false = b') : exec (ev c h v) s = .next (s.withBlk b') := (exec_dbgCore hev).trans (by rw [hw])
    refine ⟨fun hstep hreq => hexec ((Blk.dbgCoreWrite_noStep ho hb hlive hstep).trans (Blk.haltSync_halts hreq)),
      fun hstep hreq => hexec ((Blk.dbgCoreWrite_noStep ho hb hlive hstep).trans (Blk.haltSync_runs hreq)), fun hstep hreq ht hothers a ha => ?_⟩
    have hwrite := Blk.dbgCoreWrite_step ho hb hlive hstep hreq ha
    rw [← ha] at ht
    rw [← ht] at hwrite
    obtain ⟨htask, hissues, hup⟩ := Blk.units_of_regs (b := s.blk) (b' := a) (by rw [ha, hb]; exact s.blk.fieldWrite_frame _ h v)
    rw [← htask, ← hissues, ← hup]
    have hothers' : ∀ u, u < 4 → u ≠ t → (a.task c u).st ≠ .running := fun u hu hut => by rw [htask]; exact hothers u hu hut
    refine ⟨fun hfree => hexec (hwrite.trans (Blk.stepTask_free hfree)), fun h => hexec (hwrite.trans (Blk.stepTask_stays hothers' ?_ h)),
      fun h hi hu => hexec (hwrite.trans (Blk.stepTask_switches hothers' ?_ h hi hu))⟩
    · obtain h | h := h <;> rw [h] <;> exact TState.noConfusion
    · rw [h]; exact TState.noConfusion

end Sys2Proof.Machine
end
